-- ==== Sys2Proof/Word.lean ====
section
/-! DEFINITION. The words of the FZ9 and the two keyed lists its state is made of. Quantities that the manual shifts,
masks or wraps are bit vectors; counts and keys are natural numbers (00 R10, R11). -/

namespace Sys2Proof

/-- A byte of memory. -/
abbrev Byte := BitVec 8

/-- A 32-bit register word (02 R35). -/
abbrev Word := BitVec 32

/-- A 64-bit address, pair or control value (02 R37). -/
abbrev DWord := BitVec 64

/-- A mask with one bit for each of up to 64 lanes (02 R35). -/
abbrev Mask := BitVec 64

/-- Records by number, with numbers strictly rising. -/
abbrev Tab (α : Type) := List (Nat × α)

/-- Cells by number, with numbers strictly rising and no cell equal to zero: an unlisted cell reads as zero. -/
abbrev Store (w : Nat) := List (Nat × BitVec w)

/-- What a collective instance has from the other packages: its status there, 0 where none but OK is known, and what each contributed, by
package ID (13 R279, R280). -/
structure Elsewhere where
  status : Nat
  words : List (Nat × List Word)
  deriving DecidableEq, Repr

/-- How a halt or a resume flit names its job over the fabric: its domain time, JOBID and domain key (20 R342, R349, R353). -/
structure JobStamp where
  time : DWord
  job : DWord
  key : DWord
  deriving DecidableEq, Repr

/-- A package that can no longer be reached, and the partitions and collective IDs in which it takes part (13 R280, 18 R336). -/
structure LostPackage where
  pkg : Nat
  takes : List (Nat × Nat)
  deriving DecidableEq, Repr

end Sys2Proof
end

