-- ==== Sys2Proof/Syntax.lean ====
section
/-! DEFINITION. The instruction type: one constructor for each row of spec/opcode_table.json.

The 241 encodings come first, in the table's order; their arguments are the fields of the encoding (02 R43 to R54),
one argument for each field, named by the table: `e` and `f` are the E bits of b and a, `d`, `a`, `b` registers,
`i` an immediate, `o` a branch offset, `q` a stream. A register pair is named by half its first number, where the
encoding fixes bit 0 of the field to 0 (02 R37, R42). The 118 events follow: the steps of the device's engines and of
the outside world, with what the outside supplies as arguments. -/

namespace Sys2Proof

/-- One step of the FZ9: the issue of an instruction, or an event (spec/opcode_table.json). -/
inductive Instr where
  /-- `MOV_H` (R43). 16-bit H form: each active lane copies register a into d. -/
  | movH (a : BitVec 5) (d : BitVec 5) (f : Bool)
  /-- `NOT_H` (R43). 16-bit H form: each active lane writes the bitwise NOT of a into d. -/
  | notH (a : BitVec 5) (d : BitVec 5) (f : Bool)
  /-- `IADD_H` (R43). 16-bit H form: each active lane sets d to d + a, modulo 2^32. -/
  | iaddH (a : BitVec 5) (d : BitVec 5) (f : Bool)
  /-- `ISUB_H` (R43). 16-bit H form: each active lane sets d to d − a, modulo 2^32. -/
  | isubH (a : BitVec 5) (d : BitVec 5) (f : Bool)
  /-- `IMUL_H` (R43). 16-bit H form: each active lane sets d to d × a, modulo 2^32. -/
  | imulH (a : BitVec 5) (d : BitVec 5) (f : Bool)
  /-- `AND_H` (R43). 16-bit H form: each active lane sets d to d AND a. -/
  | andH (a : BitVec 5) (d : BitVec 5) (f : Bool)
  /-- `OR_H` (R43). 16-bit H form: each active lane sets d to d OR a. -/
  | orH (a : BitVec 5) (d : BitVec 5) (f : Bool)
  /-- `XOR_H` (R43). 16-bit H form: each active lane sets d to d XOR a. -/
  | xorH (a : BitVec 5) (d : BitVec 5) (f : Bool)
  /-- `SHL_H` (R43). 16-bit H form: each active lane shifts d left by the low 5 bits of its own a. -/
  | shlH (a : BitVec 5) (d : BitVec 5) (f : Bool)
  /-- `SHR_H` (R43). 16-bit H form: each active lane shifts d right logically by the low 5 bits of its own a. -/
  | shrH (a : BitVec 5) (d : BitVec 5) (f : Bool)
  /-- `SAR_H` (R43). 16-bit H form: each active lane shifts d right arithmetically by the low 5 bits of its own a. -/
  | sarH (a : BitVec 5) (d : BitVec 5) (f : Bool)
  /-- `FADD_H` (R43). 16-bit H form: each active lane sets d to the F32 sum d + a. -/
  | faddH (a : BitVec 5) (d : BitVec 5) (f : Bool)
  /-- `FSUB_H` (R43). 16-bit H form: each active lane sets d to the F32 difference d − a. -/
  | fsubH (a : BitVec 5) (d : BitVec 5) (f : Bool)
  /-- `FMUL_H` (R43). 16-bit H form: each active lane sets d to the F32 product d × a. -/
  | fmulH (a : BitVec 5) (d : BitVec 5) (f : Bool)
  /-- `FMAX_H` (R43). 16-bit H form: each active lane sets d to the F32 maximum of d and a. -/
  | fmaxH (a : BitVec 5) (d : BitVec 5) (f : Bool)
  /-- `FMIN_H` (R43). 16-bit H form: each active lane sets d to the F32 minimum of d and a. -/
  | fminH (a : BitVec 5) (d : BitVec 5) (f : Bool)
  /-- `IADD` (R147). Each active lane sets d to (a + b) modulo 2^32, with a vector b. -/
  | iadd (e : Bool) (b : BitVec 7) (f : Bool) (a : BitVec 7) (d : BitVec 7)
  /-- `ISUB` (R147). Each active lane sets d to (a − b) modulo 2^32, with a vector b. -/
  | isub (e : Bool) (b : BitVec 7) (f : Bool) (a : BitVec 7) (d : BitVec 7)
  /-- `IADDS` (R147). Each active lane sets d to the signed saturating sum a + b, with a vector b. -/
  | iadds (e : Bool) (b : BitVec 7) (f : Bool) (a : BitVec 7) (d : BitVec 7)
  /-- `ISUBS` (R147). Each active lane sets d to the signed saturating difference a − b, with a vector b. -/
  | isubs (e : Bool) (b : BitVec 7) (f : Bool) (a : BitVec 7) (d : BitVec 7)
  /-- `IADDI` (R147). Each active lane adds a scalar or immediate b to a, modulo 2^32. -/
  | iaddi (e : Bool) (b : BitVec 7) (f : Bool) (a : BitVec 7) (d : BitVec 7)
  /-- `ISUBI` (R147). Each active lane subtracts a scalar or immediate b from a, modulo 2^32. -/
  | isubi (e : Bool) (b : BitVec 7) (f : Bool) (a : BitVec 7) (d : BitVec 7)
  /-- `IADDSI` (R147). Each active lane adds a scalar or immediate b to a, with signed saturation. -/
  | iaddsi (e : Bool) (b : BitVec 7) (f : Bool) (a : BitVec 7) (d : BitVec 7)
  /-- `ISUBSI` (R147). Each active lane subtracts a scalar or immediate b from a, with signed saturation. -/
  | isubsi (e : Bool) (b : BitVec 7) (f : Bool) (a : BitVec 7) (d : BitVec 7)
  /-- `IMUL` (R148). Each active lane sets d to (a × b) modulo 2^32. -/
  | imul (e : Bool) (b : BitVec 7) (f : Bool) (a : BitVec 7) (d : BitVec 7)
  /-- `IMULHI` (R148). Each active lane sets d to the high word of the signed 64-bit product of a and b. -/
  | imulhi (e : Bool) (b : BitVec 7) (f : Bool) (a : BitVec 7) (d : BitVec 7)
  /-- `IMULHIN` (R148). Each active lane sets d to the high word of the unsigned 64-bit product of a and b. -/
  | imulhin (e : Bool) (b : BitVec 7) (f : Bool) (a : BitVec 7) (d : BitVec 7)
  /-- `IMAD` (R148). Each active lane sets d to (a × b + old d) modulo 2^32. -/
  | imad (e : Bool) (b : BitVec 7) (f : Bool) (a : BitVec 7) (d : BitVec 7)
  /-- `AND` (R149). Each active lane sets d to a AND b, with a vector b. -/
  | and (e : Bool) (b : BitVec 7) (f : Bool) (a : BitVec 7) (d : BitVec 7)
  /-- `OR` (R149). Each active lane sets d to a OR b, with a vector b. -/
  | or (e : Bool) (b : BitVec 7) (f : Bool) (a : BitVec 7) (d : BitVec 7)
  /-- `XOR` (R149). Each active lane sets d to a XOR b, with a vector b. -/
  | xor (e : Bool) (b : BitVec 7) (f : Bool) (a : BitVec 7) (d : BitVec 7)
  /-- `ANDN` (R149). Each active lane sets d to a AND NOT b, with a vector b. -/
  | andn (e : Bool) (b : BitVec 7) (f : Bool) (a : BitVec 7) (d : BitVec 7)
  /-- `AND_I` (R149). Each active lane sets d to a AND a scalar or immediate b. -/
  | andI (e : Bool) (b : BitVec 7) (f : Bool) (a : BitVec 7) (d : BitVec 7)
  /-- `OR_I` (R149). Each active lane sets d to a OR a scalar or immediate b. -/
  | orI (e : Bool) (b : BitVec 7) (f : Bool) (a : BitVec 7) (d : BitVec 7)
  /-- `XOR_I` (R149). Each active lane sets d to a XOR a scalar or immediate b. -/
  | xorI (e : Bool) (b : BitVec 7) (f : Bool) (a : BitVec 7) (d : BitVec 7)
  /-- `ANDN_I` (R149). Each active lane sets d to a AND NOT a scalar or immediate b. -/
  | andnI (e : Bool) (b : BitVec 7) (f : Bool) (a : BitVec 7) (d : BitVec 7)
  /-- `SHL` (R150). Each active lane shifts a left by a group-uniform amount from b bits 4:0. -/
  | shl (e : Bool) (b : BitVec 7) (f : Bool) (a : BitVec 7) (d : BitVec 7)
  /-- `SHR` (R150). Each active lane shifts a right logically by a group-uniform amount. -/
  | shr (e : Bool) (b : BitVec 7) (f : Bool) (a : BitVec 7) (d : BitVec 7)
  /-- `SAR` (R150). Each active lane shifts a right arithmetically by a group-uniform amount. -/
  | sar (e : Bool) (b : BitVec 7) (f : Bool) (a : BitVec 7) (d : BitVec 7)
  /-- `ROL` (R150). Each active lane rotates a left by a group-uniform amount. -/
  | rol (e : Bool) (b : BitVec 7) (f : Bool) (a : BitVec 7) (d : BitVec 7)
  /-- `MIN` (R151). Each active lane sets d to the signed minimum of a and b. -/
  | min (e : Bool) (b : BitVec 7) (f : Bool) (a : BitVec 7) (d : BitVec 7)
  /-- `MAX` (R151). Each active lane sets d to the signed maximum of a and b. -/
  | max (e : Bool) (b : BitVec 7) (f : Bool) (a : BitVec 7) (d : BitVec 7)
  /-- `MINN` (R151). Each active lane sets d to the unsigned minimum of a and b. -/
  | minn (e : Bool) (b : BitVec 7) (f : Bool) (a : BitVec 7) (d : BitVec 7)
  /-- `MAXN` (R151). Each active lane sets d to the unsigned maximum of a and b. -/
  | maxn (e : Bool) (b : BitVec 7) (f : Bool) (a : BitVec 7) (d : BitVec 7)
  /-- `ICMP_EQ` (R152). Starts a compare into k of a = b over vector operands; k is marked empty until completion. -/
  | icmpEq (e : Bool) (b : BitVec 7) (f : Bool) (a : BitVec 7) (d : BitVec 4)
  /-- `ICMP_NE` (R152). Starts a compare into k of a ≠ b over vector operands. -/
  | icmpNe (e : Bool) (b : BitVec 7) (f : Bool) (a : BitVec 7) (d : BitVec 4)
  /-- `ICMP_LT` (R152). Starts a signed compare into k of a < b over vector operands. -/
  | icmpLt (e : Bool) (b : BitVec 7) (f : Bool) (a : BitVec 7) (d : BitVec 4)
  /-- `ICMP_LE` (R152). Starts a signed compare into k of a ≤ b over vector operands. -/
  | icmpLe (e : Bool) (b : BitVec 7) (f : Bool) (a : BitVec 7) (d : BitVec 4)
  /-- `ICMP_LTN` (R152). Starts an unsigned compare into k of a < b. -/
  | icmpLtn (e : Bool) (b : BitVec 7) (f : Bool) (a : BitVec 7) (d : BitVec 4)
  /-- `ICMP_LEN` (R152). Starts an unsigned compare into k of a ≤ b. -/
  | icmpLen (e : Bool) (b : BitVec 7) (f : Bool) (a : BitVec 7) (d : BitVec 4)
  /-- `ICMP_TST` (R152). Starts a compare into k that is true where (a AND b) ≠ 0. -/
  | icmpTst (e : Bool) (b : BitVec 7) (f : Bool) (a : BitVec 7) (d : BitVec 4)
  /-- `ICMP_TSTN` (R152). Starts a compare into k that is true where (a AND b) = 0. -/
  | icmpTstn (e : Bool) (b : BitVec 7) (f : Bool) (a : BitVec 7) (d : BitVec 4)
  /-- `ICMP_EQ_I` (R152). Starts a compare into k of a = b, with b a scalar or an immediate. -/
  | icmpEqI (e : Bool) (b : BitVec 7) (f : Bool) (a : BitVec 7) (d : BitVec 4)
  /-- `ICMP_NE_I` (R152). Starts a compare into k of a ≠ b, with b a scalar or an immediate. -/
  | icmpNeI (e : Bool) (b : BitVec 7) (f : Bool) (a : BitVec 7) (d : BitVec 4)
  /-- `ICMP_LT_I` (R152). Starts a signed compare into k of a < b, with b a scalar or an immediate. -/
  | icmpLtI (e : Bool) (b : BitVec 7) (f : Bool) (a : BitVec 7) (d : BitVec 4)
  /-- `ICMP_LE_I` (R152). Starts a signed compare into k of a ≤ b, with b a scalar or an immediate. -/
  | icmpLeI (e : Bool) (b : BitVec 7) (f : Bool) (a : BitVec 7) (d : BitVec 4)
  /-- `POPC` (R154). Each active lane writes the number of 1 bits of a into d. -/
  | popc (f : Bool) (a : BitVec 7) (d : BitVec 7)
  /-- `CLZ` (R154). Each active lane writes the count of leading zeros of a into d. -/
  | clz (f : Bool) (a : BitVec 7) (d : BitVec 7)
  /-- `BREV` (R154). Each active lane writes a with its bits reversed into d. -/
  | brev (f : Bool) (a : BitVec 7) (d : BitVec 7)
  /-- `CTZ` (R154). Each active lane writes the count of trailing zeros of a into d. -/
  | ctz (f : Bool) (a : BitVec 7) (d : BitVec 7)
  /-- `BFXN` (R155). Each active lane extracts a bit field of a, zero-extended. -/
  | bfxn (e : Bool) (b : BitVec 7) (f : Bool) (a : BitVec 7) (d : BitVec 7)
  /-- `BFXS` (R155). Each active lane extracts a bit field of a, sign-extended. -/
  | bfxs (e : Bool) (b : BitVec 7) (f : Bool) (a : BitVec 7) (d : BitVec 7)
  /-- `BFI` (R155). Each active lane inserts the low bits of a into a field of its old d. -/
  | bfi (e : Bool) (b : BitVec 7) (f : Bool) (a : BitVec 7) (d : BitVec 7)
  /-- `BSHUF` (R155). Each active lane builds d byte by byte from a, from the old d, or as zero. -/
  | bshuf (e : Bool) (b : BitVec 7) (f : Bool) (a : BitVec 7) (d : BitVec 7)
  /-- `SEL` (R156). Each active lane sets d to a or to b according to its bit of mask k0–k7. -/
  | sel (e : Bool) (b : BitVec 7) (k : BitVec 3) (a : BitVec 7) (d : BitVec 7)
  /-- `FADD` (R158). Each active lane sets d to the F32 sum a + b, with a vector b. -/
  | fadd (e : Bool) (b : BitVec 7) (f : Bool) (a : BitVec 7) (d : BitVec 7)
  /-- `FSUB` (R158). Each active lane sets d to the F32 difference a − b, with a vector b. -/
  | fsub (e : Bool) (b : BitVec 7) (f : Bool) (a : BitVec 7) (d : BitVec 7)
  /-- `FMIN` (R160). Each active lane sets d to the F32 minimum of a and b, with a vector b. -/
  | fmin (e : Bool) (b : BitVec 7) (f : Bool) (a : BitVec 7) (d : BitVec 7)
  /-- `FMAX` (R160). Each active lane sets d to the F32 maximum of a and b, with a vector b. -/
  | fmax (e : Bool) (b : BitVec 7) (f : Bool) (a : BitVec 7) (d : BitVec 7)
  /-- `FMUL` (R159). Each active lane sets d to the F32 product a × b, with a vector b. -/
  | fmul (e : Bool) (b : BitVec 7) (f : Bool) (a : BitVec 7) (d : BitVec 7)
  /-- `FFMA` (R159). Each active lane sets d to the fused F32 a × b + d, with a vector b. -/
  | ffma (e : Bool) (b : BitVec 7) (f : Bool) (a : BitVec 7) (d : BitVec 7)
  /-- `FFMS` (R159). Each active lane sets d to the fused F32 a × b − d, with a vector b. -/
  | ffms (e : Bool) (b : BitVec 7) (f : Bool) (a : BitVec 7) (d : BitVec 7)
  /-- `FFNMA` (R159). Each active lane sets d to the fused F32 d − a × b, with a vector b. -/
  | ffnma (e : Bool) (b : BitVec 7) (f : Bool) (a : BitVec 7) (d : BitVec 7)
  /-- `FADD_S` (R158). Each active lane sets d to the F32 sum of a and a scalar b. -/
  | faddS (e : Bool) (b : BitVec 6) (f : Bool) (a : BitVec 7) (d : BitVec 7)
  /-- `FSUB_S` (R158). Each active lane sets d to the F32 difference of a and a scalar b. -/
  | fsubS (e : Bool) (b : BitVec 6) (f : Bool) (a : BitVec 7) (d : BitVec 7)
  /-- `FMIN_S` (R160). Each active lane sets d to the F32 minimum of a and a scalar b. -/
  | fminS (e : Bool) (b : BitVec 6) (f : Bool) (a : BitVec 7) (d : BitVec 7)
  /-- `FMAX_S` (R160). Each active lane sets d to the F32 maximum of a and a scalar b. -/
  | fmaxS (e : Bool) (b : BitVec 6) (f : Bool) (a : BitVec 7) (d : BitVec 7)
  /-- `FMUL_S` (R159). Each active lane sets d to the F32 product of a and a scalar b. -/
  | fmulS (e : Bool) (b : BitVec 6) (f : Bool) (a : BitVec 7) (d : BitVec 7)
  /-- `FFMA_S` (R159). Each active lane sets d to the fused a × scalar b + d. -/
  | ffmaS (e : Bool) (b : BitVec 6) (f : Bool) (a : BitVec 7) (d : BitVec 7)
  /-- `FFMS_S` (R159). Each active lane sets d to the fused a × scalar b − d. -/
  | ffmsS (e : Bool) (b : BitVec 6) (f : Bool) (a : BitVec 7) (d : BitVec 7)
  /-- `FFNMA_S` (R159). Each active lane sets d to the fused d − a × scalar b. -/
  | ffnmaS (e : Bool) (b : BitVec 6) (f : Bool) (a : BitVec 7) (d : BitVec 7)
  /-- `FCMP_EQ` (R161). Starts an F32 compare into k of a = b. -/
  | fcmpEq (e : Bool) (b : BitVec 7) (f : Bool) (a : BitVec 7) (d : BitVec 4)
  /-- `FCMP_LT` (R161). Starts an F32 compare into k of a < b. -/
  | fcmpLt (e : Bool) (b : BitVec 7) (f : Bool) (a : BitVec 7) (d : BitVec 4)
  /-- `FCMP_LE` (R161). Starts an F32 compare into k of a ≤ b. -/
  | fcmpLe (e : Bool) (b : BitVec 7) (f : Bool) (a : BitVec 7) (d : BitVec 4)
  /-- `FCMP_UNO` (R161). Starts an F32 compare into k that is true where either operand is NaN. -/
  | fcmpUno (e : Bool) (b : BitVec 7) (f : Bool) (a : BitVec 7) (d : BitVec 4)
  /-- `FABS` (R162). Each active lane writes a with bit 31 cleared. -/
  | fabs (f : Bool) (a : BitVec 7) (d : BitVec 7)
  /-- `FNEG` (R162). Each active lane writes a with bit 31 inverted. -/
  | fneg (f : Bool) (a : BitVec 7) (d : BitVec 7)
  /-- `FFLOOR` (R162). Each active lane writes the largest integral F32 that is ≤ a. -/
  | ffloor (f : Bool) (a : BitVec 7) (d : BitVec 7)
  /-- `FCEIL` (R162). Each active lane writes the smallest integral F32 that is ≥ a. -/
  | fceil (f : Bool) (a : BitVec 7) (d : BitVec 7)
  /-- `RCP` (R163). Starts a special-function reciprocal; d stays empty until the SFU completes. -/
  | rcp (f : Bool) (a : BitVec 7) (d : BitVec 7)
  /-- `RSQ` (R163). Starts a special-function reciprocal square root. -/
  | rsq (f : Bool) (a : BitVec 7) (d : BitVec 7)
  /-- `EX2` (R163). Starts a special-function base-2 exponential. -/
  | ex2 (f : Bool) (a : BitVec 7) (d : BitVec 7)
  /-- `LG2` (R163). Starts a special-function base-2 logarithm. -/
  | lg2 (f : Bool) (a : BitVec 7) (d : BitVec 7)
  /-- `SIN` (R163). Starts a special-function sine. -/
  | sin (f : Bool) (a : BitVec 7) (d : BitVec 7)
  /-- `COS` (R163). Starts a special-function cosine. -/
  | cos (f : Bool) (a : BitVec 7) (d : BitVec 7)
  /-- `SQRT` (R163). Starts a special-function square root. -/
  | sqrt (f : Bool) (a : BitVec 7) (d : BitVec 7)
  /-- `TANH` (R163). Starts a special-function hyperbolic tangent. -/
  | tanh (f : Bool) (a : BitVec 7) (d : BitVec 7)
  /-- `HADD2` (R167). Each active lane adds two packed F16 pairs. -/
  | hadd2 (e : Bool) (b : BitVec 7) (f : Bool) (a : BitVec 7) (d : BitVec 7)
  /-- `HMUL2` (R167). Each active lane multiplies two packed F16 pairs. -/
  | hmul2 (e : Bool) (b : BitVec 7) (f : Bool) (a : BitVec 7) (d : BitVec 7)
  /-- `HFMA2` (R167). Each active lane computes a fused packed F16 a × b + d. -/
  | hfma2 (e : Bool) (b : BitVec 7) (f : Bool) (a : BitVec 7) (d : BitVec 7)
  /-- `HMAX2` (R167). Each active lane takes the packed F16 maximum of a and b. -/
  | hmax2 (e : Bool) (b : BitVec 7) (f : Bool) (a : BitVec 7) (d : BitVec 7)
  /-- `BADD2` (R167). Each active lane adds two packed BF16 pairs. -/
  | badd2 (e : Bool) (b : BitVec 7) (f : Bool) (a : BitVec 7) (d : BitVec 7)
  /-- `BMUL2` (R167). Each active lane multiplies two packed BF16 pairs. -/
  | bmul2 (e : Bool) (b : BitVec 7) (f : Bool) (a : BitVec 7) (d : BitVec 7)
  /-- `BFMA2` (R167). Each active lane computes a fused packed BF16 a × b + d. -/
  | bfma2 (e : Bool) (b : BitVec 7) (f : Bool) (a : BitVec 7) (d : BitVec 7)
  /-- `BMAX2` (R167). Each active lane takes the packed BF16 maximum of a and b. -/
  | bmax2 (e : Bool) (b : BitVec 7) (f : Bool) (a : BitVec 7) (d : BitVec 7)
  /-- `DADD` (R168). Each active lane adds two binary64 register pairs. -/
  | dadd (e : Bool) (b : BitVec 6) (f : Bool) (a : BitVec 6) (d : BitVec 6)
  /-- `DMUL` (R168). Each active lane multiplies two binary64 register pairs. -/
  | dmul (e : Bool) (b : BitVec 6) (f : Bool) (a : BitVec 6) (d : BitVec 6)
  /-- `DFMA` (R168). Each active lane computes a fused binary64 a × b + d. -/
  | dfma (e : Bool) (b : BitVec 6) (f : Bool) (a : BitVec 6) (d : BitVec 6)
  /-- `DMIN` (R168). Each active lane takes the binary64 minimum of a and b. -/
  | dmin (e : Bool) (b : BitVec 6) (f : Bool) (a : BitVec 6) (d : BitVec 6)
  /-- `CVT` (R112). Each active lane converts a between register formats by its conversion code and rounding direction. -/
  | cvt (b : BitVec 7) (f : Bool) (a : BitVec 7) (d : BitVec 7) (r : BitVec 2)
  /-- `PACK8` (R122). Each active lane packs four scaled F32 values into 8-bit elements of a TID's format. -/
  | pack8 (b : BitVec 6) (f : Bool) (a : BitVec 5) (d : BitVec 7)
  /-- `UNPK8` (R122). Each active lane unpacks four 8-bit elements into scaled F32 values. -/
  | unpk8 (b : BitVec 6) (f : Bool) (a : BitVec 7) (d : BitVec 5)
  /-- `PACK4` (R122). Each active lane packs eight scaled F32 values into I4 elements. -/
  | pack4 (b : BitVec 6) (f : Bool) (a : BitVec 4) (d : BitVec 7)
  /-- `UNPK4` (R122). Each active lane unpacks eight I4 elements into scaled F32 values. -/
  | unpk4 (b : BitVec 6) (f : Bool) (a : BitVec 7) (d : BitVec 4)
  /-- `SHFL` (R178). Each active lane reads register a of the lane named by its old d plus b. -/
  | shfl (e : Bool) (b : BitVec 7) (f : Bool) (a : BitVec 7) (d : BitVec 7)
  /-- `SHFLX` (R178). Each active lane reads register a of lane j XOR b. -/
  | shflx (e : Bool) (b : BitVec 7) (f : Bool) (a : BitVec 7) (d : BitVec 7)
  /-- `SHFLU` (R178). Each active lane reads register a of lane j − b. -/
  | shflu (e : Bool) (b : BitVec 7) (f : Bool) (a : BitVec 7) (d : BitVec 7)
  /-- `SHFLD` (R178). Each active lane reads register a of lane j + b. -/
  | shfld (e : Bool) (b : BitVec 7) (f : Bool) (a : BitVec 7) (d : BitVec 7)
  /-- `BALLOT` (R179). Writes a mask with a 1 for each active lane whose a is not zero. -/
  | ballot (f : Bool) (a : BitVec 7) (d : BitVec 4)
  /-- `VRED_ADD` (R180). Reduces a over the active set by integer addition in a fixed tree into a scalar. -/
  | vredAdd (f : Bool) (a : BitVec 7) (d : BitVec 6)
  /-- `VRED_FADD` (R180). Reduces a over the active set by F32 addition in a fixed tree into a scalar. -/
  | vredFadd (f : Bool) (a : BitVec 7) (d : BitVec 6)
  /-- `VRED_FMAX` (R180). Reduces a over the active set by F32 maximum in a fixed tree into a scalar. -/
  | vredFmax (f : Bool) (a : BitVec 7) (d : BitVec 6)
  /-- `BCAST` (R182). Every active lane receives register a of lane b. -/
  | bcast (e : Bool) (b : BitVec 7) (f : Bool) (a : BitVec 7) (d : BitVec 7)
  /-- `RDLANE` (R182). Writes register a of lane b into a scalar. -/
  | rdlane (e : Bool) (b : BitVec 7) (f : Bool) (a : BitVec 7) (d : BitVec 6)
  /-- `RDX` (R183). Each active lane reads the vector register numbered base plus a scalar index. -/
  | rdx (e : Bool) (b : BitVec 6) (f : Bool) (a : BitVec 7) (d : BitVec 7)
  /-- `WRX` (R183). Each active lane writes a into the vector register numbered base plus a scalar index. -/
  | wrx (e : Bool) (b : BitVec 6) (f : Bool) (a : BitVec 7) (d : BitVec 7)
  /-- `LRD` (R184). In handler code, reads a vector register of a named lane into a scalar. -/
  | lrd (e : Bool) (b : BitVec 6) (f : Bool) (a : BitVec 7) (d : BitVec 6)
  /-- `LWR` (R184). In handler code, writes a scalar into a vector register of a named lane. -/
  | lwr (e : Bool) (b : BitVec 6) (f : Bool) (a : BitVec 6) (d : BitVec 7)
  /-- `LMEET` (R184). In handler code, reads a named lane's MEET into a scalar pair. -/
  | lmeet (e : Bool) (b : BitVec 6) (d : BitVec 5)
  /-- `LPC` (R184). In handler code, reads a named lane's PC into a scalar pair. -/
  | lpc (e : Bool) (b : BitVec 6) (d : BitVec 5)
  /-- `KAND` (R173). Sets mask d to a AND b. -/
  | kand (e : Bool) (b : BitVec 4) (f : Bool) (a : BitVec 4) (d : BitVec 4)
  /-- `KOR` (R173). Sets mask d to a OR b. -/
  | kor (e : Bool) (b : BitVec 4) (f : Bool) (a : BitVec 4) (d : BitVec 4)
  /-- `KXOR` (R173). Sets mask d to a XOR b. -/
  | kxor (e : Bool) (b : BitVec 4) (f : Bool) (a : BitVec 4) (d : BitVec 4)
  /-- `KANDN` (R173). Sets mask d to a AND NOT b. -/
  | kandn (e : Bool) (b : BitVec 4) (f : Bool) (a : BitVec 4) (d : BitVec 4)
  /-- `K2S` (R174). Copies a 64-bit mask into a scalar pair. -/
  | k2s (f : Bool) (a : BitVec 4) (d : BitVec 5)
  /-- `S2K` (R174). Copies a scalar pair into a mask, with bits W to 63 cleared. -/
  | s2k (f : Bool) (a : BitVec 5) (d : BitVec 4)
  /-- `KPOPC` (R174). Writes the number of 1 bits of a mask into a scalar. -/
  | kpopc (f : Bool) (a : BitVec 4) (d : BitVec 6)
  /-- `KFFS` (R174). Writes the index of a mask's lowest 1 bit, or all ones, into a scalar. -/
  | kffs (f : Bool) (a : BitVec 4) (d : BitVec 6)
  /-- `SRD` (R192). Reads a special register into a vector or scalar destination. -/
  | srd (n : BitVec 10) (d : BitVec 7)
  /-- `CRD` (R193). Reads one word of a control register into a scalar. -/
  | crd (n : BitVec 12) (s : BitVec 6)
  /-- `CWR` (R193). Writes a scalar into one word of a control register. -/
  | cwr (n : BitVec 12) (s : BitVec 6)
  /-- `MOVI_V` (R45). Every active lane of d receives a sign-extended 18-bit immediate. -/
  | moviV (i : BitVec 18) (d : BitVec 7)
  /-- `MOVI_S` (R45). A scalar receives a sign-extended 18-bit immediate. -/
  | moviS (i : BitVec 18) (d : BitVec 6)
  /-- `MOVIH_S` (R45). Bits 31:14 of a scalar receive an 18-bit immediate, and bits 13:0 are kept. -/
  | movihS (i : BitVec 18) (d : BitVec 6)
  /-- `ADDI_S` (R45). A sign-extended 18-bit immediate is added to a scalar. -/
  | addiS (i : BitVec 18) (d : BitVec 6)
  /-- `SADD` (R170). Scalar addition modulo 2^32. -/
  | sadd (e : Bool) (b : BitVec 7) (f : Bool) (a : BitVec 6) (d : BitVec 6)
  /-- `SSUB` (R170). Scalar subtraction modulo 2^32. -/
  | ssub (e : Bool) (b : BitVec 7) (f : Bool) (a : BitVec 6) (d : BitVec 6)
  /-- `SMUL` (R170). Scalar multiplication modulo 2^32. -/
  | smul (e : Bool) (b : BitVec 7) (f : Bool) (a : BitVec 6) (d : BitVec 6)
  /-- `SAND` (R170). Scalar bitwise AND. -/
  | sand (e : Bool) (b : BitVec 7) (f : Bool) (a : BitVec 6) (d : BitVec 6)
  /-- `SOR` (R170). Scalar bitwise OR. -/
  | sor (e : Bool) (b : BitVec 7) (f : Bool) (a : BitVec 6) (d : BitVec 6)
  /-- `SXOR` (R170). Scalar bitwise XOR. -/
  | sxor (e : Bool) (b : BitVec 7) (f : Bool) (a : BitVec 6) (d : BitVec 6)
  /-- `SSHL` (R170). Scalar shift left. -/
  | sshl (e : Bool) (b : BitVec 7) (f : Bool) (a : BitVec 6) (d : BitVec 6)
  /-- `SSHR` (R170). Scalar logical shift right. -/
  | sshr (e : Bool) (b : BitVec 7) (f : Bool) (a : BitVec 6) (d : BitVec 6)
  /-- `SEQ` (R171). Sets a scalar to 1 if a = b, and to 0 otherwise. -/
  | seq (e : Bool) (b : BitVec 7) (f : Bool) (a : BitVec 6) (d : BitVec 6)
  /-- `SNE` (R171). Sets a scalar to 1 if a ≠ b, and to 0 otherwise. -/
  | sne (e : Bool) (b : BitVec 7) (f : Bool) (a : BitVec 6) (d : BitVec 6)
  /-- `SLT` (R171). Sets a scalar to 1 if a < b signed, and to 0 otherwise. -/
  | slt (e : Bool) (b : BitVec 7) (f : Bool) (a : BitVec 6) (d : BitVec 6)
  /-- `SLTN` (R171). Sets a scalar to 1 if a < b unsigned, and to 0 otherwise. -/
  | sltn (e : Bool) (b : BitVec 7) (f : Bool) (a : BitVec 6) (d : BitVec 6)
  /-- `SADD64` (R172). 64-bit scalar-pair addition. -/
  | sadd64 (e : Bool) (b : BitVec 7) (f : Bool) (a : BitVec 5) (d : BitVec 5)
  /-- `SSUB64` (R172). 64-bit scalar-pair subtraction. -/
  | ssub64 (e : Bool) (b : BitVec 7) (f : Bool) (a : BitVec 5) (d : BitVec 5)
  /-- `SMULW` (R172). 64-bit scalar-pair multiplication modulo 2^64. -/
  | smulw (e : Bool) (b : BitVec 7) (f : Bool) (a : BitVec 5) (d : BitVec 5)
  /-- `SSHL64` (R172). 64-bit scalar-pair shift left. -/
  | sshl64 (e : Bool) (b : BitVec 7) (f : Bool) (a : BitVec 5) (d : BitVec 5)
  /-- `BR` (R260). Unconditional relative branch of the active set. -/
  | br (o : BitVec 16)
  /-- `BRZ` (R260). Uniform branch taken when a scalar is zero. -/
  | brz (o : BitVec 16) (a : BitVec 6)
  /-- `BRNZ` (R260). Uniform branch taken when a scalar is not zero. -/
  | brnz (o : BitVec 16) (a : BitVec 6)
  /-- `BRNEG` (R260). Uniform branch taken when bit 31 of a scalar is set. -/
  | brneg (o : BitVec 16) (a : BitVec 6)
  /-- `BRK` (R260). Per-thread branch taken in lanes whose mask bit is 1. -/
  | brk (o : BitVec 16) (a : BitVec 4)
  /-- `BRKN` (R260). Per-thread branch taken in lanes whose mask bit is 0. -/
  | brkn (o : BitVec 16) (a : BitVec 4)
  /-- `BRV` (R260). Per-thread branch taken in lanes whose vector register is not zero. -/
  | brv (o : BitVec 16) (a : BitVec 7)
  /-- `BRVZ` (R260). Per-thread branch taken in lanes whose vector register is zero. -/
  | brvz (o : BitVec 16) (a : BitVec 7)
  /-- `SETMEET` (R262). Saves each lane's old MEET into a vector pair and sets a new meeting address. -/
  | setmeet (o : BitVec 16) (a : BitVec 6)
  /-- `JMP` (R261). Jumps the active set to a scalar-pair address plus an offset. -/
  | jmp (o : BitVec 16) (a : BitVec 5)
  /-- `CALL` (R261). Writes the return address into a scalar pair and branches. -/
  | call (o : BitVec 16) (a : BitVec 5)
  /-- `JMPV` (R261). Jumps each lane to its own vector-pair address plus an offset. -/
  | jmpv (o : BitVec 16) (a : BitVec 6)
  /-- `RSTMEET` (R261). Restores each lane's MEET from a vector pair. -/
  | rstmeet (a : BitVec 6)
  /-- `EXIT` (R263). Ends each thread of the active set; the lanes leave k0 and are marked exited. -/
  | exit
  /-- `TRAP` (R322). Parks the active set with cause Software-trap and a code. -/
  | trap (c : BitVec 16)
  /-- `BREAK` (R322). Starts a debug stop if a debug handler is resident, and otherwise traps with cause Breakpoint. -/
  | breakI (c : BitVec 16)
  /-- `RTRAP` (R322). Ends handling: unparks the sub-warp at cr.TRAPLOC with its repeat state. -/
  | rtrap
  /-- `REP` (R55). Issues the following instruction 1–64 times, stepping chosen fields by a stride. -/
  | rep (w : BitVec 2) (x : Bool) (y : Bool) (z : Bool) (c : BitVec 6)
  /-- `REPACK` (R26). The active set waits to be regrouped with the team's other waiting threads. -/
  | repack
  /-- `YIELD` (R264). Advances the active set and makes the group ineligible until others have issued or 64 cycles pass. -/
  | yield
  /-- `SLEEP` (R264). Advances the active set and makes the group ineligible for n cycles. -/
  | sleep (n : BitVec 16)
  /-- `WAITF` (R264). The group waits until a named register is full, then advances. -/
  | waitf (c : BitVec 2) (a : BitVec 7)
  /-- `BAR` (R266). The active set arrives at a team barrier and waits for the phase to complete. -/
  | bar (e : Bool) (b : BitVec 7)
  /-- `BARM` (R267). Lanes of one group synchronise through a BARM slot with a lane mask. -/
  | barm (e : Bool) (b : BitVec 7) (f : Bool) (a : BitVec 4)
  /-- `ARRIVE` (R266). The active set arrives at a team barrier without waiting. -/
  | arrive (e : Bool) (b : BitVec 7)
  /-- `WAIT` (R266). Each lane waits until the phase of its barrier mark has completed. -/
  | wait (e : Bool) (b : BitVec 7)
  /-- `FENCE_S` (R101). Orders the active set's LS accesses in the masked streams at a scope. -/
  | fenceS (p : BitVec 2) (m : BitVec 16)
  /-- `FENCE_P` (R102). Orders the group's earlier path-A accesses before its later path-B accesses at a scope. -/
  | fenceP (p : BitVec 2) (b : BitVec 3) (a : BitVec 3)
  /-- `FENCE_A` (R103). Orders every earlier access of the group on every path at system scope. -/
  | fenceA
  /-- `ZBAR` (R269). The group arrives at a Zephyr barrier phase and waits. -/
  | zbar (e : Bool) (b : BitVec 7)
  /-- `ZBCAST` (R269). The group arrives at a Zephyr broadcast phase and waits for the root's value. -/
  | zbcast (e : Bool) (b : BitVec 7) (f : Bool) (a : BitVec 6) (d : BitVec 6)
  /-- `ZRED` (R269). The group arrives at a Zephyr reduction phase and waits for the result. -/
  | zred (e : Bool) (b : BitVec 6) (f : Bool) (a : BitVec 6) (d : BitVec 6)
  /-- `ZSIG` (R271). Puts a LULL or PREEMPT signal on the Zephyr net. -/
  | zsig (e : Bool) (b : BitVec 7) (f : Bool) (a : BitVec 6)
  /-- `CDECL` (R195). Arms a convergence register with a member mask. -/
  | cdecl (f : Bool) (a : BitVec 4) (d : BitVec 3)
  /-- `CRST` (R195). Clears a convergence register and releases its waiting signers. -/
  | crst (d : BitVec 3)
  /-- `CQRY` (R195). Writes the state of a convergence register into a scalar. -/
  | cqry (a : BitVec 3) (d : BitVec 6)
  /-- `LD` (R85). Per-lane load; translates every part and marks d empty until the data returns. -/
  | ld (s : BitVec 2) (o : BitVec 2) (q : BitVec 4) (a : BitVec 7) (d : BitVec 7) (z : BitVec 3)
  /-- `ST` (R85). Per-lane store of d's bytes to memory. -/
  | st (s : BitVec 2) (o : BitVec 2) (q : BitVec 4) (a : BitVec 7) (d : BitVec 7) (z : BitVec 3)
  /-- `LDS` (R86). One group-wide load into scalar registers. -/
  | lds (s : BitVec 2) (o : BitVec 2) (q : BitVec 4) (a : BitVec 7) (d : BitVec 7) (z : BitVec 3)
  /-- `STS` (R86). One group-wide store from scalar registers. -/
  | sts (s : BitVec 2) (o : BitVec 2) (q : BitVec 4) (a : BitVec 7) (d : BitVec 7) (z : BitVec 3)
  /-- `ATOM32` (R89). Per-lane 32-bit atomic read-modify-write that returns the old value. -/
  | atom32 (s : BitVec 2) (o : BitVec 2) (q : BitVec 4) (a : BitVec 7) (d : BitVec 7) (p : BitVec 3)
  /-- `ATOM64` (R89). Per-lane 64-bit atomic read-modify-write that returns the old value. -/
  | atom64 (s : BitVec 2) (o : BitVec 2) (q : BitVec 4) (a : BitVec 7) (d : BitVec 7) (p : BitVec 3)
  /-- `TLD` (R189). Starts a load of a 32-row tile from memory on the MX path; the tile stays empty until it fills. -/
  | tld (q : BitVec 4) (s : BitVec 5) (t : BitVec 4)
  /-- `TST` (R189). Stores a whole tile to memory on the MX path. -/
  | tst (q : BitVec 4) (s : BitVec 5) (t : BitVec 4)
  /-- `TRDR` (R187). Each lane reads its word of a tile row into a vector register. -/
  | trdr (s : BitVec 6) (v : BitVec 7) (t : BitVec 4)
  /-- `TRDC` (R187). Each lane reads its word of a tile column into a vector register. -/
  | trdc (s : BitVec 6) (v : BitVec 7) (t : BitVec 4)
  /-- `TWRR` (R187). Each lane writes its word of a tile row from a vector register. -/
  | twrr (s : BitVec 6) (v : BitVec 7) (t : BitVec 4)
  /-- `TWRC` (R187). Each lane writes its word of a tile column from a vector register. -/
  | twrc (s : BitVec 6) (v : BitVec 7) (t : BitVec 4)
  /-- `TZERO` (R188). Writes every word of a tile with zero. -/
  | tzero (t : BitVec 4)
  /-- `TMOV` (R188). Copies a whole tile, named by a scalar, into another tile. -/
  | tmov (s : BitVec 6) (t : BitVec 4)
  /-- `CPY` (R129). Queues a tile copy between tensors on a copy channel. -/
  | cpy (c : BitVec 3) (k : BitVec 6) (d : BitVec 6) (s : BitVec 6)
  /-- `CPYMC` (R133). Queues a multicast copy into landings in several cores' scratchpads. -/
  | cpymc (c : BitVec 3) (k : BitVec 6) (d : BitVec 6) (s : BitVec 6)
  /-- `CPYSP` (R130). Queues a copy that expands a 2:4 sparse tile into dense scratchpad. -/
  | cpysp (c : BitVec 3) (k : BitVec 6) (d : BitVec 6) (s : BitVec 6)
  /-- `CPYG` (R131). Queues a copy that gathers rows through an index list. -/
  | cpyg (c : BitVec 3) (k : BitVec 6) (d : BitVec 6) (s : BitVec 6)
  /-- `PREF` (R132). Queues a prefetch of a source tile into L1 or the memory-side cache. -/
  | pref (c : BitVec 3) (k : BitVec 6) (s : BitVec 6)
  /-- `MMA` (R197). A signature on a convergence register; the last signature issues the matrix operation. -/
  | mma (f : BitVec 4) (c : BitVec 3) (b : BitVec 7) (a : BitVec 7) (t : BitVec 4)
  /-- `VIEW` (R227). Requests a rendered view into a tile, or is refused at once with a status. -/
  | view (b : BitVec 6) (a : BitVec 6) (r : BitVec 3) (t : BitVec 4)
  /-- `VRET` (R230). A shading thread performs its LS accesses, gives its pixel value and ends. -/
  | vret (d : BitVec 7)
  /-- `TRACE` (R216). Submits one ray per active lane for traversal; the record registers stay empty until filled. -/
  | trace (b : BitVec 6) (a : BitVec 6) (d : BitVec 7)
  /-- `TRACES` (R217). Submits rays like TRACE and spawns closest-hit shading for the hits. -/
  | traces (b : BitVec 6) (a : BitVec 6) (d : BitVec 7)
  /-- `TRET` (R218). A closest-hit thread performs its LS accesses at device scope and ends. -/
  | tret
  /-- `RAST` (R221). Queues a triangle walk on the core's rasteriser, one covered pixel per lane. -/
  | rast (b : BitVec 6) (a : BitVec 6) (d : BitVec 7)
  /-- `SNAPHASH` (R249). Starts a rolling-hash computation over a token buffer. -/
  | snaphash (b : BitVec 6) (a : BitVec 5) (d : BitVec 5)
  /-- `SNAPFIND` (R250). Requests a search of a tree for the longest stored prefix and a pin on its node. -/
  | snapfind (b : BitVec 6) (a : BitVec 5) (d : BitVec 5)
  /-- `SNAPGET` (R252). Requests a copy of a node's snapshot to caller memory. -/
  | snapget (b : BitVec 5) (a : BitVec 6) (d : BitVec 5)
  /-- `SNAPDEP` (R253). Requests the deposit of a child snapshot under a parent node. -/
  | snapdep (b : BitVec 5) (a : BitVec 5) (d : BitVec 5)
  /-- `SNAPREL` (R254). Requests the release of a pin on a node. -/
  | snaprel (b : BitVec 6) (a : BitVec 6) (d : BitVec 5)
  /-- `TIDSET` (R120). Loads a range of tensor-identifier table entries into the team window. -/
  | tidset (b : BitVec 6) (a : BitVec 5)
  /-- `TIDRD` (R121). Reads one word of a window entry into a scalar. -/
  | tidrd (a : BitVec 6) (d : BitVec 6)
  /-- `WPOS` (R135). Reads a channel's write position for the team's oldest outstanding copy. -/
  | wpos (a : BitVec 6) (d : BitVec 6)
  /-- `TDEF` (R138). Defines a task counter or a landing. -/
  | tdef (b : BitVec 6) (a : BitVec 6) (d : BitVec 6)
  /-- `TDEC` (R139). Decrements a task counter and returns the new value. -/
  | tdec (b : BitVec 6) (a : BitVec 6) (d : BitVec 6)
  /-- `TWAIT` (R141). The group waits for a task to become ready, free or errored, or for the limit. -/
  | twait (b : BitVec 6) (a : BitVec 6) (d : BitVec 6)
  /-- `SPAWN` (R306). Places one thread per active lane into the bin of an entry address. -/
  | spawn (a : BitVec 5) (d : BitVec 7)
  /-- `CRED` (R279). Contributes a buffer to a collective reduction and waits. -/
  | cred (b : BitVec 6) (a : BitVec 5) (d : BitVec 6)
  /-- `CBCAST` (R279). Contributes to a collective broadcast and waits. -/
  | cbcast (b : BitVec 6) (a : BitVec 5) (d : BitVec 6)
  /-- `LULL` (R351). Advances the active set and starts the lull wave of the job. -/
  | lull
  /-- `DUMP` (R354). In debug-handler code, starts writing the frozen state into the dump buffer. -/
  | dump (d : BitVec 6)
  /-- `DSTEP` (R352). In debug-handler code, steps one frozen scheduler partition by one issue. -/
  | dstep (a : BitVec 6)
  /-- `DRES` (R353). In debug-handler code, resumes the job at a domain time. -/
  | dres (a : BitVec 5)
  /-- `LOAD_FILL` (R85). Data of a load, LDS or atomic returns and fills its destination registers. -/
  | loadFill (op : Nat)
  /-- `MEMORY_ACCESS_PERFORM` (R94). A memory access is performed at its memory and becomes visible at a scope. -/
  | memoryAccessPerform (acc : Nat) (ext : List (BitVec 8))
  /-- `PAGE_WALK_COMPLETE` (R77). A page walk ends, answers its misses and takes the next queued miss. -/
  | pageWalkComplete (part : Nat) (va : BitVec 64)
  /-- `PATROL_SCRUB` (R81). The scrubber reads and corrects a line of HBM or of a vault. -/
  | patrolScrub (part : Nat) (space : Nat) (line : Nat) (found : Nat)
  /-- `COMPARE_COMPLETE` (R153). A compare into k writes its mask and marks it full. -/
  | compareComplete (op : Nat)
  /-- `SFU_COMPLETE` (R163). A special-function operation writes d and marks it full. -/
  | sfuComplete (op : Nat)
  /-- `TLD_COMPLETE` (R189). All rows of a TLD are written and the tile is marked full. -/
  | tldComplete (op : Nat)
  /-- `MMA_START` (R205). The matrix unit starts the next queued MMA and frees its queue place. -/
  | mmaStart (core : Nat)
  /-- `MMA_COMPLETE` (R206). An accumulator tile is marked full after the group's last pending MMA on it. -/
  | mmaComplete (core : Nat) (op : Nat)
  /-- `RAST_COMPLETE` (R222). The rasteriser fills a RAST's registers and token, then starts the next issue. -/
  | rastComplete (core : Nat)
  /-- `TRACE_ADMIT` (R216). A waiting TRACE obtains ray-table entries and its rays begin traversal. -/
  | traceAdmit (gid : Nat)
  /-- `TRADE_QUEUE_SERVE` (R213). The traversal unit serves a trade queue and visits nodes for the rays taken from it. -/
  | tradeQueueServe (cluster : Nat)
  /-- `RAY_COMPLETE` (R213). A ray's pending count reaches zero, or its budget or a fault ends it, and its entry is freed. -/
  | rayComplete (cluster : Nat) (ray : Nat)
  /-- `TRACE_RECORD_FILL` (R217). The records of a TRACE or TRACES issue are written and the registers marked full. -/
  | traceRecordFill (op : Nat)
  /-- `VIEW_SLOT_GRANT` (R227). An accepted VIEW takes a free view slot of its level and marks its tile and status empty. -/
  | viewSlotGrant (gid : Nat)
  /-- `VIEW_RAY_CAST` (R228). The view unit casts the next ray of the first eligible view from its level's ray pool. -/
  | viewRayCast (cluster : Nat)
  /-- `VIEW_COMPLETE` (R231). All pixels have values; the tile and status are written and the slot freed. -/
  | viewComplete (cluster : Nat) (slot : Nat)
  /-- `SHADING_GROUP_FORM` (R236). A ready shading bin forms a group in its level's free shading slot. -/
  | shadingGroupForm (core : Nat) (level : Nat)
  /-- `SNAPHASH_COMPLETE` (R249). A SNAPHASH finishes hashing and fills its result registers. -/
  | snaphashComplete (op : Nat)
  /-- `SNAPFIND_SEARCH` (R250). A SNAPFIND, on its arrival at the store, searches and pins its node. -/
  | snapfindSearch (op : Nat)
  /-- `SNAPGET_COPY` (R252). A SNAPGET pins its node and copies the snapshot, then fills its result. -/
  | snapgetCopy (op : Nat)
  /-- `SNAPDEP_ALLOCATE` (R253). A SNAPDEP's allocation step takes a free node and begins the copy. -/
  | snapdepAllocate (op : Nat)
  /-- `SNAPDEP_LINK` (R253). After its copy, a SNAPDEP links its node or finds an existing child. -/
  | snapdepLink (op : Nat)
  /-- `SNAPREL_APPLY` (R254). A SNAPREL, on its arrival at the store, lowers the node's pin count. -/
  | snaprelApply (op : Nat)
  /-- `FLIT_ARRIVE` (R274). A message flit reaches its target slot and is queued, claimed or discarded. -/
  | flitArrive (flit : Nat)
  /-- `COPY_SECTOR_DELIVER` (R134). A copy channel delivers one 64-byte sector and advances POS. -/
  | copySectorDeliver (core : Nat) (chan : Nat)
  /-- `COPY_COMPLETE` (R143). A copy's writes are performed at COMPSCOPE and its task is decremented. -/
  | copyComplete (core : Nat) (chan : Nat)
  /-- `TWAIT_LIMIT_EXPIRY` (R141). A TWAIT's cycle limit expires and it returns the limit status. -/
  | twaitLimitExpiry (gid : Nat)
  /-- `BIN_TIMER_EXPIRY` (R30). A bin's oldest thread has waited cr.BINTIMER cycles, so the bin may form a group. -/
  | binTimerExpiry (core : Nat) (bin : Nat)
  /-- `BIN_GROUP_FORM` (R305). A bin forms a group into a free team slot of its team. -/
  | binGroupForm (core : Nat) (bin : Nat)
  /-- `BARRIER_PHASE_COMPLETE` (R266). A team barrier phase completes and its waiting lanes are released. -/
  | barrierPhaseComplete (team : Nat) (n : Nat)
  /-- `REPACK_FIRE` (R27). A REPACK fires and regroups the team's waiting threads into fresh groups. -/
  | repackFire (team : Nat)
  /-- `ZEPHYR_ARRIVAL_RECORD` (R269). A group's arrival at a Zephyr phase is recorded once its earlier LS accesses are performed. -/
  | zephyrArrivalRecord (gid : Nat)
  /-- `ZEPHYR_COMPLETE` (R269). A Zephyr phase completion lands at its fixed delay, writing d and releasing lanes. -/
  | zephyrComplete (part : Nat) (id : Nat)
  /-- `COLLECTIVE_COMPLETE` (R280). A collective instance's destination writes are performed, and statuses are written. -/
  | collectiveComplete (part : Nat) (id : Nat) (ext : Elsewhere)
  /-- `GROUP_RETIRE` (R32). A group whose lanes have all exited retires when its producers complete. -/
  | groupRetire (gid : Nat)
  /-- `TEAM_RETIRE` (R32). A team with no groups, bins, copies or unready entry tasks retires and frees its resources. -/
  | teamRetire (team : Nat)
  /-- `GRID_END` (R33). A grid's last team retires; its writes are made visible and its signal decremented. -/
  | gridEnd (grid : Nat)
  /-- `SLEEP_EXPIRY` (R264). A SLEEP's cycle count runs out and the group becomes eligible again. -/
  | sleepExpiry (gid : Nat)
  /-- `YIELD_EXPIRY` (R264). A YIELD's 64-cycle limit runs out and the group becomes eligible again. -/
  | yieldExpiry (gid : Nat)
  /-- `HANDLER_ENTRY` (R318). An IDLE group with a parked sub-warp enters HANDLING and loads the trap frame. -/
  | handlerEntry (gid : Nat)
  /-- `PC_MATCH` (R345). A breakpoint comparator matches an issue in its place and stops the scheduler partition. -/
  | pcMatch (gid : Nat) (cmp : Nat)
  /-- `PACKET_START` (R293). The packet processor starts the next startable packet of the chosen queue. -/
  | packetStart (part : Nat)
  /-- `PACKET_COMPLETE` (R295). A packet completes; its signal is updated and READ advances. -/
  | packetComplete (part : Nat) (queue : Nat) (index : Nat)
  /-- `BARRIER_PACKET_ROUND` (R298). A started BARRIER packet reads its unsatisfied signals. -/
  | barrierPacketRound (part : Nat) (queue : Nat) (index : Nat)
  /-- `PACKET_COPY_SECTOR` (R300). The packet copy engine moves one 64-byte sector of a COPY packet. -/
  | packetCopySector (part : Nat)
  /-- `TEAM_PLACE` (R302). A cluster distributor places a team on a core that can hold it. -/
  | teamPlace (cluster : Nat)
  /-- `CLUSTER_STEAL` (R303). A cluster distributor with an empty range takes half of a sibling's remaining teams. -/
  | clusterSteal (cluster : Nat) (grid : Nat)
  /-- `DIE_STEAL` (R303). A die distributor with empty ranges takes teams from another die. -/
  | dieSteal (part : Nat) (die : Nat) (grid : Nat)
  /-- `FAULT_RECORD_WRITE` (R324). A fault record is written into the fault ring when there is room, and FQWRITE advances. -/
  | faultRecordWrite (part : Nat)
  /-- `LULL_WAVE_STOP` (R347). The lull wave reaches scheduler partitions at its fixed delay and stops them. -/
  | lullWaveStop (part : Nat)
  /-- `HALT_FLIT_ARRIVE` (R347). A lull halt flit arrives at another package and stops its part of the job. -/
  | haltFlitArrive (part : Nat) (cause : BitVec 32) (cause2 : BitVec 32) (stamp : JobStamp)
  /-- `DEBUG_SLOT_START` (R350). The debug slot begins at DBGVEC once every scheduler partition of the job has stopped. -/
  | debugSlotStart (part : Nat)
  /-- `JOB_RESUME` (R353). At the resume time, held fills land and the package's frozen job resumes. -/
  | jobResume (part : Nat)
  /-- `DUMP_COMPLETE` (R357). A DUMP finishes, truncates or faults, and writes its status into d. -/
  | dumpComplete (part : Nat)
  /-- `SAMPLE_TAKE` (R359). Every PERIOD unfrozen cycles each scheduler partition writes or drops a sample record. -/
  | sampleTake (core : Nat) (sp : Nat)
  /-- `TIME_SLICE_EXPIRY` (R328). The context's time slice runs out and requests pre-emption. -/
  | timeSliceExpiry (part : Nat)
  /-- `DRAIN_COMPLETE` (R329). Every resident team has retired; the save area is written and STATE becomes DRAINED. -/
  | drainComplete (part : Nat)
  /-- `DRAIN_DEADLINE_EXPIRY` (R329). The drain deadline runs out before the drain ends. -/
  | drainDeadlineExpiry (part : Nat)
  /-- `TLBINV_GO` (R78). A write of GO to TLBINV starts an invalidation of a range of translations. -/
  | tlbinvGo (part : Nat) (value : BitVec 64)
  /-- `TLBINV_COMPLETE` (R78). The invalidation ends and BUSY returns to 0. -/
  | tlbinvComplete (part : Nat)
  /-- `QUEUE_ENABLE` (R292). ENABLE written 0 to 1 reads the descriptor and makes the queue ACTIVE or ABORTED. -/
  | queueEnable (part : Nat) (queue : Nat)
  /-- `QUEUE_REENABLE` (R292). ENABLE written 1 while ABORTED rereads the descriptor and resumes from READ. -/
  | queueReenable (part : Nat) (queue : Nat)
  /-- `QUEUE_DISABLE` (R292). ENABLE written 1 to 0 stops new packet starts. -/
  | queueDisable (part : Nat) (queue : Nat)
  /-- `QUEUE_DISABLE_DONE` (R292). The started packets of a disabled queue have completed and STATE becomes DISABLED. -/
  | queueDisableDone (part : Nat) (queue : Nat)
  /-- `QDOOR` (R292). A doorbell write raises the queue's write index or aborts it with OVERFLOW. -/
  | qdoor (part : Nat) (queue : Nat) (value : BitVec 64)
  /-- `TREE_CREATE` (R242). VALID written 0 to 1 creates an Etesian tree with a new root node. -/
  | treeCreate (part : Nat) (tree : Nat) (value : BitVec 64)
  /-- `TREE_DISCARD` (R242). VALID written 1 to 0 begins discarding an Etesian tree. -/
  | treeDiscard (part : Nat) (tree : Nat)
  /-- `TREE_DISCARD_FREE` (R242). Once no operation is in flight, the discarded tree's nodes are freed and their GEN raised. -/
  | treeDiscardFree (part : Nat) (tree : Nat)
  /-- `FQRESUME` (R326). Writing a restartable record's ID resumes the stopped work. -/
  | fqresume (part : Nat) (value : BitVec 64)
  /-- `PREEMPT_REQUEST` (R329). A write of REQ, or ZSIG PREEMPT, sets DRAINING and starts the drain. -/
  | preemptRequest (part : Nat)
  /-- `PRESET` (R333). A write to PRESET starts a partition reset. -/
  | preset (part : Nat) (value : BitVec 32)
  /-- `VF_FUNCTION_LEVEL_RESET` (R333). A PCIe function-level reset of a virtual function starts a partition reset. -/
  | vfFunctionLevelReset (part : Nat)
  /-- `PARTITION_RESET_COMPLETE` (R333). The partition reset has cleared its state and BUSY returns to 0. -/
  | partitionResetComplete (part : Nat)
  /-- `DEVICE_RESET` (R334). A physical-function FLR starts the staged reset of the whole device. -/
  | deviceReset
  /-- `DEVICE_RESET_COMPLETE` (R334). Within 40 ms, every partition is reset and the device accepts requests. -/
  | deviceResetComplete
  /-- `HOST_LINK_LOST` (R335). The host link goes down without reset, and the device enters HOST-LOST. -/
  | hostLinkLost
  /-- `CXL_LINK_DOWN` (R376). A CXL port's link goes down; its granules poison reads and drop writes. -/
  | cxlLinkDown (port : Nat)
  /-- `PEER_REQUEST` (R378). A peer request arrives over the fabric and is checked against the domain key and share. -/
  | peerRequest (key : BitVec 64) (kind : Nat) (offset : BitVec 46) (data : List (BitVec 8)) (size : Nat)
  /-- `PEER_REFUSAL` (R378). A peer refusal arrives and makes a Share-range context fault at the requester. -/
  | peerRefusal (acc : Nat)
  /-- `PEER_RESPONSE_TIMEOUT` (R378). A peer request receives no response within 2 ms, and the context faults with LINK-LOST. -/
  | peerResponseTimeout (acc : Nat)
  /-- `DBGCMD_LULL` (R353). A host LULL command through DBGCMD stops the job. -/
  | dbgcmdLull (part : Nat)
  /-- `DBGCMD_DSTEP` (R353). A host DSTEP command through DBGCMD steps one frozen scheduler partition. -/
  | dbgcmdDstep (part : Nat) (value : BitVec 62)
  /-- `DBGCMD_DRES` (R353). A host DRES command through DBGCMD resumes the job at a time T. -/
  | dbgcmdDres (part : Nat) (value : BitVec 62)
  /-- `DBG_REG_READ` (R358). DBGADDR GO with WRITE 0 reads one frozen register into DBGDATA. -/
  | dbgRegRead (part : Nat) (value : BitVec 64)
  /-- `DBG_REG_WRITE` (R358). DBGADDR GO with WRITE 1 writes one frozen register, or returns BUSY. -/
  | dbgRegWrite (part : Nat) (value : BitVec 64)
  /-- `DBG_REG_FORCE_WRITE` (R358). DBGADDR GO with WRITE and FORCE writes a register, removing its scoreboard entry. -/
  | dbgRegForceWrite (part : Nat) (value : BitVec 64)
  /-- `CONTEXT_LOAD` (R373). CTXCMD LOAD is checked and, if accepted, starts loading the context. -/
  | contextLoad (part : Nat)
  /-- `CONTEXT_LOAD_DONE` (R373). Loading ends and STATE becomes LOADED. -/
  | contextLoadDone (part : Nat)
  /-- `CONTEXT_UNLOAD` (R373). CTXCMD UNLOAD is checked and, if accepted, starts unloading the context. -/
  | contextUnload (part : Nat)
  /-- `CONTEXT_UNLOAD_DONE` (R373). Unloading ends and STATE becomes NONE. -/
  | contextUnloadDone (part : Nat)
  /-- `CRACC_READ` (R374). CRACC GO with WRITE 0 reads a control-register word into CRDATA. -/
  | craccRead (part : Nat) (value : BitVec 64)
  /-- `CRACC_WRITE` (R374). CRACC GO with WRITE 1 writes CRDATA into a control-register word. -/
  | craccWrite (part : Nat) (value : BitVec 64)
  /-- `STALL_COUNTER_CLEAR` (R361). Writing 1 to bit 0 at +0x1F8 clears a scheduler partition's counter block. -/
  | stallCounterClear (part : Nat) (block : Nat) (value : BitVec 64)
  /-- `BAR_REGISTER_WRITE` (R12). A host write to any other BAR register updates its writable fields. -/
  | barRegisterWrite (part : Nat) (offset : Nat) (value : BitVec 64)
  /-- `MC_BOOT` (R381). The management controller verifies the flash image and boots it, or enters recovery. -/
  | mcBoot
  /-- `PLDM_MONITORING` (R379). A PLDM Type 2 request reports temperatures, power, link state and error counters. -/
  | pldmMonitoring (part : Nat)
  /-- `PLDM_FIRMWARE_UPDATE` (R381). A PLDM firmware update verifies a new image in RAM and writes it to flash. -/
  | pldmFirmwareUpdate (image : BitVec 64) (version : BitVec 6) (signed : Bool)
  /-- `RECOVERY_IMAGE_LOAD` (R381). In recovery, a signed image is received over PLDM Type 5, verified and booted from RAM. -/
  | recoveryImageLoad (image : BitVec 64) (version : BitVec 6) (signed : Bool)
  /-- `GET_VERSION` (R380). The SPDM responder answers GET_VERSION. -/
  | getVersion
  /-- `GET_CAPABILITIES` (R380). The SPDM responder answers GET_CAPABILITIES. -/
  | getCapabilities
  /-- `NEGOTIATE_ALGORITHMS` (R380). The SPDM responder selects brainpool or P-384 ECDSA with SHA-384, or answers an error. -/
  | negotiateAlgorithms (brainpool : Bool) (p384 : Bool) (sha384 : Bool)
  /-- `GET_DIGESTS` (R380). The SPDM responder returns its certificate-chain digests. -/
  | getDigests
  /-- `GET_CERTIFICATE` (R380). The SPDM responder returns a certificate chain from a slot. -/
  | getCertificate (slot : Nat)
  /-- `CHALLENGE` (R380). The SPDM responder signs a challenge with the selected key. -/
  | challenge (slot : Nat) (nonce : BitVec 256)
  /-- `GET_MEASUREMENTS` (R380). The SPDM responder returns the firmware, rollback-counter and configuration measurements. -/
  | getMeasurements (index : Nat)
  /-- `MC_SET_PARTITION_CONFIG` (R379). A vendor MCTP message sets a partition's clusters, if it has no context loaded. -/
  | mcSetPartitionConfig (part : Nat) (clusters : List Nat) (hbmSize : Nat) (tierSize : Nat)
  /-- `MC_SET_DOMAIN_KEY` (R378). A vendor MCTP message sets a partition's domain key, if it has no context loaded. -/
  | mcSetDomainKey (part : Nat) (key : BitVec 64)
  /-- `MC_SET_PACKAGE_ID` (R377). A vendor MCTP message sets the package's 10-bit fabric ID. -/
  | mcSetPackageId (id : BitVec 10)
  /-- `MC_SET_ESNODES` (R241). A vendor MCTP message sets a partition's Etesian node range. -/
  | mcSetEsnodes (part : Nat) (first : Nat) (count : Nat)
  /-- `MC_DEVICE_RESET` (R334). The management controller's reset command starts a whole-device reset. -/
  | mcDeviceReset
  /-- `MC_CR_ACCESS` (R374). A vendor MCTP message reads or writes a control register for the management controller. -/
  | mcCrAccess (part : Nat) (write : Bool) (core : Nat) (num : BitVec 12) (data : BitVec 32)
  /-- `ILLEGAL_INSTRUCTION` (R59). A fetched 32-bit word that is no instruction parks the active set with cause Illegal-instruction and no effect. -/
  | illegalInstruction (word : BitVec 32)
  /-- `CYCLE_WITH_NO_ELIGIBLE_GROUP` (R361). In a cycle with no eligible group, the scheduler partition charges the cycle to one stall reason and to histogram bucket 0. -/
  | cycleWithNoEligibleGroup (core : Nat) (sp : Nat)
  /-- `PARTICIPATING_PACKAGE_UNREACHABLE` (R280). A fabric path to a participating package is lost, and the collective instances that use it complete with status LINK. -/
  | participatingPackageUnreachable (lost : LostPackage)
  /-- `HOST_REQUEST_TO_DEVICE_MEMORY` (R348). A host request reads or writes device memory and is served even while the job is frozen. -/
  | hostRequestToDeviceMemory (part : Nat) (space : Nat) (offset : Nat) (write : Bool) (data : List (BitVec 8)) (size : Nat)
  /-- `CONFIGURATION_WRITE` (R369). A PCIe configuration write to a virtual function is accepted, or is refused at the memory-enable bit when the partition has no clusters. -/
  | configurationWrite (part : Nat) (memEnable : Bool)
  /-- `DEVICE_POWER_ON` (R240). At power-up the device comes out of device reset with every Etesian node FREE, the store reserved and the cycle count at 0. -/
  | devicePowerOn
  deriving DecidableEq, Repr

end Sys2Proof
end

