-- ==== Sys2Proof/WellFormed.lean ====
section
/-! DEFINITION. When a term of Instr is an instruction of the FZ9: the conditions on operand fields that the encoding
tables do not already fix (02 R36 to R59). A word whose fields fail them is an Illegal-instruction (02 R59). -/

namespace Sys2Proof

/-- An SI operand: an immediate (code 64 to 127) carries no E bit (02 R38, R42). -/
def siOk (e : Bool) (b : BitVec 7) : Bool := !(e && decide (64 ≤ b.toNat))

/-- An SI operand of S64: a scalar code names an even register (02 R37, 07 R172). -/
def siPairOk (e : Bool) (b : BitVec 7) : Bool := siOk e b && (decide (64 ≤ b.toNat) || b.toNat % 2 == 0)

/-- A scalar destination written in the issue: not s62 or s63 (02 R37). -/
def dstS (d : BitVec 6) : Bool := decide (d.toNat < 62)

/-- A scalar destination written after the issue: not s61, s62 or s63 (02 R37). -/
def dstSLate (d : BitVec 6) : Bool := decide (d.toNat < 61)

/-- A scalar pair written in the issue, named by half its number: not s62:s63 (02 R37). -/
def dstS2 (d : BitVec 5) : Bool := decide (d.toNat < 31)

/-- A read of s62 makes its instruction a producer, so its destination may not be s61 (02 R37, R38, 07 R144). -/
def rxOk (a b d : Nat) : Bool := !((a == 62 || b == 62) && d == 61)

/-- A mask destination: not k0 (02 R37). -/
def dstK (d : BitVec 4) : Bool := decide (d.toNat ≠ 0)

/-- A control-register number of the list of 02 R39. -/
def crListed (n : Nat) : Bool :=
  decide (n ≤ 0x12) || n == 0x18 || n == 0x20 || n == 0x21 || n == 0x28 || n == 0x29 ||
  (decide (0x40 ≤ n) && decide (n ≤ 0x4B)) || n == 0x50 || (decide (0x60 ≤ n) && decide (n ≤ 0x77)) ||
  (decide (0x80 ≤ n) && decide (n ≤ 0x86)) || (decide (0x90 ≤ n) && decide (n ≤ 0x93))

/-- The special registers of 02 R40: LANE and ORIGLANE go to a vector register, the others to a scalar. -/
def srdOk (n : BitVec 10) (d : BitVec 7) : Bool :=
  decide (n.toNat ≤ 1) || (decide (n.toNat ≤ 16) && decide (d.toNat < 62))

/-- A conversion code is 8 × src + dst with both below 6, and src = dst only for F32 to F32 (05 R111). -/
def cvtOk (code d a : BitVec 7) (rnd : BitVec 2) : Bool :=
  let src := code.toNat / 8
  let dst := code.toNat % 8
  decide (src < 6) && decide (dst < 6) && (src != dst || code == 36) &&
  (dst != 5 || d.toNat % 2 == 0) && (src != 5 || a.toNat % 2 == 0) &&
  (!(decide (src ≤ 1) && decide (dst ≤ 1)) || rnd == 0)

/-- How many 32-bit registers an access of a size code fills (02 R47). -/
def sizeRegs (z : BitVec 3) : Nat := if z.toNat ≤ 4 then 1 else if z.toNat = 5 then 2 else if z.toNat = 6 then 4 else 8

/-- Ordering codes of loads: none and acquire (02 R47). -/
def ordLoad (o : BitVec 2) : Bool := decide (o.toNat ≤ 1)

/-- Ordering codes of stores: none and release (02 R47). -/
def ordStore (o : BitVec 2) : Bool := o.toNat % 2 == 0

/-- The sign-extending sizes are legal on loads only (02 R47). -/
def sizeStore (z : BitVec 3) : Bool := z != 1 && z != 3

/-- The address field of LD, ST, ATOM32 and ATOM64: a pair in flat space (02 R47). -/
def addrV (s : BitVec 2) (a : BitVec 7) : Bool := s != 3 && (s != 0 || a.toNat % 2 == 0)

/-- The address field of LDS and STS: a scalar, a pair in flat space (02 R47). -/
def addrS (s : BitVec 2) (a : BitVec 7) : Bool := s != 3 && decide (a.toNat < 64) && (s != 0 || a.toNat % 2 == 0)

/-- A block of scalars for LDS or STS: aligned, and below s60 when a quad or octet (04 R84). -/
def blockS (z : BitVec 3) (d : BitVec 7) : Bool :=
  decide (d.toNat < 64) && d.toNat % sizeRegs z == 0 && (decide (sizeRegs z ≤ 2) || decide (d.toNat + sizeRegs z ≤ 60))

/-- The destination of an LDS may not include s61, s62 or s63 (02 R37, 04 R84). -/
def ldsDst (z : BitVec 3) (d : BitVec 7) : Bool := decide (d.toNat + sizeRegs z ≤ 61)

/-- A copy's scalar operands: the task below s60, and a descriptor's four scalars below s60 (02 R49, 06 R125, R128). -/
def copyOk (task d s : BitVec 6) : Bool := decide (task.toNat < 60) && decide (d.toNat ≤ 56) && decide (s.toNat ≤ 56)

/-- The register WAITF names fits its class (13 R264). -/
def waitfOk (c : BitVec 2) (a : BitVec 7) : Bool :=
  c == 0 || (c == 1 && decide (a.toNat < 64)) || (decide (2 ≤ c.toNat) && decide (a.toNat < 16))

/-- The result block of a SNAP operation, named by half its number, lies below s60 (12 R247). -/
def snapDst (d : BitVec 5) (n : Nat) : Bool := decide (2 * d.toNat + n ≤ 60)

/-- The field conditions of each instruction; an event has none. -/
def Instr.wf : Instr → Bool
  | .iaddi e b _ _ _ => siOk e b
  | .isubi e b _ _ _ => siOk e b
  | .iaddsi e b _ _ _ => siOk e b
  | .isubsi e b _ _ _ => siOk e b
  | .andI e b _ _ _ => siOk e b
  | .orI e b _ _ _ => siOk e b
  | .xorI e b _ _ _ => siOk e b
  | .andnI e b _ _ _ => siOk e b
  | .shl e b _ _ _ => siOk e b
  | .shr e b _ _ _ => siOk e b
  | .sar e b _ _ _ => siOk e b
  | .rol e b _ _ _ => siOk e b
  | .icmpEq _ _ _ _ d => dstK d
  | .icmpNe _ _ _ _ d => dstK d
  | .icmpLt _ _ _ _ d => dstK d
  | .icmpLe _ _ _ _ d => dstK d
  | .icmpLtn _ _ _ _ d => dstK d
  | .icmpLen _ _ _ _ d => dstK d
  | .icmpTst _ _ _ _ d => dstK d
  | .icmpTstn _ _ _ _ d => dstK d
  | .icmpEqI e b _ _ d => siOk e b && dstK d
  | .icmpNeI e b _ _ d => siOk e b && dstK d
  | .icmpLtI e b _ _ d => siOk e b && dstK d
  | .icmpLeI e b _ _ d => siOk e b && dstK d
  | .bfxn e b _ _ _ => siOk e b
  | .bfxs e b _ _ _ => siOk e b
  | .bfi e b _ _ _ => siOk e b
  | .bshuf e b _ _ _ => siOk e b
  | .fcmpEq _ _ _ _ d => dstK d
  | .fcmpLt _ _ _ _ d => dstK d
  | .fcmpLe _ _ _ _ d => dstK d
  | .fcmpUno _ _ _ _ d => dstK d
  | .cvt b _ a d r => cvtOk b d a r
  | .shfl e b _ _ _ => siOk e b
  | .shflx e b _ _ _ => siOk e b
  | .shflu e b _ _ _ => siOk e b
  | .shfld e b _ _ _ => siOk e b
  | .ballot _ _ d => dstK d
  | .vredAdd _ _ d => dstS d
  | .vredFadd _ _ d => dstS d
  | .vredFmax _ _ d => dstS d
  | .bcast e b _ _ _ => siOk e b
  | .rdlane e b _ _ d => siOk e b && dstS d && rxOk 0 b.toNat d.toNat
  | .lrd _ b _ _ d => dstS d && rxOk 0 b.toNat d.toNat
  | .lmeet _ b d => dstS2 d && rxOk 0 b.toNat (2 * d.toNat + 1)
  | .lpc _ b d => dstS2 d && rxOk 0 b.toNat (2 * d.toNat + 1)
  | .kand _ _ _ _ d => dstK d
  | .kor _ _ _ _ d => dstK d
  | .kxor _ _ _ _ d => dstK d
  | .kandn _ _ _ _ d => dstK d
  | .k2s _ _ d => dstS2 d
  | .s2k _ _ d => dstK d
  | .kpopc _ _ d => dstS d
  | .kffs _ _ d => dstS d
  | .srd n d => srdOk n d
  | .crd n s => crListed n.toNat && dstS s
  | .cwr n s => crListed n.toNat && dstS s
  | .moviS _ d => dstS d
  | .movihS _ d => dstS d
  | .addiS _ d => dstS d
  | .sadd e b _ a d => siOk e b && dstS d && rxOk a.toNat b.toNat d.toNat
  | .ssub e b _ a d => siOk e b && dstS d && rxOk a.toNat b.toNat d.toNat
  | .smul e b _ a d => siOk e b && dstS d && rxOk a.toNat b.toNat d.toNat
  | .sand e b _ a d => siOk e b && dstS d && rxOk a.toNat b.toNat d.toNat
  | .sor e b _ a d => siOk e b && dstS d && rxOk a.toNat b.toNat d.toNat
  | .sxor e b _ a d => siOk e b && dstS d && rxOk a.toNat b.toNat d.toNat
  | .sshl e b _ a d => siOk e b && dstS d && rxOk a.toNat b.toNat d.toNat
  | .sshr e b _ a d => siOk e b && dstS d && rxOk a.toNat b.toNat d.toNat
  | .seq e b _ a d => siOk e b && dstS d && rxOk a.toNat b.toNat d.toNat
  | .sne e b _ a d => siOk e b && dstS d && rxOk a.toNat b.toNat d.toNat
  | .slt e b _ a d => siOk e b && dstS d && rxOk a.toNat b.toNat d.toNat
  | .sltn e b _ a d => siOk e b && dstS d && rxOk a.toNat b.toNat d.toNat
  | .sadd64 e b _ a d => siPairOk e b && dstS2 d && rxOk (2 * a.toNat) b.toNat (2 * d.toNat + 1)
  | .ssub64 e b _ a d => siPairOk e b && dstS2 d && rxOk (2 * a.toNat) b.toNat (2 * d.toNat + 1)
  | .smulw e b _ a d => siPairOk e b && dstS2 d && rxOk (2 * a.toNat) b.toNat (2 * d.toNat + 1)
  | .sshl64 e b _ a d => siPairOk e b && dstS2 d && rxOk (2 * a.toNat) b.toNat (2 * d.toNat + 1)
  | .jmp _ a => decide (a.toNat < 30)
  | .call _ a => decide (a.toNat < 30)
  | .waitf c a => waitfOk c a
  | .bar e b => siOk e b
  | .barm e b _ _ => siOk e b
  | .arrive e b => siOk e b
  | .wait e b => siOk e b
  | .fenceS _ m => m != 0
  | .fenceP _ b a => decide (a.toNat ≤ 5) && decide (b.toNat ≤ 5)
  | .zbar e b => siOk e b
  | .zbcast e b _ _ d => siOk e b && dstSLate d
  | .zred _ _ _ _ d => dstSLate d
  | .zsig e b _ _ => siOk e b
  | .cqry _ d => dstS d
  | .ld s o _ a d z => addrV s a && ordLoad o && d.toNat % sizeRegs z == 0
  | .st s o _ a d z => addrV s a && ordStore o && sizeStore z && d.toNat % sizeRegs z == 0
  | .lds s o _ a d z => addrS s a && ordLoad o && blockS z d && ldsDst z d
  | .sts s o _ a d z => addrS s a && ordStore o && sizeStore z && blockS z d
  | .atom32 s _ _ a d p => addrV s a && (p != 7 || d.toNat % 2 == 0)
  | .atom64 s _ _ a d p => addrV s a && (if p == 7 then d.toNat % 4 == 0 else d.toNat % 2 == 0)
  | .tld _ s _ => decide (s.toNat ≤ 28)
  | .tst _ s _ => decide (s.toNat ≤ 28)
  | .cpy _ k d s => copyOk k d s
  | .cpymc _ k d s => copyOk k d s
  | .cpysp _ k d s => copyOk k d s
  | .cpyg _ k d s => copyOk k d s
  | .pref _ k s => copyOk k 0 s
  | .mma _ _ b a _ => decide (a.toNat ≤ 120) && decide (b.toNat ≤ 120)
  | .view b a r _ => decide (r.toNat ≤ 4) && decide (a.toNat ≤ 50) && decide (b.toNat < 60)
  | .trace _ _ d => decide (d.toNat ≤ 120)
  | .traces _ _ d => decide (d.toNat ≤ 120)
  | .rast b a d => decide (d.toNat ≤ 124) && decide (a.toNat ≤ 49) && dstSLate b
  | .snaphash _ a d => snapDst d 3 && decide (a.toNat < 30)
  | .snapfind _ a d => snapDst d 2 && decide (a.toNat < 30)
  | .snapget b _ d => snapDst d 2 && decide (b.toNat < 30)
  | .snapdep b a d => snapDst d 2 && decide (a.toNat ≤ 28) && decide (b.toNat < 30)
  | .snaprel _ _ d => snapDst d 2
  | .tidrd a d => dstS d && rxOk a.toNat 0 d.toNat
  | .wpos a d => dstS d && rxOk a.toNat 0 d.toNat
  | .tdec b a d => dstS d && rxOk a.toNat b.toNat d.toNat
  | .twait _ _ d => dstSLate d
  | .spawn a _ => decide (a.toNat < 30)
  | .cred _ a d => dstSLate d && decide (a.toNat ≤ 28)
  | .cbcast _ a d => dstSLate d && decide (a.toNat ≤ 28)
  | .dump d => decide (d.toNat < 60)
  | .dres a => decide (a.toNat < 30)
  | .movH ..
  | .notH ..
  | .iaddH ..
  | .isubH ..
  | .imulH ..
  | .andH ..
  | .orH ..
  | .xorH ..
  | .shlH ..
  | .shrH ..
  | .sarH ..
  | .faddH ..
  | .fsubH ..
  | .fmulH ..
  | .fmaxH ..
  | .fminH ..
  | .iadd ..
  | .isub ..
  | .iadds ..
  | .isubs ..
  | .imul ..
  | .imulhi ..
  | .imulhin ..
  | .imad ..
  | .and ..
  | .or ..
  | .xor ..
  | .andn ..
  | .min ..
  | .max ..
  | .minn ..
  | .maxn ..
  | .popc ..
  | .clz ..
  | .brev ..
  | .ctz ..
  | .sel ..
  | .fadd ..
  | .fsub ..
  | .fmin ..
  | .fmax ..
  | .fmul ..
  | .ffma ..
  | .ffms ..
  | .ffnma ..
  | .faddS ..
  | .fsubS ..
  | .fminS ..
  | .fmaxS ..
  | .fmulS ..
  | .ffmaS ..
  | .ffmsS ..
  | .ffnmaS ..
  | .fabs ..
  | .fneg ..
  | .ffloor ..
  | .fceil ..
  | .rcp ..
  | .rsq ..
  | .ex2 ..
  | .lg2 ..
  | .sin ..
  | .cos ..
  | .sqrt ..
  | .tanh ..
  | .hadd2 ..
  | .hmul2 ..
  | .hfma2 ..
  | .hmax2 ..
  | .badd2 ..
  | .bmul2 ..
  | .bfma2 ..
  | .bmax2 ..
  | .dadd ..
  | .dmul ..
  | .dfma ..
  | .dmin ..
  | .pack8 ..
  | .unpk8 ..
  | .pack4 ..
  | .unpk4 ..
  | .rdx ..
  | .wrx ..
  | .lwr ..
  | .moviV ..
  | .br ..
  | .brz ..
  | .brnz ..
  | .brneg ..
  | .brk ..
  | .brkn ..
  | .brv ..
  | .brvz ..
  | .setmeet ..
  | .jmpv ..
  | .rstmeet ..
  | .exit
  | .trap ..
  | .breakI ..
  | .rtrap
  | .rep ..
  | .repack
  | .yield
  | .sleep ..
  | .fenceA
  | .cdecl ..
  | .crst ..
  | .trdr ..
  | .trdc ..
  | .twrr ..
  | .twrc ..
  | .tzero ..
  | .tmov ..
  | .vret ..
  | .tret
  | .tidset ..
  | .tdef ..
  | .lull
  | .dstep ..
  | .loadFill ..
  | .memoryAccessPerform ..
  | .pageWalkComplete ..
  | .patrolScrub ..
  | .compareComplete ..
  | .sfuComplete ..
  | .tldComplete ..
  | .mmaStart ..
  | .mmaComplete ..
  | .rastComplete ..
  | .traceAdmit ..
  | .tradeQueueServe ..
  | .rayComplete ..
  | .traceRecordFill ..
  | .viewSlotGrant ..
  | .viewRayCast ..
  | .viewComplete ..
  | .shadingGroupForm ..
  | .snaphashComplete ..
  | .snapfindSearch ..
  | .snapgetCopy ..
  | .snapdepAllocate ..
  | .snapdepLink ..
  | .snaprelApply ..
  | .flitArrive ..
  | .copySectorDeliver ..
  | .copyComplete ..
  | .twaitLimitExpiry ..
  | .binTimerExpiry ..
  | .binGroupForm ..
  | .barrierPhaseComplete ..
  | .repackFire ..
  | .zephyrArrivalRecord ..
  | .zephyrComplete ..
  | .collectiveComplete ..
  | .groupRetire ..
  | .teamRetire ..
  | .gridEnd ..
  | .sleepExpiry ..
  | .yieldExpiry ..
  | .handlerEntry ..
  | .pcMatch ..
  | .packetStart ..
  | .packetComplete ..
  | .barrierPacketRound ..
  | .packetCopySector ..
  | .teamPlace ..
  | .clusterSteal ..
  | .dieSteal ..
  | .faultRecordWrite ..
  | .lullWaveStop ..
  | .haltFlitArrive ..
  | .debugSlotStart ..
  | .jobResume ..
  | .dumpComplete ..
  | .sampleTake ..
  | .timeSliceExpiry ..
  | .drainComplete ..
  | .drainDeadlineExpiry ..
  | .tlbinvGo ..
  | .tlbinvComplete ..
  | .queueEnable ..
  | .queueReenable ..
  | .queueDisable ..
  | .queueDisableDone ..
  | .qdoor ..
  | .treeCreate ..
  | .treeDiscard ..
  | .treeDiscardFree ..
  | .fqresume ..
  | .preemptRequest ..
  | .preset ..
  | .vfFunctionLevelReset ..
  | .partitionResetComplete ..
  | .deviceReset
  | .deviceResetComplete
  | .hostLinkLost
  | .cxlLinkDown ..
  | .peerRequest ..
  | .peerRefusal ..
  | .peerResponseTimeout ..
  | .dbgcmdLull ..
  | .dbgcmdDstep ..
  | .dbgcmdDres ..
  | .dbgRegRead ..
  | .dbgRegWrite ..
  | .dbgRegForceWrite ..
  | .contextLoad ..
  | .contextLoadDone ..
  | .contextUnload ..
  | .contextUnloadDone ..
  | .craccRead ..
  | .craccWrite ..
  | .stallCounterClear ..
  | .barRegisterWrite ..
  | .mcBoot
  | .pldmMonitoring ..
  | .pldmFirmwareUpdate ..
  | .recoveryImageLoad ..
  | .getVersion
  | .getCapabilities
  | .negotiateAlgorithms ..
  | .getDigests
  | .getCertificate ..
  | .challenge ..
  | .getMeasurements ..
  | .mcSetPartitionConfig ..
  | .mcSetDomainKey ..
  | .mcSetPackageId ..
  | .mcSetEsnodes ..
  | .mcDeviceReset
  | .mcCrAccess ..
  | .illegalInstruction ..
  | .cycleWithNoEligibleGroup ..
  | .participatingPackageUnreachable ..
  | .hostRequestToDeviceMemory ..
  | .configurationWrite ..
  | .devicePowerOn => true

end Sys2Proof
end

