-- ==== Sys2Proof/Decode.lean ====
section
/-! DEFINITION. Decoding and encoding (02 R41 to R54, R58, R59). A 16-bit word has bit 0 clear; a 32-bit word has bit 0
set and its major code in bits 6:1. Each major has a decoder that tests the fixed fields of the table's rows; a word that
no row admits, or whose fields fail Instr.wf, is refused and is an Illegal-instruction (02 R59). -/

namespace Sys2Proof

/-- Bits lo+len-1:lo of a word. -/
def fld (w lo len : Nat) : Nat := w / 2 ^ lo % 2 ^ len

/-- Bit lo of a word. -/
def bit (w lo : Nat) : Bool := fld w lo 1 == 1

/-- The H format (02 R43): sixteen operations, all of them assigned. -/
def decodeH (w : Nat) : Instr :=
  match fld w 1 4 with
  | 0 => .movH (.ofNat 5 (fld w 11 5)) (.ofNat 5 (fld w 6 5)) (bit w 5)
  | 1 => .notH (.ofNat 5 (fld w 11 5)) (.ofNat 5 (fld w 6 5)) (bit w 5)
  | 2 => .iaddH (.ofNat 5 (fld w 11 5)) (.ofNat 5 (fld w 6 5)) (bit w 5)
  | 3 => .isubH (.ofNat 5 (fld w 11 5)) (.ofNat 5 (fld w 6 5)) (bit w 5)
  | 4 => .imulH (.ofNat 5 (fld w 11 5)) (.ofNat 5 (fld w 6 5)) (bit w 5)
  | 5 => .andH (.ofNat 5 (fld w 11 5)) (.ofNat 5 (fld w 6 5)) (bit w 5)
  | 6 => .orH (.ofNat 5 (fld w 11 5)) (.ofNat 5 (fld w 6 5)) (bit w 5)
  | 7 => .xorH (.ofNat 5 (fld w 11 5)) (.ofNat 5 (fld w 6 5)) (bit w 5)
  | 8 => .shlH (.ofNat 5 (fld w 11 5)) (.ofNat 5 (fld w 6 5)) (bit w 5)
  | 9 => .shrH (.ofNat 5 (fld w 11 5)) (.ofNat 5 (fld w 6 5)) (bit w 5)
  | 10 => .sarH (.ofNat 5 (fld w 11 5)) (.ofNat 5 (fld w 6 5)) (bit w 5)
  | 11 => .faddH (.ofNat 5 (fld w 11 5)) (.ofNat 5 (fld w 6 5)) (bit w 5)
  | 12 => .fsubH (.ofNat 5 (fld w 11 5)) (.ofNat 5 (fld w 6 5)) (bit w 5)
  | 13 => .fmulH (.ofNat 5 (fld w 11 5)) (.ofNat 5 (fld w 6 5)) (bit w 5)
  | 14 => .fmaxH (.ofNat 5 (fld w 11 5)) (.ofNat 5 (fld w 6 5)) (bit w 5)
  | _ => .fminH (.ofNat 5 (fld w 11 5)) (.ofNat 5 (fld w 6 5)) (bit w 5)

/-- Major 0x00: IADD, ISUB, IADDS, ISUBS. -/
def decMajor00 (w : Nat) : Option Instr :=
  if fld w 7 2 == 0 then some (.iadd (bit w 31) (.ofNat 7 (fld w 24 7)) (bit w 23) (.ofNat 7 (fld w 16 7)) (.ofNat 7 (fld w 9 7)))
  else if fld w 7 2 == 1 then some (.isub (bit w 31) (.ofNat 7 (fld w 24 7)) (bit w 23) (.ofNat 7 (fld w 16 7)) (.ofNat 7 (fld w 9 7)))
  else if fld w 7 2 == 2 then some (.iadds (bit w 31) (.ofNat 7 (fld w 24 7)) (bit w 23) (.ofNat 7 (fld w 16 7)) (.ofNat 7 (fld w 9 7)))
  else if fld w 7 2 == 3 then some (.isubs (bit w 31) (.ofNat 7 (fld w 24 7)) (bit w 23) (.ofNat 7 (fld w 16 7)) (.ofNat 7 (fld w 9 7)))
  else none

/-- Major 0x01: IADDI, ISUBI, IADDSI, ISUBSI. -/
def decMajor01 (w : Nat) : Option Instr :=
  if fld w 7 2 == 0 then some (.iaddi (bit w 31) (.ofNat 7 (fld w 24 7)) (bit w 23) (.ofNat 7 (fld w 16 7)) (.ofNat 7 (fld w 9 7)))
  else if fld w 7 2 == 1 then some (.isubi (bit w 31) (.ofNat 7 (fld w 24 7)) (bit w 23) (.ofNat 7 (fld w 16 7)) (.ofNat 7 (fld w 9 7)))
  else if fld w 7 2 == 2 then some (.iaddsi (bit w 31) (.ofNat 7 (fld w 24 7)) (bit w 23) (.ofNat 7 (fld w 16 7)) (.ofNat 7 (fld w 9 7)))
  else if fld w 7 2 == 3 then some (.isubsi (bit w 31) (.ofNat 7 (fld w 24 7)) (bit w 23) (.ofNat 7 (fld w 16 7)) (.ofNat 7 (fld w 9 7)))
  else none

/-- Major 0x02: IMUL, IMULHI, IMULHIN, IMAD. -/
def decMajor02 (w : Nat) : Option Instr :=
  if fld w 7 2 == 0 then some (.imul (bit w 31) (.ofNat 7 (fld w 24 7)) (bit w 23) (.ofNat 7 (fld w 16 7)) (.ofNat 7 (fld w 9 7)))
  else if fld w 7 2 == 1 then some (.imulhi (bit w 31) (.ofNat 7 (fld w 24 7)) (bit w 23) (.ofNat 7 (fld w 16 7)) (.ofNat 7 (fld w 9 7)))
  else if fld w 7 2 == 2 then some (.imulhin (bit w 31) (.ofNat 7 (fld w 24 7)) (bit w 23) (.ofNat 7 (fld w 16 7)) (.ofNat 7 (fld w 9 7)))
  else if fld w 7 2 == 3 then some (.imad (bit w 31) (.ofNat 7 (fld w 24 7)) (bit w 23) (.ofNat 7 (fld w 16 7)) (.ofNat 7 (fld w 9 7)))
  else none

/-- Major 0x03: AND, OR, XOR, ANDN. -/
def decMajor03 (w : Nat) : Option Instr :=
  if fld w 7 2 == 0 then some (.and (bit w 31) (.ofNat 7 (fld w 24 7)) (bit w 23) (.ofNat 7 (fld w 16 7)) (.ofNat 7 (fld w 9 7)))
  else if fld w 7 2 == 1 then some (.or (bit w 31) (.ofNat 7 (fld w 24 7)) (bit w 23) (.ofNat 7 (fld w 16 7)) (.ofNat 7 (fld w 9 7)))
  else if fld w 7 2 == 2 then some (.xor (bit w 31) (.ofNat 7 (fld w 24 7)) (bit w 23) (.ofNat 7 (fld w 16 7)) (.ofNat 7 (fld w 9 7)))
  else if fld w 7 2 == 3 then some (.andn (bit w 31) (.ofNat 7 (fld w 24 7)) (bit w 23) (.ofNat 7 (fld w 16 7)) (.ofNat 7 (fld w 9 7)))
  else none

/-- Major 0x04: AND_I, OR_I, XOR_I, ANDN_I. -/
def decMajor04 (w : Nat) : Option Instr :=
  if fld w 7 2 == 0 then some (.andI (bit w 31) (.ofNat 7 (fld w 24 7)) (bit w 23) (.ofNat 7 (fld w 16 7)) (.ofNat 7 (fld w 9 7)))
  else if fld w 7 2 == 1 then some (.orI (bit w 31) (.ofNat 7 (fld w 24 7)) (bit w 23) (.ofNat 7 (fld w 16 7)) (.ofNat 7 (fld w 9 7)))
  else if fld w 7 2 == 2 then some (.xorI (bit w 31) (.ofNat 7 (fld w 24 7)) (bit w 23) (.ofNat 7 (fld w 16 7)) (.ofNat 7 (fld w 9 7)))
  else if fld w 7 2 == 3 then some (.andnI (bit w 31) (.ofNat 7 (fld w 24 7)) (bit w 23) (.ofNat 7 (fld w 16 7)) (.ofNat 7 (fld w 9 7)))
  else none

/-- Major 0x05: SHL, SHR, SAR, ROL. -/
def decMajor05 (w : Nat) : Option Instr :=
  if fld w 7 2 == 0 then some (.shl (bit w 31) (.ofNat 7 (fld w 24 7)) (bit w 23) (.ofNat 7 (fld w 16 7)) (.ofNat 7 (fld w 9 7)))
  else if fld w 7 2 == 1 then some (.shr (bit w 31) (.ofNat 7 (fld w 24 7)) (bit w 23) (.ofNat 7 (fld w 16 7)) (.ofNat 7 (fld w 9 7)))
  else if fld w 7 2 == 2 then some (.sar (bit w 31) (.ofNat 7 (fld w 24 7)) (bit w 23) (.ofNat 7 (fld w 16 7)) (.ofNat 7 (fld w 9 7)))
  else if fld w 7 2 == 3 then some (.rol (bit w 31) (.ofNat 7 (fld w 24 7)) (bit w 23) (.ofNat 7 (fld w 16 7)) (.ofNat 7 (fld w 9 7)))
  else none

/-- Major 0x06: MIN, MAX, MINN, MAXN. -/
def decMajor06 (w : Nat) : Option Instr :=
  if fld w 7 2 == 0 then some (.min (bit w 31) (.ofNat 7 (fld w 24 7)) (bit w 23) (.ofNat 7 (fld w 16 7)) (.ofNat 7 (fld w 9 7)))
  else if fld w 7 2 == 1 then some (.max (bit w 31) (.ofNat 7 (fld w 24 7)) (bit w 23) (.ofNat 7 (fld w 16 7)) (.ofNat 7 (fld w 9 7)))
  else if fld w 7 2 == 2 then some (.minn (bit w 31) (.ofNat 7 (fld w 24 7)) (bit w 23) (.ofNat 7 (fld w 16 7)) (.ofNat 7 (fld w 9 7)))
  else if fld w 7 2 == 3 then some (.maxn (bit w 31) (.ofNat 7 (fld w 24 7)) (bit w 23) (.ofNat 7 (fld w 16 7)) (.ofNat 7 (fld w 9 7)))
  else none

/-- Major 0x07: ICMP.EQ, ICMP.NE, ICMP.LT, ICMP.LE. -/
def decMajor07 (w : Nat) : Option Instr :=
  if fld w 7 2 == 0 && fld w 13 3 == 0 then some (.icmpEq (bit w 31) (.ofNat 7 (fld w 24 7)) (bit w 23) (.ofNat 7 (fld w 16 7)) (.ofNat 4 (fld w 9 4)))
  else if fld w 7 2 == 1 && fld w 13 3 == 0 then some (.icmpNe (bit w 31) (.ofNat 7 (fld w 24 7)) (bit w 23) (.ofNat 7 (fld w 16 7)) (.ofNat 4 (fld w 9 4)))
  else if fld w 7 2 == 2 && fld w 13 3 == 0 then some (.icmpLt (bit w 31) (.ofNat 7 (fld w 24 7)) (bit w 23) (.ofNat 7 (fld w 16 7)) (.ofNat 4 (fld w 9 4)))
  else if fld w 7 2 == 3 && fld w 13 3 == 0 then some (.icmpLe (bit w 31) (.ofNat 7 (fld w 24 7)) (bit w 23) (.ofNat 7 (fld w 16 7)) (.ofNat 4 (fld w 9 4)))
  else none

/-- Major 0x08: ICMP.LTN, ICMP.LEN, ICMP.TST, ICMP.TSTN. -/
def decMajor08 (w : Nat) : Option Instr :=
  if fld w 7 2 == 0 && fld w 13 3 == 0 then some (.icmpLtn (bit w 31) (.ofNat 7 (fld w 24 7)) (bit w 23) (.ofNat 7 (fld w 16 7)) (.ofNat 4 (fld w 9 4)))
  else if fld w 7 2 == 1 && fld w 13 3 == 0 then some (.icmpLen (bit w 31) (.ofNat 7 (fld w 24 7)) (bit w 23) (.ofNat 7 (fld w 16 7)) (.ofNat 4 (fld w 9 4)))
  else if fld w 7 2 == 2 && fld w 13 3 == 0 then some (.icmpTst (bit w 31) (.ofNat 7 (fld w 24 7)) (bit w 23) (.ofNat 7 (fld w 16 7)) (.ofNat 4 (fld w 9 4)))
  else if fld w 7 2 == 3 && fld w 13 3 == 0 then some (.icmpTstn (bit w 31) (.ofNat 7 (fld w 24 7)) (bit w 23) (.ofNat 7 (fld w 16 7)) (.ofNat 4 (fld w 9 4)))
  else none

/-- Major 0x09: ICMP_EQ_I, ICMP_NE_I, ICMP_LT_I, ICMP_LE_I. -/
def decMajor09 (w : Nat) : Option Instr :=
  if fld w 7 2 == 0 && fld w 13 3 == 0 then some (.icmpEqI (bit w 31) (.ofNat 7 (fld w 24 7)) (bit w 23) (.ofNat 7 (fld w 16 7)) (.ofNat 4 (fld w 9 4)))
  else if fld w 7 2 == 1 && fld w 13 3 == 0 then some (.icmpNeI (bit w 31) (.ofNat 7 (fld w 24 7)) (bit w 23) (.ofNat 7 (fld w 16 7)) (.ofNat 4 (fld w 9 4)))
  else if fld w 7 2 == 2 && fld w 13 3 == 0 then some (.icmpLtI (bit w 31) (.ofNat 7 (fld w 24 7)) (bit w 23) (.ofNat 7 (fld w 16 7)) (.ofNat 4 (fld w 9 4)))
  else if fld w 7 2 == 3 && fld w 13 3 == 0 then some (.icmpLeI (bit w 31) (.ofNat 7 (fld w 24 7)) (bit w 23) (.ofNat 7 (fld w 16 7)) (.ofNat 4 (fld w 9 4)))
  else none

/-- Major 0x0A: POPC, CLZ, BREV, CTZ. -/
def decMajor0A (w : Nat) : Option Instr :=
  if fld w 7 2 == 0 && fld w 24 8 == 0 then some (.popc (bit w 23) (.ofNat 7 (fld w 16 7)) (.ofNat 7 (fld w 9 7)))
  else if fld w 7 2 == 1 && fld w 24 8 == 0 then some (.clz (bit w 23) (.ofNat 7 (fld w 16 7)) (.ofNat 7 (fld w 9 7)))
  else if fld w 7 2 == 2 && fld w 24 8 == 0 then some (.brev (bit w 23) (.ofNat 7 (fld w 16 7)) (.ofNat 7 (fld w 9 7)))
  else if fld w 7 2 == 3 && fld w 24 8 == 0 then some (.ctz (bit w 23) (.ofNat 7 (fld w 16 7)) (.ofNat 7 (fld w 9 7)))
  else none

/-- Major 0x0B: BFXN, BFXS, BFI, BSHUF. -/
def decMajor0B (w : Nat) : Option Instr :=
  if fld w 7 2 == 0 then some (.bfxn (bit w 31) (.ofNat 7 (fld w 24 7)) (bit w 23) (.ofNat 7 (fld w 16 7)) (.ofNat 7 (fld w 9 7)))
  else if fld w 7 2 == 1 then some (.bfxs (bit w 31) (.ofNat 7 (fld w 24 7)) (bit w 23) (.ofNat 7 (fld w 16 7)) (.ofNat 7 (fld w 9 7)))
  else if fld w 7 2 == 2 then some (.bfi (bit w 31) (.ofNat 7 (fld w 24 7)) (bit w 23) (.ofNat 7 (fld w 16 7)) (.ofNat 7 (fld w 9 7)))
  else if fld w 7 2 == 3 then some (.bshuf (bit w 31) (.ofNat 7 (fld w 24 7)) (bit w 23) (.ofNat 7 (fld w 16 7)) (.ofNat 7 (fld w 9 7)))
  else none

/-- Major 0x0C: SEL. -/
def decMajor0C (w : Nat) : Option Instr :=
  some (.sel (bit w 31) (.ofNat 7 (fld w 24 7)) (.ofNat 3 (fld w 7 2 + 4 * fld w 23 1)) (.ofNat 7 (fld w 16 7)) (.ofNat 7 (fld w 9 7)))

/-- Major 0x0D: FADD, FSUB, FMIN, FMAX. -/
def decMajor0D (w : Nat) : Option Instr :=
  if fld w 7 2 == 0 then some (.fadd (bit w 31) (.ofNat 7 (fld w 24 7)) (bit w 23) (.ofNat 7 (fld w 16 7)) (.ofNat 7 (fld w 9 7)))
  else if fld w 7 2 == 1 then some (.fsub (bit w 31) (.ofNat 7 (fld w 24 7)) (bit w 23) (.ofNat 7 (fld w 16 7)) (.ofNat 7 (fld w 9 7)))
  else if fld w 7 2 == 2 then some (.fmin (bit w 31) (.ofNat 7 (fld w 24 7)) (bit w 23) (.ofNat 7 (fld w 16 7)) (.ofNat 7 (fld w 9 7)))
  else if fld w 7 2 == 3 then some (.fmax (bit w 31) (.ofNat 7 (fld w 24 7)) (bit w 23) (.ofNat 7 (fld w 16 7)) (.ofNat 7 (fld w 9 7)))
  else none

/-- Major 0x0E: FMUL, FFMA, FFMS, FFNMA. -/
def decMajor0E (w : Nat) : Option Instr :=
  if fld w 7 2 == 0 then some (.fmul (bit w 31) (.ofNat 7 (fld w 24 7)) (bit w 23) (.ofNat 7 (fld w 16 7)) (.ofNat 7 (fld w 9 7)))
  else if fld w 7 2 == 1 then some (.ffma (bit w 31) (.ofNat 7 (fld w 24 7)) (bit w 23) (.ofNat 7 (fld w 16 7)) (.ofNat 7 (fld w 9 7)))
  else if fld w 7 2 == 2 then some (.ffms (bit w 31) (.ofNat 7 (fld w 24 7)) (bit w 23) (.ofNat 7 (fld w 16 7)) (.ofNat 7 (fld w 9 7)))
  else if fld w 7 2 == 3 then some (.ffnma (bit w 31) (.ofNat 7 (fld w 24 7)) (bit w 23) (.ofNat 7 (fld w 16 7)) (.ofNat 7 (fld w 9 7)))
  else none

/-- Major 0x0F: FADD_S, FSUB_S, FMIN_S, FMAX_S. -/
def decMajor0F (w : Nat) : Option Instr :=
  if fld w 7 2 == 0 && fld w 30 1 == 0 then some (.faddS (bit w 31) (.ofNat 6 (fld w 24 6)) (bit w 23) (.ofNat 7 (fld w 16 7)) (.ofNat 7 (fld w 9 7)))
  else if fld w 7 2 == 1 && fld w 30 1 == 0 then some (.fsubS (bit w 31) (.ofNat 6 (fld w 24 6)) (bit w 23) (.ofNat 7 (fld w 16 7)) (.ofNat 7 (fld w 9 7)))
  else if fld w 7 2 == 2 && fld w 30 1 == 0 then some (.fminS (bit w 31) (.ofNat 6 (fld w 24 6)) (bit w 23) (.ofNat 7 (fld w 16 7)) (.ofNat 7 (fld w 9 7)))
  else if fld w 7 2 == 3 && fld w 30 1 == 0 then some (.fmaxS (bit w 31) (.ofNat 6 (fld w 24 6)) (bit w 23) (.ofNat 7 (fld w 16 7)) (.ofNat 7 (fld w 9 7)))
  else none

/-- Major 0x10: FMUL_S, FFMA_S, FFMS_S, FFNMA_S. -/
def decMajor10 (w : Nat) : Option Instr :=
  if fld w 7 2 == 0 && fld w 30 1 == 0 then some (.fmulS (bit w 31) (.ofNat 6 (fld w 24 6)) (bit w 23) (.ofNat 7 (fld w 16 7)) (.ofNat 7 (fld w 9 7)))
  else if fld w 7 2 == 1 && fld w 30 1 == 0 then some (.ffmaS (bit w 31) (.ofNat 6 (fld w 24 6)) (bit w 23) (.ofNat 7 (fld w 16 7)) (.ofNat 7 (fld w 9 7)))
  else if fld w 7 2 == 2 && fld w 30 1 == 0 then some (.ffmsS (bit w 31) (.ofNat 6 (fld w 24 6)) (bit w 23) (.ofNat 7 (fld w 16 7)) (.ofNat 7 (fld w 9 7)))
  else if fld w 7 2 == 3 && fld w 30 1 == 0 then some (.ffnmaS (bit w 31) (.ofNat 6 (fld w 24 6)) (bit w 23) (.ofNat 7 (fld w 16 7)) (.ofNat 7 (fld w 9 7)))
  else none

/-- Major 0x11: FCMP.EQ, FCMP.LT, FCMP.LE, FCMP.UNO. -/
def decMajor11 (w : Nat) : Option Instr :=
  if fld w 7 2 == 0 && fld w 13 3 == 0 then some (.fcmpEq (bit w 31) (.ofNat 7 (fld w 24 7)) (bit w 23) (.ofNat 7 (fld w 16 7)) (.ofNat 4 (fld w 9 4)))
  else if fld w 7 2 == 1 && fld w 13 3 == 0 then some (.fcmpLt (bit w 31) (.ofNat 7 (fld w 24 7)) (bit w 23) (.ofNat 7 (fld w 16 7)) (.ofNat 4 (fld w 9 4)))
  else if fld w 7 2 == 2 && fld w 13 3 == 0 then some (.fcmpLe (bit w 31) (.ofNat 7 (fld w 24 7)) (bit w 23) (.ofNat 7 (fld w 16 7)) (.ofNat 4 (fld w 9 4)))
  else if fld w 7 2 == 3 && fld w 13 3 == 0 then some (.fcmpUno (bit w 31) (.ofNat 7 (fld w 24 7)) (bit w 23) (.ofNat 7 (fld w 16 7)) (.ofNat 4 (fld w 9 4)))
  else none

/-- Major 0x12: FABS, FNEG, FFLOOR, FCEIL. -/
def decMajor12 (w : Nat) : Option Instr :=
  if fld w 7 2 == 0 && fld w 24 8 == 0 then some (.fabs (bit w 23) (.ofNat 7 (fld w 16 7)) (.ofNat 7 (fld w 9 7)))
  else if fld w 7 2 == 1 && fld w 24 8 == 0 then some (.fneg (bit w 23) (.ofNat 7 (fld w 16 7)) (.ofNat 7 (fld w 9 7)))
  else if fld w 7 2 == 2 && fld w 24 8 == 0 then some (.ffloor (bit w 23) (.ofNat 7 (fld w 16 7)) (.ofNat 7 (fld w 9 7)))
  else if fld w 7 2 == 3 && fld w 24 8 == 0 then some (.fceil (bit w 23) (.ofNat 7 (fld w 16 7)) (.ofNat 7 (fld w 9 7)))
  else none

/-- Major 0x13: RCP, RSQ, EX2, LG2. -/
def decMajor13 (w : Nat) : Option Instr :=
  if fld w 7 2 == 0 && fld w 24 8 == 0 then some (.rcp (bit w 23) (.ofNat 7 (fld w 16 7)) (.ofNat 7 (fld w 9 7)))
  else if fld w 7 2 == 1 && fld w 24 8 == 0 then some (.rsq (bit w 23) (.ofNat 7 (fld w 16 7)) (.ofNat 7 (fld w 9 7)))
  else if fld w 7 2 == 2 && fld w 24 8 == 0 then some (.ex2 (bit w 23) (.ofNat 7 (fld w 16 7)) (.ofNat 7 (fld w 9 7)))
  else if fld w 7 2 == 3 && fld w 24 8 == 0 then some (.lg2 (bit w 23) (.ofNat 7 (fld w 16 7)) (.ofNat 7 (fld w 9 7)))
  else none

/-- Major 0x14: SIN, COS, SQRT, TANH. -/
def decMajor14 (w : Nat) : Option Instr :=
  if fld w 7 2 == 0 && fld w 24 8 == 0 then some (.sin (bit w 23) (.ofNat 7 (fld w 16 7)) (.ofNat 7 (fld w 9 7)))
  else if fld w 7 2 == 1 && fld w 24 8 == 0 then some (.cos (bit w 23) (.ofNat 7 (fld w 16 7)) (.ofNat 7 (fld w 9 7)))
  else if fld w 7 2 == 2 && fld w 24 8 == 0 then some (.sqrt (bit w 23) (.ofNat 7 (fld w 16 7)) (.ofNat 7 (fld w 9 7)))
  else if fld w 7 2 == 3 && fld w 24 8 == 0 then some (.tanh (bit w 23) (.ofNat 7 (fld w 16 7)) (.ofNat 7 (fld w 9 7)))
  else none

/-- Major 0x15: HADD2, HMUL2, HFMA2, HMAX2. -/
def decMajor15 (w : Nat) : Option Instr :=
  if fld w 7 2 == 0 then some (.hadd2 (bit w 31) (.ofNat 7 (fld w 24 7)) (bit w 23) (.ofNat 7 (fld w 16 7)) (.ofNat 7 (fld w 9 7)))
  else if fld w 7 2 == 1 then some (.hmul2 (bit w 31) (.ofNat 7 (fld w 24 7)) (bit w 23) (.ofNat 7 (fld w 16 7)) (.ofNat 7 (fld w 9 7)))
  else if fld w 7 2 == 2 then some (.hfma2 (bit w 31) (.ofNat 7 (fld w 24 7)) (bit w 23) (.ofNat 7 (fld w 16 7)) (.ofNat 7 (fld w 9 7)))
  else if fld w 7 2 == 3 then some (.hmax2 (bit w 31) (.ofNat 7 (fld w 24 7)) (bit w 23) (.ofNat 7 (fld w 16 7)) (.ofNat 7 (fld w 9 7)))
  else none

/-- Major 0x16: BADD2, BMUL2, BFMA2, BMAX2. -/
def decMajor16 (w : Nat) : Option Instr :=
  if fld w 7 2 == 0 then some (.badd2 (bit w 31) (.ofNat 7 (fld w 24 7)) (bit w 23) (.ofNat 7 (fld w 16 7)) (.ofNat 7 (fld w 9 7)))
  else if fld w 7 2 == 1 then some (.bmul2 (bit w 31) (.ofNat 7 (fld w 24 7)) (bit w 23) (.ofNat 7 (fld w 16 7)) (.ofNat 7 (fld w 9 7)))
  else if fld w 7 2 == 2 then some (.bfma2 (bit w 31) (.ofNat 7 (fld w 24 7)) (bit w 23) (.ofNat 7 (fld w 16 7)) (.ofNat 7 (fld w 9 7)))
  else if fld w 7 2 == 3 then some (.bmax2 (bit w 31) (.ofNat 7 (fld w 24 7)) (bit w 23) (.ofNat 7 (fld w 16 7)) (.ofNat 7 (fld w 9 7)))
  else none

/-- Major 0x17: DADD, DMUL, DFMA, DMIN. -/
def decMajor17 (w : Nat) : Option Instr :=
  if fld w 7 2 == 0 && fld w 9 1 == 0 && fld w 16 1 == 0 && fld w 24 1 == 0 then some (.dadd (bit w 31) (.ofNat 6 (fld w 25 6)) (bit w 23) (.ofNat 6 (fld w 17 6)) (.ofNat 6 (fld w 10 6)))
  else if fld w 7 2 == 1 && fld w 9 1 == 0 && fld w 16 1 == 0 && fld w 24 1 == 0 then some (.dmul (bit w 31) (.ofNat 6 (fld w 25 6)) (bit w 23) (.ofNat 6 (fld w 17 6)) (.ofNat 6 (fld w 10 6)))
  else if fld w 7 2 == 2 && fld w 9 1 == 0 && fld w 16 1 == 0 && fld w 24 1 == 0 then some (.dfma (bit w 31) (.ofNat 6 (fld w 25 6)) (bit w 23) (.ofNat 6 (fld w 17 6)) (.ofNat 6 (fld w 10 6)))
  else if fld w 7 2 == 3 && fld w 9 1 == 0 && fld w 16 1 == 0 && fld w 24 1 == 0 then some (.dmin (bit w 31) (.ofNat 6 (fld w 25 6)) (bit w 23) (.ofNat 6 (fld w 17 6)) (.ofNat 6 (fld w 10 6)))
  else none

/-- Major 0x18: CVT. -/
def decMajor18 (w : Nat) : Option Instr :=
  if fld w 31 1 == 0 then some (.cvt (.ofNat 7 (fld w 24 7)) (bit w 23) (.ofNat 7 (fld w 16 7)) (.ofNat 7 (fld w 9 7)) (.ofNat 2 (fld w 7 2)))
  else none

/-- Major 0x19: PACK8, UNPK8, PACK4, UNPK4. -/
def decMajor19 (w : Nat) : Option Instr :=
  if fld w 7 2 == 0 && fld w 16 2 == 0 && fld w 30 2 == 0 then some (.pack8 (.ofNat 6 (fld w 24 6)) (bit w 23) (.ofNat 5 (fld w 18 5)) (.ofNat 7 (fld w 9 7)))
  else if fld w 7 2 == 1 && fld w 9 2 == 0 && fld w 30 2 == 0 then some (.unpk8 (.ofNat 6 (fld w 24 6)) (bit w 23) (.ofNat 7 (fld w 16 7)) (.ofNat 5 (fld w 11 5)))
  else if fld w 7 2 == 2 && fld w 16 3 == 0 && fld w 30 2 == 0 then some (.pack4 (.ofNat 6 (fld w 24 6)) (bit w 23) (.ofNat 4 (fld w 19 4)) (.ofNat 7 (fld w 9 7)))
  else if fld w 7 2 == 3 && fld w 9 3 == 0 && fld w 30 2 == 0 then some (.unpk4 (.ofNat 6 (fld w 24 6)) (bit w 23) (.ofNat 7 (fld w 16 7)) (.ofNat 4 (fld w 12 4)))
  else none

/-- Major 0x1A: SHFL, SHFLX, SHFLU, SHFLD. -/
def decMajor1A (w : Nat) : Option Instr :=
  if fld w 7 2 == 0 then some (.shfl (bit w 31) (.ofNat 7 (fld w 24 7)) (bit w 23) (.ofNat 7 (fld w 16 7)) (.ofNat 7 (fld w 9 7)))
  else if fld w 7 2 == 1 then some (.shflx (bit w 31) (.ofNat 7 (fld w 24 7)) (bit w 23) (.ofNat 7 (fld w 16 7)) (.ofNat 7 (fld w 9 7)))
  else if fld w 7 2 == 2 then some (.shflu (bit w 31) (.ofNat 7 (fld w 24 7)) (bit w 23) (.ofNat 7 (fld w 16 7)) (.ofNat 7 (fld w 9 7)))
  else if fld w 7 2 == 3 then some (.shfld (bit w 31) (.ofNat 7 (fld w 24 7)) (bit w 23) (.ofNat 7 (fld w 16 7)) (.ofNat 7 (fld w 9 7)))
  else none

/-- Major 0x1B: BALLOT, VRED.ADD, VRED.FADD, VRED.FMAX. -/
def decMajor1B (w : Nat) : Option Instr :=
  if fld w 7 2 == 0 && fld w 13 3 == 0 && fld w 24 8 == 0 then some (.ballot (bit w 23) (.ofNat 7 (fld w 16 7)) (.ofNat 4 (fld w 9 4)))
  else if fld w 7 2 == 1 && fld w 15 1 == 0 && fld w 24 8 == 0 then some (.vredAdd (bit w 23) (.ofNat 7 (fld w 16 7)) (.ofNat 6 (fld w 9 6)))
  else if fld w 7 2 == 2 && fld w 15 1 == 0 && fld w 24 8 == 0 then some (.vredFadd (bit w 23) (.ofNat 7 (fld w 16 7)) (.ofNat 6 (fld w 9 6)))
  else if fld w 7 2 == 3 && fld w 15 1 == 0 && fld w 24 8 == 0 then some (.vredFmax (bit w 23) (.ofNat 7 (fld w 16 7)) (.ofNat 6 (fld w 9 6)))
  else none

/-- Major 0x1C: BCAST, RDLANE, RDX, WRX. -/
def decMajor1C (w : Nat) : Option Instr :=
  if fld w 7 2 == 0 then some (.bcast (bit w 31) (.ofNat 7 (fld w 24 7)) (bit w 23) (.ofNat 7 (fld w 16 7)) (.ofNat 7 (fld w 9 7)))
  else if fld w 7 2 == 1 && fld w 15 1 == 0 then some (.rdlane (bit w 31) (.ofNat 7 (fld w 24 7)) (bit w 23) (.ofNat 7 (fld w 16 7)) (.ofNat 6 (fld w 9 6)))
  else if fld w 7 2 == 2 && fld w 30 1 == 0 then some (.rdx (bit w 31) (.ofNat 6 (fld w 24 6)) (bit w 23) (.ofNat 7 (fld w 16 7)) (.ofNat 7 (fld w 9 7)))
  else if fld w 7 2 == 3 && fld w 30 1 == 0 then some (.wrx (bit w 31) (.ofNat 6 (fld w 24 6)) (bit w 23) (.ofNat 7 (fld w 16 7)) (.ofNat 7 (fld w 9 7)))
  else none

/-- Major 0x1D: LRD, LWR, LMEET, LPC. -/
def decMajor1D (w : Nat) : Option Instr :=
  if fld w 7 2 == 0 && fld w 15 1 == 0 && fld w 30 1 == 0 then some (.lrd (bit w 31) (.ofNat 6 (fld w 24 6)) (bit w 23) (.ofNat 7 (fld w 16 7)) (.ofNat 6 (fld w 9 6)))
  else if fld w 7 2 == 1 && fld w 22 1 == 0 && fld w 30 1 == 0 then some (.lwr (bit w 31) (.ofNat 6 (fld w 24 6)) (bit w 23) (.ofNat 6 (fld w 16 6)) (.ofNat 7 (fld w 9 7)))
  else if fld w 7 2 == 2 && fld w 9 1 == 0 && fld w 15 9 == 0 && fld w 30 1 == 0 then some (.lmeet (bit w 31) (.ofNat 6 (fld w 24 6)) (.ofNat 5 (fld w 10 5)))
  else if fld w 7 2 == 3 && fld w 9 1 == 0 && fld w 15 9 == 0 && fld w 30 1 == 0 then some (.lpc (bit w 31) (.ofNat 6 (fld w 24 6)) (.ofNat 5 (fld w 10 5)))
  else none

/-- Major 0x1E: KAND, KOR, KXOR, KANDN. -/
def decMajor1E (w : Nat) : Option Instr :=
  if fld w 7 2 == 0 && fld w 13 3 == 0 && fld w 20 3 == 0 && fld w 28 3 == 0 then some (.kand (bit w 31) (.ofNat 4 (fld w 24 4)) (bit w 23) (.ofNat 4 (fld w 16 4)) (.ofNat 4 (fld w 9 4)))
  else if fld w 7 2 == 1 && fld w 13 3 == 0 && fld w 20 3 == 0 && fld w 28 3 == 0 then some (.kor (bit w 31) (.ofNat 4 (fld w 24 4)) (bit w 23) (.ofNat 4 (fld w 16 4)) (.ofNat 4 (fld w 9 4)))
  else if fld w 7 2 == 2 && fld w 13 3 == 0 && fld w 20 3 == 0 && fld w 28 3 == 0 then some (.kxor (bit w 31) (.ofNat 4 (fld w 24 4)) (bit w 23) (.ofNat 4 (fld w 16 4)) (.ofNat 4 (fld w 9 4)))
  else if fld w 7 2 == 3 && fld w 13 3 == 0 && fld w 20 3 == 0 && fld w 28 3 == 0 then some (.kandn (bit w 31) (.ofNat 4 (fld w 24 4)) (bit w 23) (.ofNat 4 (fld w 16 4)) (.ofNat 4 (fld w 9 4)))
  else none

/-- Major 0x1F: K2S, S2K, KPOPC, KFFS. -/
def decMajor1F (w : Nat) : Option Instr :=
  if fld w 7 2 == 0 && fld w 9 1 == 0 && fld w 15 1 == 0 && fld w 20 3 == 0 && fld w 24 8 == 0 then some (.k2s (bit w 23) (.ofNat 4 (fld w 16 4)) (.ofNat 5 (fld w 10 5)))
  else if fld w 7 2 == 1 && fld w 13 4 == 0 && fld w 22 1 == 0 && fld w 24 8 == 0 then some (.s2k (bit w 23) (.ofNat 5 (fld w 17 5)) (.ofNat 4 (fld w 9 4)))
  else if fld w 7 2 == 2 && fld w 15 1 == 0 && fld w 20 3 == 0 && fld w 24 8 == 0 then some (.kpopc (bit w 23) (.ofNat 4 (fld w 16 4)) (.ofNat 6 (fld w 9 6)))
  else if fld w 7 2 == 3 && fld w 15 1 == 0 && fld w 20 3 == 0 && fld w 24 8 == 0 then some (.kffs (bit w 23) (.ofNat 4 (fld w 16 4)) (.ofNat 6 (fld w 9 6)))
  else none

/-- Major 0x20: SRD. -/
def decMajor20 (w : Nat) : Option Instr :=
  if fld w 24 8 == 0 then some (.srd (.ofNat 10 (fld w 14 10)) (.ofNat 7 (fld w 7 7)))
  else none

/-- Major 0x21: CRD, CWR. -/
def decMajor21 (w : Nat) : Option Instr :=
  if fld w 7 1 == 0 && fld w 26 6 == 0 then some (.crd (.ofNat 12 (fld w 14 12)) (.ofNat 6 (fld w 8 6)))
  else if fld w 7 1 == 1 && fld w 26 6 == 0 then some (.cwr (.ofNat 12 (fld w 14 12)) (.ofNat 6 (fld w 8 6)))
  else none

/-- Major 0x22: MOVI.V. -/
def decMajor22 (w : Nat) : Option Instr :=
  some (.moviV (.ofNat 18 (fld w 14 18)) (.ofNat 7 (fld w 7 7)))

/-- Major 0x23: MOVI.S, MOVIH.S. -/
def decMajor23 (w : Nat) : Option Instr :=
  if fld w 13 1 == 0 then some (.moviS (.ofNat 18 (fld w 14 18)) (.ofNat 6 (fld w 7 6)))
  else if fld w 13 1 == 1 then some (.movihS (.ofNat 18 (fld w 14 18)) (.ofNat 6 (fld w 7 6)))
  else none

/-- Major 0x24: ADDI.S. -/
def decMajor24 (w : Nat) : Option Instr :=
  if fld w 13 1 == 0 then some (.addiS (.ofNat 18 (fld w 14 18)) (.ofNat 6 (fld w 7 6)))
  else none

/-- Major 0x25: SADD, SSUB, SMUL, SAND. -/
def decMajor25 (w : Nat) : Option Instr :=
  if fld w 7 2 == 0 && fld w 15 1 == 0 && fld w 22 1 == 0 then some (.sadd (bit w 31) (.ofNat 7 (fld w 24 7)) (bit w 23) (.ofNat 6 (fld w 16 6)) (.ofNat 6 (fld w 9 6)))
  else if fld w 7 2 == 1 && fld w 15 1 == 0 && fld w 22 1 == 0 then some (.ssub (bit w 31) (.ofNat 7 (fld w 24 7)) (bit w 23) (.ofNat 6 (fld w 16 6)) (.ofNat 6 (fld w 9 6)))
  else if fld w 7 2 == 2 && fld w 15 1 == 0 && fld w 22 1 == 0 then some (.smul (bit w 31) (.ofNat 7 (fld w 24 7)) (bit w 23) (.ofNat 6 (fld w 16 6)) (.ofNat 6 (fld w 9 6)))
  else if fld w 7 2 == 3 && fld w 15 1 == 0 && fld w 22 1 == 0 then some (.sand (bit w 31) (.ofNat 7 (fld w 24 7)) (bit w 23) (.ofNat 6 (fld w 16 6)) (.ofNat 6 (fld w 9 6)))
  else none

/-- Major 0x26: SOR, SXOR, SSHL, SSHR. -/
def decMajor26 (w : Nat) : Option Instr :=
  if fld w 7 2 == 0 && fld w 15 1 == 0 && fld w 22 1 == 0 then some (.sor (bit w 31) (.ofNat 7 (fld w 24 7)) (bit w 23) (.ofNat 6 (fld w 16 6)) (.ofNat 6 (fld w 9 6)))
  else if fld w 7 2 == 1 && fld w 15 1 == 0 && fld w 22 1 == 0 then some (.sxor (bit w 31) (.ofNat 7 (fld w 24 7)) (bit w 23) (.ofNat 6 (fld w 16 6)) (.ofNat 6 (fld w 9 6)))
  else if fld w 7 2 == 2 && fld w 15 1 == 0 && fld w 22 1 == 0 then some (.sshl (bit w 31) (.ofNat 7 (fld w 24 7)) (bit w 23) (.ofNat 6 (fld w 16 6)) (.ofNat 6 (fld w 9 6)))
  else if fld w 7 2 == 3 && fld w 15 1 == 0 && fld w 22 1 == 0 then some (.sshr (bit w 31) (.ofNat 7 (fld w 24 7)) (bit w 23) (.ofNat 6 (fld w 16 6)) (.ofNat 6 (fld w 9 6)))
  else none

/-- Major 0x27: SEQ, SNE, SLT, SLTN. -/
def decMajor27 (w : Nat) : Option Instr :=
  if fld w 7 2 == 0 && fld w 15 1 == 0 && fld w 22 1 == 0 then some (.seq (bit w 31) (.ofNat 7 (fld w 24 7)) (bit w 23) (.ofNat 6 (fld w 16 6)) (.ofNat 6 (fld w 9 6)))
  else if fld w 7 2 == 1 && fld w 15 1 == 0 && fld w 22 1 == 0 then some (.sne (bit w 31) (.ofNat 7 (fld w 24 7)) (bit w 23) (.ofNat 6 (fld w 16 6)) (.ofNat 6 (fld w 9 6)))
  else if fld w 7 2 == 2 && fld w 15 1 == 0 && fld w 22 1 == 0 then some (.slt (bit w 31) (.ofNat 7 (fld w 24 7)) (bit w 23) (.ofNat 6 (fld w 16 6)) (.ofNat 6 (fld w 9 6)))
  else if fld w 7 2 == 3 && fld w 15 1 == 0 && fld w 22 1 == 0 then some (.sltn (bit w 31) (.ofNat 7 (fld w 24 7)) (bit w 23) (.ofNat 6 (fld w 16 6)) (.ofNat 6 (fld w 9 6)))
  else none

/-- Major 0x28: SADD64, SSUB64, SMULW, SSHL64. -/
def decMajor28 (w : Nat) : Option Instr :=
  if fld w 7 2 == 0 && fld w 9 1 == 0 && fld w 15 2 == 0 && fld w 22 1 == 0 then some (.sadd64 (bit w 31) (.ofNat 7 (fld w 24 7)) (bit w 23) (.ofNat 5 (fld w 17 5)) (.ofNat 5 (fld w 10 5)))
  else if fld w 7 2 == 1 && fld w 9 1 == 0 && fld w 15 2 == 0 && fld w 22 1 == 0 then some (.ssub64 (bit w 31) (.ofNat 7 (fld w 24 7)) (bit w 23) (.ofNat 5 (fld w 17 5)) (.ofNat 5 (fld w 10 5)))
  else if fld w 7 2 == 2 && fld w 9 1 == 0 && fld w 15 2 == 0 && fld w 22 1 == 0 then some (.smulw (bit w 31) (.ofNat 7 (fld w 24 7)) (bit w 23) (.ofNat 5 (fld w 17 5)) (.ofNat 5 (fld w 10 5)))
  else if fld w 7 2 == 3 && fld w 9 1 == 0 && fld w 15 2 == 0 && fld w 22 1 == 0 then some (.sshl64 (bit w 31) (.ofNat 7 (fld w 24 7)) (bit w 23) (.ofNat 5 (fld w 17 5)) (.ofNat 5 (fld w 10 5)))
  else none

/-- Major 0x29: BR, BRZ, BRNZ, BRNEG. -/
def decMajor29 (w : Nat) : Option Instr :=
  if fld w 7 2 == 0 && fld w 9 7 == 0 then some (.br (.ofNat 16 (fld w 16 16)))
  else if fld w 7 2 == 1 && fld w 15 1 == 0 then some (.brz (.ofNat 16 (fld w 16 16)) (.ofNat 6 (fld w 9 6)))
  else if fld w 7 2 == 2 && fld w 15 1 == 0 then some (.brnz (.ofNat 16 (fld w 16 16)) (.ofNat 6 (fld w 9 6)))
  else if fld w 7 2 == 3 && fld w 15 1 == 0 then some (.brneg (.ofNat 16 (fld w 16 16)) (.ofNat 6 (fld w 9 6)))
  else none

/-- Major 0x2A: BRK, BRKN, BRV, BRVZ. -/
def decMajor2A (w : Nat) : Option Instr :=
  if fld w 7 2 == 0 && fld w 13 3 == 0 then some (.brk (.ofNat 16 (fld w 16 16)) (.ofNat 4 (fld w 9 4)))
  else if fld w 7 2 == 1 && fld w 13 3 == 0 then some (.brkn (.ofNat 16 (fld w 16 16)) (.ofNat 4 (fld w 9 4)))
  else if fld w 7 2 == 2 then some (.brv (.ofNat 16 (fld w 16 16)) (.ofNat 7 (fld w 9 7)))
  else if fld w 7 2 == 3 then some (.brvz (.ofNat 16 (fld w 16 16)) (.ofNat 7 (fld w 9 7)))
  else none

/-- Major 0x2B: SETMEET. -/
def decMajor2B (w : Nat) : Option Instr :=
  if fld w 7 2 == 0 && fld w 9 1 == 0 then some (.setmeet (.ofNat 16 (fld w 16 16)) (.ofNat 6 (fld w 10 6)))
  else none

/-- Major 0x2C: JMP, CALL, JMPV, RSTMEET. -/
def decMajor2C (w : Nat) : Option Instr :=
  if fld w 7 2 == 0 && fld w 9 1 == 0 && fld w 15 1 == 0 then some (.jmp (.ofNat 16 (fld w 16 16)) (.ofNat 5 (fld w 10 5)))
  else if fld w 7 2 == 1 && fld w 9 1 == 0 && fld w 15 1 == 0 then some (.call (.ofNat 16 (fld w 16 16)) (.ofNat 5 (fld w 10 5)))
  else if fld w 7 2 == 2 && fld w 9 1 == 0 then some (.jmpv (.ofNat 16 (fld w 16 16)) (.ofNat 6 (fld w 10 6)))
  else if fld w 7 2 == 3 && fld w 9 1 == 0 && fld w 16 16 == 0 then some (.rstmeet (.ofNat 6 (fld w 10 6)))
  else none

/-- Major 0x2D: EXIT, TRAP, BREAK, RTRAP. -/
def decMajor2D (w : Nat) : Option Instr :=
  if fld w 7 2 == 0 && fld w 9 23 == 0 then some (.exit)
  else if fld w 7 2 == 1 && fld w 9 7 == 0 then some (.trap (.ofNat 16 (fld w 16 16)))
  else if fld w 7 2 == 2 && fld w 9 7 == 0 then some (.breakI (.ofNat 16 (fld w 16 16)))
  else if fld w 7 2 == 3 && fld w 9 23 == 0 then some (.rtrap)
  else none

/-- Major 0x2E: REP. -/
def decMajor2E (w : Nat) : Option Instr :=
  if fld w 18 14 == 0 then some (.rep (.ofNat 2 (fld w 16 2)) (bit w 15) (bit w 14) (bit w 13) (.ofNat 6 (fld w 7 6)))
  else none

/-- Major 0x2F: REPACK, YIELD, SLEEP, WAITF. -/
def decMajor2F (w : Nat) : Option Instr :=
  if fld w 7 2 == 0 && fld w 9 23 == 0 then some (.repack)
  else if fld w 7 2 == 1 && fld w 9 23 == 0 then some (.yield)
  else if fld w 7 2 == 2 && fld w 9 7 == 0 then some (.sleep (.ofNat 16 (fld w 16 16)))
  else if fld w 7 2 == 3 && fld w 18 14 == 0 then some (.waitf (.ofNat 2 (fld w 16 2)) (.ofNat 7 (fld w 9 7)))
  else none

/-- Major 0x30: BAR, BARM, ARRIVE, WAIT. -/
def decMajor30 (w : Nat) : Option Instr :=
  if fld w 7 2 == 0 && fld w 9 15 == 0 then some (.bar (bit w 31) (.ofNat 7 (fld w 24 7)))
  else if fld w 7 2 == 1 && fld w 9 7 == 0 && fld w 20 3 == 0 then some (.barm (bit w 31) (.ofNat 7 (fld w 24 7)) (bit w 23) (.ofNat 4 (fld w 16 4)))
  else if fld w 7 2 == 2 && fld w 9 15 == 0 then some (.arrive (bit w 31) (.ofNat 7 (fld w 24 7)))
  else if fld w 7 2 == 3 && fld w 9 15 == 0 then some (.wait (bit w 31) (.ofNat 7 (fld w 24 7)))
  else none

/-- Major 0x31: FENCE.S, FENCE.P, FENCE.A. -/
def decMajor31 (w : Nat) : Option Instr :=
  if fld w 7 2 == 0 && fld w 27 5 == 0 then some (.fenceS (.ofNat 2 (fld w 25 2)) (.ofNat 16 (fld w 9 16)))
  else if fld w 7 2 == 1 && fld w 17 15 == 0 then some (.fenceP (.ofNat 2 (fld w 15 2)) (.ofNat 3 (fld w 12 3)) (.ofNat 3 (fld w 9 3)))
  else if fld w 7 2 == 2 && fld w 9 23 == 0 then some (.fenceA)
  else none

/-- Major 0x32: ZBAR, ZBCAST, ZRED, ZSIG. -/
def decMajor32 (w : Nat) : Option Instr :=
  if fld w 7 2 == 0 && fld w 9 15 == 0 then some (.zbar (bit w 31) (.ofNat 7 (fld w 24 7)))
  else if fld w 7 2 == 1 && fld w 15 1 == 0 && fld w 22 1 == 0 then some (.zbcast (bit w 31) (.ofNat 7 (fld w 24 7)) (bit w 23) (.ofNat 6 (fld w 16 6)) (.ofNat 6 (fld w 9 6)))
  else if fld w 7 2 == 2 && fld w 15 1 == 0 && fld w 22 1 == 0 && fld w 30 1 == 0 then some (.zred (bit w 31) (.ofNat 6 (fld w 24 6)) (bit w 23) (.ofNat 6 (fld w 16 6)) (.ofNat 6 (fld w 9 6)))
  else if fld w 7 2 == 3 && fld w 9 7 == 0 && fld w 22 1 == 0 then some (.zsig (bit w 31) (.ofNat 7 (fld w 24 7)) (bit w 23) (.ofNat 6 (fld w 16 6)))
  else none

/-- Major 0x33: CDECL, CRST, CQRY. -/
def decMajor33 (w : Nat) : Option Instr :=
  if fld w 7 2 == 0 && fld w 12 4 == 0 && fld w 20 3 == 0 && fld w 24 8 == 0 then some (.cdecl (bit w 23) (.ofNat 4 (fld w 16 4)) (.ofNat 3 (fld w 9 3)))
  else if fld w 7 2 == 1 && fld w 12 20 == 0 then some (.crst (.ofNat 3 (fld w 9 3)))
  else if fld w 7 2 == 2 && fld w 15 1 == 0 && fld w 19 13 == 0 then some (.cqry (.ofNat 3 (fld w 16 3)) (.ofNat 6 (fld w 9 6)))
  else none

/-- Major 0x34: LD. -/
def decMajor34 (w : Nat) : Option Instr :=
  some (.ld (.ofNat 2 (fld w 30 2)) (.ofNat 2 (fld w 28 2)) (.ofNat 4 (fld w 24 4)) (.ofNat 7 (fld w 17 7)) (.ofNat 7 (fld w 10 7)) (.ofNat 3 (fld w 7 3)))

/-- Major 0x35: ST. -/
def decMajor35 (w : Nat) : Option Instr :=
  some (.st (.ofNat 2 (fld w 30 2)) (.ofNat 2 (fld w 28 2)) (.ofNat 4 (fld w 24 4)) (.ofNat 7 (fld w 17 7)) (.ofNat 7 (fld w 10 7)) (.ofNat 3 (fld w 7 3)))

/-- Major 0x36: LDS. -/
def decMajor36 (w : Nat) : Option Instr :=
  some (.lds (.ofNat 2 (fld w 30 2)) (.ofNat 2 (fld w 28 2)) (.ofNat 4 (fld w 24 4)) (.ofNat 7 (fld w 17 7)) (.ofNat 7 (fld w 10 7)) (.ofNat 3 (fld w 7 3)))

/-- Major 0x37: STS. -/
def decMajor37 (w : Nat) : Option Instr :=
  some (.sts (.ofNat 2 (fld w 30 2)) (.ofNat 2 (fld w 28 2)) (.ofNat 4 (fld w 24 4)) (.ofNat 7 (fld w 17 7)) (.ofNat 7 (fld w 10 7)) (.ofNat 3 (fld w 7 3)))

/-- Major 0x38: ATOM32. -/
def decMajor38 (w : Nat) : Option Instr :=
  some (.atom32 (.ofNat 2 (fld w 30 2)) (.ofNat 2 (fld w 28 2)) (.ofNat 4 (fld w 24 4)) (.ofNat 7 (fld w 17 7)) (.ofNat 7 (fld w 10 7)) (.ofNat 3 (fld w 7 3)))

/-- Major 0x39: ATOM64. -/
def decMajor39 (w : Nat) : Option Instr :=
  some (.atom64 (.ofNat 2 (fld w 30 2)) (.ofNat 2 (fld w 28 2)) (.ofNat 4 (fld w 24 4)) (.ofNat 7 (fld w 17 7)) (.ofNat 7 (fld w 10 7)) (.ofNat 3 (fld w 7 3)))

/-- Major 0x3A: TLD, TST, TRDR, TRDC, TWRR, TWRC, TZERO, TMOV. -/
def decMajor3A (w : Nat) : Option Instr :=
  if fld w 7 2 == 0 && fld w 9 1 == 0 && fld w 14 8 == 0 && fld w 31 1 == 0 then some (.tld (.ofNat 4 (fld w 27 4)) (.ofNat 5 (fld w 22 5)) (.ofNat 4 (fld w 10 4)))
  else if fld w 7 2 == 1 && fld w 9 1 == 0 && fld w 14 8 == 0 && fld w 31 1 == 0 then some (.tst (.ofNat 4 (fld w 27 4)) (.ofNat 5 (fld w 22 5)) (.ofNat 4 (fld w 10 4)))
  else if fld w 7 2 == 2 && fld w 9 1 == 0 && fld w 27 5 == 0 then some (.trdr (.ofNat 6 (fld w 21 6)) (.ofNat 7 (fld w 14 7)) (.ofNat 4 (fld w 10 4)))
  else if fld w 7 2 == 3 && fld w 9 1 == 0 && fld w 27 5 == 0 then some (.trdc (.ofNat 6 (fld w 21 6)) (.ofNat 7 (fld w 14 7)) (.ofNat 4 (fld w 10 4)))
  else if fld w 7 2 == 0 && fld w 9 1 == 1 && fld w 27 5 == 0 then some (.twrr (.ofNat 6 (fld w 21 6)) (.ofNat 7 (fld w 14 7)) (.ofNat 4 (fld w 10 4)))
  else if fld w 7 2 == 1 && fld w 9 1 == 1 && fld w 27 5 == 0 then some (.twrc (.ofNat 6 (fld w 21 6)) (.ofNat 7 (fld w 14 7)) (.ofNat 4 (fld w 10 4)))
  else if fld w 7 2 == 2 && fld w 9 1 == 1 && fld w 14 18 == 0 then some (.tzero (.ofNat 4 (fld w 10 4)))
  else if fld w 7 2 == 3 && fld w 9 1 == 1 && fld w 14 7 == 0 && fld w 27 5 == 0 then some (.tmov (.ofNat 6 (fld w 21 6)) (.ofNat 4 (fld w 10 4)))
  else none

/-- Major 0x3B: CPY, CPYMC, CPYSP, CPYG, PREF. -/
def decMajor3B (w : Nat) : Option Instr :=
  if fld w 7 2 == 0 && fld w 9 1 == 0 && fld w 31 1 == 0 then some (.cpy (.ofNat 3 (fld w 28 3)) (.ofNat 6 (fld w 22 6)) (.ofNat 6 (fld w 16 6)) (.ofNat 6 (fld w 10 6)))
  else if fld w 7 2 == 1 && fld w 9 1 == 0 && fld w 31 1 == 0 then some (.cpymc (.ofNat 3 (fld w 28 3)) (.ofNat 6 (fld w 22 6)) (.ofNat 6 (fld w 16 6)) (.ofNat 6 (fld w 10 6)))
  else if fld w 7 2 == 2 && fld w 9 1 == 0 && fld w 31 1 == 0 then some (.cpysp (.ofNat 3 (fld w 28 3)) (.ofNat 6 (fld w 22 6)) (.ofNat 6 (fld w 16 6)) (.ofNat 6 (fld w 10 6)))
  else if fld w 7 2 == 3 && fld w 9 1 == 0 && fld w 31 1 == 0 then some (.cpyg (.ofNat 3 (fld w 28 3)) (.ofNat 6 (fld w 22 6)) (.ofNat 6 (fld w 16 6)) (.ofNat 6 (fld w 10 6)))
  else if fld w 7 2 == 0 && fld w 9 1 == 1 && fld w 16 6 == 0 && fld w 31 1 == 0 then some (.pref (.ofNat 3 (fld w 28 3)) (.ofNat 6 (fld w 22 6)) (.ofNat 6 (fld w 10 6)))
  else none

/-- Major 0x3C: MMA. -/
def decMajor3C (w : Nat) : Option Instr :=
  some (.mma (.ofNat 4 (fld w 28 4)) (.ofNat 3 (fld w 25 3)) (.ofNat 7 (fld w 18 7)) (.ofNat 7 (fld w 11 7)) (.ofNat 4 (fld w 7 4)))

/-- Major 0x3E: VIEW, VRET, TRACE, TRACES, TRET, RAST, SNAPHASH, SNAPFIND, SNAPGET, SNAPDEP, SNAPREL, TIDSET, TIDRD, WPOS, TDEF, TDEC, TWAIT, SPAWN, CRED, CBCAST, LULL, DUMP, DSTEP, DRES. -/
def decMajor3E (w : Nat) : Option Instr :=
  if fld w 7 2 == 0 && fld w 9 4 == 0 then some (.view (.ofNat 6 (fld w 26 6)) (.ofNat 6 (fld w 20 6)) (.ofNat 3 (fld w 17 3)) (.ofNat 4 (fld w 13 4)))
  else if fld w 7 2 == 1 && fld w 9 4 == 0 && fld w 20 12 == 0 then some (.vret (.ofNat 7 (fld w 13 7)))
  else if fld w 7 2 == 0 && fld w 9 4 == 1 then some (.trace (.ofNat 6 (fld w 26 6)) (.ofNat 6 (fld w 20 6)) (.ofNat 7 (fld w 13 7)))
  else if fld w 7 2 == 1 && fld w 9 4 == 1 then some (.traces (.ofNat 6 (fld w 26 6)) (.ofNat 6 (fld w 20 6)) (.ofNat 7 (fld w 13 7)))
  else if fld w 7 2 == 2 && fld w 9 23 == 1 then some (.tret)
  else if fld w 7 2 == 3 && fld w 9 4 == 1 then some (.rast (.ofNat 6 (fld w 26 6)) (.ofNat 6 (fld w 20 6)) (.ofNat 7 (fld w 13 7)))
  else if fld w 7 2 == 0 && fld w 9 5 == 2 && fld w 19 2 == 0 then some (.snaphash (.ofNat 6 (fld w 26 6)) (.ofNat 5 (fld w 21 5)) (.ofNat 5 (fld w 14 5)))
  else if fld w 7 2 == 1 && fld w 9 5 == 2 && fld w 19 2 == 0 then some (.snapfind (.ofNat 6 (fld w 26 6)) (.ofNat 5 (fld w 21 5)) (.ofNat 5 (fld w 14 5)))
  else if fld w 7 2 == 2 && fld w 9 5 == 2 && fld w 19 1 == 0 && fld w 26 1 == 0 then some (.snapget (.ofNat 5 (fld w 27 5)) (.ofNat 6 (fld w 20 6)) (.ofNat 5 (fld w 14 5)))
  else if fld w 7 2 == 3 && fld w 9 5 == 2 && fld w 19 2 == 0 && fld w 26 1 == 0 then some (.snapdep (.ofNat 5 (fld w 27 5)) (.ofNat 5 (fld w 21 5)) (.ofNat 5 (fld w 14 5)))
  else if fld w 7 2 == 0 && fld w 9 5 == 3 && fld w 19 1 == 0 then some (.snaprel (.ofNat 6 (fld w 26 6)) (.ofNat 6 (fld w 20 6)) (.ofNat 5 (fld w 14 5)))
  else if fld w 7 2 == 0 && fld w 9 12 == 4 then some (.tidset (.ofNat 6 (fld w 26 6)) (.ofNat 5 (fld w 21 5)))
  else if fld w 7 2 == 1 && fld w 9 4 == 4 && fld w 19 1 == 0 && fld w 26 6 == 0 then some (.tidrd (.ofNat 6 (fld w 20 6)) (.ofNat 6 (fld w 13 6)))
  else if fld w 7 2 == 2 && fld w 9 4 == 4 && fld w 19 1 == 0 && fld w 26 6 == 0 then some (.wpos (.ofNat 6 (fld w 20 6)) (.ofNat 6 (fld w 13 6)))
  else if fld w 7 2 == 0 && fld w 9 4 == 5 && fld w 19 1 == 0 then some (.tdef (.ofNat 6 (fld w 26 6)) (.ofNat 6 (fld w 20 6)) (.ofNat 6 (fld w 13 6)))
  else if fld w 7 2 == 1 && fld w 9 4 == 5 && fld w 19 1 == 0 then some (.tdec (.ofNat 6 (fld w 26 6)) (.ofNat 6 (fld w 20 6)) (.ofNat 6 (fld w 13 6)))
  else if fld w 7 2 == 2 && fld w 9 4 == 5 && fld w 19 1 == 0 then some (.twait (.ofNat 6 (fld w 26 6)) (.ofNat 6 (fld w 20 6)) (.ofNat 6 (fld w 13 6)))
  else if fld w 7 2 == 0 && fld w 9 4 == 6 && fld w 20 1 == 0 && fld w 26 6 == 0 then some (.spawn (.ofNat 5 (fld w 21 5)) (.ofNat 7 (fld w 13 7)))
  else if fld w 7 2 == 2 && fld w 9 4 == 6 && fld w 19 2 == 0 then some (.cred (.ofNat 6 (fld w 26 6)) (.ofNat 5 (fld w 21 5)) (.ofNat 6 (fld w 13 6)))
  else if fld w 7 2 == 3 && fld w 9 4 == 6 && fld w 19 2 == 0 then some (.cbcast (.ofNat 6 (fld w 26 6)) (.ofNat 5 (fld w 21 5)) (.ofNat 6 (fld w 13 6)))
  else if fld w 7 2 == 0 && fld w 9 23 == 8 then some (.lull)
  else if fld w 7 2 == 1 && fld w 9 4 == 8 && fld w 19 13 == 0 then some (.dump (.ofNat 6 (fld w 13 6)))
  else if fld w 7 2 == 2 && fld w 9 11 == 8 && fld w 26 6 == 0 then some (.dstep (.ofNat 6 (fld w 20 6)))
  else if fld w 7 2 == 3 && fld w 9 12 == 8 && fld w 26 6 == 0 then some (.dres (.ofNat 5 (fld w 21 5)))
  else none

/-- The 32-bit formats by major code (02 R58); 0x3D and 0x3F are reserved. -/
def decodeRaw32 (w : Nat) : Option Instr :=
  match fld w 1 6 with
  | 0 => decMajor00 w
  | 1 => decMajor01 w
  | 2 => decMajor02 w
  | 3 => decMajor03 w
  | 4 => decMajor04 w
  | 5 => decMajor05 w
  | 6 => decMajor06 w
  | 7 => decMajor07 w
  | 8 => decMajor08 w
  | 9 => decMajor09 w
  | 10 => decMajor0A w
  | 11 => decMajor0B w
  | 12 => decMajor0C w
  | 13 => decMajor0D w
  | 14 => decMajor0E w
  | 15 => decMajor0F w
  | 16 => decMajor10 w
  | 17 => decMajor11 w
  | 18 => decMajor12 w
  | 19 => decMajor13 w
  | 20 => decMajor14 w
  | 21 => decMajor15 w
  | 22 => decMajor16 w
  | 23 => decMajor17 w
  | 24 => decMajor18 w
  | 25 => decMajor19 w
  | 26 => decMajor1A w
  | 27 => decMajor1B w
  | 28 => decMajor1C w
  | 29 => decMajor1D w
  | 30 => decMajor1E w
  | 31 => decMajor1F w
  | 32 => decMajor20 w
  | 33 => decMajor21 w
  | 34 => decMajor22 w
  | 35 => decMajor23 w
  | 36 => decMajor24 w
  | 37 => decMajor25 w
  | 38 => decMajor26 w
  | 39 => decMajor27 w
  | 40 => decMajor28 w
  | 41 => decMajor29 w
  | 42 => decMajor2A w
  | 43 => decMajor2B w
  | 44 => decMajor2C w
  | 45 => decMajor2D w
  | 46 => decMajor2E w
  | 47 => decMajor2F w
  | 48 => decMajor30 w
  | 49 => decMajor31 w
  | 50 => decMajor32 w
  | 51 => decMajor33 w
  | 52 => decMajor34 w
  | 53 => decMajor35 w
  | 54 => decMajor36 w
  | 55 => decMajor37 w
  | 56 => decMajor38 w
  | 57 => decMajor39 w
  | 58 => decMajor3A w
  | 59 => decMajor3B w
  | 60 => decMajor3C w
  | 62 => decMajor3E w
  | _ => none

/-- Keep an instruction only if its fields are legal. -/
def keepWf (i : Instr) : Option Instr := if i.wf then some i else none

/-- A 32-bit word, or none where it is an Illegal-instruction (02 R59). -/
def decode32 (w : Nat) : Option Instr := (decodeRaw32 w).bind keepWf

/-- What the bytes at an instruction address are: an instruction and its length, an illegal word, or too few bytes. -/
inductive Fetched where
  /-- An instruction of `len` bytes. -/
  | instr (i : Instr) (len : Nat)
  /-- A 32-bit word that is no instruction (02 R59). -/
  | illegal (word : BitVec 32)
  /-- Fewer bytes than the length bit asks for. -/
  | short
  deriving DecidableEq, Repr

/-- The instruction length that the first byte gives: bit 0 clear means 2 bytes, set means 4 (02 R41). -/
def lengthOf (b0 : Byte) : Nat := if b0.toNat % 2 = 0 then 2 else 4

/-- Little-endian value of bytes (00 R11). -/
def leNat : List Byte → Nat
  | [] => 0
  | b :: r => b.toNat + 256 * leNat r

/-- The first n bytes of a number, lowest first (00 R11). -/
def leBytes : Nat → Nat → List Byte
  | 0, _ => []
  | n + 1, v => BitVec.ofNat 8 v :: leBytes n (v / 256)

/-- Decode the instruction at the head of a list of bytes; total on every list. -/
def decode (bs : List Byte) : Fetched :=
  match bs with
  | b0 :: b1 :: rest =>
    if lengthOf b0 = 2 then .instr (decodeH (leNat [b0, b1])) 2
    else match rest with
      | b2 :: b3 :: _ =>
        let w := leNat [b0, b1, b2, b3]
        match decode32 w with
        | some i => .instr i 4
        | none => .illegal (BitVec.ofNat 32 w)
      | _ => .short
  | _ => .short

/-- The number of a set bit: 2 to its place. -/
def flag (b : Bool) (lo : Nat) : Nat := if b then 2 ^ lo else 0

/-- A field's value at its place in a word. -/
def put {n : Nat} (x : BitVec n) (lo : Nat) : Nat := x.toNat * 2 ^ lo

/-- Place the fields a at 15:11, d at 10:6, f at 5:5. -/
def packA5D5F1 (base : Nat) (a : BitVec 5) (d : BitVec 5) (f : Bool) : Nat :=
  base + put a 11 + put d 6 + flag f 5

/-- Place the fields e at 31:31, b at 30:24, f at 23:23, a at 22:16, d at 15:9. -/
def packE1B7F1A7D7 (base : Nat) (e : Bool) (b : BitVec 7) (f : Bool) (a : BitVec 7) (d : BitVec 7) : Nat :=
  base + flag e 31 + put b 24 + flag f 23 + put a 16 + put d 9

/-- Place the fields e at 31:31, b at 30:24, f at 23:23, a at 22:16, d at 12:9. -/
def packE1B7F1A7D4 (base : Nat) (e : Bool) (b : BitVec 7) (f : Bool) (a : BitVec 7) (d : BitVec 4) : Nat :=
  base + flag e 31 + put b 24 + flag f 23 + put a 16 + put d 9

/-- Place the fields f at 23:23, a at 22:16, d at 15:9. -/
def packF1A7D7 (base : Nat) (f : Bool) (a : BitVec 7) (d : BitVec 7) : Nat :=
  base + flag f 23 + put a 16 + put d 9

/-- Place the fields e at 31:31, b at 30:24, k at 8:7 and 23:23, a at 22:16, d at 15:9. -/
def packE1B7K3A7D7 (base : Nat) (e : Bool) (b : BitVec 7) (k : BitVec 3) (a : BitVec 7) (d : BitVec 7) : Nat :=
  base + flag e 31 + put b 24 + k.toNat % 4 * 2 ^ 7 + k.toNat / 4 * 2 ^ 23 + put a 16 + put d 9

/-- Place the fields e at 31:31, b at 29:24, f at 23:23, a at 22:16, d at 15:9. -/
def packE1B6F1A7D7 (base : Nat) (e : Bool) (b : BitVec 6) (f : Bool) (a : BitVec 7) (d : BitVec 7) : Nat :=
  base + flag e 31 + put b 24 + flag f 23 + put a 16 + put d 9

/-- Place the fields e at 31:31, b at 30:25, f at 23:23, a at 22:17, d at 15:10. -/
def packE1B6F1A6D6 (base : Nat) (e : Bool) (b : BitVec 6) (f : Bool) (a : BitVec 6) (d : BitVec 6) : Nat :=
  base + flag e 31 + put b 25 + flag f 23 + put a 17 + put d 10

/-- Place the fields b at 30:24, f at 23:23, a at 22:16, d at 15:9, r at 8:7. -/
def packB7F1A7D7R2 (base : Nat) (b : BitVec 7) (f : Bool) (a : BitVec 7) (d : BitVec 7) (r : BitVec 2) : Nat :=
  base + put b 24 + flag f 23 + put a 16 + put d 9 + put r 7

/-- Place the fields b at 29:24, f at 23:23, a at 22:18, d at 15:9. -/
def packB6F1A5D7 (base : Nat) (b : BitVec 6) (f : Bool) (a : BitVec 5) (d : BitVec 7) : Nat :=
  base + put b 24 + flag f 23 + put a 18 + put d 9

/-- Place the fields b at 29:24, f at 23:23, a at 22:16, d at 15:11. -/
def packB6F1A7D5 (base : Nat) (b : BitVec 6) (f : Bool) (a : BitVec 7) (d : BitVec 5) : Nat :=
  base + put b 24 + flag f 23 + put a 16 + put d 11

/-- Place the fields b at 29:24, f at 23:23, a at 22:19, d at 15:9. -/
def packB6F1A4D7 (base : Nat) (b : BitVec 6) (f : Bool) (a : BitVec 4) (d : BitVec 7) : Nat :=
  base + put b 24 + flag f 23 + put a 19 + put d 9

/-- Place the fields b at 29:24, f at 23:23, a at 22:16, d at 15:12. -/
def packB6F1A7D4 (base : Nat) (b : BitVec 6) (f : Bool) (a : BitVec 7) (d : BitVec 4) : Nat :=
  base + put b 24 + flag f 23 + put a 16 + put d 12

/-- Place the fields f at 23:23, a at 22:16, d at 12:9. -/
def packF1A7D4 (base : Nat) (f : Bool) (a : BitVec 7) (d : BitVec 4) : Nat :=
  base + flag f 23 + put a 16 + put d 9

/-- Place the fields f at 23:23, a at 22:16, d at 14:9. -/
def packF1A7D6 (base : Nat) (f : Bool) (a : BitVec 7) (d : BitVec 6) : Nat :=
  base + flag f 23 + put a 16 + put d 9

/-- Place the fields e at 31:31, b at 30:24, f at 23:23, a at 22:16, d at 14:9. -/
def packE1B7F1A7D6 (base : Nat) (e : Bool) (b : BitVec 7) (f : Bool) (a : BitVec 7) (d : BitVec 6) : Nat :=
  base + flag e 31 + put b 24 + flag f 23 + put a 16 + put d 9

/-- Place the fields e at 31:31, b at 29:24, f at 23:23, a at 22:16, d at 14:9. -/
def packE1B6F1A7D6 (base : Nat) (e : Bool) (b : BitVec 6) (f : Bool) (a : BitVec 7) (d : BitVec 6) : Nat :=
  base + flag e 31 + put b 24 + flag f 23 + put a 16 + put d 9

/-- Place the fields e at 31:31, b at 29:24, f at 23:23, a at 21:16, d at 15:9. -/
def packE1B6F1A6D7 (base : Nat) (e : Bool) (b : BitVec 6) (f : Bool) (a : BitVec 6) (d : BitVec 7) : Nat :=
  base + flag e 31 + put b 24 + flag f 23 + put a 16 + put d 9

/-- Place the fields e at 31:31, b at 29:24, d at 14:10. -/
def packE1B6D5 (base : Nat) (e : Bool) (b : BitVec 6) (d : BitVec 5) : Nat :=
  base + flag e 31 + put b 24 + put d 10

/-- Place the fields e at 31:31, b at 27:24, f at 23:23, a at 19:16, d at 12:9. -/
def packE1B4F1A4D4 (base : Nat) (e : Bool) (b : BitVec 4) (f : Bool) (a : BitVec 4) (d : BitVec 4) : Nat :=
  base + flag e 31 + put b 24 + flag f 23 + put a 16 + put d 9

/-- Place the fields f at 23:23, a at 19:16, d at 14:10. -/
def packF1A4D5 (base : Nat) (f : Bool) (a : BitVec 4) (d : BitVec 5) : Nat :=
  base + flag f 23 + put a 16 + put d 10

/-- Place the fields f at 23:23, a at 21:17, d at 12:9. -/
def packF1A5D4 (base : Nat) (f : Bool) (a : BitVec 5) (d : BitVec 4) : Nat :=
  base + flag f 23 + put a 17 + put d 9

/-- Place the fields f at 23:23, a at 19:16, d at 14:9. -/
def packF1A4D6 (base : Nat) (f : Bool) (a : BitVec 4) (d : BitVec 6) : Nat :=
  base + flag f 23 + put a 16 + put d 9

/-- Place the fields n at 23:14, d at 13:7. -/
def packN10D7 (base : Nat) (n : BitVec 10) (d : BitVec 7) : Nat :=
  base + put n 14 + put d 7

/-- Place the fields n at 25:14, s at 13:8. -/
def packN12S6 (base : Nat) (n : BitVec 12) (s : BitVec 6) : Nat :=
  base + put n 14 + put s 8

/-- Place the fields i at 31:14, d at 13:7. -/
def packI18D7 (base : Nat) (i : BitVec 18) (d : BitVec 7) : Nat :=
  base + put i 14 + put d 7

/-- Place the fields i at 31:14, d at 12:7. -/
def packI18D6 (base : Nat) (i : BitVec 18) (d : BitVec 6) : Nat :=
  base + put i 14 + put d 7

/-- Place the fields e at 31:31, b at 30:24, f at 23:23, a at 21:16, d at 14:9. -/
def packE1B7F1A6D6 (base : Nat) (e : Bool) (b : BitVec 7) (f : Bool) (a : BitVec 6) (d : BitVec 6) : Nat :=
  base + flag e 31 + put b 24 + flag f 23 + put a 16 + put d 9

/-- Place the fields e at 31:31, b at 30:24, f at 23:23, a at 21:17, d at 14:10. -/
def packE1B7F1A5D5 (base : Nat) (e : Bool) (b : BitVec 7) (f : Bool) (a : BitVec 5) (d : BitVec 5) : Nat :=
  base + flag e 31 + put b 24 + flag f 23 + put a 17 + put d 10

/-- Place the fields o at 31:16. -/
def packO16 (base : Nat) (o : BitVec 16) : Nat :=
  base + put o 16

/-- Place the fields o at 31:16, a at 14:9. -/
def packO16A6 (base : Nat) (o : BitVec 16) (a : BitVec 6) : Nat :=
  base + put o 16 + put a 9

/-- Place the fields o at 31:16, a at 12:9. -/
def packO16A4 (base : Nat) (o : BitVec 16) (a : BitVec 4) : Nat :=
  base + put o 16 + put a 9

/-- Place the fields o at 31:16, a at 15:9. -/
def packO16A7 (base : Nat) (o : BitVec 16) (a : BitVec 7) : Nat :=
  base + put o 16 + put a 9

/-- Place the fields o at 31:16, a at 15:10. -/
def packO16A6' (base : Nat) (o : BitVec 16) (a : BitVec 6) : Nat :=
  base + put o 16 + put a 10

/-- Place the fields o at 31:16, a at 14:10. -/
def packO16A5 (base : Nat) (o : BitVec 16) (a : BitVec 5) : Nat :=
  base + put o 16 + put a 10

/-- Place the fields a at 15:10. -/
def packA6 (base : Nat) (a : BitVec 6) : Nat :=
  base + put a 10

/-- Place the fields c at 31:16. -/
def packC16 (base : Nat) (c : BitVec 16) : Nat :=
  base + put c 16

/-- Place the fields w at 17:16, x at 15:15, y at 14:14, z at 13:13, c at 12:7. -/
def packW2X1Y1Z1C6 (base : Nat) (w : BitVec 2) (x : Bool) (y : Bool) (z : Bool) (c : BitVec 6) : Nat :=
  base + put w 16 + flag x 15 + flag y 14 + flag z 13 + put c 7

/-- Place the fields n at 31:16. -/
def packN16 (base : Nat) (n : BitVec 16) : Nat :=
  base + put n 16

/-- Place the fields c at 17:16, a at 15:9. -/
def packC2A7 (base : Nat) (c : BitVec 2) (a : BitVec 7) : Nat :=
  base + put c 16 + put a 9

/-- Place the fields e at 31:31, b at 30:24. -/
def packE1B7 (base : Nat) (e : Bool) (b : BitVec 7) : Nat :=
  base + flag e 31 + put b 24

/-- Place the fields e at 31:31, b at 30:24, f at 23:23, a at 19:16. -/
def packE1B7F1A4 (base : Nat) (e : Bool) (b : BitVec 7) (f : Bool) (a : BitVec 4) : Nat :=
  base + flag e 31 + put b 24 + flag f 23 + put a 16

/-- Place the fields p at 26:25, m at 24:9. -/
def packP2M16 (base : Nat) (p : BitVec 2) (m : BitVec 16) : Nat :=
  base + put p 25 + put m 9

/-- Place the fields p at 16:15, b at 14:12, a at 11:9. -/
def packP2B3A3 (base : Nat) (p : BitVec 2) (b : BitVec 3) (a : BitVec 3) : Nat :=
  base + put p 15 + put b 12 + put a 9

/-- Place the fields e at 31:31, b at 29:24, f at 23:23, a at 21:16, d at 14:9. -/
def packE1B6F1A6D6' (base : Nat) (e : Bool) (b : BitVec 6) (f : Bool) (a : BitVec 6) (d : BitVec 6) : Nat :=
  base + flag e 31 + put b 24 + flag f 23 + put a 16 + put d 9

/-- Place the fields e at 31:31, b at 30:24, f at 23:23, a at 21:16. -/
def packE1B7F1A6 (base : Nat) (e : Bool) (b : BitVec 7) (f : Bool) (a : BitVec 6) : Nat :=
  base + flag e 31 + put b 24 + flag f 23 + put a 16

/-- Place the fields f at 23:23, a at 19:16, d at 11:9. -/
def packF1A4D3 (base : Nat) (f : Bool) (a : BitVec 4) (d : BitVec 3) : Nat :=
  base + flag f 23 + put a 16 + put d 9

/-- Place the fields d at 11:9. -/
def packD3 (base : Nat) (d : BitVec 3) : Nat :=
  base + put d 9

/-- Place the fields a at 18:16, d at 14:9. -/
def packA3D6 (base : Nat) (a : BitVec 3) (d : BitVec 6) : Nat :=
  base + put a 16 + put d 9

/-- Place the fields s at 31:30, o at 29:28, q at 27:24, a at 23:17, d at 16:10, z at 9:7. -/
def packS2O2Q4A7D7Z3 (base : Nat) (s : BitVec 2) (o : BitVec 2) (q : BitVec 4) (a : BitVec 7) (d : BitVec 7) (z : BitVec 3) : Nat :=
  base + put s 30 + put o 28 + put q 24 + put a 17 + put d 10 + put z 7

/-- Place the fields s at 31:30, o at 29:28, q at 27:24, a at 23:17, d at 16:10, p at 9:7. -/
def packS2O2Q4A7D7P3 (base : Nat) (s : BitVec 2) (o : BitVec 2) (q : BitVec 4) (a : BitVec 7) (d : BitVec 7) (p : BitVec 3) : Nat :=
  base + put s 30 + put o 28 + put q 24 + put a 17 + put d 10 + put p 7

/-- Place the fields q at 30:27, s at 26:22, t at 13:10. -/
def packQ4S5T4 (base : Nat) (q : BitVec 4) (s : BitVec 5) (t : BitVec 4) : Nat :=
  base + put q 27 + put s 22 + put t 10

/-- Place the fields s at 26:21, v at 20:14, t at 13:10. -/
def packS6V7T4 (base : Nat) (s : BitVec 6) (v : BitVec 7) (t : BitVec 4) : Nat :=
  base + put s 21 + put v 14 + put t 10

/-- Place the fields t at 13:10. -/
def packT4 (base : Nat) (t : BitVec 4) : Nat :=
  base + put t 10

/-- Place the fields s at 26:21, t at 13:10. -/
def packS6T4 (base : Nat) (s : BitVec 6) (t : BitVec 4) : Nat :=
  base + put s 21 + put t 10

/-- Place the fields c at 30:28, k at 27:22, d at 21:16, s at 15:10. -/
def packC3K6D6S6 (base : Nat) (c : BitVec 3) (k : BitVec 6) (d : BitVec 6) (s : BitVec 6) : Nat :=
  base + put c 28 + put k 22 + put d 16 + put s 10

/-- Place the fields c at 30:28, k at 27:22, s at 15:10. -/
def packC3K6S6 (base : Nat) (c : BitVec 3) (k : BitVec 6) (s : BitVec 6) : Nat :=
  base + put c 28 + put k 22 + put s 10

/-- Place the fields f at 31:28, c at 27:25, b at 24:18, a at 17:11, t at 10:7. -/
def packF4C3B7A7T4 (base : Nat) (f : BitVec 4) (c : BitVec 3) (b : BitVec 7) (a : BitVec 7) (t : BitVec 4) : Nat :=
  base + put f 28 + put c 25 + put b 18 + put a 11 + put t 7

/-- Place the fields b at 31:26, a at 25:20, r at 19:17, t at 16:13. -/
def packB6A6R3T4 (base : Nat) (b : BitVec 6) (a : BitVec 6) (r : BitVec 3) (t : BitVec 4) : Nat :=
  base + put b 26 + put a 20 + put r 17 + put t 13

/-- Place the fields d at 19:13. -/
def packD7 (base : Nat) (d : BitVec 7) : Nat :=
  base + put d 13

/-- Place the fields b at 31:26, a at 25:20, d at 19:13. -/
def packB6A6D7 (base : Nat) (b : BitVec 6) (a : BitVec 6) (d : BitVec 7) : Nat :=
  base + put b 26 + put a 20 + put d 13

/-- Place the fields b at 31:26, a at 25:21, d at 18:14. -/
def packB6A5D5 (base : Nat) (b : BitVec 6) (a : BitVec 5) (d : BitVec 5) : Nat :=
  base + put b 26 + put a 21 + put d 14

/-- Place the fields b at 31:27, a at 25:20, d at 18:14. -/
def packB5A6D5 (base : Nat) (b : BitVec 5) (a : BitVec 6) (d : BitVec 5) : Nat :=
  base + put b 27 + put a 20 + put d 14

/-- Place the fields b at 31:27, a at 25:21, d at 18:14. -/
def packB5A5D5 (base : Nat) (b : BitVec 5) (a : BitVec 5) (d : BitVec 5) : Nat :=
  base + put b 27 + put a 21 + put d 14

/-- Place the fields b at 31:26, a at 25:20, d at 18:14. -/
def packB6A6D5 (base : Nat) (b : BitVec 6) (a : BitVec 6) (d : BitVec 5) : Nat :=
  base + put b 26 + put a 20 + put d 14

/-- Place the fields b at 31:26, a at 25:21. -/
def packB6A5 (base : Nat) (b : BitVec 6) (a : BitVec 5) : Nat :=
  base + put b 26 + put a 21

/-- Place the fields a at 25:20, d at 18:13. -/
def packA6D6 (base : Nat) (a : BitVec 6) (d : BitVec 6) : Nat :=
  base + put a 20 + put d 13

/-- Place the fields b at 31:26, a at 25:20, d at 18:13. -/
def packB6A6D6 (base : Nat) (b : BitVec 6) (a : BitVec 6) (d : BitVec 6) : Nat :=
  base + put b 26 + put a 20 + put d 13

/-- Place the fields a at 25:21, d at 19:13. -/
def packA5D7 (base : Nat) (a : BitVec 5) (d : BitVec 7) : Nat :=
  base + put a 21 + put d 13

/-- Place the fields b at 31:26, a at 25:21, d at 18:13. -/
def packB6A5D6 (base : Nat) (b : BitVec 6) (a : BitVec 5) (d : BitVec 6) : Nat :=
  base + put b 26 + put a 21 + put d 13

/-- Place the fields d at 18:13. -/
def packD6 (base : Nat) (d : BitVec 6) : Nat :=
  base + put d 13

/-- Place the fields a at 25:20. -/
def packA6' (base : Nat) (a : BitVec 6) : Nat :=
  base + put a 20

/-- Place the fields a at 25:21. -/
def packA5 (base : Nat) (a : BitVec 5) : Nat :=
  base + put a 21

/-- The word of an instruction, from the encoding tables of 02; an event has none. -/
def encodeWord : Instr → Option Nat
  | .movH a d f => some (packA5D5F1 0x0 a d f)
  | .notH a d f => some (packA5D5F1 0x2 a d f)
  | .iaddH a d f => some (packA5D5F1 0x4 a d f)
  | .isubH a d f => some (packA5D5F1 0x6 a d f)
  | .imulH a d f => some (packA5D5F1 0x8 a d f)
  | .andH a d f => some (packA5D5F1 0xA a d f)
  | .orH a d f => some (packA5D5F1 0xC a d f)
  | .xorH a d f => some (packA5D5F1 0xE a d f)
  | .shlH a d f => some (packA5D5F1 0x10 a d f)
  | .shrH a d f => some (packA5D5F1 0x12 a d f)
  | .sarH a d f => some (packA5D5F1 0x14 a d f)
  | .faddH a d f => some (packA5D5F1 0x16 a d f)
  | .fsubH a d f => some (packA5D5F1 0x18 a d f)
  | .fmulH a d f => some (packA5D5F1 0x1A a d f)
  | .fmaxH a d f => some (packA5D5F1 0x1C a d f)
  | .fminH a d f => some (packA5D5F1 0x1E a d f)
  | .iadd e b f a d => some (packE1B7F1A7D7 0x1 e b f a d)
  | .isub e b f a d => some (packE1B7F1A7D7 0x81 e b f a d)
  | .iadds e b f a d => some (packE1B7F1A7D7 0x101 e b f a d)
  | .isubs e b f a d => some (packE1B7F1A7D7 0x181 e b f a d)
  | .iaddi e b f a d => some (packE1B7F1A7D7 0x3 e b f a d)
  | .isubi e b f a d => some (packE1B7F1A7D7 0x83 e b f a d)
  | .iaddsi e b f a d => some (packE1B7F1A7D7 0x103 e b f a d)
  | .isubsi e b f a d => some (packE1B7F1A7D7 0x183 e b f a d)
  | .imul e b f a d => some (packE1B7F1A7D7 0x5 e b f a d)
  | .imulhi e b f a d => some (packE1B7F1A7D7 0x85 e b f a d)
  | .imulhin e b f a d => some (packE1B7F1A7D7 0x105 e b f a d)
  | .imad e b f a d => some (packE1B7F1A7D7 0x185 e b f a d)
  | .and e b f a d => some (packE1B7F1A7D7 0x7 e b f a d)
  | .or e b f a d => some (packE1B7F1A7D7 0x87 e b f a d)
  | .xor e b f a d => some (packE1B7F1A7D7 0x107 e b f a d)
  | .andn e b f a d => some (packE1B7F1A7D7 0x187 e b f a d)
  | .andI e b f a d => some (packE1B7F1A7D7 0x9 e b f a d)
  | .orI e b f a d => some (packE1B7F1A7D7 0x89 e b f a d)
  | .xorI e b f a d => some (packE1B7F1A7D7 0x109 e b f a d)
  | .andnI e b f a d => some (packE1B7F1A7D7 0x189 e b f a d)
  | .shl e b f a d => some (packE1B7F1A7D7 0xB e b f a d)
  | .shr e b f a d => some (packE1B7F1A7D7 0x8B e b f a d)
  | .sar e b f a d => some (packE1B7F1A7D7 0x10B e b f a d)
  | .rol e b f a d => some (packE1B7F1A7D7 0x18B e b f a d)
  | .min e b f a d => some (packE1B7F1A7D7 0xD e b f a d)
  | .max e b f a d => some (packE1B7F1A7D7 0x8D e b f a d)
  | .minn e b f a d => some (packE1B7F1A7D7 0x10D e b f a d)
  | .maxn e b f a d => some (packE1B7F1A7D7 0x18D e b f a d)
  | .icmpEq e b f a d => some (packE1B7F1A7D4 0xF e b f a d)
  | .icmpNe e b f a d => some (packE1B7F1A7D4 0x8F e b f a d)
  | .icmpLt e b f a d => some (packE1B7F1A7D4 0x10F e b f a d)
  | .icmpLe e b f a d => some (packE1B7F1A7D4 0x18F e b f a d)
  | .icmpLtn e b f a d => some (packE1B7F1A7D4 0x11 e b f a d)
  | .icmpLen e b f a d => some (packE1B7F1A7D4 0x91 e b f a d)
  | .icmpTst e b f a d => some (packE1B7F1A7D4 0x111 e b f a d)
  | .icmpTstn e b f a d => some (packE1B7F1A7D4 0x191 e b f a d)
  | .icmpEqI e b f a d => some (packE1B7F1A7D4 0x13 e b f a d)
  | .icmpNeI e b f a d => some (packE1B7F1A7D4 0x93 e b f a d)
  | .icmpLtI e b f a d => some (packE1B7F1A7D4 0x113 e b f a d)
  | .icmpLeI e b f a d => some (packE1B7F1A7D4 0x193 e b f a d)
  | .popc f a d => some (packF1A7D7 0x15 f a d)
  | .clz f a d => some (packF1A7D7 0x95 f a d)
  | .brev f a d => some (packF1A7D7 0x115 f a d)
  | .ctz f a d => some (packF1A7D7 0x195 f a d)
  | .bfxn e b f a d => some (packE1B7F1A7D7 0x17 e b f a d)
  | .bfxs e b f a d => some (packE1B7F1A7D7 0x97 e b f a d)
  | .bfi e b f a d => some (packE1B7F1A7D7 0x117 e b f a d)
  | .bshuf e b f a d => some (packE1B7F1A7D7 0x197 e b f a d)
  | .sel e b k a d => some (packE1B7K3A7D7 0x19 e b k a d)
  | .fadd e b f a d => some (packE1B7F1A7D7 0x1B e b f a d)
  | .fsub e b f a d => some (packE1B7F1A7D7 0x9B e b f a d)
  | .fmin e b f a d => some (packE1B7F1A7D7 0x11B e b f a d)
  | .fmax e b f a d => some (packE1B7F1A7D7 0x19B e b f a d)
  | .fmul e b f a d => some (packE1B7F1A7D7 0x1D e b f a d)
  | .ffma e b f a d => some (packE1B7F1A7D7 0x9D e b f a d)
  | .ffms e b f a d => some (packE1B7F1A7D7 0x11D e b f a d)
  | .ffnma e b f a d => some (packE1B7F1A7D7 0x19D e b f a d)
  | .faddS e b f a d => some (packE1B6F1A7D7 0x1F e b f a d)
  | .fsubS e b f a d => some (packE1B6F1A7D7 0x9F e b f a d)
  | .fminS e b f a d => some (packE1B6F1A7D7 0x11F e b f a d)
  | .fmaxS e b f a d => some (packE1B6F1A7D7 0x19F e b f a d)
  | .fmulS e b f a d => some (packE1B6F1A7D7 0x21 e b f a d)
  | .ffmaS e b f a d => some (packE1B6F1A7D7 0xA1 e b f a d)
  | .ffmsS e b f a d => some (packE1B6F1A7D7 0x121 e b f a d)
  | .ffnmaS e b f a d => some (packE1B6F1A7D7 0x1A1 e b f a d)
  | .fcmpEq e b f a d => some (packE1B7F1A7D4 0x23 e b f a d)
  | .fcmpLt e b f a d => some (packE1B7F1A7D4 0xA3 e b f a d)
  | .fcmpLe e b f a d => some (packE1B7F1A7D4 0x123 e b f a d)
  | .fcmpUno e b f a d => some (packE1B7F1A7D4 0x1A3 e b f a d)
  | .fabs f a d => some (packF1A7D7 0x25 f a d)
  | .fneg f a d => some (packF1A7D7 0xA5 f a d)
  | .ffloor f a d => some (packF1A7D7 0x125 f a d)
  | .fceil f a d => some (packF1A7D7 0x1A5 f a d)
  | .rcp f a d => some (packF1A7D7 0x27 f a d)
  | .rsq f a d => some (packF1A7D7 0xA7 f a d)
  | .ex2 f a d => some (packF1A7D7 0x127 f a d)
  | .lg2 f a d => some (packF1A7D7 0x1A7 f a d)
  | .sin f a d => some (packF1A7D7 0x29 f a d)
  | .cos f a d => some (packF1A7D7 0xA9 f a d)
  | .sqrt f a d => some (packF1A7D7 0x129 f a d)
  | .tanh f a d => some (packF1A7D7 0x1A9 f a d)
  | .hadd2 e b f a d => some (packE1B7F1A7D7 0x2B e b f a d)
  | .hmul2 e b f a d => some (packE1B7F1A7D7 0xAB e b f a d)
  | .hfma2 e b f a d => some (packE1B7F1A7D7 0x12B e b f a d)
  | .hmax2 e b f a d => some (packE1B7F1A7D7 0x1AB e b f a d)
  | .badd2 e b f a d => some (packE1B7F1A7D7 0x2D e b f a d)
  | .bmul2 e b f a d => some (packE1B7F1A7D7 0xAD e b f a d)
  | .bfma2 e b f a d => some (packE1B7F1A7D7 0x12D e b f a d)
  | .bmax2 e b f a d => some (packE1B7F1A7D7 0x1AD e b f a d)
  | .dadd e b f a d => some (packE1B6F1A6D6 0x2F e b f a d)
  | .dmul e b f a d => some (packE1B6F1A6D6 0xAF e b f a d)
  | .dfma e b f a d => some (packE1B6F1A6D6 0x12F e b f a d)
  | .dmin e b f a d => some (packE1B6F1A6D6 0x1AF e b f a d)
  | .cvt b f a d r => some (packB7F1A7D7R2 0x31 b f a d r)
  | .pack8 b f a d => some (packB6F1A5D7 0x33 b f a d)
  | .unpk8 b f a d => some (packB6F1A7D5 0xB3 b f a d)
  | .pack4 b f a d => some (packB6F1A4D7 0x133 b f a d)
  | .unpk4 b f a d => some (packB6F1A7D4 0x1B3 b f a d)
  | .shfl e b f a d => some (packE1B7F1A7D7 0x35 e b f a d)
  | .shflx e b f a d => some (packE1B7F1A7D7 0xB5 e b f a d)
  | .shflu e b f a d => some (packE1B7F1A7D7 0x135 e b f a d)
  | .shfld e b f a d => some (packE1B7F1A7D7 0x1B5 e b f a d)
  | .ballot f a d => some (packF1A7D4 0x37 f a d)
  | .vredAdd f a d => some (packF1A7D6 0xB7 f a d)
  | .vredFadd f a d => some (packF1A7D6 0x137 f a d)
  | .vredFmax f a d => some (packF1A7D6 0x1B7 f a d)
  | .bcast e b f a d => some (packE1B7F1A7D7 0x39 e b f a d)
  | .rdlane e b f a d => some (packE1B7F1A7D6 0xB9 e b f a d)
  | .rdx e b f a d => some (packE1B6F1A7D7 0x139 e b f a d)
  | .wrx e b f a d => some (packE1B6F1A7D7 0x1B9 e b f a d)
  | .lrd e b f a d => some (packE1B6F1A7D6 0x3B e b f a d)
  | .lwr e b f a d => some (packE1B6F1A6D7 0xBB e b f a d)
  | .lmeet e b d => some (packE1B6D5 0x13B e b d)
  | .lpc e b d => some (packE1B6D5 0x1BB e b d)
  | .kand e b f a d => some (packE1B4F1A4D4 0x3D e b f a d)
  | .kor e b f a d => some (packE1B4F1A4D4 0xBD e b f a d)
  | .kxor e b f a d => some (packE1B4F1A4D4 0x13D e b f a d)
  | .kandn e b f a d => some (packE1B4F1A4D4 0x1BD e b f a d)
  | .k2s f a d => some (packF1A4D5 0x3F f a d)
  | .s2k f a d => some (packF1A5D4 0xBF f a d)
  | .kpopc f a d => some (packF1A4D6 0x13F f a d)
  | .kffs f a d => some (packF1A4D6 0x1BF f a d)
  | .srd n d => some (packN10D7 0x41 n d)
  | .crd n s => some (packN12S6 0x43 n s)
  | .cwr n s => some (packN12S6 0xC3 n s)
  | .moviV i d => some (packI18D7 0x45 i d)
  | .moviS i d => some (packI18D6 0x47 i d)
  | .movihS i d => some (packI18D6 0x2047 i d)
  | .addiS i d => some (packI18D6 0x49 i d)
  | .sadd e b f a d => some (packE1B7F1A6D6 0x4B e b f a d)
  | .ssub e b f a d => some (packE1B7F1A6D6 0xCB e b f a d)
  | .smul e b f a d => some (packE1B7F1A6D6 0x14B e b f a d)
  | .sand e b f a d => some (packE1B7F1A6D6 0x1CB e b f a d)
  | .sor e b f a d => some (packE1B7F1A6D6 0x4D e b f a d)
  | .sxor e b f a d => some (packE1B7F1A6D6 0xCD e b f a d)
  | .sshl e b f a d => some (packE1B7F1A6D6 0x14D e b f a d)
  | .sshr e b f a d => some (packE1B7F1A6D6 0x1CD e b f a d)
  | .seq e b f a d => some (packE1B7F1A6D6 0x4F e b f a d)
  | .sne e b f a d => some (packE1B7F1A6D6 0xCF e b f a d)
  | .slt e b f a d => some (packE1B7F1A6D6 0x14F e b f a d)
  | .sltn e b f a d => some (packE1B7F1A6D6 0x1CF e b f a d)
  | .sadd64 e b f a d => some (packE1B7F1A5D5 0x51 e b f a d)
  | .ssub64 e b f a d => some (packE1B7F1A5D5 0xD1 e b f a d)
  | .smulw e b f a d => some (packE1B7F1A5D5 0x151 e b f a d)
  | .sshl64 e b f a d => some (packE1B7F1A5D5 0x1D1 e b f a d)
  | .br o => some (packO16 0x53 o)
  | .brz o a => some (packO16A6 0xD3 o a)
  | .brnz o a => some (packO16A6 0x153 o a)
  | .brneg o a => some (packO16A6 0x1D3 o a)
  | .brk o a => some (packO16A4 0x55 o a)
  | .brkn o a => some (packO16A4 0xD5 o a)
  | .brv o a => some (packO16A7 0x155 o a)
  | .brvz o a => some (packO16A7 0x1D5 o a)
  | .setmeet o a => some (packO16A6' 0x57 o a)
  | .jmp o a => some (packO16A5 0x59 o a)
  | .call o a => some (packO16A5 0xD9 o a)
  | .jmpv o a => some (packO16A6' 0x159 o a)
  | .rstmeet a => some (packA6 0x1D9 a)
  | .exit => some 0x5B
  | .trap c => some (packC16 0xDB c)
  | .breakI c => some (packC16 0x15B c)
  | .rtrap => some 0x1DB
  | .rep w x y z c => some (packW2X1Y1Z1C6 0x5D w x y z c)
  | .repack => some 0x5F
  | .yield => some 0xDF
  | .sleep n => some (packN16 0x15F n)
  | .waitf c a => some (packC2A7 0x1DF c a)
  | .bar e b => some (packE1B7 0x61 e b)
  | .barm e b f a => some (packE1B7F1A4 0xE1 e b f a)
  | .arrive e b => some (packE1B7 0x161 e b)
  | .wait e b => some (packE1B7 0x1E1 e b)
  | .fenceS p m => some (packP2M16 0x63 p m)
  | .fenceP p b a => some (packP2B3A3 0xE3 p b a)
  | .fenceA => some 0x163
  | .zbar e b => some (packE1B7 0x65 e b)
  | .zbcast e b f a d => some (packE1B7F1A6D6 0xE5 e b f a d)
  | .zred e b f a d => some (packE1B6F1A6D6' 0x165 e b f a d)
  | .zsig e b f a => some (packE1B7F1A6 0x1E5 e b f a)
  | .cdecl f a d => some (packF1A4D3 0x67 f a d)
  | .crst d => some (packD3 0xE7 d)
  | .cqry a d => some (packA3D6 0x167 a d)
  | .ld s o q a d z => some (packS2O2Q4A7D7Z3 0x69 s o q a d z)
  | .st s o q a d z => some (packS2O2Q4A7D7Z3 0x6B s o q a d z)
  | .lds s o q a d z => some (packS2O2Q4A7D7Z3 0x6D s o q a d z)
  | .sts s o q a d z => some (packS2O2Q4A7D7Z3 0x6F s o q a d z)
  | .atom32 s o q a d p => some (packS2O2Q4A7D7P3 0x71 s o q a d p)
  | .atom64 s o q a d p => some (packS2O2Q4A7D7P3 0x73 s o q a d p)
  | .tld q s t => some (packQ4S5T4 0x75 q s t)
  | .tst q s t => some (packQ4S5T4 0xF5 q s t)
  | .trdr s v t => some (packS6V7T4 0x175 s v t)
  | .trdc s v t => some (packS6V7T4 0x1F5 s v t)
  | .twrr s v t => some (packS6V7T4 0x275 s v t)
  | .twrc s v t => some (packS6V7T4 0x2F5 s v t)
  | .tzero t => some (packT4 0x375 t)
  | .tmov s t => some (packS6T4 0x3F5 s t)
  | .cpy c k d s => some (packC3K6D6S6 0x77 c k d s)
  | .cpymc c k d s => some (packC3K6D6S6 0xF7 c k d s)
  | .cpysp c k d s => some (packC3K6D6S6 0x177 c k d s)
  | .cpyg c k d s => some (packC3K6D6S6 0x1F7 c k d s)
  | .pref c k s => some (packC3K6S6 0x277 c k s)
  | .mma f c b a t => some (packF4C3B7A7T4 0x79 f c b a t)
  | .view b a r t => some (packB6A6R3T4 0x7D b a r t)
  | .vret d => some (packD7 0xFD d)
  | .trace b a d => some (packB6A6D7 0x27D b a d)
  | .traces b a d => some (packB6A6D7 0x2FD b a d)
  | .tret => some 0x37D
  | .rast b a d => some (packB6A6D7 0x3FD b a d)
  | .snaphash b a d => some (packB6A5D5 0x47D b a d)
  | .snapfind b a d => some (packB6A5D5 0x4FD b a d)
  | .snapget b a d => some (packB5A6D5 0x57D b a d)
  | .snapdep b a d => some (packB5A5D5 0x5FD b a d)
  | .snaprel b a d => some (packB6A6D5 0x67D b a d)
  | .tidset b a => some (packB6A5 0x87D b a)
  | .tidrd a d => some (packA6D6 0x8FD a d)
  | .wpos a d => some (packA6D6 0x97D a d)
  | .tdef b a d => some (packB6A6D6 0xA7D b a d)
  | .tdec b a d => some (packB6A6D6 0xAFD b a d)
  | .twait b a d => some (packB6A6D6 0xB7D b a d)
  | .spawn a d => some (packA5D7 0xC7D a d)
  | .cred b a d => some (packB6A5D6 0xD7D b a d)
  | .cbcast b a d => some (packB6A5D6 0xDFD b a d)
  | .lull => some 0x107D
  | .dump d => some (packD6 0x10FD d)
  | .dstep a => some (packA6' 0x117D a)
  | .dres a => some (packA5 0x11FD a)
  | .loadFill ..
  | .memoryAccessPerform ..
  | .pageWalkComplete ..
  | .patrolScrub ..
  | .compareComplete ..
  | .sfuComplete ..
  | .tldComplete ..
  | .mmaStart ..
  | .mmaComplete ..
  | .rastComplete ..
  | .traceAdmit ..
  | .tradeQueueServe ..
  | .rayComplete ..
  | .traceRecordFill ..
  | .viewSlotGrant ..
  | .viewRayCast ..
  | .viewComplete ..
  | .shadingGroupForm ..
  | .snaphashComplete ..
  | .snapfindSearch ..
  | .snapgetCopy ..
  | .snapdepAllocate ..
  | .snapdepLink ..
  | .snaprelApply ..
  | .flitArrive ..
  | .copySectorDeliver ..
  | .copyComplete ..
  | .twaitLimitExpiry ..
  | .binTimerExpiry ..
  | .binGroupForm ..
  | .barrierPhaseComplete ..
  | .repackFire ..
  | .zephyrArrivalRecord ..
  | .zephyrComplete ..
  | .collectiveComplete ..
  | .groupRetire ..
  | .teamRetire ..
  | .gridEnd ..
  | .sleepExpiry ..
  | .yieldExpiry ..
  | .handlerEntry ..
  | .pcMatch ..
  | .packetStart ..
  | .packetComplete ..
  | .barrierPacketRound ..
  | .packetCopySector ..
  | .teamPlace ..
  | .clusterSteal ..
  | .dieSteal ..
  | .faultRecordWrite ..
  | .lullWaveStop ..
  | .haltFlitArrive ..
  | .debugSlotStart ..
  | .jobResume ..
  | .dumpComplete ..
  | .sampleTake ..
  | .timeSliceExpiry ..
  | .drainComplete ..
  | .drainDeadlineExpiry ..
  | .tlbinvGo ..
  | .tlbinvComplete ..
  | .queueEnable ..
  | .queueReenable ..
  | .queueDisable ..
  | .queueDisableDone ..
  | .qdoor ..
  | .treeCreate ..
  | .treeDiscard ..
  | .treeDiscardFree ..
  | .fqresume ..
  | .preemptRequest ..
  | .preset ..
  | .vfFunctionLevelReset ..
  | .partitionResetComplete ..
  | .deviceReset
  | .deviceResetComplete
  | .hostLinkLost
  | .cxlLinkDown ..
  | .peerRequest ..
  | .peerRefusal ..
  | .peerResponseTimeout ..
  | .dbgcmdLull ..
  | .dbgcmdDstep ..
  | .dbgcmdDres ..
  | .dbgRegRead ..
  | .dbgRegWrite ..
  | .dbgRegForceWrite ..
  | .contextLoad ..
  | .contextLoadDone ..
  | .contextUnload ..
  | .contextUnloadDone ..
  | .craccRead ..
  | .craccWrite ..
  | .stallCounterClear ..
  | .barRegisterWrite ..
  | .mcBoot
  | .pldmMonitoring ..
  | .pldmFirmwareUpdate ..
  | .recoveryImageLoad ..
  | .getVersion
  | .getCapabilities
  | .negotiateAlgorithms ..
  | .getDigests
  | .getCertificate ..
  | .challenge ..
  | .getMeasurements ..
  | .mcSetPartitionConfig ..
  | .mcSetDomainKey ..
  | .mcSetPackageId ..
  | .mcSetEsnodes ..
  | .mcDeviceReset
  | .mcCrAccess ..
  | .illegalInstruction ..
  | .cycleWithNoEligibleGroup ..
  | .participatingPackageUnreachable ..
  | .hostRequestToDeviceMemory ..
  | .configurationWrite ..
  | .devicePowerOn => none

/-- The bytes of an instruction as memory holds them (02 R41, 00 R11). -/
def encode (i : Instr) : Option (List Byte) :=
  (encodeWord i).map fun w => leBytes (if w % 2 = 0 then 2 else 4) w

/-- The instruction that the decoder reads from a word numbered as the opcode table numbers its bits: the first halfword
is bits 15:0. A word of one halfword has every later bit 0. -/
def decodeTableWord (nbits w : Nat) : Option Instr :=
  match decode (leBytes 4 (w % 2 ^ nbits)) with
  | .instr i _ => some i
  | _ => none

end Sys2Proof
end

