-- ==== Sys2Proof/Config.lean ====
section
/-! DEFINITION. What the manual leaves open and an implementation fixes, as constants without a body: no proof can see
their values. -/

namespace Sys2Proof.Config

/-- Which value within the 2 ulp bound a special function returns (07 R164): function, operand; the model takes it modulo
the number of values the bound admits. -/
opaque sfuChoice (fn : Nat) (x : BitVec 32) : Nat

/-- What a result register holds where the manual states no value for it: the fill of a failed snapshot operation (12 R247,
R248); the number is fresh. -/
opaque openWord (n : Nat) : BitVec 32

/-- Certificates, digests, signatures and other words the management controller answers with (22 R380). -/
opaque mgmtWord (kind index : Nat) : BitVec 64

/-- Temperatures, power and link state (22 R379). -/
opaque sensor (index : Nat) (cycle : BitVec 64) : BitVec 64

/-- What another package's memory holds, as an engine's read of it returns (22 R378): package, offset and cycle. -/
opaque peerByte (pkg off : Nat) (cycle : BitVec 64) : BitVec 8

/-- What becomes of an engine's request to another package (22 R378): 1 it is refused, 2 no response comes, else it is answered. -/
opaque peerOutcome (pkg off : Nat) (cycle : BitVec 64) : Nat

end Sys2Proof.Config
end

