-- ==== Sys2Proof/Machine/State.lean ====
section
/-! DEFINITION. The state of an FZ9 package: everything the manual gives the machine, as plain data, and the state after
reset. Fields the model adds for itself (an order of agents, unique numbers, work in progress) say so. -/

namespace Sys2Proof.Machine

/-- A register of a group by class and number (02 R35). -/
inductive Reg where
  | v (n : Nat) | s (n : Nat) | k (n : Nat) | t (n : Nat)
  deriving DecidableEq, Repr

/-- The three states of a lane (01 R15). -/
inductive LaneSt where
  | live | exited | never
  deriving DecidableEq, Repr

/-- Why a lane waits at its instruction (13 R264 to R269, R279). -/
inductive Hold where
  /-- At a REPACK (01 R26). -/
  | repack
  /-- At a BAR until a phase completes; then it goes on (13 R266). -/
  | bar (n phase : Nat)
  /-- At a BAR or ARRIVE it is marked for already; it issues it again when the phase completes (13 R266). -/
  | again (n phase : Nat)
  /-- At a WAIT until the phase of its mark completes (13 R266). -/
  | wait (n phase : Nat)
  /-- At a BARM with the mask it recorded, and the number below which its accesses are earlier (13 R267, 04 R104). -/
  | barm (n : Nat) (m : Mask) (bound : Nat)
  /-- At a Zephyr operation: function and ID (13 R269). -/
  | zephyr (fn id : Nat)
  /-- At a collective (13 R279). -/
  | collective (id : Nat)
  /-- A signer at its MMA: the convergence register (09 R198). -/
  | sign (c : Nat)
  deriving DecidableEq, Repr

/-- In which streams a thread's later accesses follow an acquire, and in which they follow a fence or a barrier pass, which order
accesses on UO pages too (04 R97 to R104); and the operations whose bytes it has acquired, each up to a number of bytes of its image (06
R136, 12 R258, 13 R281). -/
structure Sync where
  acq : BitVec 16
  all : BitVec 16
  saw : List (Nat × Nat)
  deriving DecidableEq, Repr

/-- A lane of a group with its thread's own state (01 R13, R15, R17, R23). The group's list of lanes is its lane remapping
table: entry k is the thread in lane k, exited, or NONE (08 R175). -/
structure Lane where
  st : LaneSt
  /-- The model's own: the thread's number, never used twice. -/
  tid : Nat
  orig : Word
  pc : DWord
  meet : DWord
  /-- Released from its meeting point and not yet gone from it (01 R19). -/
  rel : Bool
  age : Nat
  parked : Bool
  hold : Option Hold
  /-- Barrier marks: the last phase in which the thread issued BAR or ARRIVE (13 R266). -/
  marks : Tab Nat
  /-- The barrier passes the thread's later accesses must follow (04 R97, R104), counted. -/
  passes : Nat
  sync : Sync
  /-- The repeat at which RTRAP resumes a REP at the lane's PC (02 R57). -/
  resume : Option Nat
  /-- What a shading thread shades: its ray (closest hit) or view slot and pixel (10 R217, 11 R229). -/
  shade : Option (Nat × Nat)
  deriving DecidableEq, Repr

/-- A REP in progress (02 R54, R55): its address, the active set, the next repeat, the count, the target's length, the
stride and which of the fields d, a and b are stepped. -/
structure Rep where
  pc : DWord
  mask : Mask
  idx : Nat
  count : Nat
  tlen : Nat
  stride : Nat
  stepD : Bool
  stepA : Bool
  stepB : Bool
  deriving DecidableEq, Repr

/-- A parked sub-warp (18 R317). -/
structure Parked where
  mask : Mask
  pc : DWord
  cause : Nat
  code : Word
  info : Word
  va : DWord
  rep : Option Nat
  deriving DecidableEq, Repr

/-- The trap handler running in a group's slot (18 R318, R319, R323). -/
structure Handling where
  lane : Nat
  pc : DWord
  /-- The cycle of the job in which it was entered (16 R308). -/
  entered : Nat
  issues : Nat
  rep : Option Rep
  /-- The restartable fault record that stops it (18 R320). -/
  stopped : Option Nat
  /-- The first cycle of the job in which it may issue. -/
  start : Nat
  /-- A YIELD of the handler, as the group's own. -/
  yield : Option (Nat × List Nat)
  deriving DecidableEq, Repr

/-- A VIEW or TRACE waiting for its pool (10 R216, 11 R227, R235): its address, its place in the order of waits, whether it is a VIEW, and
whether the pool was empty when its wait began. -/
structure Block where
  pc : DWord
  order : Nat
  view : Bool
  empty : Bool
  deriving DecidableEq, Repr

/-- What a group is: of a launch or bin, closest-hit shading, view shading, or the debug slot (10 R217, 11 R229, 20 R343). -/
inductive GKind where
  | ordinary | closestHit | viewShade | debug
  deriving DecidableEq, Repr

/-- A convergence register (09 R194). -/
structure Conv where
  members : Mask
  signed : Mask
  word : Word
  declared : Bool
  deriving DecidableEq, Repr

/-- Accesses an event must follow: those of these threads with numbers below a bound (the model's own). -/
structure Tok where
  tids : List Nat
  bound : Nat
  /-- The operations whose bytes the threads had acquired. -/
  saw : List (Nat × Nat) := []
  deriving DecidableEq, Repr

/-- A lane set waiting at a Zephyr operation, with what its last issue read (13 R269). -/
structure ZWait where
  id : Nat
  fn : Nat
  bv : Word
  val : Word
  d : Nat
  /-- The destination of the operation at each address at which lanes wait. -/
  ds : List (DWord × Nat)
  time : Nat
  tok : Tok
  deriving DecidableEq, Repr

/-- Registers that a producer has filled, whose first reader acquires (23 R385): every LS stream, or the bytes that an operation wrote; for
which lanes, where a REPACK has put them together with others (01 R28). -/
structure Acquire where
  regs : List Reg
  op : Option Nat
  lanes : Mask
  deriving DecidableEq, Repr

/-- A group of 16, 32 or 64 lanes (01 R14, R25; 02 R35). -/
structure Group where
  /-- The model's own: the group's number in order of formation; and the cycle of the job in which it was formed (16 R308). -/
  uid : Nat
  formed : Nat
  kind : GKind
  part : Nat
  width : Nat
  nv : Nat
  ns : Nat
  nt : Nat
  level : Nat
  /-- The owning team (the model's number) and the group's number in it (01 R21, R25). -/
  team : Nat
  gnum : Word
  lanes : List Lane
  /-- Vector registers, by register × 64 + lane (02 R35). -/
  v : Store 32
  /-- Scalars, by number; the message registers s60 to s63 lie below (02 R37). -/
  s : Store 32
  /-- Masks k1 to k15; k0 is the live mask (02 R37). -/
  k : Store 64
  /-- Tile words, by tile × 1024 + row × 32 + column (02 R35). -/
  t : Store 32
  /-- The registers whose full/empty bit says empty (02 R38). -/
  empty : List Reg
  /-- Convergence registers that are not at their reset (09 R194). -/
  conv : Tab Conv
  /-- Group-scope control registers by number: STRCFG, FPEXCEN, FPFLAGS and the trap frame (02 R39). -/
  crs : Store 32
  msgDst : Word
  msgSrc : Word
  /-- The receive queue, oldest first: payload and sender (13 R275). -/
  rxq : List (Word × Word)
  /-- The model's own: the payload the current issue claimed. -/
  rx : Word
  /-- The high word that SRD of CLOCKLO last latched (08 R192). -/
  clockHi : Option Word
  waitc : Nat
  /-- SLEEP: the first cycle of the job in which the group may be eligible again; 0 when it does not sleep (13 R264). -/
  sleep : Nat
  /-- YIELD: its limit's cycle, and the groups that have yet to issue or to cease to be eligible (13 R264). -/
  yield : Option (Nat × List Nat)
  /-- The issue PC at which the group waits without choosing another (01 R18). -/
  waitPc : Option DWord
  /-- Meeting values whose released threads issue next, in order (01 R19). -/
  relq : List DWord
  /-- Signers whose MMA a member's EXIT brings about: the group's next issues, with their address (09 R200). -/
  forced : List (DWord × Mask)
  parked : List Parked
  handling : Option Handling
  /-- The first cycle in which the handler may be entered (18 R318). -/
  enterAt : Nat
  rep : Option Rep
  /-- Pass-once flag of the PC comparators (20 R345), and whether the group was stopped by a match. -/
  passOnce : Option DWord
  matched : Bool
  /-- The restartable fault record that stops its ordinary issue (03 R75). -/
  stopped : Option Nat
  /-- The operation that completes before the ordinary class issues anything further (05 R110). -/
  serial : Option Nat
  /-- A TWAIT in progress: its address, its limit's cycle and the expiry (06 R141). -/
  twait : Option (DWord × Nat × Bool)
  /-- The stall reason of the group's last wait (20 R361). -/
  why : Nat
  block : Option Block
  zwaits : List ZWait
  /-- Spawn arrivals whose releases the group's formation acquired; unused once formed (the model's own). -/
  toks : List Tok
  /-- Fills whose first reader acquires (23 R385). -/
  acquires : List Acquire
  /-- Registers that hold a parity error, each with its lane, 0 where it is no vector register (03 R82). -/
  bad : List (Reg × Nat)
  deriving DecidableEq, Repr

/-- The two handler classes and the ordinary class of an issue (16 R308). -/
inductive Cls where
  | ordinary | handler | debug
  deriving DecidableEq, Repr

/-- The issue that is being made (the model's own): which group, which class, where, for which lanes. -/
structure Cur where
  gid : Nat
  cls : Cls
  pc : DWord
  mask : Mask
  len : Nat
  /-- The clocks that the issue holds its scheduler partition, whatever becomes of it (01 R14, R389). -/
  cost : Nat
  /-- The issue is a repeat of the target of a REP. -/
  rep : Bool
  /-- The operation whose claimed flit this issue completes (13 R275). -/
  defer : Option Nat
  /-- The other groups of the scheduler partition that are eligible at this issue (13 R264). -/
  others : List Nat
  /-- The groups that are eligible in the ordinary class at this issue and do not make it (16 R308). -/
  waiters : List Nat
  deriving DecidableEq, Repr

/-- Paths of memory accesses (04 R91). -/
inductive Path where
  | ls | cp | mx | gx | co | sn
  deriving DecidableEq, Repr

/-- Ordering kinds of pages (03 R72, 04 R97). -/
inductive OKind where
  | so | rc | uo
  deriving DecidableEq, Repr

/-- The memories an access reaches (03 R66). -/
inductive Space where
  | hbm | tier | vault | host | scratch | peer
  deriving DecidableEq, Repr

/-- Where a part of an access lies: a memory, the partition, cluster or team that owns it, and an offset. -/
structure Loc where
  space : Space
  owner : Nat
  off : Nat
  deriving DecidableEq, Repr

/-- A part of an access after translation: its place, length, ordering kind, offset in the access and address; the base and size of
its page, and the base again when no TLB held it; the unit of atomicity is already applied (03 R79). -/
structure Piece where
  loc : Loc
  len : Nat
  okind : OKind
  boff : Nat
  va : DWord
  page : Nat × Nat
  walk : Option Nat
  deriving DecidableEq, Repr

/-- What an access does at its memory. -/
inductive Act where
  | read
  | write (data : List Byte)
  /-- Operation, width in bytes, operand, and the new value of a CAS (04 R89). -/
  | atomic (op w : Nat) (x nv : DWord)
  deriving DecidableEq, Repr

/-- One part of a memory access that has been issued and not yet performed (03 R79, 04 R94). -/
structure Acc where
  op : Nat
  uid : Nat
  part : Nat
  team : Nat
  /-- The threads it belongs to, each with its barrier passes at the issue. -/
  who : List (Nat × Nat)
  path : Path
  stream : Nat
  /-- The scope of its stream: 1 team, 2 device, 3 domain, 4 system (04 R92). -/
  scope : Nat
  /-- What its threads' accesses followed at the issue. -/
  sync : Sync
  okind : OKind
  acq : Bool
  rel : Bool
  loc : Loc
  len : Nat
  /-- Lane and byte offset of the part in that lane's access. -/
  lane : Nat
  boff : Nat
  va : DWord
  act : Act
  /-- The access it is part of covers the whole 64-byte line it lies in (03 R81). -/
  whole : Bool
  /-- The base and size of the page it was translated by, size 0 for none (03 R78), and the page whose walk it waits for (R77). -/
  page : Nat × Nat
  walk : Option Nat
  /-- A request sent to a peer package, and the cycle of the job it was sent in (22 R378; 20 R348). -/
  sent : Option Nat
  /-- The issuing instruction and its slot, for a fault record. -/
  pc : DWord
  gid : Nat
  /-- The grid of the issuing group's team, 0 for none (01 R33). -/
  grid : Nat
  deriving DecidableEq, Repr

/-- How far a store is performed with respect to each path (04 R91, R93, R94): 0 for no other agent, 1 in the team, 2 in the device, 3 in
the domain, 4 in the system. -/
structure Reach where
  ls : Nat
  cp : Nat
  mx : Nat
  gx : Nat
  co : Nat
  sn : Nat
  deriving DecidableEq, Repr

/-- A thread's access that makes a store one that its later accesses of the byte must see (04 R95): its own store, or a load that returned
it. The stream is 16 on an SO page, which is a member of every stream (R98). -/
structure Seen where
  tid : Nat
  stream : Nat
  uo : Bool
  /-- The number of the access, which rises in program order. -/
  acc : Nat
  deriving DecidableEq, Repr

/-- A store of a byte that some agents need not see yet (04 R94 to R96). -/
structure Late where
  /-- What the byte held before the store. -/
  old : Byte
  /-- The store's path, threads, group, team and grid. -/
  path : Path
  who : List Nat
  uid : Nat
  team : Nat
  grid : Nat
  /-- The operation, copy or packet that made it, and how many bytes of its image have been written with it. -/
  src : Nat × Nat
  seen : List Seen
  reach : Reach
  /-- Other teams for which it has been performed with respect to a path at team scope (04 R93). -/
  teams : List (Path × Nat)
  /-- The model's own: its place in the order of stores. -/
  stamp : Nat
  deriving DecidableEq, Repr

/-- The stores that lag: by memory cell number, newest first; and how the stores of the event under way lag, if they do (the model's own). -/
structure Lags where
  cells : Tab (List Late)
  now : Option Late
  deriving DecidableEq, Repr

/-- A register write that a producer makes at its completion. -/
structure RegWrite where
  reg : Reg
  lane : Nat
  val : DWord
  deriving DecidableEq, Repr

/-- A tensor's description as a COPY, MMA or NARROW captures it: the words of its entry (05 R114). -/
abbrev TidEnt := List DWord

/-- A ray (10 R212): origin, direction, bounds, best hit, budget, visits made and pending entries. -/
structure Ray where
  /-- The operation and lane of a TRACE, or the view slot and pixel of a view (second component true). -/
  op : Nat
  lane : Nat
  ofView : Bool
  level : Nat
  part : Nat
  team : Nat
  cut : List DWord
  o : List Word
  d : List Word
  tmin : Word
  tbest : Word
  /-- Best hit: instance, primitive, u, v and the front flag. -/
  best : Option (Nat × Nat × Word × Word × Bool)
  budget : Nat
  made : Nat
  pending : Nat
  /-- 0 running, 1 out of budget, 5 faulted (10 R215). -/
  status : Nat
  done : Bool
  deriving DecidableEq, Repr

/-- A visit under way, whose next child enters a treelet that is visited inline (10 R213): the node with its bits, that child's number, and
what the visit has entered: nodes of its own treelet, and treelets to enqueue at its end. -/
structure Mid where
  node : Nat
  bits : Nat
  child : Nat
  joined : Mask
  own : List Nat
  deriving DecidableEq, Repr

/-- A treelet that a ray is in: its nodes still to be visited, and a visit under way. -/
structure InTreelet where
  treelet : Nat
  nodes : Mask
  mid : Option Mid
  deriving DecidableEq, Repr

/-- An entry of a trade queue (10 R212): the ray, the treelet, the treelets it is in once it has been served, innermost first, and the
restartable record it waits for. -/
structure TqEnt where
  ray : Nat
  treelet : Nat
  stack : List InTreelet
  arrived : Nat
  stopped : Option Nat
  deriving DecidableEq, Repr

/-- A slot of the view table (11 R227, R228). -/
structure ViewSlot where
  op : Nat
  gid : Nat
  level : Nat
  part : Nat
  team : Nat
  cut : List DWord
  camera : List Word
  res : Nat
  tile : Nat
  stat : Nat
  nextPix : Nat
  /-- cr.VISITBUDGET as it stood at the VIEW (08 R193), the place among requests of its next ray (R235), and whether a pixel has been
  shaded. -/
  budget : Nat
  asked : Nat
  shaded : Bool
  pix : Tab Word
  /-- The cycle in which the last value arrived. -/
  lastAt : Nat
  status : Nat
  order : Nat
  deriving DecidableEq, Repr

/-- A thread waiting in a shading bin (11 R236). -/
structure ShThread where
  regs : List Word
  arrived : Nat
  shade : Nat × Nat
  deriving DecidableEq, Repr

/-- A shading bin of one level of a core (11 R236). -/
structure ShBin where
  view : Bool
  entry : DWord
  team : Nat
  mat : DWord
  level : Nat
  threads : List ShThread
  deriving DecidableEq, Repr

/-- Producer classes of a pending register write (20 R356, R361). -/
inductive PClass where
  | memory | sfu | matrix | viewTrace | copy | message | snapshot | compare
  deriving DecidableEq, Repr

/-- Where a snapshot operation stands (12 R249 to R254). -/
inductive SnapSt where
  /-- It has not reached the store, which it reaches after some others (12 R256). -/
  | start (after : List Nat)
  /-- A SNAPDEP that has taken a node and copied so many bytes into it: its tokens, then its snapshot. -/
  | copying (node done : Nat)
  /-- A SNAPGET that has pinned its node: the pieces of each 64 bytes of its destination translated so far, and the blocks copied. -/
  | getting (node : Nat) (dest : List (List Piece)) (done : Nat)
  deriving DecidableEq, Repr

/-- What an operation in flight will do at its completion. -/
inductive OpKind where
  /-- Values already known: a compare or a special function (07 R153, R163). -/
  | writes (ws : List RegWrite)
  /-- As `writes`, with each lane's exceptions, its issue, and whether the lanes have moved on already (05 R110). -/
  | flagged (ws : List RegWrite) (ex : List (Nat × Word)) (cur : Cur) (moved : Bool)
  /-- Bytes per lane as they come, by lane × 32 + byte; `sext` sign-extends; `sc` for LDS (04 R85, R86). -/
  | load (sc sext : Bool) (n d : Nat) (data : Store 8)
  /-- An atomic's old values (04 R89). -/
  | atom (w d : Nat) (data : Store 8)
  /-- A tile load's bytes (08 R189). -/
  | tile (t : Nat) (data : Store 8)
  /-- A store, an atomic's write or a tile store: nothing returns. -/
  | store
  /-- A read of MSGRX waiting for its flit: the instruction, its issue and the group as it read it; the flit once it is
  claimed (13 R275). -/
  | message (i : Instr) (cur : Cur) (snap : Option Group) (flit : Option (Word × Word))
  /-- A matrix operation: format, scales, the eight words of each A row and of each B column, the accumulator, whether it has
  two tiles, and whether it has started (09 R199 to R205). -/
  | mma (fmt : Nat) (sA sB : Word) (a b : List (List Word)) (t : Nat) (wide started : Bool)
  /-- TRACE or TRACES: base register, spawn flag, lanes still traversed, lanes whose shading still runs, whether a closest-hit thread was
  placed, their rays (10 R216, R217). -/
  | trace (d : Nat) (spawn : Bool) (left : List Nat) (shading : List Nat) (shaded : Bool) (rays : List Nat)
  /-- RAST: its samples and token (10 R221). -/
  | rast (ws : List RegWrite)
  | view (slot : Nat) (cluster : Nat)
  /-- A snapshot operation by sub-code with the scalars it read (12 R247). -/
  | snap (sub d : Nat) (args : List Word) (st : SnapSt) (stopped : Option Nat)
  deriving DecidableEq, Repr

/-- An operation in flight. -/
structure Op where
  gid : Nat
  uid : Nat
  part : Nat
  pc : DWord
  cls : PClass
  /-- Registers it fills; each is empty until then (02 R38). -/
  dests : List Reg
  mask : Mask
  /-- The cycle of the job from which it may complete. -/
  due : Nat
  /-- The address at which a consumed line was poisoned (03 R81). -/
  bad : Option DWord
  kind : OpKind
  deriving DecidableEq, Repr

/-- A flit on the on-die network (13 R272 to R276). -/
structure Flit where
  srcUid : Nat
  srcAddr : Word
  dst : Nat
  part : Nat
  payload : Word
  due : Nat
  tok : Tok
  deriving DecidableEq, Repr

/-- A task-table entry (06 R137, R138). -/
structure Task where
  /-- 1 PENDING, 2 READY, 3 ERROR (an absent entry is FREE). -/
  st : Nat
  ctr : Nat
  code : Nat
  entry : Word
  arg : Word
  /-- A live landing: offset, key, length in bytes. -/
  land : Option (Nat × Nat × Nat)
  toks : List Tok
  /-- The core of the entry, or of a landing. -/
  core : Nat
  /-- The model's own: a new number for each TDEF. -/
  uid : Nat
  deriving DecidableEq, Repr

/-- A team (01 R21, R22). -/
structure Team where
  part : Nat
  grid : Nat
  index : Nat
  core : Nat
  pair : Bool
  width : Nat
  nv : Nat
  ns : Nat
  nt : Nat
  scratch : Nat
  prod : Option Nat
  /-- The group slots of its team slots 0 to G − 1 (01 R21). -/
  slots : List Nat
  nextGroup : Word
  nextIdx : Word
  /-- Barrier phases (13 R266), and the last cycle in which a barrier's arrivals changed: a phase completes in a later one. -/
  phases : Tab Nat
  arrAt : Tab Nat
  /-- Arrivals whose accesses a phase's completion must follow: barrier, accesses (04 R104). -/
  barToks : List (Nat × Tok)
  tasks : Tab Task
  /-- The tensor-identifier window as bytes, 64 entries of 64 (05 R119). -/
  tids : Store 8
  deriving DecidableEq, Repr

/-- Teams on their way to a thief cluster: at a cluster's or a die's steal, until a cycle of the job (16 R303). -/
structure Steal where
  die : Bool
  cluster : Nat
  due : Nat
  first : Nat
  count : Nat
  deriving DecidableEq, Repr

/-- A grid (01 R24): its packet, its list place, the unplaced ranges of each cluster and its scene-cut copy. -/
structure Grid where
  part : Nat
  queue : Nat
  index : Nat
  packet : List DWord
  prio : Nat
  order : Nat
  /-- Unplaced teams by linear cluster index: first and count; a cluster may have several runs (18 R329). -/
  ranges : List (Nat × Nat × Nat)
  /-- When a cluster's next team began to wait (16 R302). -/
  waits : Tab Nat
  /-- The grid's copy of the scene-cut table, 256 entries of four words; none while its read waits (11 R223). -/
  cuts : Option (List (List DWord))
  stopped : Option Nat
  resident : Nat
  steals : List Steal
  deriving DecidableEq, Repr

/-- A thread waiting in a bin (16 R304, R306). -/
structure BinThread where
  arg : Word
  arrived : Nat
  tok : List Tok
  deriving DecidableEq, Repr

/-- A task's or SPAWN's placement that waits for room in its bin (16 R305). -/
structure Placement where
  team : Nat
  entry : DWord
  arg : Word
  count : Nat
  toks : List Tok
  deriving DecidableEq, Repr

/-- One of a core's 16 bins; a bin is FREE when it holds no thread (16 R304). -/
structure Bin where
  team : Nat
  entry : DWord
  threads : List BinThread
  expired : Bool
  deriving DecidableEq, Repr

/-- A copy on a channel (06 R123 to R133). -/
structure Copy where
  team : Nat
  gid : Nat
  uid : Nat
  form : Nat
  dst : TidEnt
  src : TidEnt
  idx : TidEnt
  dd : List Word
  sd : List Word
  task : Option Nat
  core : Nat
  /-- The model's own: the copy's number, never used twice. -/
  id : Nat
  seq : Nat
  pos : Nat
  size : Nat
  /-- CPYSP met a malformed nibble; CPYMC lost a landing (06 R130, R133). -/
  err : Nat
  stopped : Option Nat
  /-- CPYMC targets: core, and the landing's team, task and number, none once discarded. -/
  targets : List (Nat × Option (Nat × Nat × Nat))
  begun : Bool
  deriving DecidableEq, Repr

/-- A copy channel: its outstanding copies, oldest first, and each team's count and last report, with the copy's number (06 R123, R134,
R135). -/
structure Chan where
  copies : List Copy
  counts : Tab Nat
  last : Tab (Nat × Nat × Nat)
  /-- The cycle of the last sector it delivered, plus 1. -/
  sent : Nat
  deriving DecidableEq, Repr

/-- A scheduler partition (16 R307; 20 R343, R346). -/
structure Sp where
  /-- The package cycle from which an issue's clocks no longer hold it (01 R14), the slot of the last issue, and the job's cycle for the SFU
  pipe. -/
  busy : Nat
  holder : Nat
  sfuBusy : Nat
  frozen : Bool
  /-- A DSTEP of the frozen partition (20 R352): 0 none, 1 its issue is still to come, 2 its accesses and fills are. -/
  step : Nat
  nextSample : Nat
  /-- Whether an issue was made in the current cycle, its PC and slot (20 R359). -/
  issued : Option (DWord × Nat)
  /-- How many groups were eligible in the current cycle (20 R361), and whether the cycle has been charged already. -/
  elig : Nat
  charged : Bool
  /-- The reason the last cycle was charged to (20 R361). -/
  reason : Nat
  deriving DecidableEq, Repr

/-- A write of the packet processor that waits for a restartable record (16 R388): a signal's update with its completion code, none for
no error, or a queue's descriptor. -/
inductive PpWork where
  | signal (va : DWord) (code : Option Nat)
  | desc (q : Nat)
  deriving DecidableEq, Repr

/-- A translation held in a TLB: the partition, the page's base and size, and the leaf entry (03 R77). -/
structure Tlb where
  part : Nat
  base : Nat
  size : Nat
  pte : DWord
  deriving DecidableEq, Repr

/-- A page being walked, or waiting for a walker: the partition and the page's base (03 R77). -/
structure Walk where
  part : Nat
  page : Nat
  deriving DecidableEq, Repr

/-- A die's own parts: its TLB, newest first, and the pages in walk or waiting, in the order in which they were missed (03 R77). -/
structure Die where
  tlb : List Tlb
  walks : List Walk
  deriving DecidableEq, Repr

/-- A core's own parts (00 R3). -/
structure Core where
  bins : Tab Bin
  placements : List Placement
  chans : Tab Chan
  /-- BKA0 to BKF7 by control-register number (20 R344). -/
  bks : Store 32
  /-- Matrix operations waiting, oldest first, and those executing (09 R205). -/
  mq : List Nat
  mrun : List Nat
  mfree : Nat
  /-- RAST operations in order, and the cycle from which the rasteriser is free (10 R222). -/
  rq : List Nat
  rfree : Nat
  shbins : List ShBin
  /-- The last cycle in which sectors were delivered, and how many (06 R123). -/
  sectors : Nat × Nat
  /-- Its L1 TLB, and the lines its L1 data cache holds as memory cell number ÷ 64, newest first: they show in latency only (03 R66,
  R77). -/
  tlb : List Tlb
  l1 : List Nat
  deriving DecidableEq, Repr

/-- A cluster's own parts (00 R3). -/
structure Cluster where
  rays : Tab Ray
  tq : List TqEnt
  views : Tab ViewSlot
  /-- The cycle of the last ray cast, plus 1 (11 R228). -/
  castAt : Nat
  /-- The cycle from which the traversal unit is free (10 R210). -/
  visitFree : Nat
  nextPlace : Nat
  /-- The TLB its cores share, newest first (03 R77). -/
  tlb : List Tlb
  deriving DecidableEq, Repr

/-- A queue as the packet processor holds it (16 R291, R292). -/
structure Queue where
  /-- 0 DISABLED, 1 ACTIVE, 2 ABORTED, 3 STOPPED. -/
  st : Nat
  code : Nat
  ring : DWord
  log2n : Nat
  prio : Nat
  read : Nat
  write : Nat
  /-- The next packet to start, and its words once read; no words where its slot could not be read (16 R292, R388). -/
  next : Nat
  slot : Option (List DWord)
  /-- Completed packets that READ has not yet passed. -/
  done : List Nat
  disabling : Bool
  stopped : Option Nat
  deriving DecidableEq, Repr

/-- A started packet that has not completed (16 R293 to R301). -/
structure Pkt where
  queue : Nat
  index : Nat
  words : List DWord
  /-- 0 running, else completion is due: 1 + the error code, or 1000 for no error. -/
  result : Nat
  /-- Satisfied slots of a BARRIER, and the value of an abort whose signal update waits; bytes moved of a COPY. -/
  slots : List Nat
  abort : Option DWord
  pos : Nat
  nextRound : Nat
  stopped : Option Nat
  /-- The grid of a KERNEL packet. -/
  grid : Nat
  /-- The model's own: the packet's number, never used twice. -/
  id : Nat
  deriving DecidableEq, Repr

/-- A fault record (18 R325). -/
structure FRec where
  id : Nat
  kind : Nat
  cause : Nat
  va : DWord
  pc : DWord
  chan : Nat
  engine : Nat
  whereW : Word
  code : DWord
  time : DWord
  deriving DecidableEq, Repr

/-- A contribution to a Zephyr phase (13 R269). -/
structure ZArr where
  gid : Nat
  uid : Nat
  val : Word
  root : Bool
  die : Nat
  d : Nat
  deriving DecidableEq, Repr

/-- A phase of a Zephyr ID: open, or complete and delivered at a cycle of the job (13 R269). -/
structure ZPhase where
  id : Nat
  fn : Nat
  count : Nat
  op : Nat
  arrs : List ZArr
  due : Option Nat
  deriving DecidableEq, Repr

/-- A contributor of a collective instance (13 R278, R279). -/
structure CContrib where
  gid : Nat
  uid : Nat
  src : DWord
  dst : DWord
  count : Nat
  /-- OP of CRED; 4 for CBCAST. -/
  op : Nat
  root : Bool
  d : Nat
  mask : Mask
  /-- The model's own: the number that its destination's bytes go by. -/
  key : Nat
  deriving DecidableEq, Repr

/-- A collective instance on an ID (13 R279), with COLLCFG as it stood at its start (R277). -/
structure Coll where
  id : Nat
  cfg : DWord
  contribs : List CContrib
  stopped : Option Nat
  lost : Bool
  deriving DecidableEq, Repr

/-- A lull wave on its way (20 R347). -/
structure Wave where
  /-- The package cycle of the start event and the die of its origin; 4 where there is none. -/
  time : Nat
  die : Nat
  deriving DecidableEq, Repr

/-- A dump under way (20 R354, R357): the register that receives its result, that result, and the writes still to come, each an offset from
the buffer's start with its bytes. -/
structure DumpRun where
  d : Nat
  result : Nat
  base : DWord
  writes : List (Nat × List Byte)
  deriving DecidableEq, Repr

/-- A partition with its virtual function, context, queues, faults and debug state (18 R332). -/
structure Part where
  clusters : List Nat
  hbmSize : Nat
  tierSize : Nat
  key : DWord
  memEnable : Bool
  /-- BAR0 registers by offset, as stored (22 R370). -/
  bar : Store 64
  /-- Control registers of context and partition scope that differ from reset (02 R39). -/
  crs : Tab Word
  queues : Tab Queue
  pkts : List Pkt
  nextStart : Nat
  served : Tab Nat
  /-- Records waiting to be written, the next ID, and restartable IDs not yet resumed (18 R324 to R326). -/
  frecs : List FRec
  nextId : Nat
  resumable : List Nat
  /-- Resumes that a freeze holds back (20 R348). -/
  heldResumes : List Nat
  /-- Writes of the packet processor that wait, each for a record (16 R388). -/
  ppWaits : List (Nat × PpWork)
  faulted : Bool
  /-- Drain deadline and time-slice counts in unfrozen cycles (18 R328, R329). -/
  drainCount : Nat
  sliceCount : Nat
  /-- Cycles of the job in which it was not frozen (20 R348). -/
  clock : Nat
  wave : Option Wave
  /-- Every scheduler partition has stopped (20 R348), and the pending resume time (20 R353). -/
  stoppedAll : Bool
  /-- The package cycle in which the last of them stopped. -/
  stopAt : Nat
  resumeAt : Option DWord
  /-- The debug slot to begin: its scheduler partition, the stopped group's address and PC (20 R350). -/
  dbgStart : Option (Nat × Word × DWord)
  dbgRun : Option Nat
  dump : Option DumpRun
  lastAdjust : Nat
  /-- Stall counters by partition-relative SP × 64 + word (20 R361). -/
  stalls : Store 64
  zph : List ZPhase
  colls : List Coll
  softCorr : DWord
  softUnc : DWord
  lossNoted : Bool
  /-- A reset in progress (18 R333). -/
  resetting : Bool
  discarding : List Nat
  deriving DecidableEq, Repr

/-- A node of the Etesian store (12 R244). -/
structure Node where
  key : DWord
  parent : Nat
  gen : Nat
  refcnt : Nat
  /-- 0 FREE, 1 FILLING, 2 LINKED, 3 ROOT. -/
  st : Nat
  tree : Nat
  hash2 : DWord
  depth : Nat
  nchild : Nat
  snapBase : Nat
  snapSize : Nat
  tokBase : Nat
  stamp : Nat
  deriving DecidableEq, Repr

/-- The management controller (22 R379 to R381). -/
structure Mc where
  /-- The flash image: its bytes' name, its security version and whether its signature verifies. -/
  flash : DWord × BitVec 6 × Bool
  /-- The running image and its version. -/
  running : DWord × BitVec 6
  counter : BitVec 6
  recovery : Bool
  /-- A device reset has begun and the controller has yet to boot an image. -/
  booting : Bool
  ram : Option (DWord × BitVec 6)
  /-- The algorithm an SPDM requester settled on: 0 none, 1 brainpool, 2 P-384. -/
  alg : Nat
  pkgId : BitVec 10
  /-- Answers sent on the management port, newest first: a code and its words. -/
  replies : List (Nat × List DWord)
  deriving DecidableEq, Repr

/-- What moves next, or arrives from outside (the model's own order of agents). -/
inductive Agendum where
  /-- An event of the opcode table. -/
  | event (i : Instr)
  /-- An issue of a scheduler partition. -/
  | issue (core sp : Nat)
  /-- One cycle passes. -/
  | tick
  /-- The host or a PCIe agent writes its own memory. -/
  | hostMem (part : Nat) (off : Nat) (data : List Byte)
  /-- A register or tile of a group holds a parity error, in one lane of a vector register (03 R82). -/
  | parity (gid : Nat) (r : Reg) (lane : Nat)
  /-- An error arises in a 64-byte line of memory or of a scratchpad: one bit, or uncorrectable (03 R81, R82). -/
  | decay (space owner line : Nat) (one : Bool)
  /-- A function's or the management port's reader reads a partition's soft-error counters, or clears them (03 R83). -/
  | softRead (part : Nat)
  | softClear (part : Nat)
  /-- The fabric sets domain time (20 R349, 22 R377). -/
  | domainTime (time : DWord)
  /-- Another package's resume of a job arrives over the fabric: its time, JOBID and domain key (20 R353). -/
  | resume (part : Nat) (time job key : DWord)
  /-- The host reads a register of BAR0 (22 R370). -/
  | barRead (part off : Nat)
  /-- A TLB gives up a translation for want of room: of a core (0), a cluster (1) or a die (2), by its number (03 R77). -/
  | tlbEvict (level unit part base : Nat)
  /-- An event whose stores are performed no further than their own rules ask and `reach` says (04 R94, R96). -/
  | lag (i : Instr) (reach : Reach)
  /-- A store that lags is performed with respect to a path at a level (04 R95), or for every agent. -/
  | spread (stamp : Nat) (path : Path) (level : Nat)
  | settle (stamp : Nat)
  deriving DecidableEq, Repr

/-- A request that has left for a peer package (22 R378). -/
structure PeerReq where
  pkg : Nat
  off : Nat
  key : DWord
  act : Act
  len : Nat
  deriving DecidableEq, Repr

/-- The state of a package. -/
structure State where
  /-- The model's own: which agents move next, oldest first. -/
  agenda : List Agendum
  /-- The model's own: the issue being made, and whether the last trial issue waited. -/
  cur : Cur
  waited : Bool
  /-- The package cycle count (08 R192) and, in a load-store domain, domain time less it (20 R349). -/
  now : DWord
  dtimeOff : DWord
  /-- The model's own: the next unused number for threads, groups, operations, accesses, flits and teams. -/
  fresh : Nat
  mem : Store 8
  /-- Stores that some agent need not see yet (04 R94). -/
  late : Lags
  /-- Poisoned 64-byte lines, by memory cell number ÷ 64 (03 R81). -/
  poison : List Nat
  /-- Lines with a single-bit error that no read has found yet, likewise numbered (03 R81). -/
  weak : List Nat
  groups : Tab Group
  teams : Tab Team
  grids : Tab Grid
  sps : Tab Sp
  cores : Tab Core
  clusters : Tab Cluster
  dies : Tab Die
  parts : Tab Part
  ops : Tab Op
  accs : Tab Acc
  flits : Tab Flit
  nodes : Tab Node
  mc : Mc
  hostLost : Bool
  /-- The CXL ports present, ascending (22 R375), and those whose link is down. -/
  cxlPorts : List Nat
  cxlDown : List Nat
  devResetting : Bool
  /-- Requests sent to peers, and interrupts raised to the host as partition and vector, newest first. -/
  peerOut : List PeerReq
  irqs : List (Nat × Nat)
  /-- Fabric traffic sent: partition, kind (0 halt, 1 resume, 2 collective, 3 an answer to a peer, 4 a refusal, 5 an answer without data as its
  line is poisoned) and words,
  newest first (22 R377, R378). -/
  fabricOut : List (Nat × Nat × List DWord)
  /-- Bytes returned to host reads of device memory: partition and data, newest first. -/
  hostOut : List (Nat × List Byte)
  deriving DecidableEq, Repr

/-- Why a step has no next state. -/
inductive Fault where
  /-- Raised by an event whose own rule does not let it happen in this state, by name. Safe: no such step exists. -/
  | notEnabled (event : String)
  /-- Raised by an instruction when no group holds the slot that is to issue it. Safe: no such issue exists. -/
  | noIssue
  deriving DecidableEq, Repr

/-- Why the model gives no answer. -/
inductive Refusal where
  /-- Raised by the dispatch for an instruction without a meaning. Safe: nothing is claimed of it. -/
  | notModelled (mnemonic : String)
  deriving DecidableEq, Repr

/-- What a step, and every meaning, answers. -/
abbrev Out := Host.Outcome State Fault Refusal

/-- A lane that was never launched. -/
def Lane.none : Lane :=
  { st := .never, tid := 0, orig := 0, pc := 0, meet := 0, rel := false, age := 0, parked := false, hold := .none,
    marks := [], passes := 0, sync := ⟨0, 0, []⟩, resume := .none, shade := .none }

/-- A group with every register zero and full and no lane (01 R25). -/
def Group.blank : Group :=
  { uid := 0, formed := 0, kind := .ordinary, part := 0, width := 16, nv := 8, ns := 16, nt := 0, level := 0, team := 0, gnum := 0,
    lanes := [], v := [], s := [], k := [], t := [], empty := [], conv := [], crs := [], msgDst := 0, msgSrc := 0,
    rxq := [], rx := 0, clockHi := none, waitc := 0, sleep := 0, yield := none, waitPc := none, relq := [], forced := [],
    parked := [], handling := none, enterAt := 0, rep := none, passOnce := none, matched := false, stopped := none, serial := none,
    twait := none, why := 0, block := none, zwaits := [], toks := [], acquires := [], bad := [] }

/-- No issue. -/
def Cur.idle : Cur :=
  { gid := 0, cls := .ordinary, pc := 0, mask := 0, len := 4, cost := 1, rep := false, defer := none, others := [], waiters := [] }

/-- A scheduler partition at reset. -/
def Sp.reset : Sp :=
  { busy := 0, holder := 0, sfuBusy := 0, frozen := false, step := 0, nextSample := 4096, issued := none, elig := 0, charged := false, reason := 0 }

/-- A core at reset. -/
def Core.reset : Core :=
  { bins := [], placements := [], chans := [], bks := [], mq := [], mrun := [], mfree := 0, rq := [], rfree := 0, shbins := [],
    sectors := (0, 0), tlb := [], l1 := [] }

/-- A die at reset. -/
def Die.reset : Die := { tlb := [], walks := [] }

/-- A cluster at reset. -/
def Cluster.reset : Cluster := { rays := [], tq := [], views := [], castAt := 0, visitFree := 0, nextPlace := 0, tlb := [] }

/-- A partition at device reset: no clusters, no shares and key 0 (DESIGN CHOICE, log entry 2), every register at its reset
value. Its control registers fall back on the reset column of 02 R39. -/
def Part.reset : Part :=
  { clusters := [], hbmSize := 0, tierSize := 0, key := 0, memEnable := false, bar := [], crs := [], queues := [],
    pkts := [], nextStart := 0, served := [], frecs := [], nextId := 1, resumable := [], heldResumes := [], ppWaits := [],
    faulted := false, drainCount := 0, sliceCount := 0, clock := 0, wave := none,
    stoppedAll := false, stopAt := 0, resumeAt := none, dbgStart := none, dbgRun := none, dump := none, lastAdjust := 0, stalls := [],
    zph := [], colls := [], softCorr := 0, softUnc := 0, lossNoted := false, resetting := false, discarding := [] }

/-- A node of the store at device reset: FREE, every field 0 (12 R244). -/
def Node.reset : Node :=
  { key := 0, parent := 0, gen := 0, refcnt := 0, st := 0, tree := 0, hash2 := 0, depth := 0, nchild := 0,
    snapBase := 0, snapSize := 0, tokBase := 0, stamp := 0 }

/-- The management controller with a verified image of version 0 and a counter of 0 (DESIGN CHOICE, log entry 3). -/
def Mc.reset : Mc :=
  { flash := (0, 0, true), running := (0, 0), counter := 0, recovery := false, booting := false, ram := none, alg := 0, pkgId := 0,
    replies := [] }

/-- The package right after device reset: nothing resident, every counter 0, memory with nothing listed. -/
def State.reset : State :=
  { agenda := [], cur := Cur.idle, waited := false, now := 0, dtimeOff := 0, fresh := 1, mem := [], late := ⟨[], none⟩,
    poison := [], weak := [], groups := [], teams := [], grids := [], sps := [], cores := [], clusters := [], dies := [], parts := [], ops := [],
    accs := [], flits := [], nodes := [], mc := Mc.reset, hostLost := false, cxlPorts := [0, 1, 2, 3], cxlDown := [], devResetting := false,
    peerOut := [], irqs := [], fabricOut := [], hostOut := [] }

end Sys2Proof.Machine
end

