-- ==== Sys2Proof/Machine/Cells.lean ====
section
/-! DEFINITION. Keyed lists: records by number (Tab) and cells by number (Store), kept with numbers strictly rising; a Store
lists no cell equal to zero. Memory is one Store of bytes (00 R11, 03 R66). -/

namespace Sys2Proof

/-- The record of a number. -/
def Tab.get? {α : Type} : Tab α → Nat → Option α
  | [], _ => none
  | (j, x) :: r, i => if j = i then some x else Tab.get? r i

/-- Set the record of a number, keeping the order. -/
def Tab.set {α : Type} : Tab α → Nat → α → Tab α
  | [], i, y => [(i, y)]
  | (j, x) :: r, i, y => if i < j then (i, y) :: (j, x) :: r else if i = j then (i, y) :: r else (j, x) :: Tab.set r i y

/-- Remove the record of a number. -/
def Tab.erase {α : Type} : Tab α → Nat → Tab α
  | [], _ => []
  | (j, x) :: r, i => if j = i then Tab.erase r i else (j, x) :: Tab.erase r i

/-- The record of a number, or a default. -/
def Tab.getD {α : Type} (t : Tab α) (i : Nat) (d : α) : α := (t.get? i).getD d

/-- Change a record that is there. -/
def Tab.modify {α : Type} (t : Tab α) (i : Nat) (f : α → α) : Tab α :=
  match t.get? i with
  | some x => t.set i (f x)
  | none => t

/-- Change every record. -/
def Tab.mapVal {α β : Type} (f : Nat → α → β) : Tab α → Tab β
  | [] => []
  | (i, x) :: r => (i, f i x) :: Tab.mapVal f r

/-- Keep the records that satisfy a test. -/
def Tab.keep {α : Type} (p : Nat → α → Bool) : Tab α → Tab α
  | [] => []
  | (i, x) :: r => if p i x then (i, x) :: Tab.keep p r else Tab.keep p r

/-- The numbers of a table rise strictly above a bound. -/
def Tab.wfFrom {α : Type} : Nat → Tab α → Bool
  | _, [] => true
  | b, (i, _) :: r => decide (b ≤ i) && Tab.wfFrom (i + 1) r

/-- The numbers of a table rise strictly. -/
def Tab.wf {α : Type} (t : Tab α) : Bool := Tab.wfFrom 0 t

/-- The cell of a number; an unlisted cell is zero. -/
def Store.get {w : Nat} : Store w → Nat → BitVec w
  | [], _ => 0
  | (j, x) :: r, i => if j = i then x else Store.get r i

/-- Remove the cell of a number. -/
def Store.erase {w : Nat} : Store w → Nat → Store w
  | [], _ => []
  | (j, x) :: r, i => if j = i then Store.erase r i else (j, x) :: Store.erase r i

/-- Put a value that is not zero at a number. -/
def Store.put {w : Nat} : Store w → Nat → BitVec w → Store w
  | [], i, y => [(i, y)]
  | (j, x) :: r, i, y => if i < j then (i, y) :: (j, x) :: r else if i = j then (i, y) :: r else (j, x) :: Store.put r i y

/-- Set a cell; a cell that becomes zero leaves the list. -/
def Store.set {w : Nat} (t : Store w) (i : Nat) (y : BitVec w) : Store w := if y = 0 then t.erase i else t.put i y

/-- Cells from a bound on rise strictly and none is zero. -/
def Store.wfFrom {w : Nat} : Nat → Store w → Bool
  | _, [] => true
  | b, (i, x) :: r => decide (b ≤ i) && decide (x ≠ 0) && Store.wfFrom (i + 1) r

/-- The canonical form of a store. -/
def Store.wf {w : Nat} (t : Store w) : Bool := Store.wfFrom 0 t

/-- Remove the cells whose number satisfies a test. -/
def Store.drop {w : Nat} (p : Nat → Bool) : Store w → Store w
  | [] => []
  | (i, x) :: r => if p i then Store.drop p r else (i, x) :: Store.drop p r

/-- Set cells from a list of numbers and values. -/
def Store.setAll {w : Nat} : List (Nat × BitVec w) → Store w → Store w
  | [], t => t
  | (i, x) :: r, t => Store.setAll r (t.set i x)

/-- The cells of n numbers from a first one. -/
def Store.range {w : Nat} (t : Store w) : Nat → Nat → List (BitVec w)
  | _, 0 => []
  | i, n + 1 => t.get i :: Store.range t (i + 1) n

/-- Set consecutive cells. -/
def Store.setRange {w : Nat} : Store w → Nat → List (BitVec w) → Store w
  | t, _, [] => t
  | t, i, x :: r => Store.setRange (t.set i x) (i + 1) r

namespace Machine

/-- The number of a memory within the one store of bytes. -/
def Space.code : Space → Nat
  | .hbm => 0 | .tier => 1 | .vault => 2 | .host => 3 | .scratch => 4 | .peer => 5

/-- The cell number of a location: memory, owner and offset side by side. -/
def Loc.cell (l : Loc) : Nat := (l.space.code * 2 ^ 64 + l.owner) * 2 ^ 64 + l.off

/-- Memory's canonical form. -/
def Memory.wf (m : Store 8) : Bool := m.wf

/-- The byte at a cell; a byte nothing has written reads zero (log entry 1). -/
def Memory.byte (m : Store 8) (cell : Nat) : Byte := m.get cell

/-- The n bytes from a location. -/
def Memory.read (m : Store 8) (l : Loc) (n : Nat) : List Byte := m.range l.cell n

/-- Write bytes from a location on. -/
def Memory.write (m : Store 8) (l : Loc) (bs : List Byte) : Store 8 := m.setRange l.cell bs

/-- Little-endian value of bytes (00 R11). -/
def ofBytes (bs : List Byte) : Nat :=
  match bs with
  | [] => 0
  | b :: r => b.toNat + 256 * ofBytes r

/-- The first n bytes of a number, lowest first (00 R11). -/
def toBytes : Nat → Nat → List Byte
  | 0, _ => []
  | n + 1, v => BitVec.ofNat 8 v :: toBytes n (v / 256)

/-- A run of consecutive numbers. -/
def upTo (first count : Nat) : List Nat := (List.range count).map (first + ·)

/-- Bit i of a mask. -/
def maskBit {w : Nat} (m : BitVec w) (i : Nat) : Bool := m.getLsbD i

/-- The mask of the lanes that satisfy a test. -/
def maskOf (n : Nat) (p : Nat → Bool) : Mask :=
  (List.range n).foldr (fun i (m : Mask) => if p i then m ||| ((1 : Mask) <<< i) else m) 0

/-- The lane numbers of a mask, ascending. -/
def lanesOf (m : Mask) : List Nat := (List.range 64).filter (maskBit m)

/-- How many lanes a mask holds. -/
def maskCount (m : Mask) : Nat := (lanesOf m).length

/-- Bits lo to lo + n − 1 of a word, as a number. -/
def bitsOf {w : Nat} (x : BitVec w) (lo n : Nat) : Nat := x.toNat / 2 ^ lo % 2 ^ n

/-- A 64-bit value of a low and a high word (02 R37). -/
def pair64 (lo hi : Word) : DWord := hi ++ lo

/-- The low and the high word of a 64-bit value. -/
def lo32 (x : DWord) : Word := x.setWidth 32
def hi32 (x : DWord) : Word := (x >>> 32).setWidth 32

end Machine
end Sys2Proof
end

