-- ==== Sys2Proof/Machine/Base.lean ====
section
/-! DEFINITION. Reading and writing the parts of the state by name: slots, scheduler partitions, cores, clusters,
partitions, groups and their registers. -/

namespace Sys2Proof.Machine

/-! Numbering (00 R8). A slot's number is (core × 4 + SP) × 17 + slot; slot 16 is the debug slot (20 R343). -/

def gidOf (core sp slot : Nat) : Nat := (core * 4 + sp) * 17 + slot
def slotOf (gid : Nat) : Nat := gid % 17
def spIdOf (gid : Nat) : Nat := gid / 17
def spOf (gid : Nat) : Nat := gid / 17 % 4
def coreOf (gid : Nat) : Nat := gid / 68
def clusterOf (gid : Nat) : Nat := gid / 272
def dieOfCluster (c : Nat) : Nat := c / 48
def quadOfCluster (c : Nat) : Nat := c / 12
def dieOf (gid : Nat) : Nat := dieOfCluster (clusterOf gid)
def dieOfCore (core : Nat) : Nat := core / 192

def State.sp (s : State) (i : Nat) : Sp := s.sps.getD i Sp.reset
def State.setSp (s : State) (i : Nat) (x : Sp) : State := { s with sps := s.sps.set i x }
def State.core (s : State) (i : Nat) : Core := s.cores.getD i Core.reset
def State.setCore (s : State) (i : Nat) (x : Core) : State := { s with cores := s.cores.set i x }
def State.cluster (s : State) (i : Nat) : Cluster := s.clusters.getD i Cluster.reset
def State.setCluster (s : State) (i : Nat) (x : Cluster) : State := { s with clusters := s.clusters.set i x }
def State.die (s : State) (i : Nat) : Die := s.dies.getD i Die.reset
def State.setDie (s : State) (i : Nat) (x : Die) : State := { s with dies := s.dies.set i x }
def State.modDie (s : State) (i : Nat) (f : Die → Die) : State := s.setDie i (f (s.die i))
def State.part (s : State) (i : Nat) : Part := s.parts.getD i Part.reset
def State.setPart (s : State) (i : Nat) (x : Part) : State := { s with parts := s.parts.set i x }
def State.modPart (s : State) (i : Nat) (f : Part → Part) : State := s.setPart i (f (s.part i))
def State.modCore (s : State) (i : Nat) (f : Core → Core) : State := s.setCore i (f (s.core i))
def State.modCluster (s : State) (i : Nat) (f : Cluster → Cluster) : State := s.setCluster i (f (s.cluster i))
def State.modSp (s : State) (i : Nat) (f : Sp → Sp) : State := s.setSp i (f (s.sp i))
def State.group? (s : State) (gid : Nat) : Option Group := s.groups.get? gid
def State.setGroup (s : State) (gid : Nat) (g : Group) : State := { s with groups := s.groups.set gid g }
def State.modGroup (s : State) (gid : Nat) (f : Group → Group) : State := { s with groups := s.groups.modify gid f }
def State.setOp (s : State) (i : Nat) (o : Op) : State := { s with ops := s.ops.set i o }
def State.dropOp (s : State) (i : Nat) : State := { s with ops := s.ops.erase i }
def State.setTeam (s : State) (i : Nat) (t : Team) : State := { s with teams := s.teams.set i t }
def State.modTeam (s : State) (i : Nat) (f : Team → Team) : State := { s with teams := s.teams.modify i f }
def State.setGrid (s : State) (i : Nat) (g : Grid) : State := { s with grids := s.grids.set i g }
def State.modGrid (s : State) (i : Nat) (f : Grid → Grid) : State := { s with grids := s.grids.modify i f }

/-- The group of the issue being made. -/
def State.curGroup? (s : State) : Option Group := s.group? s.cur.gid

/-- Take n unused numbers. -/
def State.takeFresh (s : State) (n : Nat) : State := { s with fresh := s.fresh + n }

/-! BAR0 registers (22 R370). -/

def Part.reg (p : Part) (off : Nat) : DWord := p.bar.get off
def Part.setReg (p : Part) (off : Nat) (x : DWord) : Part := { p with bar := p.bar.set off x }

/-- CTXST.STATE (22 R372): 0 NONE, 1 LOADING, 2 LOADED, 3 UNLOADING. -/
def Part.ctxState (p : Part) : Nat := bitsOf (p.reg 0x120) 0 2
def Part.setCtx (p : Part) (st err : Nat) : Part := p.setReg 0x120 (BitVec.ofNat 64 (err % 256 * 256 + st % 4))

/-- PREEMPTST.STATE (18 R328): 0 RUNNING, 1 DRAINING, 2 DRAINED, 3 RESET. -/
def Part.preempt (p : Part) : Nat := bitsOf (p.reg 0x348) 0 2
def Part.setPreempt (p : Part) (st : Nat) : Part := p.setReg 0x348 (BitVec.ofNat 64 st)

/-- DBGCTL and DBGVEC (20 R342). -/
def Part.domainBit (p : Part) : Bool := (p.reg 0x388).getLsbD 2
def Part.lullTrap (p : Part) : Bool := (p.reg 0x388).getLsbD 1
def Part.resident (p : Part) : Bool := (p.reg 0x388).getLsbD 0 && p.reg 0x380 != 0

/-- How many clusters a partition has, P (03 R70). -/
def Part.count (p : Part) : Nat := p.clusters.length

/-- The place of a number in a list. -/
def indexIn (xs : List Nat) (x : Nat) : Option Nat :=
  match xs with
  | [] => none
  | y :: r => if y = x then some 0 else (indexIn r x).map (· + 1)

/-- The partition-relative number of a cluster (03 R70). -/
def Part.relCluster (p : Part) (c : Nat) : Nat := (indexIn p.clusters c).getD 0

/-- The linear number of a partition-relative cluster. -/
def Part.linCluster (p : Part) (r : Nat) : Option Nat := p.clusters[r]?

/-- The scheduler partitions of a partition, ascending. -/
def Part.spList (p : Part) : List Nat := p.clusters.flatMap fun c => upTo (c * 16) 16

/-- The cores of a partition, ascending. -/
def Part.coreList (p : Part) : List Nat := p.clusters.flatMap fun c => upTo (c * 4) 4

/-- The cycle count that concerns a slot: the job's unfrozen cycles (20 R348), or in the debug slot the package's. -/
def State.timeOf (s : State) (part gid : Nat) : Nat := if slotOf gid = 16 then s.now.toNat else (s.part part).clock

/-- The issue of a step has been made, and its accesses and fills go on (20 R352). -/
def State.stepping (s : State) (gid : Nat) : Bool := (s.sp (spIdOf gid)).step == 2

/-- The partition that owns a cluster. -/
def State.partOfCluster (s : State) (c : Nat) : Option Nat :=
  (s.parts.find? fun x => x.2.clusters.contains c).map (·.1)

/-- Host requests reach the functions of a partition: the link is up, the device is not in reset or recovery, and memory
space is enabled, which a function without clusters refuses (18 R334, R335; 22 R369, R381). -/
def State.hostOpen (s : State) (part : Nat) : Bool :=
  !s.hostLost && !s.devResetting && !s.mc.recovery && (s.part part).memEnable

/-! Control registers (02 R39). -/

/-- The reset value of a control register of context, partition or device scope. -/
def crReset (n : Nat) : Word :=
  if n = 0x12 then 0x00434566 else if n = 0x18 then 1024 else if n = 0x20 then 65536 else if n = 0x21 then 0x11
  else if n = 0x29 then 4096 else if n = 0x4B then 65536 else if n = 0x50 then 16777216 else if n = 0x93 then 4096 else 0

def Part.cr (p : Part) (n : Nat) : Word := (p.crs.get? n).getD (crReset n)
def Part.setCr (p : Part) (n : Nat) (x : Word) : Part := { p with crs := p.crs.set n x }
def Part.cr64 (p : Part) (n : Nat) : DWord := pair64 (p.cr n) (p.cr (n + 1))

/-- cr.TRAPVEC of a context (18 R321). -/
def Part.trapVec (p : Part) : DWord := p.cr64 0x40

/-- V, the ACTIVE field of cr.VIEWNEST (11 R233). -/
def Part.viewV (p : Part) : Nat := bitsOf (p.cr 0x21) 4 2

/-- cr.BINTIMER in cycles; 0 acts as 1 (16 R304). -/
def Part.binTimer (p : Part) : Nat := max 1 (p.cr 0x18).toNat

def Group.cr (g : Group) (n : Nat) : Word := g.crs.get n
def Group.setCr (g : Group) (n : Nat) (x : Word) : Group := { g with crs := g.crs.set n x }
def Group.cr64 (g : Group) (n : Nat) : DWord := pair64 (g.cr n) (g.cr (n + 1))
def Group.setCr64 (g : Group) (n : Nat) (x : DWord) : Group := (g.setCr n (lo32 x)).setCr (n + 1) (hi32 x)

/-! Lanes. -/

/-- Change lanes by number. -/
def mapLanes (f : Nat → Lane → Lane) : Nat → List Lane → List Lane
  | _, [] => []
  | j, l :: r => f j l :: mapLanes f (j + 1) r

def Group.modLanes (g : Group) (f : Nat → Lane → Lane) : Group := { g with lanes := mapLanes f 0 g.lanes }

/-- Change the lanes of a mask. -/
def Group.onMask (g : Group) (m : Mask) (f : Lane → Lane) : Group :=
  g.modLanes fun j l => if maskBit m j then f l else l

def Group.lane (g : Group) (j : Nat) : Lane := (g.lanes[j]?).getD Lane.none

/-- The lanes that satisfy a test, as a mask. -/
def Group.lanesWhere (g : Group) (p : Lane → Bool) : Mask := maskOf g.lanes.length fun j => p (g.lane j)

def Lane.isLive (l : Lane) : Bool := l.st == .live

/-- k0, the live mask (01 R15, 02 R37). -/
def Group.liveMask (g : Group) : Mask := g.lanesWhere Lane.isLive

/-- A lane is held at its meeting point (01 R19). -/
def Lane.held (l : Lane) : Bool := l.isLive && !l.parked && l.meet != 0 && l.pc == l.meet && !l.rel

/-- A lane of the candidate set of 01 R17: live, not held, not parked, not waiting at its instruction (13 R264). -/
def Lane.cand (l : Lane) : Bool := l.isLive && !l.parked && !l.held && l.hold.isNone

/-- Threads of the lanes of a mask. -/
def Group.tidsOf (g : Group) (m : Mask) : List Nat := (lanesOf m).map fun j => (g.lane j).tid

/-! Registers (02 R35 to R37). -/

def Group.vr (g : Group) (n j : Nat) : Word := g.v.get (n * 64 + j)

/-- A scalar as an instruction reads it: s60 MSGDST, s61 zero, s62 the claimed flit, s63 MSGSRC (02 R37). -/
def Group.sr (g : Group) (n : Nat) : Word :=
  if n < 60 then g.s.get n
  else if g.kind = .debug then 0
  else if n = 60 then g.msgDst else if n = 61 then 0 else if n = 62 then g.rx else g.msgSrc

def Group.kr (g : Group) (n : Nat) : Mask := if n = 0 then g.liveMask else g.k.get n
def Group.tw (g : Group) (t w : Nat) : Word := g.t.get (t * 1024 + w)
def Group.sr64 (g : Group) (n : Nat) : DWord := pair64 (g.sr n) (g.sr (n + 1))
def Group.vr64 (g : Group) (n j : Nat) : DWord := pair64 (g.vr n j) (g.vr (n + 1) j)

def Group.setVr (g : Group) (n j : Nat) (x : Word) : Group := { g with v := g.v.set (n * 64 + j) x }
def Group.setKr (g : Group) (n : Nat) (x : Mask) : Group := if n = 0 then g else { g with k := g.k.set n x }
def Group.setTw (g : Group) (t w : Nat) (x : Word) : Group := { g with t := g.t.set (t * 1024 + w) x }

/-- A vector register written in the lanes of a mask (01 R16). -/
def Group.writeV (g : Group) (n : Nat) (m : Mask) (f : Nat → Word) : Group :=
  { g with v := Store.setAll ((lanesOf m).map fun j => (n * 64 + j, f j)) g.v }

/-- The address of a group as MSGDST lays it out (13 R273). -/
def State.addrOf (s : State) (part gid : Nat) : Word :=
  BitVec.ofNat 32 ((s.part part).relCluster (clusterOf gid) * 65536 + coreOf gid % 4 * 256 + spOf gid * 16 + slotOf gid)

/-- A write of a scalar: s60 sets MSGDST, with SELF loading the group's own address; s61 to s63 hold nothing (02 R37, 13
R273). In the debug slot s60 to s63 ignore writes (20 R343). -/
def State.writeS (s : State) (gid : Nat) (g : Group) (n : Nat) (x : Word) : Group :=
  if n < 60 then { g with s := g.s.set n x }
  else if g.kind = .debug then g
  else if n = 60 then
    { g with msgDst := if x.getLsbD 31 then s.addrOf g.part gid else x &&& 0x00FF033F }
  else g

/-- A pair of scalars, low word first (02 R37). -/
def State.writeS2 (s : State) (gid : Nat) (g : Group) (n : Nat) (x : DWord) : Group :=
  s.writeS gid (s.writeS gid g n (lo32 x)) (n + 1) (hi32 x)

/-- A register is allotted to the group (02 R36). -/
def Group.has (g : Group) : Reg → Bool
  | .v n => decide (n < g.nv)
  | .s n => decide (n < g.ns) || (decide (60 ≤ n) && decide (n < 64))
  | .k n => decide (n < 16)
  | .t n => decide (n < g.nt)

/-- A register's full/empty bit says empty; k0 never does (02 R38). -/
def Group.isEmpty (g : Group) (r : Reg) : Bool := g.empty.contains r

def Group.markEmpty (g : Group) (rs : List Reg) : Group := { g with empty := g.empty ++ rs }
def Group.markFull (g : Group) (rs : List Reg) : Group := { g with empty := g.empty.filter fun r => !rs.contains r }

/-- Apply the register writes of a producer; data for a register whose entry a debugger removed is discarded (20 R358), and an exited
lane keeps no values (08 R175). -/
def State.applyWrites (s : State) (o : Op) (ws : List RegWrite) (g : Group) : Group :=
  (ws.filter fun w => o.dests.contains w.reg).foldl (fun g w => match w.reg with
    | .v n => if (g.lane w.lane).st = .exited then g else g.setVr n w.lane (lo32 w.val)
    | .s n => s.writeS o.gid g n (lo32 w.val)
    | .k n => g.setKr n w.val
    | .t n => g.setTw n w.lane (lo32 w.val)) g

/-! Accesses an event must follow (04 R99, 13 R276). -/

/-- The number of the token's accesses is below its bound, they belong to its threads and travel on LS. -/
def Tok.holds (t : Tok) (i : Nat) (a : Acc) : Bool :=
  decide (i < t.bound) && a.path == .ls && a.who.any fun x => t.tids.contains x.1

/-- Every access of the token has been performed. -/
def State.tokDone (s : State) (t : Tok) : Bool := !s.accs.any fun x => t.holds x.1 x.2

/-- What the accesses of any of some threads follow. -/
def Sync.join (a b : Sync) : Sync := ⟨a.acq ||| b.acq, a.all ||| b.all, b.saw.filter (fun x => !a.saw.contains x) ++ a.saw⟩
def Group.syncOf (g : Group) (ls : List Nat) : Sync := ls.foldl (fun x j => x.join (g.lane j).sync) ⟨0, 0, []⟩

/-- The accesses issued by the lanes of a mask so far, or before the instruction that has now claimed its flit (13 R275). -/
def State.tokOf (s : State) (g : Group) (m : Mask) : Tok :=
  { tids := g.tidsOf m, bound := s.cur.defer.getD s.fresh, saw := (g.syncOf (lanesOf m)).saw }

end Sys2Proof.Machine
end

