-- ==== Sys2Proof/Machine/Order.lean ====
section
/-! DEFINITION. Which agents see a store (04 R91 to R96): a store that is not performed for every agent stands in `State.late` with what
each byte held before it, and a viewer that need not see it reads that. What makes agents see it: coherence, releases, fences,
completions, and the agenda (log entry 4). -/

namespace Sys2Proof.Machine

/-- The path of a number. -/
def Path.ofNum (n : Nat) : Path :=
  if n = 0 then .ls else if n = 1 then .cp else if n = 2 then .mx else if n = 3 then .gx else if n = 4 then .co else .sn

/-- Every path. -/
def Path.all : List Path := [.ls, .cp, .mx, .gx, .co, .sn]

/-- Who reads bytes. -/
structure Viewer where
  path : Path
  team : Nat
  who : List Nat
  stream : Nat
  /-- The access lies on an SO page: it is a member of every stream (04 R98). -/
  so : Bool
  /-- The operations whose bytes the reader has acquired (06 R136, 12 R258, 13 R281). -/
  saw : List (Nat × Nat)
  /-- A load that nothing orders takes no store from this place on, unless it must: an older copy (04 R94). -/
  upTo : Option Nat
  /-- How far a store must be performed to be seen: 0 sees every store, 2 an agent of the package, 3 one of another package, 4 the
  host (04 R93). -/
  far : Nat
  deriving DecidableEq, Repr

/-- A viewer that sees every store. -/
def Viewer.all : Viewer := { path := .ls, team := 0, who := [], stream := 0, so := false, saw := [], upTo := none, far := 0 }

/-- An engine of a package that reads on a path for a team. -/
def Viewer.engine (path : Path) (team : Nat) : Viewer := { Viewer.all with path, team, far := 2 }

/-- How far a store is performed with respect to a path: 0 for no other agent, 1 in its team, 2 in the device, 3 in the domain, 4 in the
system (04 R93). -/
def Reach.level (r : Reach) (p : Path) : Nat :=
  match p with
  | .ls => r.ls | .cp => r.cp | .mx => r.mx | .gx => r.gx | .co => r.co | .sn => r.sn
def Late.level (e : Late) (p : Path) : Nat := e.reach.level p

/-- Performed with respect to a path at a level at least. -/
def Reach.raise (r : Reach) (p : Path) (n : Nat) : Reach :=
  match p with
  | .ls => { r with ls := max n r.ls } | .cp => { r with cp := max n r.cp } | .mx => { r with mx := max n r.mx }
  | .gx => { r with gx := max n r.gx } | .co => { r with co := max n r.co } | .sn => { r with sn := max n r.sn }

/-- Performed for no other agent. -/
def Reach.none : Reach := ⟨0, 0, 0, 0, 0, 0⟩

/-- The store is performed with respect to a path at a scope around an agent of a team (04 R93): team scope is that team's. -/
def Late.raise (e : Late) (p : Path) (n team : Nat) : Late :=
  if n = 1 ∧ team ≠ e.team then { e with teams := (p, team) :: e.teams } else { e with reach := e.reach.raise p n }

/-- The store's bytes are among those an acquire of an operation's bytes covers (06 R136, 12 R258, 13 R281). -/
def Late.among (e : Late) (saw : List (Nat × Nat)) : Bool := saw.any fun x => x.1 == e.src.1 && decide (e.src.2 ≤ x.2)

/-- A viewer must see the store: by coherence, for an earlier access of its thread in the stream or on an SO page (04 R95); or its bytes
have been acquired. -/
def Late.must (e : Late) (v : Viewer) : Bool :=
  (v.path == .ls && e.seen.any fun x => v.who.contains x.tid && (v.so || x.stream == 16 || x.stream == v.stream)) || e.among v.saw

/-- The store is performed for a viewer (04 R93, R94). -/
def Late.reaches (e : Late) (v : Viewer) : Bool :=
  decide (v.far ≤ e.level v.path) ||
  (v.far == 2 && ((e.level v.path == 1 && e.team == v.team) || e.teams.contains (v.path, v.team)))

/-- A viewer may see the store: it is performed for it, or its own thread's (04 R96). -/
def Late.open (e : Late) (v : Viewer) : Bool := e.reaches v || (v.path == .ls && v.who.any e.who.contains)

/-- The place from which on a viewer sees no store, of those on one cell: it sees what it must, and what it may up to its own bound. -/
def Late.horizon (v : Viewer) (es : List Late) : Nat :=
  es.foldl (fun n e =>
    if e.must v || (e.open v && (match v.upTo with | some b => decide (e.stamp < b) | none => true)) then max n (e.stamp + 1) else n) 0

/-- The value of a byte before the stores from a place on, of those that lag, newest first. -/
def byteBefore (n : Nat) : List Late → Byte → Byte
  | [], b => b
  | e :: r, b => if e.stamp < n then b else byteBefore n r e.old

/-- The stores that lag on a cell, newest first. -/
def State.lags (s : State) (cell : Nat) : List Late := s.late.cells.getD cell []

/-- The place up to which a viewer sees stores over some cells: an access within one atomic unit sees each store whole (03 R79). -/
def State.horizon (s : State) (v : Viewer) (cells : List Nat) : Nat :=
  cells.foldl (fun n c => max n (Late.horizon v (s.lags c))) 0

/-- The n bytes a viewer reads from a location. -/
def State.viewBytes (s : State) (v : Viewer) (l : Loc) (n : Nat) : List Byte :=
  (upTo l.cell n).map fun c => byteBefore (s.horizon v (upTo l.cell n)) (s.lags c) (Memory.byte s.mem c)

/-- A cell lies in a run. -/
def inRun (first n cell : Nat) : Bool := decide (first ≤ cell) && decide (cell < first + n)

/-- The stores of some cells are performed for every agent. -/
def State.settle (s : State) (p : Nat → Bool) : State :=
  { s with late := { s.late with cells := s.late.cells.keep fun c _ => !p c } }

/-- A store is performed for every agent, and with it every older one of its bytes. -/
def State.settleStore (s : State) (stamp : Nat) : State :=
  { s with late := { s.late with cells := (s.late.cells.mapVal fun _ (es : List Late) =>
      if es.any (·.stamp == stamp) then es.filter (fun e => decide (stamp < e.stamp)) else es).keep fun _ es => !es.isEmpty } }

/-- Put a store on the cells of a run, each with what it holds now. -/
def pushLate (e : Late) (m : Store 8) (cells : List Nat) (t : Tab (List Late)) : Tab (List Late) :=
  cells.foldl (fun t c => t.set c ({ e with old := Memory.byte m c } :: t.getD c [])) t

/-- Write bytes: for every agent, or as the stores of the event under way lag. -/
def State.store (s : State) (l : Loc) (bs : List Byte) : State :=
  match s.late.now with
  | none => { s.settle (inRun l.cell bs.length) with mem := Memory.write s.mem l bs }
  | some e =>
    { s with
      mem := Memory.write s.mem l bs
      late := { cells := pushLate e s.mem (upTo l.cell bs.length) s.late.cells, now := some { e with stamp := e.stamp + 1 } } }

/-- Clear bytes for every agent. -/
def State.clearCells (s : State) (p : Nat → Bool) : State := { s.settle p with mem := s.mem.drop p }

/-- Change stores that lag. -/
def State.onLate (s : State) (f : Nat → Late → Late) : State :=
  { s with late := { s.late with cells := s.late.cells.mapVal fun c (es : List Late) => es.map (f c) } }

/-- Stores are performed with respect to some paths at a scope around an agent of a team. -/
def State.publish (s : State) (f : Nat → Late → Bool) (ps : List Path) (n team : Nat) : State :=
  s.onLate fun c e => if f c e then ps.foldl (fun e p => e.raise p n team) e else e

/-- Threads must see stores from now on. -/
def State.observe (s : State) (f : Nat → Late → Bool) (xs : List Seen) : State :=
  s.onLate fun c e => if f c e then { e with seen := xs ++ e.seen } else e

/-- A store is one of those that a release orders (04 R99, R101): an access of its threads below a bound, in its streams or on an SO page,
made or returned it, or its bytes had been acquired; a fence and a barrier order accesses on UO pages too (R98). -/
def Late.earlier (e : Late) (tids : List Nat) (saw : List (Nat × Nat)) (streams : BitVec 16) (uo : Bool) (bound : Nat) : Bool :=
  e.among saw ||
  e.seen.any fun x => tids.contains x.tid && (x.stream == 16 || streams.getLsbD x.stream) && (uo || !x.uo) && decide (x.acc < bound)

/-- Every stream. -/
def allStreams : BitVec 16 := 0xFFFF

/-- A release on every stream, of the accesses of a token (04 R99; 23 R385). -/
def State.releaseTok (s : State) (t : Tok) (uo : Bool) (ps : List Path) (n team : Nat) : State :=
  s.publish (fun _ e => e.earlier t.tids t.saw allStreams uo t.bound) ps n team

/-- Releases of several tokens. -/
def State.releaseToks (s : State) (ts : List Tok) (uo : Bool) (ps : List Path) (n team : Nat) : State :=
  ts.foldl (fun s t => s.releaseTok t uo ps n team) s

/-! Acquires: what a thread's later accesses follow. -/

/-- Later accesses in some streams follow an acquire (04 R99), or a fence or a barrier pass (R101, R104). -/
def Lane.acquire (l : Lane) (m : BitVec 16) : Lane := { l with sync := { l.sync with acq := l.sync.acq ||| m } }
def Lane.fenced (l : Lane) (m : BitVec 16) : Lane := { l with sync := { l.sync with all := l.sync.all ||| m } }

/-- The thread has acquired the bytes of an operation, up to a number of bytes of its image (06 R136, 12 R258, 13 R281). -/
def Lane.sees (l : Lane) (op n : Nat) : Lane :=
  { l with sync := { l.sync with saw := (op, n) :: l.sync.saw.filter fun x => !(x.1 == op && decide (x.2 ≤ n)) } }

/-- A thread's later snapshot operations reach the store after some others (12 R256): an issue of such an operation counts as its bytes up to
0, which are none. -/
def Lane.snapFollows (l : Lane) (saw : List (Nat × Nat)) : Lane := (saw.filter fun x => x.2 == 0).foldl (fun l x => l.sees x.1 0) l

/-- What the threads of some tokens had acquired. -/
def sawOf (ts : List Tok) : List (Nat × Nat) := ts.flatMap (·.saw)

/-- The first issue that reads a register a producer has filled acquires for its active set; a register that is written again is no
longer that fill's (23 R385). -/
def Group.readsFirst (g : Group) (m : Mask) (reads writes : List Reg) : Group :=
  let hit := g.acquires.filter fun a => a.regs.any reads.contains
  let rest := (g.acquires.filter fun a => !a.regs.any reads.contains).map fun a => { a with regs := a.regs.filter fun r => !writes.contains r }
  { hit.foldl (fun (g : Group) a => g.onMask (m &&& a.lanes) fun l => match a.op with
      | none => l.acquire allStreams
      | some op => l.sees op (2 ^ 64)) g with
    acquires := rest.filter fun a => !a.regs.isEmpty }

/-- A producer's fill whose first reader acquires. -/
def Group.acquireAt (g : Group) (regs : List Reg) (op : Option Nat) : Group :=
  if regs.isEmpty then g else { g with acquires := { regs, op, lanes := BitVec.allOnes 64 } :: g.acquires }

end Sys2Proof.Machine
end

