-- ==== Sys2Proof/Machine/Translate.lean ====
section
/-! DEFINITION. From an address to the places an access reaches: windows, page tables, rights, ranges and atomic units (03
R68 to R79, R90). A cause is a number of 18 R316. -/

namespace Sys2Proof.Machine

/-- What an access needs of its page (03 R74). -/
inductive Need where
  | load | store | atomic | fetch
  deriving DecidableEq, Repr

/-- A cause with the address it is raised for. -/
structure Cause where
  code : Nat
  va : DWord
  deriving DecidableEq, Repr

/-- The rank of a cause among those of one lane (04 R88). -/
def causeRank (c : Nat) : Nat :=
  if c = 7 then 1 else if c = 8 ∨ c = 9 then 2 else if c = 10 then 3 else if c = 11 then 4 else if c = 13 then 5
  else if c = 12 then 6 else if c = 67 then 7 else if c = 14 then 8 else if c = 15 then 9 else if c = 16 then 10 else 11

/-- Bits 63:56 all equal bit 55 (03 R68). -/
def canonical (va : DWord) : Bool := va.toNat / 2 ^ 55 == 0 || va.toNat / 2 ^ 55 == 511

def inScratchWindow (va : DWord) : Bool := va.toNat / 2 ^ 32 == 0x00FFFF00
def inVaultWindow (va : DWord) : Bool := va.toNat / 2 ^ 32 == 0x00FFFE00

/-! The fields of a page-table entry (03 R72). -/

def pteV (e : DWord) : Bool := e.getLsbD 0
def pteR (e : DWord) : Bool := e.getLsbD 1
def pteW (e : DWord) : Bool := e.getLsbD 2
def pteX (e : DWord) : Bool := e.getLsbD 3
def pteOk (e : DWord) : Nat := bitsOf e 4 2
def pteMk (e : DWord) : Nat := bitsOf e 6 3
def pteCc (e : DWord) : Nat := bitsOf e 9 2
def pteLz (e : DWord) : Bool := e.getLsbD 11
def pteLf (e : DWord) : Bool := e.getLsbD 12
def pteCg (e : DWord) : Bool := e.getLsbD 13
/-- The target address: bits 55:12 from ADDR. -/
def pteAddr (e : DWord) : Nat := bitsOf e 16 44 * 4096

/-- The size of the page a leaf maps (03 R71). -/
def pageSize (level : Nat) (cg : Bool) : Nat :=
  if level = 1 then 2 ^ 29 else if level = 2 then (if cg then 2 ^ 25 else 2 ^ 21) else (if cg then 2 ^ 16 else 2 ^ 12)

/-- An entry is malformed (03 R73). -/
def pteMalformed (level : Nat) (e : DWord) : Bool :=
  bitsOf e 60 4 != 0 || bitsOf e 14 2 != 0 || (pteLf e && level == 0) || (!pteLf e && level == 3) ||
  (if pteLf e then
    (pteCg e && level == 1) || pteAddr e % pageSize level (pteCg e) != 0 || (!pteR e && pteW e) ||
    decide (5 ≤ pteMk e) || pteOk e == 3 || (pteMk e == 1 && decide (2 ^ 32 ≤ pteAddr e))
  else pteCg e || bitsOf e 1 11 != 0)

/-- Size in bytes of the table of a level (03 R71). -/
def tableSize (level : Nat) : Nat :=
  if level = 0 then 2 ^ 17 else if level = 1 then 2 ^ 16 else if level = 2 then 2 ^ 11 else 2 ^ 12

/-- The index of an address at a level (03 R71). -/
def tableIndex (level : Nat) (va : DWord) : Nat :=
  if level = 0 then bitsOf va 42 14 else if level = 1 then bitsOf va 29 13 else if level = 2 then bitsOf va 21 8
  else bitsOf va 12 9

/-- Read a 64-bit word of the HBM share. -/
def State.hbm64 (s : State) (part off : Nat) : DWord :=
  BitVec.ofNat 64 (ofBytes (Memory.read s.mem ⟨.hbm, part, off⟩ 8))

/-- The line of a cell is poisoned (03 R81). -/
def State.poisoned (s : State) (l : Loc) : Bool := s.poison.contains (l.cell / 64)

/-- The walk of 03 R74 from a table at a level on: the leaf and its page size, or a cause. -/
def walkFrom (s : State) (part : Nat) (va : DWord) : Nat → Nat → Nat → Except Nat (DWord × Nat)
  | 0, _, _ => .error 11
  | fuel + 1, level, table =>
    if (s.part part).hbmSize < table + tableSize level then .error 67
    else
      let off := table + 8 * tableIndex level va
      let e := s.hbm64 part off
      if s.poisoned ⟨.hbm, part, off⟩ then .error 64
      else if !pteV e then .error 10
      else if pteMalformed level e then .error 11
      else if pteLf e then .ok (e, pageSize level (pteCg e))
      else walkFrom s part va fuel (level + 1) (pteAddr e)

/-- The walk from the root named by CTXROOT (22 R372). -/
def State.walk (s : State) (part : Nat) (va : DWord) : Except Nat (DWord × Nat) :=
  walkFrom s part va 4 0 (bitsOf ((s.part part).reg 0x100) 17 39 * 2 ^ 17)

/-- The translation for an address among some. -/
def tlbFind (ts : List Tlb) (part : Nat) (va : DWord) : Option Tlb :=
  ts.find? fun t => t.part == part && decide (t.base ≤ va.toNat) && decide (va.toNat < t.base + t.size)

/-- The translation that a core's access finds, and the level at which: 0 in the core's TLB, 1 in the cluster's, 2 in the die's; an engine
without a core looks in the TLB of any die (03 R77). -/
def State.tlbHit (s : State) (core : Option Nat) (part : Nat) (va : DWord) : Option (Nat × Tlb) :=
  match core with
  | some c =>
    ((tlbFind (s.core c).tlb part va).map fun t => (0, t)).or
      (((tlbFind (s.cluster (c / 4)).tlb part va).map fun t => (1, t)).or
        ((tlbFind (s.die (dieOfCore c)).tlb part va).map fun t => (2, t)))
  | none => (s.dies.findSome? fun d => tlbFind d.2.tlb part va).map fun t => (2, t)

/-- A TLB takes a translation, and keeps to its size (03 R77; which one it gives up: log entry 60). -/
def tlbPush (size : Nat) (t : Tlb) (ts : List Tlb) : List Tlb := if ts.contains t then ts else (t :: ts).take size

/-- A hit at one level fills the levels above it (03 R77). -/
def State.tlbFill (s : State) (core part : Nat) (va : DWord) : State :=
  match s.tlbHit (some core) part va with
  | some (n + 1, t) =>
    let s1 := s.modCore core fun c => { c with tlb := tlbPush 64 t c.tlb }
    if n = 0 then s1 else s1.modCluster (core / 4) fun c => { c with tlb := tlbPush 1024 t c.tlb }
  | _ => s

/-- Every TLB gives up translations. -/
def State.tlbDrop (s : State) (f : Tlb → Bool) : State :=
  { s with
    cores := s.cores.mapVal fun _ (c : Core) => { c with tlb := c.tlb.filter fun t => !f t }
    clusters := s.clusters.mapVal fun _ (c : Cluster) => { c with tlb := c.tlb.filter fun t => !f t }
    dies := s.dies.mapVal fun _ (d : Die) => { d with tlb := d.tlb.filter fun t => !f t } }

/-- One TLB, of a core (0), a cluster (1) or a die, gives up translations. -/
def State.evictTlb (s : State) (level unit : Nat) (f : Tlb → Bool) : State :=
  if level = 0 then s.modCore unit fun c => { c with tlb := c.tlb.filter fun t => !f t }
  else if level = 1 then s.modCluster unit fun c => { c with tlb := c.tlb.filter fun t => !f t }
  else s.modDie unit fun d => { d with tlb := d.tlb.filter fun t => !f t }

/-- The entry, page size and whether a walk was needed. -/
def State.leafOf (s : State) (core : Option Nat) (part : Nat) (va : DWord) : Except Nat (DWord × Nat × Bool) :=
  match s.tlbHit core part va with
  | some (_, t) => .ok (t.pte, t.size, false)
  | none => (s.walk part va).map fun x => (x.1, x.2, true)

def okOf (n : Nat) : OKind := if n = 0 then .so else if n = 1 then .rc else .uo

/-- Atomic unit of a memory (03 R79). -/
def Space.unit : Space → Nat
  | .scratch => 64 | .vault => 64 | .hbm => 32 | .tier => 16 | .host => 8 | .peer => 16

/-- A vault-window offset of a partition: the vault and byte, or none out of range (03 R70). -/
def Part.vaultLoc (p : Part) (off n : Nat) : Option Loc :=
  match p.linCluster (off / 2 ^ 24) with
  | some c => if off % 2 ^ 24 + n ≤ 2 ^ 24 then some ⟨.vault, c, off % 2 ^ 24⟩ else none
  | none => none

/-- The place of n bytes at a translated target, by memory kind, or a cause (03 R72, 18 R331). -/
def State.target (s : State) (part mk t n : Nat) : Except Nat Loc :=
  let p := s.part part
  if mk = 0 then (if t + n ≤ p.hbmSize then .ok ⟨.hbm, part, t⟩ else .error 67)
  else if mk = 1 then (match p.vaultLoc (t % 2 ^ 32) n with | some l => .ok l | none => .error 9)
  else if mk = 2 then (if t + n ≤ p.tierSize then .ok ⟨.tier, part, t⟩ else .error 67)
  else if mk = 3 then .ok ⟨.host, part, t⟩
  else .ok ⟨.peer, t / 2 ^ 46, t % 2 ^ 46⟩

/-- The rights of a leaf suffice (03 R74). -/
def rightsOk (need : Need) (e : DWord) : Bool :=
  match need with
  | .load => pteR e | .store => pteW e | .atomic => pteR e && pteW e | .fetch => pteX e

/-- Translate n bytes of one page at a canonical address (03 R74, 18 R331): place, ordering kind, page size and whether it was walked,
or a cause. -/
def State.translate (s : State) (core : Option Nat) (part : Nat) (need : Need) (va : DWord) (n : Nat) :
    Except Nat (Loc × OKind × Nat × Bool) :=
  match s.leafOf core part va with
  | .error c => .error c
  | .ok (e, size, walked) =>
    if pteLz e then .error 13
    else if !rightsOk need e then .error 12
    else
      match s.target part (pteMk e) (pteAddr e / size * size + va.toNat % size) n with
      | .error c => .error c
      | .ok l => .ok (l, okOf (pteOk e), size, walked)

/-- Split a run of bytes at a place into aligned units: offset and length of each (03 R79). -/
def splitUnits (unit : Nat) : Nat → Nat → Nat → List (Nat × Nat)
  | 0, _, _ => []
  | fuel + 1, off, n =>
    if n = 0 then []
    else
      let k := min n (unit - off % unit)
      (off, k) :: splitUnits unit fuel (off + k) (n - k)

/-- The pieces of a run that lies at one place. -/
def piecesAt (l : Loc) (ok : OKind) (boff : Nat) (va : DWord) (page : Nat × Nat) (walk : Option Nat) (n : Nat) : List Piece :=
  (splitUnits l.space.unit n l.off n).map fun x =>
    { loc := { l with off := x.1 }, len := x.2, okind := ok, boff := boff + (x.1 - l.off),
      va := va + BitVec.ofNat 64 (x.1 - l.off), page, walk }

/-- Whose addresses are resolved: the partition, the team with its scratchpad limit, the path, and the core, none for an engine that has
none. -/
structure Issuer where
  part : Nat
  team : Nat
  /-- The path of a direct read, none where it sees every store: packets, descriptors and records (04 R91; 16 R295). -/
  path : Option Path
  /-- Bytes of scratchpad the team holds: S, or 2S for a pair; 0 for none (03 R69). -/
  limit : Nat
  core : Option Nat
  deriving DecidableEq, Repr

/-- Scratchpad offset o of the issuer's team (03 R69). -/
def scratchPieces (w : Issuer) (o n : Nat) (va : DWord) : Except Cause (List Piece) :=
  if o + n ≤ w.limit then .ok (piecesAt ⟨.scratch, w.team, o⟩ .rc 0 va (0, 0) none n) else .error ⟨8, va⟩

/-- A vault-window offset (03 R70). -/
def State.vaultPieces (s : State) (w : Issuer) (off n : Nat) (va : DWord) : Except Cause (List Piece) :=
  match (s.part w.part).vaultLoc off n with
  | some l => .ok (piecesAt l .rc 0 va (0, 0) none n)
  | none => .error ⟨9, va⟩

/-- A vault-space offset: bits 31:24 are 0 for the own vault, or 1 + a partition-relative cluster (03 R70). -/
def State.vaultSpace (s : State) (w : Issuer) (off n : Nat) : Except Cause (List Piece) :=
  let va := BitVec.ofNat 64 off
  if off / 2 ^ 24 = 0 then
    if off + n ≤ 2 ^ 24 then .ok (piecesAt ⟨.vault, (w.core.getD 0) / 4, off⟩ .rc 0 va (0, 0) none n) else .error ⟨9, va⟩
  else s.vaultPieces w (off - 2 ^ 24) n va

/-- A canonical run within one page. -/
def State.pagePieces (s : State) (w : Issuer) (need : Need) (va : DWord) (n boff : Nat) : Except Cause (List Piece) :=
  if !canonical va then .error ⟨7, va⟩
  else
    match s.translate w.core w.part need va n with
    | .error c => .error ⟨c, va⟩
    | .ok (l, ok, size, walked) =>
      let base := va.toNat / size * size
      .ok (piecesAt l ok boff va (base, size) (if walked then some base else none) n)

/-- A run from a canonical address ends in the page in which it starts (03 R79). -/
def State.onePage (s : State) (w : Issuer) (va : DWord) (n : Nat) : Bool :=
  match s.leafOf w.core w.part va with
  | .ok (_, size, _) => canonical va && decide (va.toNat % size + n ≤ size)
  | .error _ => false

/-- Of two outcomes of parts of one access, both in order; of two causes the first by 04 R88. -/
def joinPieces (a b : Except Cause (List Piece)) : Except Cause (List Piece) :=
  match a, b with
  | .ok x, .ok y => .ok (x ++ y)
  | .error c, .ok _ => .error c
  | .ok _, .error c => .error c
  | .error c, .error d => if causeRank d.code < causeRank c.code then .error d else .error c

/-- Resolve n bytes (at most 4,096) of flat space (03 R68, R79): the cases in their order, and a split at a page boundary. -/
def State.resolveFlat (s : State) (w : Issuer) (need : Need) (va : DWord) (n : Nat) : Except Cause (List Piece) :=
  if inScratchWindow va then (if need = .fetch then .error ⟨12, va⟩ else scratchPieces w (va.toNat % 2 ^ 32) n va)
  else if inVaultWindow va then
    (if need = .fetch then .error ⟨12, va⟩ else s.vaultPieces w (va.toNat % 2 ^ 32) n va)
  else
    let k := min n (4096 - va.toNat % 4096)
    if k = n ∨ s.onePage w va n then s.pagePieces w need va n 0
    else joinPieces (s.pagePieces w need va k 0) (s.pagePieces w need (va + BitVec.ofNat 64 k) (n - k) k)

/-- Resolve by the space field of the M format (02 R47). -/
def State.resolve (s : State) (w : Issuer) (space : Nat) (need : Need) (ea : DWord) (n : Nat) :
    Except Cause (List Piece) :=
  if space = 0 then s.resolveFlat w need ea n
  else if space = 1 then scratchPieces w (ea.toNat % 2 ^ 32) n (BitVec.ofNat 64 (ea.toNat % 2 ^ 32))
  else s.vaultSpace w (ea.toNat % 2 ^ 32) n

/-- The causes that rank after translation: an ordering qualifier on a UO page, a misaligned atomic, and an operation a
host page does not take (04 R88, R90, R98). -/
def lateCause (qual : Bool) (atomic : Option (Nat × Nat)) (ea : DWord) (ps : List Piece) : Option Cause :=
  if qual && ps.any (·.okind == .uo) then some ⟨14, ((ps.find? (·.okind == .uo)).map (·.va)).getD ea⟩
  else match atomic with
    | none => none
    | some (op, w) =>
      if ea.toNat % w ≠ 0 then some ⟨15, ea⟩
      else if (decide (1 ≤ op) && decide (op ≤ 5)) && ps.any (·.loc.space == .host) then some ⟨16, ea⟩
      else none

/-- Who a group resolves addresses for. -/
def State.issuer (s : State) (gid : Nat) (g : Group) : Issuer :=
  let lim := if g.kind = .ordinary then
      match s.teams.get? g.team with
      | some t => if t.pair then 2 * t.scratch else t.scratch
      | none => 0
    else 0
  { part := g.part, team := g.team, path := some .ls, limit := lim, core := some (coreOf gid) }

/-! Direct reads and writes by engines that perform their accesses in one step. -/

/-- Who reads directly for an issuer. -/
def Issuer.viewer (w : Issuer) : Viewer :=
  match w.path with
  | some p => Viewer.engine p w.team
  | none => Viewer.all

/-- Bytes at a piece as a read of a viewer returns them: zero from host memory in HOST-LOST (18 R335); a peer's are free values. -/
def State.pieceBytes (s : State) (v : Viewer) (p : Piece) : List Byte :=
  if p.loc.space = .host ∧ s.hostLost then List.replicate p.len 0
  else if p.loc.space = .peer then (upTo p.loc.off p.len).map fun o => Config.peerByte p.loc.owner o s.now
  else s.viewBytes v p.loc p.len

/-- The CXL port behind which an offset of a second-tier share lies: granules of 4 KiB go over the ports present in turn (22 R375). -/
def State.tierPort (s : State) (off : Nat) : Nat := (s.cxlPorts[off / 4096 % s.cxlPorts.length]?).getD 0

/-- A second-tier access is served: the link of its port is up (22 R376). -/
def State.tierUp (s : State) (l : Loc) : Bool := l.space != .tier || !s.cxlDown.contains (s.tierPort l.off)

/-- A piece lies in a line that a read would consume as poison, or behind a CXL port that is down (03 R81, 22 R376). -/
def State.pieceBad (s : State) (p : Piece) : Bool := s.poisoned p.loc || !s.tierUp p.loc

/-- Causes that fault the context beside the record (18 R327): Uncorrectable-data, Share-range, LINK-LOST. -/
def Cause.fatal (c : Cause) : Bool := c.code == 64 || c.code == 67 || c.code == 71

/-- What becomes of an engine's request to a peer page: refused, as every one of a partition with key 0 is, it is Share-range; without a
response LINK-LOST; which of them happens is open (22 R378). -/
def State.peerCause (s : State) (part : Nat) (p : Piece) : Option Cause :=
  if p.loc.space ≠ .peer then none
  else if (s.part part).key = 0 then some ⟨67, p.va⟩
  else match Config.peerOutcome p.loc.owner p.loc.off s.now with
    | 1 => some ⟨67, p.va⟩
    | 2 => some ⟨71, p.va⟩
    | _ => none

/-- The pieces of an access that an engine performs in one step. -/
def State.resolveEngine (s : State) (w : Issuer) (need : Need) (va : DWord) (n : Nat) : Except Cause (List Piece) :=
  match s.resolveFlat w need va n with
  | .error c => .error c
  | .ok ps =>
    match ps.findSome? (s.peerCause w.part) with
    | some c => .error c
    | none => .ok ps

/-- The partition that owns a location (03 R83); a scratchpad is owned by its team's. -/
def State.ownerOf (s : State) (l : Loc) : Option Nat :=
  match l.space with
  | .hbm => some l.owner
  | .tier => some l.owner
  | .vault => s.partOfCluster l.owner
  | .scratch => (s.teams.get? l.owner).map (·.part)
  | _ => none

/-- A single-bit error found on a read is corrected where it lies, and counted once in the partition that owns the line (03 R81, R83). -/
def State.correct (s : State) (l : Loc) : State :=
  if s.weak.contains (l.cell / 64) then
    let s1 := { s with weak := s.weak.erase (l.cell / 64) }
    match s.ownerOf l with
    | some p => s1.modPart p fun q => { q with softCorr := q.softCorr + 1 }
    | none => s1
  else s

/-- Lines that a write covers whole hold no error any more (03 R81). -/
def State.cleanse (s : State) (l : Loc) (n : Nat) : State :=
  let kept := fun (q : Nat) => !(decide (l.cell ≤ q * 64) && decide (q * 64 + 64 ≤ l.cell + n))
  { s with poison := s.poison.filter kept, weak := s.weak.filter kept }

/-- Write bytes of a partition's agent at a piece: host writes are dropped in HOST-LOST, second-tier writes behind a port that is down too;
a peer write leaves with the partition's key (22 R378). -/
def State.pieceWrite (s : State) (part : Nat) (p : Piece) (bs : List Byte) : State :=
  if p.loc.space = .host ∧ s.hostLost then s
  else if !s.tierUp p.loc then s
  else if p.loc.space = .peer then
    { s with peerOut := { pkg := p.loc.owner, off := p.loc.off, key := (s.part part).key, act := .write bs, len := p.len } :: s.peerOut }
  else (s.store p.loc bs).cleanse p.loc p.len

/-- The pieces of one access cover the whole 64-byte line of one of them (03 R81). A store is one lane's access, or one row of a tile: lanes
of one ST that cover a line between them do not clear its poison (the model's choice: log entry 62). -/
def wholeLine (ps : List Piece) (p : Piece) : Bool :=
  let a := p.loc.off / 64 * 64
  decide (64 ≤ (ps.map fun q => if q.loc.space = p.loc.space ∧ q.loc.owner = p.loc.owner then
    min (q.loc.off + q.len) (a + 64) - max q.loc.off a else 0).sum)

/-- Clear the poison of the line of a location. -/
def State.cleanseLine (s : State) (l : Loc) : State := if s.tierUp l then s.cleanse ⟨l.space, l.owner, l.off / 64 * 64⟩ 64 else s

/-- Write consecutive bytes over pieces. -/
def State.putPieces (s : State) (part : Nat) : List Piece → List Byte → State
  | [], _ => s
  | p :: r, bs => (s.pieceWrite part p (bs.take p.len)).putPieces part r (bs.drop p.len)

/-- Write consecutive bytes over the pieces of an access; lines that it covers whole lose their poison. -/
def State.writePieces (s : State) (part : Nat) (ps : List Piece) (bs : List Byte) : State :=
  ps.foldl (fun s p => if wholeLine ps p then s.cleanseLine p.loc else s) (s.putPieces part ps bs)

/-- The outcome of a direct read: bytes, or a cause; poison is cause 64. -/
def State.readFlat (s : State) (w : Issuer) (need : Need) (va : DWord) (n : Nat) : Except Cause (List Byte) :=
  match s.resolveEngine w need va n with
  | .error c => .error c
  | .ok ps =>
    match ps.find? s.pieceBad with
    | some p => .error ⟨64, p.va⟩
    | none => .ok (ps.flatMap (s.pieceBytes w.viewer))

/-- The outcome of a direct write. -/
def State.writeFlat (s : State) (w : Issuer) (va : DWord) (bs : List Byte) : Except Cause State :=
  match s.resolveEngine w .store va bs.length with
  | .error c => .error c
  | .ok ps => .ok (s.writePieces w.part ps bs)

/-- Read a long run in pieces of at most 64 bytes. -/
def State.readLong (s : State) (w : Issuer) (need : Need) : Nat → DWord → Nat → Except Cause (List Byte)
  | 0, _, _ => .ok []
  | fuel + 1, va, n =>
    if n = 0 then .ok []
    else
      let k := min n 64
      match s.readFlat w need va k with
      | .error c => .error c
      | .ok bs =>
        match State.readLong s w need fuel (va + BitVec.ofNat 64 k) (n - k) with
        | .error c => .error c
        | .ok r => .ok (bs ++ r)

/-- The packet processor or another engine of a partition that sees every store: no team, no scratchpad. -/
def engineOf (part : Nat) : Issuer := { part, team := 0, path := none, limit := 0, core := none }

/-- An engine of a partition that reads on a path: no team, no scratchpad. -/
def engineOn (part : Nat) (path : Path) : Issuer := { engineOf part with path := some path }

end Sys2Proof.Machine
end

