-- ==== Sys2Proof/Machine/Ops.lean ====
section
/-! DEFINITION. The operations that every family shares: fault records, signals, stops, context faults, taking a trap and
returning from it (18 R317 to R322, R327; 20 R347), meeting points (01 R19) and the end of an issue (01 R17). -/

namespace Sys2Proof.Machine

/-- The package belongs to a load-store domain: a partition of it holds a domain key other than 0 (22 R378). -/
def State.inDomain (s : State) : Bool := s.parts.any fun x => x.2.key != 0

/-- Domain time: a count of its own, and outside a domain the package cycle count (20 R349). -/
def State.dtime (s : State) : DWord := if s.inDomain then s.now + s.dtimeOff else s.now

/-- Add a fault record; a RESTARTABLE one may be resumed by its ID (18 R324 to R326). -/
def State.record (s : State) (part kind cause : Nat) (va pc : DWord) (chan engine : Nat) (whereW : Word) (code : DWord) :
    State :=
  s.modPart part fun p =>
    { p with
      frecs := p.frecs ++ [{ id := p.nextId, kind, cause, va, pc, chan, engine, whereW, code, time := s.now }]
      nextId := p.nextId + 1
      resumable := if kind = 0 then p.resumable ++ [p.nextId] else p.resumable }

/-- The ID that the next record takes. -/
def State.nextRec (s : State) (part : Nat) : Nat := (s.part part).nextId

/-! Signals and queue descriptors (16 R291, R295). -/

/-- A signal's new value at a completion without error, or with a code (16 R295). -/
def signalNext (v : DWord) (code : Option Nat) : DWord :=
  match code with
  | none => if v.toInt > 0 then v - 1 else if v = 0 then BitVec.ofInt 64 (-1) else v
  | some c => if v.toInt ≥ 0 then BitVec.ofInt 64 (-(1 + c)) else v

/-- One indivisible update of a 64-bit value at an address of a partition's context. -/
def State.update64 (s : State) (part : Nat) (va : DWord) (f : DWord → DWord) : Except Cause State :=
  match s.resolveEngine (engineOf part) .atomic va 8 with
  | .error c => .error c
  | .ok ps =>
    match ps.find? s.pieceBad with
    | some p => .error ⟨64, p.va⟩
    | none => .ok (s.writePieces part ps (toBytes 8 (f (BitVec.ofNat 64 (ofBytes (ps.flatMap (s.pieceBytes Viewer.all))))).toNat))

/-- Update a completion signal; 0 names none (16 R294, R295). -/
def State.signalTry (s : State) (part : Nat) (sig : DWord) (code : Option Nat) : Except Cause State :=
  if sig = 0 then .ok s else s.update64 part sig fun v => signalNext v code

/-- A fault of a write of the packet processor (16 R388): Page-lazy writes a RESTARTABLE record for which the write waits; another
translation fault writes a KIND 1 record and the write is dropped. A cause that faults the context is raised by whoever writes (18 R327). -/
def State.ppFault (s : State) (part : Nat) (c : Cause) (work : PpWork) : State :=
  if c.fatal then s
  else if c.code = 13 then
    (s.record part 0 13 c.va 0 0 8 0 0).modPart part fun p => { p with ppWaits := p.ppWaits ++ [(s.nextRec part, work)] }
  else s.record part 1 c.code c.va 0 0 8 0 0

/-- Update a completion signal, or leave the update waiting or dropped (16 R388). -/
def State.signal (s : State) (part : Nat) (sig : DWord) (code : Option Nat) : State :=
  match s.signalTry part sig code with
  | .ok t => t
  | .error c => s.ppFault part c (.signal sig code)

/-- The address of a queue's descriptor (16 R290). -/
def Part.descVa (p : Part) (q : Nat) : DWord := p.reg (0x1000 + 16 * q) &&& ~~~(63 : DWord)

/-- The outcome of writing READ, CODE and STATE of a queue to its descriptor (16 R291). -/
def State.descTry (s : State) (part q : Nat) (x : Queue) : Except Cause State :=
  s.writeFlat (engineOf part) ((s.part part).descVa q + 16) (toBytes 8 x.read ++ toBytes 8 (x.code % 256 * 256 + x.st % 4))

/-- Write READ, CODE and STATE of a queue to its descriptor, or leave the write waiting or dropped (16 R291, R388). -/
def State.writeDesc (s : State) (part q : Nat) (x : Queue) : State :=
  match s.descTry part q x with
  | .ok t => t
  | .error c => s.ppFault part c (.desc q)

def Queue.off : Queue :=
  { st := 0, code := 0, ring := 0, log2n := 4, prio := 0, read := 0, write := 0, next := 0, slot := none, done := [],
    disabling := false, stopped := none }

def Part.queue (p : Part) (q : Nat) : Queue := p.queues.getD q Queue.off

/-- Set a queue and its descriptor's device fields. -/
def State.setQueue (s : State) (part q : Nat) (x : Queue) : State :=
  (s.modPart part fun p => { p with queues := p.queues.set q x }).writeDesc part q x

/-- The TYPE of a packet (16 R294). -/
def pktType (ws : List DWord) : Nat := bitsOf ((ws[0]?).getD 0) 0 4
/-- COMPSIG of a packet (16 R294). -/
def pktSig (ws : List DWord) : DWord := (ws[7]?).getD 0

/-! Stops and the lull wave (20 R346 to R350). -/

/-- Freeze scheduler partitions. -/
def State.freeze (s : State) (sps : List Nat) : State :=
  sps.foldl (fun s i => s.modSp i fun x => { x with frozen := true }) s

/-- Every scheduler partition of the job on the package has stopped: the debug-stop interrupt is raised (20 R348, 22 R369). -/
def State.stopAll (s : State) (part : Nat) : State :=
  let p := s.part part
  let s1 := (s.modPart part fun p =>
    { p with stoppedAll := true, wave := none, stopAt := if p.stoppedAll then p.stopAt else s.now.toNat }).freeze p.spList
  if p.stoppedAll then s1 else { s1 with irqs := (part, 1) :: s1.irqs }

/-- cr.LULLCAUSE and cr.LULLCAUSE2 of a cause that arose on this package (20 R349). -/
def lullCause (pkg core sp cause : Nat) : Word := BitVec.ofNat 32 (2 ^ 31 + pkg * 2 ^ 20 + core * 1024 + sp * 256 + cause)
def lullCause2 (code : Nat) (host : Bool) : Word := BitVec.ofNat 32 (code % 65536 * 65536 + (if host then 512 else 0))

/-- Write the first cause of a stop (20 R349). -/
def Part.writeLull (p : Part) (cause cause2 : Word) (time : DWord) : Part :=
  (((p.setCr 0x80 cause).setCr 0x81 cause2).setCr 0x82 (lo32 time)).setCr 0x83 (hi32 time)

/-- The wave of a job starts at an event: the originating scheduler partition stops at once; the package takes only its
earliest wave, and a later one changes nothing else there; halt flits leave for each when DOMAIN is 1, with the job they belong to (20
R342, R347, R349). `none` is a LULL of the host (20 R353). -/
def State.startWave (s : State) (part : Nat) (origin : Option (Nat × DWord)) (cause code : Nat) : State :=
  let s1 := match origin with
    | some (gid, _) => s.freeze [spIdOf gid]
    | none => s
  let p := s1.part part
  let c1 := match origin with
    | some (gid, _) => lullCause s.mc.pkgId.toNat (coreOf gid) (spOf gid) cause
    | none => lullCause s.mc.pkgId.toNat 0 0 cause
  let c2 := lullCause2 code origin.isNone
  let dbg := match origin with
    | some (gid, pc) => (spIdOf gid, (if slotOf gid < 16 then s1.addrOf part gid else 0), pc)
    | none => ((p.spList.head?).getD 0, (0 : Word), (0 : DWord))
  let s2 := if p.wave.isSome || p.stoppedAll then s1
    else s1.modPart part fun p =>
      { p.writeLull c1 c2 s1.dtime with
        wave := some { time := s1.now.toNat, die := match origin with | some (gid, _) => dieOf gid | none => 4 }
        dbgStart := some dbg }
  if p.domainBit then
    { s2 with fabricOut := (part, 0, [c1.setWidth 64, c2.setWidth 64, s1.dtime, p.reg 0x390, p.key]) :: s2.fabricOut }
  else s2

/-! Context faults (18 R327). -/

/-- Each started and uncompleted KERNEL, BARRIER or COPY packet receives code 2 and its queue is aborted there. -/
def State.abortPkts (s : State) (part : Nat) : List Pkt → State
  | [] => s
  | k :: r =>
    let t := pktType k.words
    if t = 1 ∨ t = 2 ∨ t = 3 then
      let s1 := s.signal part (pktSig k.words) (some 2)
      let q := (s1.part part).queue k.queue
      let rd := if q.st = 2 then min q.read k.index else k.index
      (s1.setQueue part k.queue { q with st := 2, code := 2, read := rd }).abortPkts part r
    else s.abortPkts part r

/-- A context fault, in one step for the whole context (18 R327): packets aborted, a KIND 2 record, every scheduler
partition stopped, the first cause written unless the job has stopped already. -/
def State.contextFault (s : State) (part : Nat) (origin : Option Nat) (cause : Nat) (va pc : DWord) (chan engine : Nat)
    (code : DWord) (whereW : Word := 0) : State :=
  if (s.part part).faulted then s
  else
    let wh := match origin with | some gid => s.addrOf part gid | none => whereW
    let s1 := s.abortPkts part (s.part part).pkts
    let s2 := s1.record part 2 cause va pc chan engine wh code
    let p := s2.part part
    let low := (p.spList.head?).getD 0
    let sid := match origin with | some gid => spIdOf gid | none => low
    let s3 := if p.wave.isSome || p.stoppedAll then s2
      else
        s2.modPart part fun p =>
          { p.writeLull (lullCause s2.mc.pkgId.toNat (sid / 4) (sid % 4) cause) (lullCause2 (lo32 code).toNat false) s2.dtime with
            dbgStart := some (sid, (if origin.isSome then wh else 0), pc) }
    (s3.modPart part fun p => { p with faulted := true, pkts := p.pkts.filter fun k => pktType k.words == 4 }).stopAll part

/-- The packet processor's write has been tried: Uncorrectable-data and Share-range fault the context (18 R327, R331). -/
def State.faultOf (t : State) (part : Nat) (r : Except Cause State) : State :=
  match r with
  | .error e => if e.fatal then t.contextFault part none e.code e.va 0 0 8 0 else t
  | .ok _ => t

/-- Set a queue and its descriptor's device fields, outside a context fault. -/
def State.putQueue (s : State) (part q : Nat) (x : Queue) : State := (s.setQueue part q x).faultOf part (s.descTry part q x)

/-- A record is resumed: the packet processor's writes that waited for it are made again (16 R388). -/
def State.ppResume (s : State) (part id : Nat) : State :=
  let mine := (s.part part).ppWaits.filter fun x => x.1 == id
  mine.foldl (fun s x => match x.2 with
    | .signal va code => (s.signal part va code).faultOf part (s.signalTry part va code)
    | .desc q =>
      let y := (s.part part).queue q
      (s.writeDesc part q y).faultOf part (s.descTry part q y))
    (s.modPart part fun p => { p with ppWaits := p.ppWaits.filter fun x => x.1 != id })

/-! Meeting points (01 R19). -/

/-- Insert an address in ascending order, once. -/
def insertAddr (x : DWord) : List DWord → List DWord
  | [] => [x]
  | y :: r => if x.toNat < y.toNat then x :: y :: r else if x = y then y :: r else y :: insertAddr x r

/-- The meeting values at which some lane is held. -/
def Group.heldAt (g : Group) : List DWord :=
  g.lanes.foldl (fun acc l => if l.held then insertAddr l.meet acc else acc) []

/-- Every live thread with this meeting value is held at it. -/
def Group.meets (g : Group) (m : DWord) : Bool := g.lanes.all fun l => !(l.isLive && l.meet == m) || l.held

/-- Release every complete meeting, in ascending order of the value (01 R19). -/
def Group.settle (g : Group) : Group :=
  let ms := g.heldAt.filter g.meets
  { g with
    lanes := g.lanes.map fun l => if l.held && ms.contains l.meet then { l with rel := true } else l
    relq := g.relq ++ ms }

/-- Move lanes of a mask to new addresses. A released lane stays released only while its PC stays (01 R19). -/
def Group.moveTo (g : Group) (m : Mask) (f : Nat → DWord) : Group :=
  g.modLanes fun j l => if maskBit m j then { l with pc := f j, rel := l.rel && f j == l.pc, resume := none } else l

/-- Issue ages after an issue of the ordinary class: lanes that were candidates before it, in the group as it stood then, add 1 (01 R17). -/
def Group.aged (g old : Group) (m : Mask) : Group :=
  g.modLanes fun j l =>
    if maskBit m j then { l with age := 0 } else if (old.lane j).cand then { l with age := min 255 (l.age + 1) } else l

/-- The repeat after this one, or none when it was the last (02 R55). -/
def Rep.after (r : Rep) : Option Rep := if r.idx + 1 < r.count then some { r with idx := r.idx + 1 } else none

/-- The address after the target of a REP. -/
def Rep.past (r : Rep) : DWord := r.pc + 4 + BitVec.ofNat 64 r.tlen

/-- Lanes of a repeat in progress have performed it while others have not: they go on with the next one (02 R57). -/
def Group.splitRep (g : Group) (r : Rep) (m : Mask) : Group :=
  let rest := r.mask &&& ~~~m
  let g1 := { g with rep := if rest = 0 then r.after else some { r with mask := rest } }
  match r.after with
  | some n => if rest = 0 then g1 else g1.onMask m fun l => { l with resume := some n.idx }
  | none => g1.moveTo m fun _ => r.past

/-- Waiting lanes of a mask go on to the instruction after theirs with age 0 (09 R199; 13 R266, R267, R269); lanes that waited in a
repeat have performed it. -/
def Group.letGo (g : Group) (m : Mask) : Group :=
  let g1 := match g.rep with
    | some r =>
      let inRep := r.mask &&& m
      (if inRep = 0 then g else g.splitRep r inRep).moveTo (m &&& ~~~inRep) fun j => (g.lane j).pc + 4
    | none => g.moveTo m fun j => (g.lane j).pc + 4
  g1.onMask m fun l => { l with hold := none, age := 0 }

/-- Release waiting lanes of a mask outside an issue of theirs. -/
def Group.release (g : Group) (m : Mask) : Group := (g.letGo m).settle

/-- What an issue of the ordinary class leaves behind whatever it did: WAITC 0, no wait, the released set served, the
pass-once flag spent (01 R18, R19; 16 R308; 20 R345). -/
def Group.issuedAt (g : Group) (pc : DWord) : Group :=
  { g with waitc := 0, waitPc := none, passOnce := none, why := 0, twait := none, block := none,
           relq := (match g.relq with | m :: r => if m = pc then r else m :: r | [] => [])
           forced := (match g.forced with | m :: r => if m.1 = pc then r else m :: r | [] => []) }

/-! Taking a trap and returning from it (18 R317 to R322). -/

/-- Word 0 of cr.TRAPINFO (18 R321): the instruction's length and its destination. -/
def trapInfo (len : Nat) (d : Option Reg) : Word :=
  let l := if len = 4 then 2 ^ 15 else 0
  match d with
  | none => BitVec.ofNat 32 l
  | some (.v n) => BitVec.ofNat 32 (l + 512 + n % 128)
  | some (.s n) => BitVec.ofNat 32 (l + 1024 + 512 + n)
  | some (.k n) => BitVec.ofNat 32 (l + 2048 + 512 + n)
  | some (.t n) => BitVec.ofNat 32 (l + 3072 + 512 + n)

/-- Park lanes in a sub-warp; the lanes of a repeat in progress leave it (18 R317, 02 R57). -/
def Group.park (g : Group) (x : Parked) (enterAt : Nat) : Group :=
  let g1 := g.onMask x.mask fun l => { l with parked := true, hold := none }
  { g1 with
    parked := g.parked ++ [x]
    enterAt := if g.parked.isEmpty && g.handling.isNone then enterAt else g.enterAt
    rep := match g.rep with
      | some r => if r.mask &&& ~~~x.mask = 0 then none else some { r with mask := r.mask &&& ~~~x.mask }
      | none => none }

/-- Lanes of a group trap with an H cause (18 R317): they park; without a handler the cause is a context fault (R318); with
LULLTRAP it starts the lull wave (20 R347). -/
def State.trapLanes (s : State) (gid : Nat) (g : Group) (x : Parked) : State :=
  let p := s.part g.part
  let s1 := s.setGroup gid (g.park x (p.clock + 1))
  let s2 := if p.lullTrap then s1.startWave g.part (some (gid, x.pc)) x.cause x.code.toNat else s1
  if p.trapVec = 0 then s2.contextFault g.part (some gid) x.cause x.va x.pc 0 0 (x.code.setWidth 64) else s2

/-- The run of the debug slot ends; its registers keep their values until the next run (20 R343). -/
def State.endDebug (s : State) (gid : Nat) (g : Group) : State :=
  (s.setGroup gid (g.modLanes fun _ l => { l with st := .exited })).modPart g.part fun p => { p with dbgRun := none }

/-- An instruction that had issued before its flit was there raises a cause once it has claimed it (13 R275): its destinations keep their
values, and those of its lanes that are still live and not parked trap at its address (log entry 25). -/
def State.raiseLate (s : State) (id : Nat) (mask : Mask) (cause : Nat) (code : Word) (d : Option Reg) (va : DWord) : State :=
  match s.ops.get? id with
  | none => s
  | some o =>
    match s.group? o.gid with
    | none => s.dropOp id
    | some g =>
      let m := mask &&& g.lanesWhere fun l => l.isLive && !l.parked
      let g1 := g.markFull o.dests
      if g.uid ≠ o.uid then s.dropOp id
      else match s.cur.cls with
        | .handler => ((s.dropOp id).setGroup o.gid g1).contextFault g.part (some o.gid) 68 va o.pc 0 0 0
        | _ =>
          if m = 0 then (s.dropOp id).setGroup o.gid g1
          else (s.dropOp id).trapLanes o.gid g1
            { mask := m, pc := o.pc, cause, code, info := trapInfo s.cur.len d, va, rep := none }

/-- The current issue raises a cause for lanes of its active set. In ordinary code the lanes trap; in handler code it is a
Handler-fault (18 R320); in debug-handler code it ends the run with a NOTICE record (20 R343). -/
def State.raise (s : State) (g : Group) (mask : Mask) (cause : Nat) (code : Word) (d : Option Reg) (va : DWord) : State :=
  match s.cur.defer, s.cur.cls with
  | some id, _ => s.raiseLate id mask cause code d va
  | none, .ordinary =>
    let x : Parked :=
      { mask, pc := s.cur.pc, cause, code, info := trapInfo s.cur.len d, va,
        rep := if s.cur.rep then g.rep.map (·.idx) else none }
    let g1 := ((g.aged g s.cur.mask).issuedAt s.cur.pc)
    (s.modSp (spIdOf s.cur.gid) fun q => { q with busy := s.now.toNat + s.cur.cost }).trapLanes s.cur.gid g1 x
  | none, .handler => (s.setGroup s.cur.gid g).contextFault g.part (some s.cur.gid) 68 va s.cur.pc 0 0 0
  | none, .debug =>
    (s.endDebug s.cur.gid g).record g.part 3 68 va s.cur.pc 0 0 (s.addrOf g.part s.cur.gid) 0

/-- The issuing code stops at its instruction until a RESTARTABLE record is resumed (03 R75). -/
def State.lazyStop (s : State) (g : Group) (va : DWord) : State :=
  let id := s.nextRec g.part
  let s1 := s.record g.part 0 13 va s.cur.pc 0 0 (s.addrOf g.part s.cur.gid) 0
  let s2 := s1.modSp (spIdOf s.cur.gid) fun q => { q with busy := s.now.toNat + s.cur.cost }
  s2.setGroup s.cur.gid (match s.cur.cls, g.handling with
    | .handler, some h => { g with handling := some { h with stopped := some id } }
    | _, _ => { g with stopped := some id, waitPc := some s.cur.pc, why := 1 })

/-- A cause raised at the current issue for lanes of its active set: Page-lazy stops the work; in ordinary code Uncorrectable-data,
Share-range and LINK-LOST fault the context; every other cause, and in handler and debug-handler code those too, is raised (03 R75,
R81; 04 R88; 18 R320, R327; 20 R343). -/
def State.causeFor (s : State) (g : Group) (mask : Mask) (code : Nat) (va : DWord) (d : Option Reg) : State :=
  if code = 13 then s.lazyStop g va
  else if s.cur.cls = .ordinary ∧ (code = 64 ∨ code = 67 ∨ code = 71) then
    (s.setGroup s.cur.gid g).contextFault g.part (some s.cur.gid) code va s.cur.pc 0 0 0
  else s.raise g mask code 0 d va

/-- Entering the handler for the oldest parked sub-warp (18 R318): the frame is loaded from it, the lowest lane is elected
and the handler starts at cr.TRAPVEC in the next cycle. -/
def State.enterHandler (s : State) (gid : Nat) (g : Group) : State :=
  match g.parked with
  | [] => s
  | x :: r =>
    let p := s.part g.part
    let g1 := ((((((g.setCr64 0x42 x.mask).setCr64 0x44 x.pc).setCr 0x46
      (BitVec.ofNat 32 (x.code.toNat % 65536 * 65536 + x.cause))).setCr 0x47
      (match x.rep with | some i => BitVec.ofNat 32 (2 ^ 31 + i) | none => 0)).setCr 0x48 x.info).setCr64 0x49 x.va)
    s.setGroup gid
      { g1 with
        parked := r
        handling := some { lane := ((lanesOf x.mask).head?).getD 0, pc := p.trapVec, entered := p.clock, issues := 0, rep := none,
                           stopped := none, start := p.clock + 1, yield := none } }

/-- RTRAP (18 R322): the lanes of cr.TRAPMASK resume at cr.TRAPLOC with age 0 and the repeat state of cr.TRAPREP, and the
group returns to IDLE. -/
def State.returnTrap (s : State) (gid : Nat) (g : Group) : State :=
  let m := g.cr64 0x42
  let loc := g.cr64 0x44 &&& ~~~(1 : DWord)
  let rep := if (g.cr 0x47).getLsbD 31 then some (bitsOf (g.cr 0x47) 0 6) else none
  let g1 := (g.moveTo m fun _ => loc).onMask m fun l => { l with parked := false, age := 0, resume := rep }
  s.setGroup gid { g1.settle with handling := none, enterAt := (s.part g.part).clock + 1 }

/-! Flits (13 R272 to R276). -/

/-- Unloaded latency of a flit between two slots (13 R272). -/
def flitLatency (a b : Nat) : Nat :=
  if coreOf a = coreOf b then 6 else if clusterOf a = clusterOf b then 10
  else if quadOfCluster (clusterOf a) = quadOfCluster (clusterOf b) then 20
  else if dieOf a = dieOf b then 32 else 260

/-- The slot MSGDST names, if its cluster is in the partition (13 R273, R274). -/
def State.msgTarget (s : State) (part : Nat) (dst : Word) : Option Nat :=
  ((s.part part).linCluster (bitsOf dst 16 8)).map fun c =>
    gidOf (c * 4 + bitsOf dst 8 2) (bitsOf dst 4 2) (bitsOf dst 0 4)

/-- How many flits of a group have not been placed or discarded (13 R274). -/
def State.outstanding (s : State) (uid : Nat) : Nat := (s.flits.filter fun x => x.2.srcUid == uid).length

/-- Inject one flit (13 R274): it follows every earlier LS access of the injecting lanes (R276). -/
def State.inject (s : State) (gid : Nat) (g : Group) (mask : Mask) (x : Word) : State :=
  match s.msgTarget g.part g.msgDst with
  | none => s
  | some dst =>
    { s with
      flits := s.flits.set s.fresh
        { srcUid := g.uid, srcAddr := s.addrOf g.part gid, dst, part := g.part, payload := x,
          due := (s.part g.part).clock + flitLatency gid dst, tok := s.tokOf g mask }
      fresh := s.fresh + 1 }

end Sys2Proof.Machine
end

