-- ==== Sys2Proof/Machine/Fetch.lean ====
section
/-! DEFINITION. Fetching an instruction (02 R41, 03 R74) and the stepped target of a REP (02 R54 to R56). -/

namespace Sys2Proof.Machine

/-- What a fetch gives: an instruction with its length and word, a word that is none, a cause, or a page that no TLB holds. -/
inductive Got where
  | instr (i : Instr) (len w : Nat)
  | illegal (len : Nat) (w : BitVec 32)
  | cause (c : Cause)
  | miss (page : Nat)
  deriving DecidableEq, Repr

/-- Two bytes of code, on the LS path (04 R91): a fetch needs X; a host page in HOST-LOST is LINK-LOST (18 R335). -/
def State.fetch2 (s : State) (w : Issuer) (pc : DWord) : Except Got (List Byte) :=
  match s.resolveEngine w .fetch pc 2 with
  | .error c => .error (.cause c)
  | .ok ps =>
    match ps.findSome? (·.walk) with
    | some page => .error (.miss page)
    | none =>
      if s.hostLost && ps.any (·.loc.space == .host) then .error (.cause ⟨71, pc⟩)
      else match ps.find? s.pieceBad with
        | some p => .error (.cause ⟨64, p.va⟩)
        | none => .ok (ps.flatMap (s.pieceBytes w.viewer))

/-- The instruction at an address (02 R41). -/
def State.fetch (s : State) (w : Issuer) (pc : DWord) : Got :=
  match s.fetch2 w pc with
  | .error x => x
  | .ok b1 =>
    if (ofBytes b1) % 2 = 0 then
      match decode b1 with
      | .instr i len => .instr i len (leNat b1)
      | _ => .illegal 2 (BitVec.ofNat 32 (leNat b1))
    else
      match s.fetch2 w (pc + 2) with
      | .error x => x
      | .ok b2 =>
        match decode (b1 ++ b2) with
        | .instr i len => .instr i len (leNat (b1 ++ b2))
        | _ => .illegal 4 (BitVec.ofNat 32 (leNat (b1 ++ b2)))

/-- What a fetch of len bytes leaves: levels of TLBs filled (03 R77), and errors corrected in what it read (R81). -/
def State.fetched (s : State) (w : Issuer) (pc : DWord) (len : Nat) : State :=
  let at2 := fun (s : State) (va : DWord) =>
    let s1 := match w.core with | some c => s.tlbFill c w.part va | none => s
    if s1.weak.isEmpty then s1
    else match s1.resolveFlat w .fetch va 2 with
      | .ok ps => ps.foldl (fun s p => s.correct p.loc) s1
      | .error _ => s1
  if len = 2 then at2 s pc else at2 (at2 s pc) (pc + 2)

/-- A page is missed by a die's TLB: it is walked, or waits for a walker, once (03 R77). -/
def State.addWalk (s : State) (die part page : Nat) : State :=
  if (s.die die).walks.contains ⟨part, page⟩ then s else s.modDie die fun d => { d with walks := d.walks ++ [⟨part, page⟩] }

/-! The target of a REP. -/

/-- A field a REP may step: its place and width in the word, the registers it names, their class and span. `si` marks a
field of kind SI, which is stepped only where it names a scalar. -/
structure StepField where
  lo : Nat
  wd : Nat
  cls : Nat
  span : Nat
  si : Bool
  deriving DecidableEq, Repr

/-- The three fields of an A word, by class (0 v, 1 s) and span. -/
def fieldD (cls span : Nat) : Option StepField := some ⟨9, 7, cls, span, false⟩
def fieldA (cls span : Nat) : Option StepField := some ⟨16, 7, cls, span, false⟩
def fieldB (cls span : Nat) : Option StepField := some ⟨24, 7, cls, span, false⟩
def fieldSI (span : Nat) : Option StepField := some ⟨24, 7, 1, span, true⟩

/-- Which fields of a target a REP may step: d, a and b, each absent where its kind is K, C, N or Z (02 R56, R58). `none`
where the word is no target at all. -/
def stepFields (len w : Nat) : Option (Option StepField × Option StepField × Option StepField) :=
  if len = 2 then some (some ⟨6, 5, 0, 1, false⟩, some ⟨11, 5, 0, 1, false⟩, none)
  else
    let fn := fld w 7 2
    let code := fld w 24 7
    match fld w 1 6 with
    | 0x00 | 0x02 | 0x03 | 0x06 | 0x0C | 0x0D | 0x0E | 0x15 | 0x16 => some (fieldD 0 1, fieldA 0 1, fieldB 0 1)
    | 0x01 | 0x04 | 0x05 | 0x0B | 0x1A => some (fieldD 0 1, fieldA 0 1, fieldSI 1)
    | 0x07 | 0x08 | 0x11 => some (none, fieldA 0 1, fieldB 0 1)
    | 0x09 => some (none, fieldA 0 1, fieldSI 1)
    | 0x0A | 0x12 | 0x13 | 0x14 => some (fieldD 0 1, fieldA 0 1, none)
    | 0x0F | 0x10 => some (fieldD 0 1, fieldA 0 1, fieldB 1 1)
    | 0x17 => some (fieldD 0 2, fieldA 0 2, fieldB 0 2)
    | 0x18 => some (fieldD 0 (if code % 8 = 5 then 2 else 1), fieldA 0 (if code / 8 = 5 then 2 else 1), none)
    | 0x19 =>
      let n := if fn < 2 then 4 else 8
      if fn % 2 = 0 then some (fieldD 0 1, fieldA 0 n, none) else some (fieldD 0 n, fieldA 0 1, none)
    | 0x1B => if fn = 0 then some (none, fieldA 0 1, none) else some (fieldD 1 1, fieldA 0 1, none)
    | 0x1C =>
      if fn = 0 then some (fieldD 0 1, fieldA 0 1, fieldSI 1)
      else if fn = 1 then some (fieldD 1 1, fieldA 0 1, fieldSI 1)
      else some (fieldD 0 1, fieldA 0 1, fieldB 1 1)
    | 0x1D =>
      if fn = 0 then some (fieldD 1 1, fieldA 0 1, fieldB 1 1)
      else if fn = 1 then some (fieldD 0 1, fieldA 1 1, fieldB 1 1)
      else some (fieldD 1 2, none, fieldB 1 1)
    | 0x1E => some (none, none, none)
    | 0x1F =>
      if fn = 0 then some (fieldD 1 2, none, none) else if fn = 1 then some (none, fieldA 1 2, none)
      else some (fieldD 1 1, none, none)
    | 0x25 | 0x26 | 0x27 => some (fieldD 1 1, fieldA 1 1, fieldSI 1)
    | 0x28 => some (fieldD 1 2, fieldA 1 2, fieldSI 2)
    | 0x30 => some (none, none, fieldSI 1)
    | 0x32 =>
      if fn = 0 then some (none, none, fieldSI 1) else if fn = 1 then some (fieldD 1 1, fieldA 1 1, fieldSI 1)
      else if fn = 2 then some (fieldD 1 1, fieldA 1 1, fieldB 1 1) else some (none, fieldA 1 1, fieldSI 1)
    | 0x33 => if fn = 2 then some (fieldD 1 1, none, none) else some (none, none, none)
    | 0x34 | 0x35 | 0x36 | 0x37 =>
      let cls := if fld w 1 6 < 0x36 then 0 else 1
      some (some ⟨10, 7, cls, sizeRegs (.ofNat 3 (fld w 7 3)), false⟩,
        some ⟨17, 7, cls, if fld w 30 2 = 0 then 2 else 1, false⟩, none)
    | _ => none

/-- The fields a REP steps; none where a step bit is set for a field that may not be stepped (02 R56). -/
def Rep.fields (r : Rep) (len w : Nat) : Option (List StepField) :=
  match stepFields len w with
  | none => none
  | some (d, a, b) =>
    if (r.stepD && d.isNone) || (r.stepA && a.isNone) || (r.stepB && b.isNone) then none
    else some ((if r.stepD then d.toList else []) ++ (if r.stepA then a.toList else []) ++
      (if r.stepB then b.toList else []))

/-- The word of a repeat, or none where a stepped field leaves its range (02 R55, R56). -/
def stepWord (st i : Nat) : List StepField → Nat → Option Nat
  | [], w => some w
  | f :: r, w =>
    let x := fld w f.lo f.wd
    let y := x + i * st
    if (f.si && decide (64 ≤ x)) || decide ((if f.si then 64 else 2 ^ f.wd) ≤ y) then none
    else stepWord st i r (w + i * st * 2 ^ f.lo)

/-- The instruction of a repeat. -/
def Rep.target (r : Rep) (len w i : Nat) : Option Instr :=
  match (r.fields len w).bind fun fs => stepWord r.stride i fs w with
  | none => none
  | some x => match decode (leBytes len x) with
    | .instr t _ => some t
    | _ => none

/-- The registers the stepped fields of a repeat reach. -/
def Rep.reaches (r : Rep) (len w i : Nat) : List Reg :=
  ((r.fields len w).getD []).flatMap fun f =>
    (upTo (fld w f.lo f.wd + i * r.stride) f.span).map fun n => if f.cls = 0 then .v n else .s n

/-- What a REP decides at its own address (02 R56): the cause that forbids it. R56 does not name a stepped destination that would be s62 or
s63, or s61 at the completion of a producer, at some repeat: no word of such a repeat is an instruction (02 R37), and the REP is
Illegal-instruction for it (the model's choice: log entry 65). -/
def Rep.refusal (r : Rep) (g : Group) (len w : Nat) : Option Nat :=
  if (List.range r.count).any fun i => (r.target len w i).isNone then some 1
  else if (List.range r.count).any fun i => !(r.reaches len w i).all g.has then some 3
  else none

end Sys2Proof.Machine
end

