-- ==== Sys2Proof/Machine/Float.lean ====
section
/-! DEFINITION. IEEE 754 arithmetic over exact dyadic numbers, for binary16, bfloat16, binary32 and binary64 (05 R105, R106,
R109, R112; 07 R157 to R162). A number is computed exactly and rounded once. -/

namespace Sys2Proof.Machine

/-- A binary format: exponent bits and fraction bits. -/
structure Fmt where
  eb : Nat
  mb : Nat
  deriving DecidableEq, Repr

def f16 : Fmt := ⟨5, 10⟩
def bf16 : Fmt := ⟨8, 7⟩
def f32 : Fmt := ⟨8, 23⟩
def f64 : Fmt := ⟨11, 52⟩

def Fmt.bias (f : Fmt) : Nat := 2 ^ (f.eb - 1) - 1
def Fmt.emin (f : Fmt) : Int := 1 - (f.bias : Int)
def Fmt.inf (f : Fmt) : Nat := (2 ^ f.eb - 1) * 2 ^ f.mb
def Fmt.signBit (f : Fmt) : Nat := 2 ^ (f.eb + f.mb)
/-- The canonical NaN (05 R106). -/
def Fmt.nan (f : Fmt) : Nat := f.inf + 2 ^ (f.mb - 1)
def Fmt.maxFin (f : Fmt) : Nat := f.inf - 1

/-- Rounding directions, as CVT's fn codes them (05 R111). -/
inductive Rm where
  | rne | rz | rdn | rup
  deriving DecidableEq, Repr

def rmOf (n : Nat) : Rm := if n = 0 then .rne else if n = 1 then .rz else if n = 2 then .rdn else .rup

/-- The value of a word: NaN (signalling or quiet), infinity, or sign, m and e for ±m × 2^e. -/
inductive Fv where
  | nan (sig : Bool)
  | inf (neg : Bool)
  | fin (neg : Bool) (m : Nat) (e : Int)
  deriving DecidableEq, Repr

/-- The exceptions of 05 R109, as bits of cr.FPFLAGS. -/
def xNV : Word := 1
def xDZ : Word := 2
def xOF : Word := 4
def xUF : Word := 8
def xNX : Word := 16

/-- A rounded result: the bits and the exceptions raised. -/
structure Fr where
  bits : Nat
  ex : Word
  deriving DecidableEq, Repr

def Fmt.val (f : Fmt) (x : Nat) : Fv :=
  let neg := x / f.signBit % 2 == 1
  let e := x / 2 ^ f.mb % 2 ^ f.eb
  let m := x % 2 ^ f.mb
  if e = 2 ^ f.eb - 1 then (if m = 0 then .inf neg else .nan (decide (m < 2 ^ (f.mb - 1))))
  else if e = 0 then .fin neg m (f.emin - f.mb)
  else .fin neg (m + 2 ^ f.mb) ((e : Int) - f.bias - f.mb)

def Fmt.zero (f : Fmt) (neg : Bool) : Nat := if neg then f.signBit else 0
def Fmt.infOf (f : Fmt) (neg : Bool) : Nat := f.zero neg + f.inf

/-- A number is rounded up in magnitude: `low` is the last kept bit, `cmp` compares the rest with half a unit. -/
def roundsUp (rm : Rm) (neg low : Bool) (cmp : Ordering) (inexact : Bool) : Bool :=
  match rm with
  | .rne => cmp == .gt || (cmp == .eq && low)
  | .rz => false
  | .rdn => neg && inexact
  | .rup => !neg && inexact

/-- Divide by 2^k keeping what the rest is against half a unit: quotient, comparison and whether anything was lost. -/
def shiftOut (m k : Nat) (st : Bool) : Nat × Ordering × Bool :=
  if k = 0 then (m, if st then .lt else .lt, st)
  else
    let r := m % 2 ^ k
    let h := 2 ^ (k - 1)
    (m / 2 ^ k, (if r < h then .lt else if r = h then (if st then .gt else .eq) else .gt), decide (r ≠ 0) || st)

/-- Round ±(m + s) × 2^e once, where s is 0, or between 0 and 1 when `st` says that more was lost below m (05 R109). -/
def Fmt.round (f : Fmt) (rm : Rm) (neg : Bool) (m : Nat) (e : Int) (st : Bool) : Fr :=
  if m = 0 then ⟨f.zero neg, if st then xUF ||| xNX else 0⟩
  else
    let ex : Int := (Nat.log2 m : Int) + e
    let q : Int := max (ex - f.mb) (f.emin - f.mb)
    let up (q : Int) : Nat × Bool :=
      if q ≤ e then (m * 2 ^ (e - q).toNat, st)
      else
        let (a, c, lost) := shiftOut m (q - e).toNat st
        (a + (if roundsUp rm neg (a % 2 == 1) c lost then 1 else 0), lost)
    let (a, lost) := up q
    let (a2, q2) : Nat × Int := if a = 2 ^ (f.mb + 1) then (2 ^ f.mb, q + 1) else (a, q)
    if 2 ^ f.mb ≤ a2 ∧ q2 + f.mb > f.bias then
      let toInf := match rm with | .rne => true | .rz => false | .rdn => neg | .rup => !neg
      ⟨f.zero neg + (if toInf then f.inf else f.maxFin), xOF ||| xNX⟩
    else
      let tiny := decide (ex < f.emin) && !(decide (ex + 1 = f.emin) && decide ((up (ex - f.mb)).1 = 2 ^ (f.mb + 1)))
      let bits := if a2 < 2 ^ f.mb then a2 else (q2 + f.mb + f.bias).toNat * 2 ^ f.mb + (a2 - 2 ^ f.mb)
      ⟨f.zero neg + bits, (if lost then xNX else 0) ||| (if lost && tiny then xUF else 0)⟩

/-- Signed significand. -/
def sgn (neg : Bool) (m : Nat) : Int := if neg then -(m : Int) else m

/-- Round an exact dyadic i × 2^e; an exact zero takes the given sign. -/
def Fmt.roundInt (f : Fmt) (rm : Rm) (zneg : Bool) (i : Int) (e : Int) : Fr :=
  if i = 0 then ⟨f.zero zneg, 0⟩ else f.round rm (decide (i < 0)) i.natAbs e false

def Fmt.invalid (f : Fmt) : Fr := ⟨f.nan, xNV⟩

/-- The exact sum of two dyadics, at the lower exponent. -/
def addExact (a : Int) (ea : Int) (b : Int) (eb : Int) : Int × Int :=
  let e := min ea eb
  (a * 2 ^ (ea - e).toNat + b * 2 ^ (eb - e).toNat, e)

/-- Sum of two values, rounded once (07 R157, R158). -/
def Fmt.addV (f : Fmt) (rm : Rm) (a b : Fv) : Fr :=
  match a, b with
  | .nan s, .nan t => ⟨f.nan, if s || t then xNV else 0⟩
  | .nan s, _ => ⟨f.nan, if s then xNV else 0⟩
  | _, .nan s => ⟨f.nan, if s then xNV else 0⟩
  | .inf s, .inf t => if s = t then ⟨f.infOf s, 0⟩ else f.invalid
  | .inf s, _ => ⟨f.infOf s, 0⟩
  | _, .inf s => ⟨f.infOf s, 0⟩
  | .fin s m e, .fin t n d =>
    let (i, q) := addExact (sgn s m) e (sgn t n) d
    f.roundInt rm (s && t && m == 0 && n == 0) i q

def Fv.neg : Fv → Fv
  | .nan s => .nan s
  | .inf s => .inf !s
  | .fin s m e => .fin (!s) m e

def Fv.isNan : Fv → Bool | .nan _ => true | _ => false
def Fv.isSnan : Fv → Bool | .nan s => s | _ => false
def Fv.isZero : Fv → Bool | .fin _ m _ => m == 0 | _ => false
def Fv.isFin : Fv → Bool | .fin .. => true | _ => false

/-- An exact product, when neither is a NaN: none for 0 × ∞. -/
def mulExact (a b : Fv) : Option Fv :=
  match a, b with
  | .fin s m e, .fin t n d => some (.fin (s != t) (m * n) (e + d))
  | .inf s, .fin t n _ => if n = 0 then none else some (.inf (s != t))
  | .fin s m _, .inf t => if m = 0 then none else some (.inf (s != t))
  | .inf s, .inf t => some (.inf (s != t))
  | .nan s, _ => some (.nan s)
  | _, .nan s => some (.nan s)

/-- Product, rounded once (07 R159). -/
def Fmt.mulV (f : Fmt) (a b : Fv) : Fr :=
  if a.isNan || b.isNan then ⟨f.nan, if a.isSnan || b.isSnan then xNV else 0⟩
  else match mulExact a b with
    | none => f.invalid
    | some (.fin s m e) => if m = 0 then ⟨f.zero s, 0⟩ else f.round .rne s m e false
    | some (.inf s) => ⟨f.infOf s, 0⟩
    | some (.nan _) => f.invalid

/-- a × b + c, rounded once; 0 × ∞ is invalid even beside a quiet NaN (07 R159). -/
def Fmt.fmaV (f : Fmt) (a b c : Fv) : Fr :=
  let nanIn := a.isNan || b.isNan
  let prod := if nanIn then none else mulExact a b
  if !nanIn && prod.isNone then f.invalid
  else if nanIn || c.isNan then ⟨f.nan, if a.isSnan || b.isSnan || c.isSnan then xNV else 0⟩
  else match prod with
    | some p =>
      match p, c with
      | .fin s m e, .fin t n d =>
        let (i, q) := addExact (sgn s m) e (sgn t n) d
        f.roundInt .rne (s && t && m == 0 && n == 0) i q
      | _, _ => f.addV .rne p c
    | none => f.invalid

/-- Order of two numbers that are not NaNs; −0 and +0 are equal. -/
def cmpV (a b : Fv) : Ordering :=
  match a, b with
  | .inf s, .inf t => if s = t then .eq else if s then .lt else .gt
  | .inf s, _ => if s then .lt else .gt
  | _, .inf t => if t then .gt else .lt
  | .fin s m e, .fin t n d => compare (addExact (sgn s m) e (-(sgn t n)) d).1 0
  | _, _ => .eq

def Fv.negative : Fv → Bool | .nan _ => false | .inf s => s | .fin s _ _ => s

/-- The lesser or greater of two words, −0 below +0 (07 R160). -/
def Fmt.minmax (f : Fmt) (isMax : Bool) (x y : Nat) : Fr :=
  let a := f.val x
  let b := f.val y
  let ex := if a.isSnan || b.isSnan then xNV else 0
  if a.isNan && b.isNan then ⟨f.nan, ex⟩
  else if a.isNan then ⟨y, ex⟩
  else if b.isNan then ⟨x, ex⟩
  else
    let less := match cmpV a b with | .lt => true | .gt => false | .eq => a.negative && !b.negative
    ⟨if less != isMax then x else y, ex⟩

/-- Round to an integral value in a direction, keeping the sign (07 R162, 05 R112): inexact where the value changed. -/
def Fmt.integral (f : Fmt) (rm : Rm) (x : Nat) : Fr :=
  match f.val x with
  | .nan s => ⟨f.nan, if s then xNV else 0⟩
  | .inf _ => ⟨x, 0⟩
  | .fin neg m e =>
    if 0 ≤ e then ⟨x, 0⟩
    else
      let (a, c, lost) := shiftOut m (-e).toNat false
      let a' := a + (if roundsUp rm neg (a % 2 == 1) c lost then 1 else 0)
      if lost then ⟨(f.round .rne neg a' 0 false).bits, xNX⟩ else ⟨x, 0⟩

/-- Quotient, rounded to nearest even: division by zero of a finite number is infinite and raises DZ. -/
def Fmt.divV (f : Fmt) (a b : Fv) : Fr :=
  match a, b with
  | .nan s, .nan t => ⟨f.nan, if s || t then xNV else 0⟩
  | .nan s, _ => ⟨f.nan, if s then xNV else 0⟩
  | _, .nan s => ⟨f.nan, if s then xNV else 0⟩
  | .inf _, .inf _ => f.invalid
  | .inf s, .fin t _ _ => ⟨f.infOf (s != t), 0⟩
  | .fin s _ _, .inf t => ⟨f.zero (s != t), 0⟩
  | .fin s m e, .fin t n d =>
    if n = 0 then (if m = 0 then f.invalid else ⟨f.infOf (s != t), xDZ⟩)
    else if m = 0 then ⟨f.zero (s != t), 0⟩
    else
      let k := 2 * f.mb + 6 + Nat.log2 n
      f.round .rne (s != t) (m * 2 ^ k / n) (e - d - k) (decide (m * 2 ^ k % n ≠ 0))

/-- The integer square root, bit by bit from bit i down. -/
def isqrtFrom (n : Nat) : Nat → Nat → Nat
  | 0, r => if (r + 1) * (r + 1) ≤ n then r + 1 else r
  | i + 1, r => isqrtFrom n i (if (r + 2 ^ (i + 1)) * (r + 2 ^ (i + 1)) ≤ n then r + 2 ^ (i + 1) else r)

def isqrt (n : Nat) : Nat := isqrtFrom n (Nat.log2 n / 2 + 1) 0

/-- Square root, correctly rounded (07 R163, R165). -/
def Fmt.sqrtV (f : Fmt) (a : Fv) : Fr :=
  match a with
  | .nan s => ⟨f.nan, if s then xNV else 0⟩
  | .inf s => if s then f.invalid else ⟨f.inf, 0⟩
  | .fin s m e =>
    if m = 0 then ⟨f.zero s, 0⟩
    else if s then f.invalid
    else
      let k : Nat := 2 * f.mb + 8
      let odd : Nat := if (e - k) % 2 = 0 then 0 else 1
      let n := m * 2 ^ (k + odd)
      let r := isqrt n
      f.round .rne false r ((e - k - odd) / 2) (decide (r * r ≠ n))

/-- Reciprocal square root, correctly rounded (07 R163, R165). -/
def Fmt.rsqrtV (f : Fmt) (a : Fv) : Fr :=
  match a with
  | .nan s => ⟨f.nan, if s then xNV else 0⟩
  | .inf s => if s then f.invalid else ⟨0, 0⟩
  | .fin s m e =>
    if m = 0 then ⟨f.infOf s, xDZ⟩
    else if s then f.invalid
    else
      let odd : Nat := if e % 2 = 0 then 0 else 1
      let n := m * 2 ^ odd
      let k := 2 * f.mb + 10
      let r := isqrt (2 ^ (2 * k) / n)
      f.round .rne false r (-(e - odd) / 2 - k) (decide (r * r * n ≠ 2 ^ (2 * k)))

/-- A word of one format rounded into another (05 R112). -/
def Fmt.convert (src dst : Fmt) (rm : Rm) (x : Nat) : Fr :=
  match src.val x with
  | .nan s => ⟨dst.nan, if s then xNV else 0⟩
  | .inf s => ⟨dst.infOf s, 0⟩
  | .fin s m e => if m = 0 then ⟨dst.zero s, 0⟩ else dst.round rm s m e false

/-- An integer rounded into a format (05 R112). -/
def Fmt.ofInt (f : Fmt) (rm : Rm) (i : Int) : Fr := f.roundInt rm false i 0

/-- A value rounded to an integer and saturated to a range (05 R112). -/
def toIntSat (rm : Rm) (lo hi : Int) (a : Fv) : Int × Word :=
  match a with
  | .nan _ => (0, xNV)
  | .inf s => (if s then lo else hi, xNV)
  | .fin neg m e =>
    let (q, lost) : Nat × Bool :=
      if 0 ≤ e then (m * 2 ^ e.toNat, false)
      else
        let (a, c, lost) := shiftOut m (-e).toNat false
        (a + (if roundsUp rm neg (a % 2 == 1) c lost then 1 else 0), lost)
    let i := sgn neg q
    if i < lo then (lo, xNV) else if hi < i then (hi, xNV) else (i, if lost then xNX else 0)

/-! F32 operations as words, rounded to nearest even, for the engines of 10 and 11: they raise nothing. -/

def fadd (a b : Word) : Word := BitVec.ofNat 32 (f32.addV .rne (f32.val a.toNat) (f32.val b.toNat)).bits
def fsub (a b : Word) : Word := BitVec.ofNat 32 (f32.addV .rne (f32.val a.toNat) (f32.val b.toNat).neg).bits
def fmul (a b : Word) : Word := BitVec.ofNat 32 (f32.mulV (f32.val a.toNat) (f32.val b.toNat)).bits
def fdiv (a b : Word) : Word := BitVec.ofNat 32 (f32.divV (f32.val a.toNat) (f32.val b.toNat)).bits
def fsqrt (a : Word) : Word := BitVec.ofNat 32 (f32.sqrtV (f32.val a.toNat)).bits
def frsqrt (a : Word) : Word := BitVec.ofNat 32 (f32.rsqrtV (f32.val a.toNat)).bits
def fmax (a b : Word) : Word := BitVec.ofNat 32 (f32.minmax true a.toNat b.toNat).bits
def fmin (a b : Word) : Word := BitVec.ofNat 32 (f32.minmax false a.toNat b.toNat).bits
def flt (a b : Word) : Bool :=
  let x := f32.val a.toNat
  let y := f32.val b.toNat
  !x.isNan && !y.isNan && cmpV x y == .lt
def fle (a b : Word) : Bool :=
  let x := f32.val a.toNat
  let y := f32.val b.toNat
  !x.isNan && !y.isNan && cmpV x y != .gt
def feq (a b : Word) : Bool :=
  let x := f32.val a.toNat
  let y := f32.val b.toNat
  !x.isNan && !y.isNan && cmpV x y == .eq
def fisNan (a : Word) : Bool := (f32.val a.toNat).isNan
def ffinite (a : Word) : Bool := (f32.val a.toNat).isFin

end Sys2Proof.Machine
end

