-- ==== Sys2Proof/Machine/Issue.lean ====
section
/-! DEFINITION. One issue: what is checked before an instruction's effect, in the order of 02 R59, when it waits (01 R18), and
what it leaves behind (01 R17, 02 R55, 18 R319). A meaning gives `issue` its operands and its effect. -/

namespace Sys2Proof.Machine

/-- A source register with its E bit (02 R38). -/
structure Src where
  reg : Reg
  e : Bool
  deriving DecidableEq, Repr

/-- In which code an instruction is legal (18 R319, 20 R343). -/
inductive Legal where
  | all
  /-- Illegal-instruction in trap-handler and debug-handler code. -/
  | ordinary
  /-- Only in trap-handler code. -/
  | handler
  /-- Only in debug-handler code. -/
  | debug
  /-- Not in debug-handler code. -/
  | notDebug
  /-- Not in trap-handler code. -/
  | notHandler
  /-- Nowhere: the thread is of another kind (10 R218, 11 R230). -/
  | never
  deriving DecidableEq, Repr

def Legal.ok : Legal → Cls → Bool
  | .all, _ => true
  | .ordinary, c => c == .ordinary
  | .handler, c => c == .handler
  | .debug, c => c == .debug
  | .notDebug, c => c != .debug
  | .notHandler, c => c != .handler
  | .never, _ => false

/-- What an issue needs: where it is legal, a Privilege cause it raises (02 R39, 13 R271), registers that its fields name and it does not
touch (08 R183), its sources, the registers it writes in the issue and those a producer fills later, whether a read of MSGRX may leave it
waiting for its flit (13 R275), whether the group then stays at it until it completes (05 R110), the destinations whose old value it reads,
whether it reads lanes outside its active set (08 R178, R182; log entry 74), and whether it writes its destinations in its active set. -/
structure Need' where
  legal : Legal := .all
  priv : Bool := false
  names : List Reg := []
  srcs : List Src := []
  dests : List Reg := []
  late : List Reg := []
  defer : Option Instr := none
  hold : Bool := false
  old : List Reg := []
  wide : Bool := false
  own : Bool := true
  deriving DecidableEq, Repr

/-- An operand is empty: s62 is while the receive queue holds no unclaimed flit (02 R38, 13 R275). -/
def Group.srcEmpty (g : Group) (r : Reg) : Bool :=
  if r = .s 62 then g.kind != .debug && g.rxq.isEmpty else g.isEmpty r

/-- The issue waits at its PC, without choosing another (01 R18); an instruction that has issued already waits where it is (13 R275). -/
def State.waitAt (s : State) (g : Group) (why : Nat) : State :=
  if s.cur.defer.isSome then { s with waited := true }
  else match s.cur.cls with
  | .ordinary => { s.setGroup s.cur.gid { g with waitPc := some s.cur.pc, why := why } with waited := true }
  | _ => { s.modGroup s.cur.gid (fun x => { x with why := why }) with waited := true }

/-- The stall reason of a producer class (20 R361). -/
def PClass.reason : PClass → Nat
  | .memory => 1 | .sfu => 2 | .compare => 2 | .matrix => 3 | .viewTrace => 4 | .copy => 5 | .message => 6 | .snapshot => 7

/-- The stall reason of a wait on empty registers: the class of the oldest producer of one of them; 6 for s62 (20 R361). -/
def State.emptyWhy (s : State) (g : Group) (rs : List Reg) : Nat :=
  match s.ops.find? fun x => x.2.gid == s.cur.gid && x.2.uid == g.uid && x.2.dests.any rs.contains with
  | some x => x.2.cls.reason
  | none => 6

/-- What the checks before an effect decide. -/
inductive Checked where
  /-- A cause for the whole active set. -/
  | trap (cause : Nat)
  /-- An operand is empty. -/
  | waits (why : Nat)
  /-- The instruction claims no flit, or one that is present. -/
  | go (g : Group)
  /-- It reads MSGRX before a flit is there and waits for it with its destination empty. -/
  | deferred (i : Instr)
  deriving DecidableEq, Repr

/-- The checks of an issue, the first that applies (02 R36, R38, R59; 13 R274, R275). -/
def State.check (s : State) (g : Group) (q : Need') : Checked :=
  if !q.legal.ok s.cur.cls then .trap 1
  else if q.priv then .trap 2
  else if !((q.names ++ q.srcs.map (·.reg) ++ q.dests ++ q.late).all g.has) then .trap 3
  else if q.srcs.any fun x => x.e && g.srcEmpty x.reg then .trap 4
  else if q.dests.any g.isEmpty || q.late.any g.isEmpty ||
      q.srcs.any (fun x => !(x.reg == .s 62) && g.srcEmpty x.reg) then
    .waits (s.emptyWhy g ((q.dests ++ q.late ++ q.srcs.map (·.reg)).filter g.isEmpty))
  else if q.dests.contains (.s 61) && g.kind != .debug && decide (4 ≤ s.outstanding g.uid) then .waits 6
  else if q.dests.contains (.s 61) && g.kind != .debug && (s.msgTarget g.part g.msgDst).isNone then .trap 36
  else if q.srcs.any (fun x => x.reg == .s 62) && g.kind != .debug then
    match g.rxq with
    | x :: r => .go { g with rxq := r, rx := x.1, msgSrc := x.2 }
    | [] => match q.defer with
      | some i => .deferred i
      | none => .waits 6
  else .go g

/-! The end of an issue. -/

/-- Where the issuing code goes on: past the instruction, or where the instruction sends each lane. -/
inductive Goes where
  | on
  | to (f : Nat → DWord)
  /-- The lanes wait at the instruction (13 R264). -/
  | wait

def Goes.at (x : Goes) (pc : DWord) (len : Nat) (j : Nat) : DWord :=
  match x with
  | .on => pc + BitVec.ofNat 64 len
  | .to f => f j
  | .wait => pc

def Goes.stays : Goes → Bool
  | .wait => true
  | _ => false

/-- Advance the lanes of a mask after an issue of the ordinary class or the debug slot, under a REP when the issue is a
repeat. Lanes that wait at the instruction stay, and so does the repeat. -/
def Group.stepLanes (g : Group) (c : Cur) (m : Mask) (x : Goes) : Group :=
  if x.stays then g
  else if c.rep then
    match g.rep with
    | none => g
    | some r => g.splitRep r (r.mask &&& m)
  else g.moveTo m fun j => x.at c.pc c.len j

/-- Finish an issue: the group with its registers written moves on and the scheduler partition is held for its clocks (01
R17, R389). `m` are the lanes that completed it. -/
def State.finish (s : State) (g : Group) (m : Mask) (x : Goes) (cost : Nat) : State :=
  let c := s.cur
  let s1 := s.modSp (spIdOf c.gid) fun q => { q with busy := s.now.toNat + cost }
  match c.cls with
  | .ordinary => s1.setGroup c.gid (((g.aged ((s.curGroup?).getD g) c.mask).issuedAt c.pc).stepLanes c m x).settle
  | .debug => s1.setGroup c.gid (g.stepLanes c m x)
  | .handler =>
    match g.handling with
    | none => s1.setGroup c.gid g
    | some h =>
      let h1 := { h with issues := h.issues + 1 }
      let h2 := if c.rep then
          match h.rep with
          | none => h1
          | some r =>
            match r.after with
            | some r' => { h1 with rep := some r' }
            | none => { h1 with rep := none, pc := r.past }
        else { h1 with pc := x.at c.pc c.len h.lane }
      s1.setGroup c.gid { g with handling := some h2, why := 0, passOnce := none }

/-- The registers of a completed read of MSGRX come into the group as it now stands (13 R275). -/
def Group.mergeFrom (g n : Group) (m : Mask) (r : Reg) : Group :=
  match r with
  | .v i => g.writeV i m fun j => n.vr i j
  | .s i => if i < 60 then { g with s := g.s.set i (n.s.get i) } else if i = 60 then { g with msgDst := n.msgDst } else g
  | .k i => g.setKr i (n.k.get i)
  | .t i => { g with t := (g.t.drop fun c => c / 1024 == i).setRange (i * 1024) (n.t.range (i * 1024) 1024) }

/-- Finish an instruction that waited for its flit: its destinations fill, a vector one in the lanes of a mask, and MSGSRC names the
sender. -/
def State.finishDeferred (s : State) (id : Nat) (n : Group) (m : Mask) : State :=
  match s.ops.get? id with
  | none => s
  | some o =>
    match s.group? o.gid with
    | none => s.dropOp id
    | some g =>
      if g.uid != o.uid then s.dropOp id
      else
        let g1 := o.dests.foldl (fun g r => g.mergeFrom n m r) g
        let g2 := ((g1.markFull o.dests).setCr 0x11 (g.cr 0x11 ||| n.cr 0x11)).acquireAt o.dests none
        (s.setGroup o.gid { g2 with msgSrc := n.msgSrc }).dropOp id

/-- The end of an instruction that writes its registers in its issue; a write of s61 injects one flit
to the target MSGDST held when the issue was made (02 R37, 13 R274). -/
def State.done (s : State) (g : Group) (m : Mask) (x : Goes) (cost : Nat) (tx : Option Word) : Out :=
  match s.cur.defer with
  | some id => .next (s.finishDeferred id g m)
  | none =>
    let s1 := s.finish g m x cost
    .next (match tx with
      | some w =>
        if g.kind = .debug then s1
        else s1.inject s.cur.gid { g with msgDst := (s.curGroup?.map (·.msgDst)).getD g.msgDst } m w
      | none => s1)

/-- The group stays at an instruction whose operation, the newest, completes before it issues anything further (05 R110). -/
def State.holdIssue (s : State) (g : Group) (cost : Nat) : State :=
  (s.modSp (spIdOf s.cur.gid) fun q => { q with busy := s.now.toNat + cost }).setGroup s.cur.gid
    { (g.aged g s.cur.mask).issuedAt s.cur.pc with serial := some (s.fresh - 1) }

/-- Leave an instruction waiting for its flit: its destinations are empty, and the group goes on or stays at it (13 R275, 05 R110). -/
def State.deferIssue (s : State) (g : Group) (i : Instr) (dests : List Reg) (cost : Nat) (hold : Bool) : State :=
  let o : Op :=
    { gid := s.cur.gid, uid := g.uid, part := g.part, pc := s.cur.pc, cls := .message, dests, mask := s.cur.mask, due := 0,
      bad := none, kind := .message i s.cur (some g) none }
  let s1 := { s with ops := s.ops.set s.fresh o, fresh := s.fresh + 1 }
  if hold then s1.holdIssue (g.markEmpty dests) cost else s1.finish (g.markEmpty dests) s.cur.mask .on cost

/-- The effect of a claimed flit on a waiting instruction: the group as it read it, with the flit and no flag raised yet (13 R275). -/
def State.deferredGroup (s : State) (id : Nat) : Option Group :=
  match s.ops.get? id with
  | some o =>
    match o.kind with
    | .message _ _ (some g0) (some (x, src)) => some { g0.setCr 0x11 0 with rx := x, msgSrc := src }
    | _ => none
  | none => none

/-- A parity error lies in what an issue reads: in the active lanes of a vector register, anywhere in another (03 R82). -/
def Group.readsBad (g : Group) (m : Mask) (srcs : List Reg) : Bool :=
  g.bad.any fun x => srcs.contains x.1 && (match x.1 with | .v _ => maskBit m x.2 | _ => true)

/-- Registers written in the lanes of a mask hold no parity error. -/
def Group.cleared (g : Group) (m : Mask) (rs : List Reg) : Group :=
  { g with bad := g.bad.filter fun x => !(rs.contains x.1 && (match x.1 with | .v _ => maskBit m x.2 | _ => true)) }

/-- What an issue's reads acquire: a read of MSGRX, and the first reader of a register a producer has filled (13 R276; 23 R385); what it
writes holds no error any more. -/
def Group.reads (g : Group) (m : Mask) (srcs writes : List Reg) (own : Bool := true) : Group :=
  ((if Reg.s 62 ∈ srcs ∧ g.kind ≠ .debug then g.onMask m fun l => l.acquire allStreams else g).readsFirst m srcs writes).cleared
    (if own then m else 0) writes

/-- Every register that an issue reads, and in which lanes it meets an error. -/
def Need'.reads (q : Need') : List Reg := q.srcs.map (·.reg) ++ q.old
def Need'.lanes (q : Need') (m : Mask) : Mask := if q.wide then BitVec.allOnes 64 else m

/-- The issue holds its scheduler partition for some clocks, also where it traps or stops (01 R14, R389). -/
def State.atCost (s : State) (n : Nat) : State := { s with cur := { s.cur with cost := n } }

/-- One issue: the checks, then the effect (02 R59, 01 R18). `cost` is the clocks it holds its scheduler partition. -/
def State.issue (s : State) (q : Need') (cost : Group → Nat) (effect : State → Group → Out) : Out :=
  match s.cur.defer with
  | some id =>
    match s.deferredGroup id with
    | some g => effect s g
    | none => .fault .noIssue
  | none =>
    match s.curGroup? with
    | none => .fault .noIssue
    | some g =>
      match s.check g q with
      | .trap c => .next ((s.atCost (cost g)).raise g s.cur.mask c 0 ((q.dests ++ q.late).head?) 0)
      | .waits why => .next (s.waitAt g why)
      | .deferred i => .next (s.deferIssue g i (q.dests ++ q.late) (cost g) q.hold)
      | .go g1 =>
        if g.readsBad (q.lanes s.cur.mask) q.reads then .next ((s.setGroup s.cur.gid g).contextFault g.part (some s.cur.gid) 64 0 s.cur.pc 0 0 0)
        else effect (s.atCost (cost g)) (g1.reads s.cur.mask q.reads (q.dests ++ q.late) q.own)

/-- The group as it was before the issue claimed a flit, for a wait or trap that has no effect. -/
def State.untouched (s : State) (g : Group) : Group := (s.curGroup?).getD g

/-! The clocks of an issue (01 R14, R389; 07 R145). -/

def costOne (_ : Group) : Nat := 1
def costLane (g : Group) : Nat := if g.width = 64 then 2 else 1
def cost64 (g : Group) : Nat := if g.width = 64 then 4 else if g.width = 32 then 2 else 1

/-! Families of one shape. -/

/-- A vector result in each lane of the active set, written in the issue (07 R144). -/
def State.vecOp (s : State) (i : Instr) (srcs : List Src) (d : Nat) (f : Group → Nat → Word) (old : List Reg := []) (wide : Bool := false) :
    Out :=
  s.issue { srcs, dests := [.v d], defer := some i, old, wide } costLane fun s g =>
    s.done (g.writeV d s.cur.mask (f g)) s.cur.mask .on (costLane g) none

/-- A scalar result, once for the group (07 R144, R169). -/
def State.sclOp (s : State) (i : Instr) (srcs : List Src) (d : Nat) (f : Group → Word) (old : List Reg := []) : Out :=
  s.issue { srcs, dests := [.s d], defer := some i, old } costOne fun s g =>
    s.done (s.writeS s.cur.gid g d (f g)) s.cur.mask .on 1 (if d = 61 then some (f g) else none)

/-- A scalar pair result (07 R172). -/
def State.scl2Op (s : State) (i : Instr) (srcs : List Src) (d : Nat) (f : Group → DWord) : Out :=
  s.issue { srcs, dests := [.s d, .s (d + 1)], defer := some i } costOne fun s g =>
    s.done (s.writeS2 s.cur.gid g d (f g)) s.cur.mask .on 1 (if d + 1 = 61 then some (hi32 (f g)) else none)

/-- The bits of lanes 0 to W − 1 (07 R173). -/
def widthMask (w : Nat) : Mask := BitVec.ofNat 64 (2 ^ w - 1)

/-- A mask result, bits W to 63 written 0 (07 R173). -/
def State.maskOp (s : State) (i : Instr) (srcs : List Src) (d : Nat) (f : Group → Mask) : Out :=
  s.issue { srcs, dests := [.k d], defer := some i } costOne fun s g =>
    s.done (g.setKr d (f g &&& widthMask g.width)) s.cur.mask .on 1 none

/-- Start a producer: its destinations become empty and an operation will fill them (02 R38). -/
def State.produce (s : State) (g : Group) (cls : PClass) (dests : List Reg) (latency : Nat) (kind : OpKind) :
    State × Group :=
  let o : Op :=
    { gid := s.cur.gid, uid := g.uid, part := g.part, pc := s.cur.pc, cls, dests, mask := s.cur.mask,
      due := s.timeOf g.part s.cur.gid + latency, bad := none, kind }
  ({ s with ops := s.ops.set s.fresh o, fresh := s.fresh + 1 }, g.markEmpty dests)

/-- Complete a producer: apply what it writes and mark its registers full; if its group is gone the values are dropped (01
R32). -/
def State.completeOp (s : State) (id : Nat) (o : Op) (f : State → Group → Group) : State :=
  match s.group? o.gid with
  | some g => if g.uid = o.uid then (s.setGroup o.gid ((f s g).markFull o.dests)).dropOp id else s.dropOp id
  | none => s.dropOp id

end Sys2Proof.Machine
end

