-- ==== Sys2Proof/Machine/Operands.lean ====
section
/-! DEFINITION. The operand forms of 02 R42 to R53: which registers a field names, and the value it supplies. -/

namespace Sys2Proof.Machine

/-- A vector field (kind V). -/
def srcV {n : Nat} (a : BitVec n) (e : Bool) : Src := ⟨.v a.toNat, e⟩

/-- A scalar field (kind S). -/
def srcS {n : Nat} (a : BitVec n) (e : Bool) : Src := ⟨.s a.toNat, e⟩

/-- A mask field (kind K). -/
def srcK {n : Nat} (a : BitVec n) (e : Bool) : Src := ⟨.k a.toNat, e⟩

/-- n consecutive vector registers. -/
def srcVs (first n : Nat) (e : Bool) : List Src := (upTo first n).map fun r => ⟨.v r, e⟩

/-- n consecutive scalars. -/
def srcSs (first n : Nat) (e : Bool) : List Src := (upTo first n).map fun r => ⟨.s r, e⟩

def regVs (first n : Nat) : List Reg := (upTo first n).map .v
def regSs (first n : Nat) : List Reg := (upTo first n).map .s

/-- A field of kind SI: 0 to 63 names a scalar, 64 to 127 is the immediate field − 96 (02 R42). -/
def srcSI (b : BitVec 7) (e : Bool) : List Src := if b.toNat < 64 then [⟨.s b.toNat, e⟩] else []

def immSI (b : BitVec 7) : Int := (b.toNat : Int) - 96

/-- bv: the 32-bit value of an SI field (07 R144). -/
def valSI (g : Group) (b : BitVec 7) : Word := if b.toNat < 64 then g.sr b.toNat else BitVec.ofInt 32 (immSI b)

/-- An SI field of S64: a scalar code names a pair (07 R172). -/
def srcSI64 (b : BitVec 7) (e : Bool) : List Src :=
  if b.toNat < 64 then [⟨.s b.toNat, e⟩, ⟨.s (b.toNat + 1), e⟩] else []

/-- bv64 (07 R172). -/
def valSI64 (g : Group) (b : BitVec 7) : DWord := if b.toNat < 64 then g.sr64 b.toNat else BitVec.ofInt 64 (immSI b)

/-- The signed 18-bit immediate of the I format (02 R45). -/
def imm18 (i : BitVec 18) : Word := i.signExtend 32

/-- The byte displacement of a B-format field: off16 signed halfwords (02 R46). -/
def disp16 (o : BitVec 16) : DWord := 2 * o.signExtend 64

/-- Bit 0 of a jump target is cleared (02 R41). -/
def evenAddr (x : DWord) : DWord := x &&& ~~~(1 : DWord)

end Sys2Proof.Machine
end

