-- ==== Sys2Proof/Machine/Flags.lean ====
section
/-! DEFINITION. Floating-point exceptions of an issue (05 R109, R110): which lanes fault, what cr.FPFLAGS gathers, and the
traps of the faulting lanes. -/

namespace Sys2Proof.Machine

/-- cr.FPEXCEN as it acts: handler code never traps on a float exception (18 R319). -/
def State.fpEnabled (s : State) (g : Group) : Word := if s.cur.cls = .ordinary then g.cr 0x10 &&& 31 else 0

/-- The cause of the first enabled exception a lane raised, in the order NV, DZ, OF, UF, NX (05 R110, 18 R316). -/
def fpCause (en ex : Word) : Option Nat :=
  let m := (en &&& ex).toNat
  if m % 2 = 1 then some 17 else if m / 2 % 2 = 1 then some 18 else if m / 4 % 2 = 1 then some 19
  else if m / 8 % 2 = 1 then some 20 else if m / 16 % 2 = 1 then some 21 else none

/-- OR exceptions into cr.FPFLAGS. -/
def Group.orFlags (g : Group) (x : Word) : Group := g.setCr 0x11 (g.cr 0x11 ||| x)

/-- The exceptions of the lanes of a list, ORed. -/
def orLanes (ls : List Nat) (ex : Nat → Word) : Word := ls.foldl (fun a j => a ||| ex j) 0

/-- The faulting lanes by cause, the cause of the lowest lane first: one sub-warp for each (log entry 20). -/
def fpFaults (en : Word) (ls : List Nat) (ex : Nat → Word) : List (Nat × Mask) :=
  ls.foldl (fun acc j =>
    match fpCause en (ex j) with
    | none => acc
    | some c =>
      if acc.any (fun x => x.1 == c) then acc.map fun x => if x.1 = c then (c, x.2 ||| ((1 : Mask) <<< j)) else x
      else acc ++ [(c, (1 : Mask) <<< j)]) []

/-- Trap the faulting lanes, one sub-warp after another. -/
def State.trapFaults (s : State) (gid : Nat) (pc : DWord) (len : Nat) (d : Option Reg) (rep : Option Nat) :
    List (Nat × Mask) → State
  | [] => s
  | (c, m) :: r =>
    match s.group? gid with
    | none => s
    | some g =>
      (s.trapLanes gid g { mask := m, pc, cause := c, code := 0, info := trapInfo len d, va := 0, rep }).trapFaults gid pc
        len d rep r

/-- The union of the faulting lanes. -/
def faultMask (fs : List (Nat × Mask)) : Mask := fs.foldl (fun m x => m ||| x.2) 0

/-- Take lanes out of the repeat in progress. -/
def Group.dropRep (g : Group) (m : Mask) : Group :=
  { g with
    rep := match g.rep with
      | some r => if r.mask &&& ~~~m = 0 then none else some { r with mask := r.mask &&& ~~~m }
      | none => none }

/-- The group stays at the instruction that has now claimed its flit (05 R110, 13 R275). -/
def State.heldAt (s : State) : Bool :=
  match s.cur.defer with
  | some id => (((s.ops.get? id).bind fun o => s.group? o.gid).bind (·.serial)) == some id
  | none => false

/-- The instruction at which the group stayed has its flit: `n` is the group as it read it, with its results in the good lanes `m`, which
go on; the faulting lanes trap (05 R110, 13 R275). -/
def State.finishHeld (s : State) (n : Group) (m : Mask) (d : Reg) (fs : List (Nat × Mask)) : State :=
  match s.cur.defer.bind fun id => (s.ops.get? id).map fun o => (id, o) with
  | none => s
  | some (id, o) =>
    match s.group? o.gid with
    | none => s.dropOp id
    | some g =>
      if g.uid != o.uid then s.dropOp id
      else
        let g1 := (o.dests.foldl (fun g r => g.mergeFrom n m r) g).markFull o.dests
        let g2 := { (g1.orFlags (n.cr 0x11)).acquireAt o.dests none with serial := none, msgSrc := n.msgSrc }
        let rep := if s.cur.rep then g.rep.map (·.idx) else none
        let g3 := if m = 0 then g2 else ((g2.dropRep (faultMask fs)).stepLanes s.cur m .on).settle
        ((s.setGroup o.gid g3).trapFaults o.gid o.pc s.cur.len (some d) rep fs).dropOp id

/-- End a float issue whose good lanes `m` have been written in `g`: they go on; the faulting lanes stay and trap. -/
def State.doneFloat (s : State) (g : Group) (m : Mask) (cost : Nat) (d : Reg) (fs : List (Nat × Mask)) : Out :=
  if s.heldAt then .next (s.finishHeld g m d fs)
  else if fs.isEmpty then s.done g m .on cost none
  else
    let c := s.cur
    let rep := if c.rep then g.rep.map (·.idx) else none
    let g1 := g.dropRep (faultMask fs)
    let s1 := if m = 0 then
        (s.modSp (spIdOf c.gid) fun q => { q with busy := s.now.toNat + cost }).setGroup c.gid
          ((g1.aged g1 c.mask).issuedAt c.pc)
      else s.finish g1 m .on cost
    .next (s1.trapFaults c.gid c.pc c.len (some d) rep fs)

/-- A float result in each lane of the active set: a word and the exceptions raised (05 R110). Where it waits for a flit and a bit of
cr.FPEXCEN is 1, the group stays at it, as at a special function, so that its traps are as precise (log entry 25). -/
def State.vecFloat (s : State) (i : Instr) (srcs : List Src) (d : List Nat) (cost : Group → Nat)
    (f : Group → Nat → List Word × Word) (old : List Reg := []) : Out :=
  let en : Word := match s.curGroup? with | some g => s.fpEnabled g | none => 0
  s.issue { srcs, dests := d.map .v, defer := some i, hold := en != 0, old } cost fun s g =>
    let ls := lanesOf s.cur.mask
    let fs := fpFaults (s.fpEnabled g) ls fun j => (f g j).2
    let ok := s.cur.mask &&& ~~~(faultMask fs)
    let g1 := (d.zipIdx).foldl (fun g' x => g'.writeV x.1 ok fun j => (((f g j).1)[x.2]?).getD 0) g
    s.doneFloat (g1.orFlags (orLanes (lanesOf ok) fun j => (f g j).2)) ok (cost g) (.v ((d.head?).getD 0)) fs

/-- Issue a special function or a float compare: while cr.FPEXCEN enables a trap the group does not leave it before it
completes (05 R110; 07 R153, R161, R163). In handler code cr.FPEXCEN counts as 0, so that there it never holds the ordinary class (the
model's choice: log entry 64). -/
def State.flagOp (s : State) (g : Group) (cls : PClass) (dests : List Reg) (latency : Nat) (ws : List RegWrite)
    (ex : List (Nat × Word)) : Out :=
  let free := s.fpEnabled g == 0
  let (s1, g1) := s.produce g cls dests latency (.flagged ws ex s.cur free)
  .next (if free then s1.finish g1 s.cur.mask .on (costLane g) else s1.holdIssue g1 (costLane g))

/-- The completion of a special function or a float compare: flags and results, or the traps of the lanes that raised an
enabled exception. A k destination is wholly unwritten when any lane faults (05 R110, 07 R153). -/
def State.flagDone (s : State) (id : Nat) (o : Op) (ws : List RegWrite) (ex : List (Nat × Word)) (c : Cur)
    (moved : Bool) : State :=
  match s.group? o.gid with
  | none => s.dropOp id
  | some g =>
    if g.uid != o.uid then s.dropOp id
    else
      let en : Word := if moved then 0 else g.cr 0x10 &&& 31
      let exOf := fun j => ((ex.find? fun x => x.1 == j).map (·.2)).getD 0
      let fs := fpFaults en (ex.map (·.1)) exOf
      let bad := faultMask fs
      let isK := o.dests.any fun r => match r with | .k _ => true | _ => false
      let ok : Mask := if fs.isEmpty then o.mask else if isK then 0 else o.mask &&& ~~~bad
      let ws1 := ws.filter fun w => match w.reg with
        | .k _ => ok != 0
        | _ => maskBit ok w.lane
      let g1 := ((s.applyWrites o ws1 g).markFull o.dests).orFlags (orLanes (lanesOf ok) exOf)
      let g2 := { g1 with serial := if g1.serial = some id then none else g1.serial }
      let rep := if c.rep then g.rep.map (·.idx) else none
      let g3 := if moved || ok = 0 then g2 else ((g2.dropRep bad).stepLanes c ok .on).settle
      ((s.setGroup o.gid g3).trapFaults o.gid o.pc c.len (o.dests.head?) rep fs).dropOp id

/-- The words and exceptions of one rounded result. -/
def Fr.word (r : Fr) : List Word × Word := ([BitVec.ofNat 32 r.bits], r.ex)

/-- A rounded binary64 result as two words, low first. -/
def Fr.words (r : Fr) : List Word × Word := ([BitVec.ofNat 32 r.bits, BitVec.ofNat 32 (r.bits / 2 ^ 32)], r.ex)

/-- An operation of the group has flags still to give (05 R110): a special function or a compare of floats. -/
def State.flagsPending (s : State) (gid uid : Nat) : Bool :=
  s.ops.any fun x => x.2.gid == gid && x.2.uid == uid && (x.2.cls == .sfu || x.2.cls == .compare)

end Sys2Proof.Machine
end

