-- ==== Sys2Proof/Machine/Tensor.lean ====
section
/-! DEFINITION. Tensor identifiers (05 R113 to R118), DF8 (05 R107, R108) and the values of tensor elements. -/

namespace Sys2Proof.Machine

/-! DF8. -/

/-- The magnitude of a DF8 body in units of 2^−21 (05 R107). -/
def df8Mag (body : Nat) : Nat :=
  if body = 0 then 0
  else if body = 127 then 2 ^ 41
  else
    let x := body / 64 % 2
    let same (k : Nat) : Bool := body / 2 ^ (6 - k) % 2 == x
    let rl := if !same 1 then 1 else if !same 2 then 2 else if !same 3 then 3 else if !same 4 then 4
      else if !same 5 then 5 else 6
    let n := 6 - rl
    let ew := min rl n
    let fw := n - ew
    let ev := body / 2 ^ fw % 2 ^ ew
    let f := body % 2 ^ fw
    let base : Nat := if x = 1 then (if rl = 1 then 21 else if rl = 2 then 23 else if rl = 3 then 27 else if rl = 4 then 35
        else if rl = 5 then 39 else 41)
      else (if rl = 1 then 19 else if rl = 2 then 15 else if rl = 3 then 7 else if rl = 4 then 3 else if rl = 5 then 1 else 0)
    2 ^ (base + ev) * (2 ^ fw + f) / 2 ^ fw

/-- The value of a DF8 code; 0x80 is a quiet NaN (05 R107). -/
def df8Val (code : Nat) : Fv :=
  if code % 256 = 0x80 then .nan false else .fin (decide (128 ≤ code % 256)) (df8Mag (code % 128)) (-21)

/-- The greatest body up to a bound whose magnitude does not exceed n / d in units of 2^−21. -/
def df8Floor (n d : Nat) : Nat → Nat
  | 0 => 0
  | b + 1 => if df8Mag (b + 1) * d ≤ n then b + 1 else df8Floor n d b

/-- A written value: an integer quotient n / d in units of 2^−21, with its sign. -/
structure Quot where
  neg : Bool
  n : Nat
  d : Nat
  deriving DecidableEq, Repr

/-- Write a DF8 element (05 R108): the code and what it raises. -/
def df8Write (q : Quot) : Nat × Word :=
  let sg := if q.neg then 128 else 0
  if q.d = 0 || decide (2 ^ 41 * q.d < q.n) then (126 + sg, xOF ||| xNX)
  else
    let lo := df8Floor q.n q.d 126
    if df8Mag lo * q.d = q.n then (if lo = 0 then 0 else lo + sg, 0)
    else
      let mid := (df8Mag lo + df8Mag (lo + 1)) * q.d
      let body := if 2 * q.n < mid then lo else if mid < 2 * q.n then lo + 1 else lo + lo % 2
      (if body = 0 then 0 else body + sg, xNX ||| (if body = 0 then xUF else 0))

/-- Write an integer element (05 R122): nearest, ties to even; saturation raises invalid only. -/
def intWrite (lo hi : Int) (q : Quot) : Int × Word :=
  if q.d = 0 then (if q.neg then lo else hi, xNV)
  else
    let d := q.d * 2 ^ 21
    let a := q.n / d
    let r := q.n % d
    let m := if 2 * r < d then a else if d < 2 * r then a + 1 else a + a % 2
    let i : Int := if q.neg then -(m : Int) else m
    if i < lo then (lo, xNV) else if hi < i then (hi, xNV) else (i, if r = 0 then 0 else xNX)

/-- The exact quotient v / s of two binary32 values, none for a NaN (05 R117); a zero denominator stands for infinity. -/
def quotient (v s : Fv) : Option Quot :=
  match v, s with
  | .nan _, _ => none
  | _, .nan _ => none
  | .inf _, .inf _ => none
  | .inf a, .fin b _ _ => some ⟨a != b, 1, 0⟩
  | .fin a _ _, .inf b => some ⟨a != b, 0, 1⟩
  | .fin a m e, .fin b n d =>
    if n = 0 then (if m = 0 then none else some ⟨a != b, 1, 0⟩)
    else
      let k : Int := e - d + 21
      some ⟨a != b, m * 2 ^ k.toNat, n * 2 ^ (-k).toNat⟩

/-! Fields of a tensor identifier (05 R113). -/

def TidEnt.word (t : TidEnt) (i : Nat) : DWord := (t[i]?).getD 0
def TidEnt.base (t : TidEnt) : DWord := t.word 0
def TidEnt.fmt (t : TidEnt) : Nat := bitsOf (t.word 1) 0 4
def TidEnt.valid (t : TidEnt) : Bool := (t.word 1).getLsbD 7
def TidEnt.sparse (t : TidEnt) : Nat := bitsOf (t.word 1) 10 2
def TidEnt.scale (t : TidEnt) : Nat := bitsOf (t.word 1) 12 2
/-- The number of dimensions. -/
def TidEnt.ndim (t : TidEnt) : Nat := bitsOf (t.word 1) 14 2 + 1
def TidEnt.policy (t : TidEnt) : Nat := bitsOf (t.word 1) 19 2
def TidEnt.polovr (t : TidEnt) : Bool := (t.word 1).getLsbD 21
def TidEnt.scope (t : TidEnt) : Nat := bitsOf (t.word 1) 22 2
def TidEnt.tcols (t : TidEnt) : Nat := bitsOf (t.word 1) 32 8 + 1
def TidEnt.trows (t : TidEnt) : Nat := bitsOf (t.word 1) 40 8 + 1

/-- The extent of dimension k; an unused dimension has extent 1. -/
def TidEnt.dim (t : TidEnt) (k : Nat) : Nat :=
  if t.ndim ≤ k then 1 else bitsOf (t.word (2 + k / 2)) (k % 2 * 32) 32

/-- The byte stride of dimension k = 1, 2, 3. -/
def TidEnt.stride (t : TidEnt) (k : Nat) : Nat :=
  if t.ndim ≤ k then 0 else bitsOf (t.word (4 + (k - 1) / 2)) ((k - 1) % 2 * 32) 32

def TidEnt.scaleArg (t : TidEnt) : DWord := t.word 6
def TidEnt.meta (t : TidEnt) : DWord := t.word 7

/-- Bits of an element (05 R105). -/
def fmtBits (f : Nat) : Nat :=
  if f = 3 then 4 else if f = 1 ∨ f = 2 ∨ f = 4 then 8 else if f = 5 ∨ f = 6 then 16 else if f = 8 then 64 else 32

/-- Bytes of an element, for formats of 8 bits or more; 1 for I4. -/
def fmtBytes (f : Nat) : Nat := max 1 (fmtBits f / 8)

/-- A canonical, scratchpad-window or vault-window address (03 R68). -/
def addressable (va : DWord) : Bool := canonical va || inScratchWindow va || inVaultWindow va

/-- A valid entry is malformed (05 R114). -/
def TidEnt.malformed (t : TidEnt) : Bool :=
  let w1 := t.word 1
  bitsOf w1 4 3 != 0 || bitsOf w1 8 2 != 0 || bitsOf w1 16 3 != 0 || bitsOf w1 24 8 != 0 || bitsOf w1 48 16 != 0 ||
  bitsOf (t.word 5) 32 32 != 0 ||
  t.fmt == 0 || decide (10 ≤ t.fmt) || t.scale == 3 || decide (2 ≤ t.sparse) || t.scope == 3 ||
  ((List.range t.ndim).any fun k => t.dim k == 0) ||
  !addressable t.base || t.base.toNat % fmtBytes t.fmt != 0 ||
  (t.scale == 0 && t.scaleArg != 0) || (t.scale == 1 && bitsOf t.scaleArg 32 32 != 0) ||
  (t.scale == 2 && (!canonical t.scaleArg || t.scaleArg.toNat % 4 != 0)) ||
  (t.sparse == 0 && t.meta != 0) || (t.sparse == 1 && (!canonical t.meta || t.meta.toNat % 64 != 0)) ||
  (t.scale != 0 && !(t.fmt == 4 || t.fmt == 1 || t.fmt == 2 || t.fmt == 3)) ||
  (t.sparse == 1 && (t.dim 0 % 4 != 0 || t.fmt == 8 || t.fmt == 9)) ||
  (t.fmt == 3 && decide (2 ≤ t.ndim) && t.dim 0 % 2 == 1)

/-- The address of element (i0, i1, i2, i3) (05 R115). -/
def TidEnt.addr (t : TidEnt) (i0 i1 i2 i3 : Nat) : DWord :=
  t.base + BitVec.ofNat 64 (i1 * t.stride 1 + i2 * t.stride 2 + i3 * t.stride 3 +
    (if t.fmt = 3 then i0 / 2 else i0 * fmtBytes t.fmt))

/-- The index of an element's block in a per-tile scale array (05 R117). -/
def TidEnt.scaleIdx (t : TidEnt) (i0 i1 i2 i3 : Nat) : Nat :=
  i0 / 32 + (t.dim 0 + 31) / 32 * (i1 / 32 + (t.dim 1 + 31) / 32 * (i2 + t.dim 2 * i3))

/-- The eight words of 64 bytes. -/
def entryOf (bs : List Byte) : TidEnt :=
  (List.range 8).map fun i => BitVec.ofNat 64 (ofBytes ((bs.drop (8 * i)).take 8))

/-- Entry n of a team's window (05 R119). -/
def Team.tid (t : Team) (n : Nat) : TidEnt := entryOf (t.tids.range (n * 64) 64)

/-- Set entry n of a window from 64 bytes. -/
def Team.setTid (t : Team) (n : Nat) (bs : List Byte) : Team := { t with tids := t.tids.setRange (n * 64) bs }

/-- The window entry a group's instruction names. -/
def State.tidOf (s : State) (g : Group) (n : Nat) : TidEnt :=
  match s.teams.get? g.team with
  | some t => t.tid n
  | none => []

end Sys2Proof.Machine
end

