-- ==== Sys2Proof/Machine/Lanes.lean ====
section
/-! DEFINITION. Crossing lanes: XLANE, GROUP, MOVX and LANEREG (08 R175 to R184). A lane is named through the lane remapping
table, which is the group's list of lanes. -/

namespace Sys2Proof.Machine

/-- Register r of lane k as another lane reads it: 0 beyond the width and where the entry is NONE or exited (08 R176). -/
def Group.across (g : Group) (r k : Nat) : Word := if k < g.width ∧ (g.lane k).isLive then g.vr r k else 0

/-- The clocks of the GROUP major (08 R177). -/
def costGroup (g : Group) : Nat := if g.width = 64 then 3 else 2

/-! Shuffles (08 R178): the source lane is an unsigned wrapping word. -/

def shuffle (s : State) (i : Instr) (e : Bool) (b : BitVec 7) (f : Bool) (a d : BitVec 7) (h : Word → Word → Word → Word)
    (old : Bool := false) : Out :=
  s.vecOp i (srcV a f :: srcSI b e) d.toNat
    (fun g j => g.across a.toNat (h (g.vr d.toNat j) (BitVec.ofNat 32 j) (valSI g b)).toNat) (if old then [.v d.toNat] else []) true

def execShfl (e : Bool) (b : BitVec 7) (f : Bool) (a d : BitVec 7) (s : State) : Out :=
  shuffle s (.shfl e b f a d) e b f a d (fun old _ bv => old + bv) true
def execShflx (e : Bool) (b : BitVec 7) (f : Bool) (a d : BitVec 7) (s : State) : Out :=
  shuffle s (.shflx e b f a d) e b f a d fun _ j bv => j ^^^ bv
def execShflu (e : Bool) (b : BitVec 7) (f : Bool) (a d : BitVec 7) (s : State) : Out :=
  shuffle s (.shflu e b f a d) e b f a d fun _ j bv => j - bv
def execShfld (e : Bool) (b : BitVec 7) (f : Bool) (a d : BitVec 7) (s : State) : Out :=
  shuffle s (.shfld e b f a d) e b f a d fun _ j bv => j + bv

/-! Ballot and reductions. -/

/-- BALLOT (08 R179). -/
def execBallot (f : Bool) (a : BitVec 7) (d : BitVec 4) (s : State) : Out :=
  s.issue { srcs := [srcV a f], dests := [.k d.toNat] } costGroup fun s g =>
    s.done (g.setKr d.toNat (maskOf g.width fun j => maskBit s.cur.mask j && g.vr a.toNat j != 0)) s.cur.mask .on
      (costGroup g) none

/-- A value of the reduction tree with the exceptions its combines raised; none is ABSENT. -/
abbrev Leaf := Option (Word × Word)

/-- One combine of the tree (08 R180). -/
def combine (h : Word → Word → Word × Word) : Leaf → Leaf → Leaf
  | none, q => q
  | p, none => p
  | some (x, ex), some (y, ey) => let (z, ez) := h x y; some (z, ex ||| ey ||| ez)

/-- Combine neighbours. -/
def pairUp (h : Word → Word → Word × Word) : List Leaf → List Leaf
  | p :: q :: r => combine h p q :: pairUp h r
  | r => r

/-- The whole tree: neighbours at steps 1, 2, 4, … (08 R180). -/
def reduceTree (h : Word → Word → Word × Word) : Nat → List Leaf → Leaf
  | 0, xs => (xs.head?).getD none
  | n + 1, xs => reduceTree h n (pairUp h xs)

/-- The leaves of register a over the active set. -/
def Group.leaves (g : Group) (a : Nat) (m : Mask) : List Leaf :=
  (List.range g.width).map fun j => if maskBit m j then some (g.vr a j, 0) else none

/-- VRED (08 R180, R181): an enabled exception is charged to the lowest lane of the active set. -/
def reduction (s : State) (f : Bool) (a : BitVec 7) (d : BitVec 6) (h : Word → Word → Word × Word) : Out :=
  s.issue { srcs := [srcV a f], dests := [.s d.toNat] } costGroup fun s g =>
    let (x, ex) := (reduceTree h 6 (g.leaves a.toNat s.cur.mask)).getD (0, 0)
    let lowest := ((lanesOf s.cur.mask).head?).getD 0
    match fpCause (s.fpEnabled g) ex with
    | some c => s.doneFloat g 0 (costGroup g) (.s d.toNat) [(c, (1 : Mask) <<< lowest)]
    | none => s.done ((s.writeS s.cur.gid g d.toNat x).orFlags ex) s.cur.mask .on (costGroup g)
        (if d.toNat = 61 then some x else none)

def execVredAdd (f : Bool) (a : BitVec 7) (d : BitVec 6) (s : State) : Out := reduction s f a d fun x y => (x + y, 0)
def execVredFadd (f : Bool) (a : BitVec 7) (d : BitVec 6) (s : State) : Out :=
  reduction s f a d fun x y => let r := f32.addV .rne (f32.val x.toNat) (f32.val y.toNat); (BitVec.ofNat 32 r.bits, r.ex)
def execVredFmax (f : Bool) (a : BitVec 7) (d : BitVec 6) (s : State) : Out :=
  reduction s f a d fun x y => let r := f32.minmax true x.toNat y.toNat; (BitVec.ofNat 32 r.bits, r.ex)

/-! Broadcast, lane reads and indirect registers. -/

/-- BCAST (08 R182). -/
def execBcast (e : Bool) (b : BitVec 7) (f : Bool) (a d : BitVec 7) (s : State) : Out :=
  s.vecOp (.bcast e b f a d) (srcV a f :: srcSI b e) d.toNat (fun g _ => g.across a.toNat (valSI g b).toNat) [] true

/-- RDLANE (08 R182). -/
def execRdlane (e : Bool) (b : BitVec 7) (f : Bool) (a : BitVec 7) (d : BitVec 6) (s : State) : Out :=
  s.issue { srcs := srcV a f :: srcSI b e, dests := [.s d.toNat], defer := some (.rdlane e b f a d), wide := true } costLane fun s g =>
    let x := g.across a.toNat (valSI g b).toNat
    s.done (s.writeS s.cur.gid g d.toNat x) s.cur.mask .on (costLane g) (if d.toNat = 61 then some x else none)

/-- The register that a base plus a scalar names, once the scalar can be read (08 R183). -/
def State.indexed (s : State) (base b : Nat) : Option Nat :=
  match s.curGroup? with
  | none => none
  | some g =>
    if g.srcEmpty (.s b) then none
    else some (base + (if b = 62 ∧ g.kind ≠ .debug then ((g.rxq.head?).map (·.1)).getD 0 else g.sr b).toNat)

/-- RDX (08 R183): Ea applies to v(n), and the base register is not read. Where the scalar comes with a flit, n and v(n) are known only
then (13 R275). -/
def execRdx (e : Bool) (b : BitVec 6) (f : Bool) (a d : BitVec 7) (s : State) : Out :=
  s.issue { names := [.v a.toNat], srcs := srcS b e :: (s.indexed a.toNat b.toNat).toList.map fun n => ⟨.v n, f⟩, dests := [.v d.toNat],
            defer := some (.rdx e b f a d) } costLane fun s g =>
    let n := a.toNat + (g.sr b.toNat).toNat
    let g0 := s.untouched g
    if g.nv ≤ n then .next (s.raise g0 s.cur.mask 3 0 (some (.v d.toNat)) 0)
    else if g0.isEmpty (.v n) then
      .next (if f then s.raise g0 s.cur.mask 4 0 (some (.v d.toNat)) 0 else s.waitAt g0 (s.emptyWhy g0 [.v n]))
    else s.done (g.writeV d.toNat s.cur.mask fun j => g0.vr n j) s.cur.mask .on (costLane g) none

/-- WRX (08 R183): v(n) is the destination. Where the scalar comes with a flit it waits at its address, since what it would leave empty is
not known (log entry 25). -/
def execWrx (e : Bool) (b : BitVec 6) (f : Bool) (a d : BitVec 7) (s : State) : Out :=
  s.issue { names := [.v d.toNat], srcs := [srcV a f, srcS b e], dests := (s.indexed d.toNat b.toNat).toList.map .v } costLane fun s g =>
    s.done (g.writeV (d.toNat + (g.sr b.toNat).toNat) s.cur.mask fun j => g.vr a.toNat j) s.cur.mask .on (costLane g) none

/-! The trap handler's access to other lanes (08 R184). -/

/-- A lane a handler names, when it is live. -/
def Group.liveLane? (g : Group) (l : Word) : Option Lane :=
  if l.toNat < min 64 g.width ∧ (g.lane l.toNat).isLive then some (g.lane l.toNat) else none

def execLrd (e : Bool) (b : BitVec 6) (f : Bool) (a : BitVec 7) (d : BitVec 6) (s : State) : Out :=
  s.issue { legal := .handler, srcs := [srcV a f, srcS b e], dests := [.s d.toNat], defer := some (.lrd e b f a d), wide := true } costLane
    fun s g =>
      let x := g.across a.toNat (g.sr b.toNat).toNat
      s.done (s.writeS s.cur.gid g d.toNat x) s.cur.mask .on (costLane g) (if d.toNat = 61 then some x else none)

def execLwr (e : Bool) (b : BitVec 6) (f : Bool) (a : BitVec 6) (d : BitVec 7) (s : State) : Out :=
  s.issue { legal := .handler, srcs := [srcS a f, srcS b e], dests := [.v d.toNat], defer := some (.lwr e b f a d), own := false } costLane fun s g =>
    let l := g.sr b.toNat
    let hit := (g.liveLane? l).isSome
    s.done (if hit then (g.setVr d.toNat l.toNat (g.sr a.toNat)).cleared ((1 : Mask) <<< l.toNat) [.v d.toNat] else g)
      (if s.cur.defer.isNone then s.cur.mask else if hit then (1 : Mask) <<< l.toNat else 0) .on (costLane g) none

/-- LMEET and LPC: an address of a lane, or 0. -/
def laneAddr (s : State) (i : Instr) (e : Bool) (b : BitVec 6) (d : BitVec 5) (h : Lane → DWord) : Out :=
  s.issue { legal := .handler, srcs := [srcS b e], dests := regSs (2 * d.toNat) 2, defer := some i } costLane fun s g =>
    let x := ((g.liveLane? (g.sr b.toNat)).map h).getD 0
    s.done (s.writeS2 s.cur.gid g (2 * d.toNat) x) s.cur.mask .on (costLane g)
      (if 2 * d.toNat + 1 = 61 then some (hi32 x) else none)

def execLmeet (e : Bool) (b : BitVec 6) (d : BitVec 5) (s : State) : Out := laneAddr s (.lmeet e b d) e b d (·.meet)
def execLpc (e : Bool) (b : BitVec 6) (d : BitVec 5) (s : State) : Out := laneAddr s (.lpc e b d) e b d (·.pc)

end Sys2Proof.Machine
end

