-- ==== Sys2Proof/Machine/Memory.lean ====
section
/-! DEFINITION. Issuing loads, stores and atomics (04 R84 to R93): every part of every lane is translated, the fault rule of
04 R88 is applied, and the parts are left to be performed. -/

namespace Sys2Proof.Machine

/-! Faults of an issue. -/

/-- What the accesses of an issue resolved to, by lane. -/
abbrev Resolved := List (Nat × Except Cause (List Piece))

/-- The lanes that raised a cause. -/
def faultsOf (r : Resolved) : List (Nat × Cause) :=
  r.filterMap fun x => match x.2 with | .error c => some (x.1, c) | .ok _ => none

/-- The fault rule of 04 R88 for lanes that raised a cause. A lane whose walk consumed poison comes before every other cause, a rank that
R88 does not give (the model's choice: log entry 63). -/
def State.memFault (s : State) (g : Group) (fs : List (Nat × Cause)) (d : Option Reg) : State :=
  let mask := fs.foldl (fun (m : Mask) x => m ||| ((1 : Mask) <<< x.1)) 0
  let first (p : Nat → Bool) : Option (Nat × Cause) := fs.find? fun x => p x.2.code
  match first (· == 64) with
  | some x => s.causeFor g mask 64 x.2.va d
  | none =>
    match first (· == 67) with
    | some x => s.causeFor g mask 67 x.2.va d
    | none =>
      match first (· != 13) with
      | some x => s.causeFor g mask x.2.code x.2.va d
      | none => s.causeFor g mask 13 ((fs.head?.map (·.2.va)).getD 0) d

/-! The parts of an issue. -/

/-- What translating the parts of a core's access leaves: walks of pages missed, and levels of TLBs filled (03 R77). -/
def State.noteTlb (s : State) (core part : Nat) (ps : List Piece) : State :=
  ps.foldl (fun s p =>
    if p.page.2 = 0 then s
    else match p.walk with
      | some page => s.addWalk (dieOfCore core) part page
      | none => s.tlbFill core part p.va) s

/-- Queue the parts of one lane's access, in order. -/
def State.pushParts (s : State) (t : Acc) (act : Piece → Act) (ps : List Piece) : State :=
  (ps.foldl (fun s p =>
    { s with
      accs := s.accs.set s.fresh
        { t with
          okind := p.okind, loc := p.loc, len := p.len, boff := p.boff, va := p.va, act := act p
          whole := wholeLine ps p, page := p.page, walk := p.walk }
      fresh := s.fresh + 1 }) s).noteTlb (coreOf t.gid) t.part ps

/-- Where a cache class stands in the order normal, vault-persist, streaming, bypass (03 R67). -/
def classRank (c : Nat) : Nat := if c = 0 then 0 else if c = 2 then 1 else if c = 1 then 2 else 3

/-- A read of a part allocates its line in the L1 data cache: a canonical page, of whose class and the stream's policy the later is normal
or vault-persist (03 R67, R70). -/
def State.allocates (s : State) (core part policy : Nat) (p : Piece) : Bool :=
  p.page.2 != 0 && (match s.leafOf (some core) part p.va with
    | .ok (e, _, _) => decide (max (classRank (pteCc e)) (classRank policy) ≤ 1)
    | .error _ => false)

/-- The cycles that a hit of a lower TLB adds (03 R77). -/
def State.tlbDelay (s : State) (core part : Nat) (p : Piece) : Nat :=
  if p.page.2 = 0 then 0
  else match s.tlbHit (some core) part p.va with
    | some (1, _) => 8
    | some (2, _) => 30
    | _ => 0

/-- The unloaded cycles from issue to fill of a part that the L1 data cache does not hold (03 R66; "about": log entry 61). -/
def latencyOf (gid : Nat) (pairOther : Bool) (l : Loc) : Nat :=
  match l.space with
  | .scratch => if pairOther then 30 else 18
  | .vault =>
    let c := clusterOf gid
    if l.owner = c then 48 else if quadOfCluster l.owner = quadOfCluster c then 90
    else if dieOfCluster l.owner = dieOfCluster c then 140 else 380
  | .hbm => 600
  | .tier => 1600
  | .host => 2400
  | .peer => 3000

/-- A scratchpad offset lies in the half of a pair team that the other core holds (01 R22). -/
def State.otherHalf (s : State) (gid : Nat) (g : Group) (off : Nat) : Bool :=
  match s.teams.get? g.team with
  | some t => t.pair && (off / t.scratch != coreOf gid % 2)
  | none => false

/-- The latency of one part: 24 where the core's L1 data cache holds its line and the access may find it there (03 R66). -/
def State.partLatency (s : State) (g : Group) (l1 : Bool) (policy : Nat) (p : Piece) : Nat :=
  let core := coreOf s.cur.gid
  s.tlbDelay core g.part p +
    (if l1 && (s.core core).l1.contains (p.loc.cell / 64) && s.allocates core g.part policy p then 24
     else latencyOf s.cur.gid (s.otherHalf s.cur.gid g p.loc.off) p.loc)

/-- The latency of an issue: that of its slowest part; `l1` where its path goes through the L1 data cache. -/
def State.issueLatency (s : State) (g : Group) (l1 : Bool) (policy : Nat) (ps : List Piece) : Nat :=
  ps.foldl (fun n p => max n (s.partLatency g l1 policy p)) 18

/-- The L1 data cache takes the lines that a load reads, and keeps to its 128 KiB (03 R66, R67; which it gives up: log entry 60). -/
def State.cacheLines (s : State) (g : Group) (policy : Nat) (ps : List Piece) : State :=
  let core := coreOf s.cur.gid
  let ls := (ps.filter fun p => s.allocates core g.part policy p).map fun p => p.loc.cell / 64
  if ls.isEmpty then s
  else s.modCore core fun c => { c with l1 := (ls ++ c.l1.filter fun l => !ls.contains l).take 2048 }

/-- The cache policy of a stream (04 R92). -/
def Group.policyOf (g : Group) (q : Nat) : Nat := bitsOf (g.cr q) 0 2

/-- The threads of an access, each with its barrier passes. -/
def Group.whoOf (g : Group) (ls : List Nat) : List (Nat × Nat) := ls.map fun j => ((g.lane j).tid, (g.lane j).passes)

/-- The scope of a stream, from its STRCFG: 1 team, 2 device, 3 domain, 4 system (04 R92, R93). -/
def Group.scopeOf (g : Group) (q : Nat) : Nat := bitsOf (g.cr q) 2 2 + 1

/-- What the parts of an issue have in common. -/
def State.accBase (s : State) (g : Group) (op : Nat) (path : Path) (q : BitVec 4) (acq rel : Bool) : Acc :=
  { op, uid := g.uid, part := g.part, team := g.team, who := [], path, stream := q.toNat, scope := g.scopeOf q.toNat,
    sync := g.syncOf (lanesOf s.cur.mask), okind := .rc, acq, rel,
    loc := ⟨.hbm, 0, 0⟩, len := 0, lane := 0, boff := 0, va := 0, act := .read, whole := false, page := (0, 0), walk := none, sent := none,
    pc := s.cur.pc, gid := s.cur.gid, grid := ((s.teams.get? g.team).map (·.grid)).getD 0 }

/-- The effective address of a lane (04 R85): a 64-bit address in flat space, else a 32-bit offset. -/
def Group.eaV (g : Group) (sp : BitVec 2) (a : BitVec 7) (j : Nat) : DWord :=
  if sp = 0 then g.vr64 a.toNat j else (g.vr a.toNat j).setWidth 64

/-- The effective address of a scalar access (04 R86). -/
def Group.eaS (g : Group) (sp : BitVec 2) (a : BitVec 7) : DWord :=
  if sp = 0 then g.sr64 a.toNat else (g.sr a.toNat).setWidth 64

/-- Resolve one access with the causes that follow translation (04 R88). -/
def State.resolveAcc (s : State) (g : Group) (sp : BitVec 2) (need : Need) (ea : DWord) (n : Nat) (qual : Bool)
    (atomic : Option (Nat × Nat)) : Except Cause (List Piece) :=
  match s.resolve (s.issuer s.cur.gid g) sp.toNat need ea n with
  | .error c => .error c
  | .ok ps =>
    match lateCause qual atomic ea ps with
    | some c => .error c
    | none => .ok ps

/-- The parts of a resolved access. -/
def piecesOf (r : Except Cause (List Piece)) : List Piece := match r with | .ok ps => ps | .error _ => []

/-- The number of bytes of a size code (02 R47). -/
def sizeBytes (z : BitVec 3) : Nat :=
  if z.toNat ≤ 1 then 1 else if z.toNat ≤ 3 then 2 else if z.toNat = 4 then 4 else if z.toNat = 5 then 8
  else if z.toNat = 6 then 16 else 32

/-- The address registers of an access. -/
def addrSrcsV (sp : BitVec 2) (a : BitVec 7) : List Src := srcVs a.toNat (if sp = 0 then 2 else 1) false
def addrSrcsS (sp : BitVec 2) (a : BitVec 7) : List Src := srcSs a.toNat (if sp = 0 then 2 else 1) false

/-- Bytes of a list from an offset. -/
def sliceOf (bs : List Byte) (p : Piece) : List Byte := (bs.drop p.boff).take p.len

/-- The low n bytes of n registers, low word first. -/
def regBytes (n : Nat) (f : Nat → Word) : List Byte :=
  ((List.range ((n + 3) / 4)).flatMap fun k => toBytes 4 (f k).toNat).take n

/-! LD and LDS (04 R85, R86). -/

/-- A part lies on an SO page (04 R98). -/
def onSo (ps : List Piece) : Bool := ps.any (·.okind == .so)

/-- What the threads of an access follow from then on: an acquire in its stream, an access on an SO page in every stream (04 R97, R98). -/
def Lane.follows (l : Lane) (t : Acc) (ps : List Piece) : Lane :=
  if t.path ≠ .ls then l else if onSo ps then l.acquire allStreams else if t.acq then l.acquire ((1 : BitVec 16) <<< t.stream) else l

/-- The lanes of an issue after its accesses: `ls` gives the lanes of each access. -/
def Group.follow (g : Group) (t : Acc) (r : Resolved) (ls : Nat → List Nat) : Group :=
  g.modLanes fun j l => r.foldl (fun l x => if (ls x.1).contains j then l.follows t (piecesOf x.2) else l) l

/-- Queue the parts of every access of an issue: `ls` gives the lanes of each; an MX access belongs to its group alone (08 R189). -/
def State.pushAll (s : State) (g : Group) (t : Acc) (r : Resolved) (ls : Nat → List Nat) (act : Nat → Piece → Act) : State :=
  r.foldl (fun s x => s.pushParts { t with lane := x.1, who := if t.path = .ls then g.whoOf (ls x.1) else [], sync := g.syncOf (ls x.1) } (act x.1) (piecesOf x.2)) s

/-- Issue a load whose lanes resolved: the destination becomes empty and the parts are queued. -/
def State.startLoad (s : State) (g : Group) (r : Resolved) (ls : Nat → List Nat) (t : Acc) (dests : List Reg) (cost : Nat)
    (kind : OpKind) (act : Nat → Piece → Act) : State :=
  let ps := r.flatMap fun x => piecesOf x.2
  let lat := s.issueLatency g true (g.policyOf t.stream) ps
  let id := s.fresh
  let (s1, g1) := (s.cacheLines g (g.policyOf t.stream) ps).produce g .memory dests lat kind
  (s1.pushAll g { t with op := id } r ls act).finish (g1.follow t r ls) s.cur.mask .on cost

def execLd (sp o : BitVec 2) (q : BitVec 4) (a d : BitVec 7) (z : BitVec 3) (s : State) : Out :=
  s.issue { srcs := addrSrcsV sp a, late := regVs d.toNat (sizeRegs z) } costLane fun s g =>
    let n := sizeBytes z
    let r : Resolved := (lanesOf s.cur.mask).map fun j =>
      (j, s.resolveAcc g sp .load (g.eaV sp a j) n (o != 0) none)
    if !(faultsOf r).isEmpty then .next (s.memFault g (faultsOf r) (some (.v d.toNat)))
    else .next (s.startLoad g r (fun j => [j]) (s.accBase g 0 .ls q (o == 1) false) (regVs d.toNat (sizeRegs z))
      (costLane g) (.load false (z == 1 || z == 3) n d.toNat []) fun _ _ => .read)

def execLds (sp o : BitVec 2) (q : BitVec 4) (a d : BitVec 7) (z : BitVec 3) (s : State) : Out :=
  s.issue { srcs := addrSrcsS sp a, late := regSs d.toNat (sizeRegs z) } costOne fun s g =>
    let n := sizeBytes z
    let r : Resolved := [(0, s.resolveAcc g sp .load (g.eaS sp a) n (o != 0) none)]
    if !(faultsOf r).isEmpty then
      .next (s.memFault (s.untouched g) ((lanesOf s.cur.mask).flatMap fun j => (faultsOf r).map fun x => (j, x.2)) (some (.s d.toNat)))
    else .next (s.startLoad g r (fun _ => lanesOf s.cur.mask) (s.accBase g 0 .ls q (o == 1) false)
      (regSs d.toNat (sizeRegs z)) 1 (.load true (z == 1 || z == 3) n d.toNat []) fun _ _ => .read)

/-! ST and STS (04 R85 to R87). -/

/-- Issue a store whose lanes resolved. -/
def State.startStore (s : State) (g : Group) (r : Resolved) (ls : Nat → List Nat) (t : Acc) (cost : Nat)
    (data : Nat → List Byte) : State :=
  ((s.takeFresh 1).pushAll g { t with op := s.fresh } r ls fun j p => .write (sliceOf (data j) p)).finish (g.follow t r ls)
    s.cur.mask .on cost

def execSt (sp o : BitVec 2) (q : BitVec 4) (a d : BitVec 7) (z : BitVec 3) (s : State) : Out :=
  s.issue { srcs := addrSrcsV sp a ++ srcVs d.toNat (sizeRegs z) false } costLane fun s g =>
    let n := sizeBytes z
    let r : Resolved := (lanesOf s.cur.mask).map fun j =>
      (j, s.resolveAcc g sp .store (g.eaV sp a j) n (o != 0) none)
    if !(faultsOf r).isEmpty then .next (s.memFault g (faultsOf r) none)
    else .next (s.startStore g r (fun j => [j]) (s.accBase g 0 .ls q false (o == 2)) (costLane g)
      fun j => regBytes n fun k => g.vr (d.toNat + k) j)

def execSts (sp o : BitVec 2) (q : BitVec 4) (a d : BitVec 7) (z : BitVec 3) (s : State) : Out :=
  s.issue { srcs := addrSrcsS sp a ++ srcSs d.toNat (sizeRegs z) false } costOne fun s g =>
    let n := sizeBytes z
    let r : Resolved := [(0, s.resolveAcc g sp .store (g.eaS sp a) n (o != 0) none)]
    if !(faultsOf r).isEmpty then
      .next (s.memFault (s.untouched g) ((lanesOf s.cur.mask).flatMap fun j => (faultsOf r).map fun x => (j, x.2)) none)
    else .next (s.startStore g r (fun _ => lanesOf s.cur.mask) (s.accBase g 0 .ls q false (o == 2)) 1
      fun _ => regBytes n fun k => g.sr (d.toNat + k))

/-! ATOM32 and ATOM64 (04 R89, R90). -/

/-- The new value of an atomic of w bytes (04 R89). -/
def atomNew (op w : Nat) (old x nv : DWord) : DWord :=
  let m : DWord := if w = 4 then 0xFFFFFFFF else 0xFFFFFFFFFFFFFFFF
  let sv (v : DWord) : Int := if w = 4 then (lo32 v).toInt else v.toInt
  (if op = 0 then old + x else if op = 1 then (if sv old ≤ sv x then old else x)
    else if op = 2 then (if sv old ≤ sv x then x else old) else if op = 3 then old &&& x else if op = 4 then old ||| x
    else if op = 5 then old ^^^ x else if op = 6 then x else if old = x then nv else old) &&& m

/-- Issue an atomic of w bytes; `regs` is the number of registers at d that it reads. -/
def atomOp (s : State) (w regs : Nat) (sp o : BitVec 2) (q : BitVec 4) (a d : BitVec 7) (p : BitVec 3)
    (x nv : Group → Nat → DWord) : Out :=
  s.issue { srcs := addrSrcsV sp a ++ srcVs d.toNat regs false, late := regVs d.toNat (w / 4) } costLane fun s g =>
    let r : Resolved := (lanesOf s.cur.mask).map fun j =>
      (j, s.resolveAcc g sp .atomic (g.eaV sp a j) w (o != 0) (some (p.toNat, w)))
    if !(faultsOf r).isEmpty then .next (s.memFault g (faultsOf r) (some (.v d.toNat)))
    else .next (s.startLoad g r (fun j => [j]) (s.accBase g 0 .ls q (o.getLsbD 0) (o.getLsbD 1))
      (regVs d.toNat (w / 4)) (costLane g) (.atom w d.toNat []) fun j _ => .atomic p.toNat w (x g j) (nv g j))

def execAtom32 (sp o : BitVec 2) (q : BitVec 4) (a d : BitVec 7) (p : BitVec 3) (s : State) : Out :=
  atomOp s 4 (if p = 7 then 2 else 1) sp o q a d p (fun g j => (g.vr d.toNat j).setWidth 64)
    fun g j => (g.vr (d.toNat + 1) j).setWidth 64

def execAtom64 (sp o : BitVec 2) (q : BitVec 4) (a d : BitVec 7) (p : BitVec 3) (s : State) : Out :=
  atomOp s 8 (if p = 7 then 4 else 2) sp o q a d p (fun g j => g.vr64 d.toNat j) fun g j => g.vr64 (d.toNat + 2) j

/-! TLD and TST (08 R189 to R191). -/

/-- The rows of a tile image: address A + i × P, with a signed pitch. -/
def tileRow (g : Group) (s2 : Nat) (i : Nat) : DWord :=
  g.sr64 s2 + BitVec.ofInt 64 (i * (g.sr (s2 + 2)).toInt)

/-- The three scalars of a tile access: an even base and a pitch. -/
def tileSrcs (sc : BitVec 5) : List Src := srcSs (2 * sc.toNat) 3 false

/-- The fault rule of a tile access: the whole active set stays or traps (08 R190). -/
def State.tileFault (s : State) (g : Group) (fs : List (Nat × Cause)) (d : Option Reg) : State :=
  let first (p : Nat → Bool) : Option (Nat × Cause) := fs.find? fun x => p x.2.code
  let pick := (first (· == 64)).orElse fun _ => (first (· == 67)).orElse fun _ => (first (· != 13)).orElse fun _ => fs.head?
  match pick with
  | some x => s.causeFor g s.cur.mask x.2.code x.2.va d
  | none => s

def tileResolve (s : State) (g : Group) (need : Need) (sc : BitVec 5) : Resolved :=
  (List.range 32).map fun i => (i, s.resolveFlat (s.issuer s.cur.gid g) need (tileRow g (2 * sc.toNat) i) 128)

def execTld (q : BitVec 4) (sc : BitVec 5) (t : BitVec 4) (s : State) : Out :=
  s.issue { srcs := tileSrcs sc, late := [.t t.toNat] } costOne fun s g =>
    let r := tileResolve s g .load sc
    if !(faultsOf r).isEmpty then .next (s.tileFault g (faultsOf r) (some (.t t.toNat)))
    else
      let lat := s.issueLatency g false 0 (r.flatMap fun x => piecesOf x.2) + 16
      let (s1, g1) := s.produce g .memory [.t t.toNat] lat (.tile t.toNat [])
      .next ((s1.pushAll g (s.accBase g s.fresh .mx q false false) r (fun _ => lanesOf s.cur.mask) fun _ _ => .read).finish g1 s.cur.mask .on 1)

def execTst (q : BitVec 4) (sc : BitVec 5) (t : BitVec 4) (s : State) : Out :=
  s.issue { srcs := ⟨.t t.toNat, false⟩ :: tileSrcs sc } costOne fun s g =>
    let r := tileResolve s g .store sc
    if !(faultsOf r).isEmpty then .next (s.tileFault g (faultsOf r) none)
    else
      .next (s.startStore g r (fun _ => lanesOf s.cur.mask) (s.accBase g 0 .mx q false false) 1
        fun i => (List.range 32).flatMap fun j => toBytes 4 (g.tw t.toNat (i * 32 + j)).toNat)

end Sys2Proof.Machine
end

