-- ==== Sys2Proof/Machine/Perform.lean ====
section
/-! DEFINITION. Performing accesses: which access may go before which (04 R94 to R104), what it does at its memory, and the
fills that follow (04 R85; 08 R189); page walks (03 R77) and patrol scrub (03 R81). A store is performed for every agent at once unless
the agenda makes it lag for some (log entry 4). -/

namespace Sys2Proof.Machine

/-- Two parts overlap in bytes. -/
def Acc.overlaps (x y : Acc) : Bool :=
  x.loc.space == y.loc.space && x.loc.owner == y.loc.owner && decide (x.loc.off < y.loc.off + y.len) &&
  decide (y.loc.off < x.loc.off + x.len)

/-- Some thread of both passed a barrier between them (04 R97). -/
def Acc.passBetween (x y : Acc) : Bool := x.who.any fun a => y.who.any fun b => a.1 == b.1 && decide (a.2 < b.2)

/-- Some thread is a thread of both. -/
def Acc.sharesThread (x y : Acc) : Bool := x.who.any fun a => y.who.any fun b => a.1 == b.1

/-- Part x, issued earlier, is performed before part y (04 R87, R89, R95, R97, R98; 08 R191). -/
def Acc.before (x y : Acc) : Bool :=
  if x.op = y.op then x.overlaps y
  else if x.path = .ls ∧ y.path = .ls then
    x.sharesThread y &&
      (x.okind == .so || y.okind == .so || x.passBetween y ||
        (x.stream == y.stream && (x.overlaps y || (x.acq && y.okind != .uo) || (y.rel && x.okind != .uo))))
  else x.path == .mx && y.path == .mx && x.uid == y.uid && x.overlaps y

/-- No earlier part must be performed first. -/
def State.unordered (s : State) (i : Nat) (y : Acc) : Bool := !s.accs.any fun x => decide (x.1 < i) && x.2.before y

/-- Pipelines act for this slot: its job is not frozen, or it is the debug slot (20 R343, R348). -/
def State.ungated (s : State) (part gid : Nat) : Bool := !(s.part part).stoppedAll || slotOf gid == 16

/-- Each partition's first read of a host page in HOST-LOST writes a NOTICE record (18 R335). -/
def State.noteHost (s : State) (part : Nat) (l : Loc) (va : DWord) : State :=
  if l.space = .host ∧ s.hostLost ∧ !(s.part part).lossNoted then
    (s.record part 3 71 va 0 0 7 0 0).modPart part fun p => { p with lossNoted := true }
  else s

/-- What an engine's read of a run of flat space leaves: the notice of a read in HOST-LOST (18 R335), and errors corrected (03 R81). -/
def State.noteRead (s : State) (w : Issuer) (va : DWord) (n : Nat) : State :=
  if (!s.hostLost && s.weak.isEmpty) ∨ n = 0 then s
  else match s.resolveFlat w .load va n with
    | .ok ps => ps.foldl (fun s p => (s.noteHost w.part p.loc p.va).correct p.loc) s
    | .error _ => s

/-- What an engine's read of a longer run leaves, in blocks of 64 bytes. -/
def State.noteLong (s : State) (w : Issuer) : Nat → DWord → Nat → State
  | 0, _, _ => s
  | fuel + 1, va, n =>
    if (!s.hostLost && s.weak.isEmpty) ∨ n = 0 then s
    else State.noteLong (s.noteRead w va (min n 64)) w fuel (va + 64) (n - min n 64)

/-- Give bytes read to the operation that asked for them, at lane × `stride` + offset. -/
def Op.take (o : Op) (lane boff : Nat) (bs : List Byte) : Op :=
  { o with
    kind := match o.kind with
      | .load sc sx n d data => .load sc sx n d (data.setRange (lane * 32 + boff) bs)
      | .atom w d data => .atom w d (data.setRange (lane * 32 + boff) bs)
      | .tile t data => .tile t (data.setRange (lane * 128 + boff) bs)
      | k => k }

/-- The last part of a store in a line that the store covers whole clears its poison (03 R81). -/
def State.cleanseLast (s : State) (a : Acc) : State :=
  if a.whole && !s.accs.any fun x => x.2.op == a.op && x.2.lane == a.lane && x.2.loc.space == a.loc.space &&
      x.2.loc.owner == a.loc.owner && x.2.loc.off / 64 == a.loc.off / 64 then s.cleanseLine a.loc
  else s

/-! Order among agents (04 R94 to R99). -/

/-- The threads of a part. -/
def Acc.tids (a : Acc) : List Nat := a.who.map (·.1)

/-- The stream in which a part counts: every stream on an SO page (04 R98). -/
def Acc.member (a : Acc) : Nat := if a.okind = .so then 16 else a.stream

/-- A load that follows no acquire, fence, barrier pass or SO access of its thread may take an older copy (04 R94). -/
def Acc.loose (a : Acc) : Bool :=
  a.path == .ls && a.act == .read && !a.acq && a.okind != .so && !a.sync.all.getLsbD a.stream &&
  !(a.okind != .uo && a.sync.acq.getLsbD a.stream)

/-- Who a part reads for: an atomic sees every store (04 R89); a loose load takes no store from the place that `ext` gives on, unless it
must (R94). -/
def Acc.viewer (a : Acc) (ext : List Byte) : Viewer :=
  match a.act with
  | .atomic .. => Viewer.all
  | _ => { path := a.path, team := a.team, who := a.tids, stream := a.stream, so := a.okind == .so, saw := a.sync.saw,
           upTo := if a.loose && !ext.isEmpty then some (ofBytes ext) else none, far := 2 }

/-- The cell is one of the part's. -/
def Acc.at (a : Acc) (cell : Nat) : Bool := inRun a.loc.cell a.len cell

/-- A part acquires: an acquire, or an access on an SO page (04 R98, R99). -/
def Acc.acquires (a : Acc) : Bool := a.path == .ls && (a.acq || a.okind == .so)

/-- Before a release, and before an access on an SO page, the stores that the earlier accesses of the part's threads made or returned are
performed at its scope: those in its stream, or all for an SO page (04 R98, R99). `i` is the part's number. -/
def State.orderedBefore (s : State) (i : Nat) (a : Acc) : State :=
  if a.path ≠ .ls then s
  else if a.okind = .so then s.publish (fun _ e => e.earlier a.tids a.sync.saw allStreams true i) [.ls] 4 a.team
  else if a.rel then
    s.publish (fun _ e => e.earlier a.tids a.sync.saw ((1 : BitVec 16) <<< a.stream) false i) [.ls] a.scope a.team
  else s

/-- The stores that a read returns, up to a place: an LS store of another thread that an acquire or an atomic returns is performed at its
scope (04 R96); the part's threads see them from then on in its stream (R95). -/
def State.returned (s : State) (i : Nat) (a : Acc) (ext : List Byte) : State :=
  let n := s.horizon (a.viewer ext) (upTo a.loc.cell a.len)
  let mine := fun (c : Nat) (e : Late) => a.at c && decide (e.stamp < n)
  let atomic := match a.act with | .atomic .. => true | _ => false
  if a.path ≠ .ls ∨ !(a.act == .read || atomic) then s
  else
    (if a.acquires || atomic then
        s.publish (fun c e => mine c e && e.path == .ls && !a.tids.any e.who.contains) [.ls] (if a.okind = .so then 4 else a.scope) a.team
      else s).observe mine (a.tids.map fun t => ⟨t, a.member, a.okind == .uo, i⟩)

/-- Perform one part at its memory (04 R94): a read gives its bytes to its operation, a write changes memory, an atomic does
both in one step; an atomic that finds its CAS unequal writes nothing (04 R89). `ext` is what a peer package answered, nothing for a read of poisoned data there, or for a
loose load the place from which on it takes no store. -/
def State.performPart (s : State) (a : Acc) (ext : List Byte) : State :=
  let p : Piece := { loc := a.loc, len := a.len, okind := a.okind, boff := a.boff, va := a.va, page := a.page, walk := none }
  let peer := a.loc.space == .peer
  let old := if peer then ext else s.pieceBytes (a.viewer ext) p
  let reads := match a.act with | .write _ => false | _ => true
  let s1 := if reads then (s.noteHost a.part a.loc a.va).correct a.loc else s
  let s2 := if reads then
      { s1 with ops := s1.ops.modify a.op fun o =>
          let o1 := o.take a.lane a.boff old
          if (if peer then ext.isEmpty else s.pieceBad p) then { o1 with bad := some (o1.bad.getD a.va) } else o1 }
    else s1
  if peer then s2
  else match a.act with
    | .read => s2
    | .write bs => (s2.pieceWrite a.part p bs).cleanseLast a
    | .atomic op w x nv =>
      let v := BitVec.ofNat 64 (ofBytes old)
      if op = 7 ∧ v ≠ x then s2 else s2.pieceWrite a.part p (toBytes w (atomNew op w v x nv).toNat)

/-- Perform one part with what it orders among agents. -/
def State.perform (s : State) (i : Nat) (a : Acc) (ext : List Byte) : State :=
  ((s.orderedBefore i a).returned i a ext).performPart a ext

/-- Send a part to the peer package that holds its memory (22 R378). -/
def State.sendPeer (s : State) (i : Nat) (a : Acc) : State :=
  { s with
    accs := s.accs.set i { a with sent := some (s.timeOf a.part a.gid) }
    peerOut := { pkg := a.loc.owner, off := a.loc.off, key := (s.part a.part).key, act := a.act, len := a.len } :: s.peerOut }

/-- Grant one part, if it may go now: a part on a peer page is first sent, and performed when the answer arrives, never for a partition
with key 0 (22 R378). -/
def State.performStep (s : State) (i : Nat) (a : Acc) (ext : List Byte) : Option State :=
  if a.walk.isSome || !(s.ungated a.part a.gid || (a.path == .ls && s.stepping a.gid)) || !s.unordered i a then none
  else if a.loc.space = .peer ∧ a.sent.isNone then some (s.sendPeer i a)
  else if a.loc.space = .peer ∧ ((s.part a.part).key = 0 ∨
      !(match a.act with | .write _ => ext.isEmpty | _ => ext.isEmpty || ext.length == a.len)) then none
  else some ({ s with accs := s.accs.erase i }.perform i a ext)

/-! Fills. -/

/-- Every part of an operation has been performed. -/
def State.opPerformed (s : State) (id : Nat) : Bool := !s.accs.any fun x => x.2.op == id

/-- An operation may complete now. -/
def State.opReady (s : State) (id : Nat) (o : Op) : Bool :=
  s.opPerformed id && decide (o.due ≤ s.timeOf o.part o.gid) && s.ungated o.part o.gid

/-- An operation of the LS path may complete: a step applies its scheduler partition's fills too (20 R352). -/
def State.lsReady (s : State) (id : Nat) (o : Op) : Bool := s.opReady id o || (s.opPerformed id && s.stepping o.gid)

/-- The words a load writes: one extended word, or n / 4 words, low first (04 R85). -/
def loadWords (sx : Bool) (n : Nat) (bs : List Byte) : List Word :=
  if n = 1 then [if sx then (BitVec.ofNat 8 (ofBytes bs)).signExtend 32 else BitVec.ofNat 32 (ofBytes bs)]
  else if n = 2 then [if sx then (BitVec.ofNat 16 (ofBytes bs)).signExtend 32 else BitVec.ofNat 32 (ofBytes bs)]
  else (List.range (n / 4)).map fun k => BitVec.ofNat 32 (ofBytes ((bs.drop (4 * k)).take 4))

/-- Register writes of words into consecutive registers. -/
def writesOf (reg : Nat → Reg) (d lane : Nat) (ws : List Word) : List RegWrite :=
  ws.zipIdx.map fun x => { reg := reg (d + x.2), lane, val := x.1.setWidth 64 }

/-- What an operation's data fills. -/
def Op.fills (o : Op) : List RegWrite :=
  match o.kind with
  | .load true sx n d data => writesOf .s d 0 (loadWords sx n (data.range 0 n))
  | .load false sx n d data => (lanesOf o.mask).flatMap fun j => writesOf .v d j (loadWords sx n (data.range (j * 32) n))
  | .atom w d data => (lanesOf o.mask).flatMap fun j => writesOf .v d j (loadWords false w (data.range (j * 32) w))
  | .tile t data => (List.range 1024).map fun k =>
      { reg := .t t, lane := k, val := BitVec.ofNat 64 (ofBytes (data.range (4 * k) 4)) }
  | .writes ws => ws
  | _ => []

/-- A consumed poisoned line faults the context and leaves the destination as it is (03 R81). -/
def State.badOp (s : State) (id : Nat) (o : Op) (va : DWord) : State :=
  (s.dropOp id).contextFault o.part (some o.gid) 64 va o.pc 0 0 0

/-- Complete an operation with the register writes it holds. -/
def State.fill (s : State) (id : Nat) (o : Op) : State :=
  match o.bad with
  | some va => s.badOp id o va
  | none => s.completeOp id o fun s g => s.applyWrites o o.fills g

/-- LOAD_FILL (04 R85, R86, R89). -/
def execLoadFill (op : Nat) (s : State) : Out :=
  match s.ops.get? op with
  | none => .fault (.notEnabled "LOAD_FILL")
  | some o =>
    match o.kind with
    | .load .. => if s.lsReady op o then .next (s.fill op o) else .fault (.notEnabled "LOAD_FILL")
    | .atom .. => if s.lsReady op o then .next (s.fill op o) else .fault (.notEnabled "LOAD_FILL")
    | _ => .fault (.notEnabled "LOAD_FILL")

/-- TLD_COMPLETE (08 R189). -/
def execTldComplete (op : Nat) (s : State) : Out :=
  match s.ops.get? op with
  | none => .fault (.notEnabled "TLD_COMPLETE")
  | some o =>
    match o.kind with
    | .tile .. => if s.lsReady op o then .next (s.fill op o) else .fault (.notEnabled "TLD_COMPLETE")
    | _ => .fault (.notEnabled "TLD_COMPLETE")

/-- COMPARE_COMPLETE (07 R153, R161): an integer or float compare fills its k register. -/
def execCompareComplete (op : Nat) (s : State) : Out :=
  match s.ops.get? op with
  | none => .fault (.notEnabled "COMPARE_COMPLETE")
  | some o =>
    if o.cls != .compare || !s.opReady op o then .fault (.notEnabled "COMPARE_COMPLETE")
    else match o.kind with
      | .writes _ => .next (s.fill op o)
      | .flagged ws ex c moved => .next (s.flagDone op o ws ex c moved)
      | _ => .fault (.notEnabled "COMPARE_COMPLETE")

/-- SFU_COMPLETE (07 R163 to R166). -/
def execSfuComplete (op : Nat) (s : State) : Out :=
  match s.ops.get? op with
  | none => .fault (.notEnabled "SFU_COMPLETE")
  | some o =>
    if o.cls != .sfu || !s.opReady op o then .fault (.notEnabled "SFU_COMPLETE")
    else match o.kind with
      | .flagged ws ex c moved => .next (s.flagDone op o ws ex c moved)
      | _ => .fault (.notEnabled "SFU_COMPLETE")

/-! Walks and scrub. -/

/-- The die on which a page of a partition is being walked: one of the first 64 pages in order has a walker (03 R77). -/
def State.walkDie (s : State) (part page : Nat) : Option Nat :=
  (s.dies.find? fun d => (d.2.walks.take 64).contains ⟨part, page⟩).map (·.1)

/-- Accesses of a die that waited for a page go on, and the TLBs of their cores take the translation (03 R77). -/
def State.answerWalk (s : State) (die part page : Nat) : State :=
  let mine := fun (a : Acc) => a.part == part && a.walk == some page && dieOfCore (coreOf a.gid) == die
  (s.accs.filter fun x => mine x.2).foldl (fun s x => s.tlbFill (coreOf x.2.gid) part x.2.va)
    { s with accs := s.accs.mapVal fun _ (a : Acc) => if mine a then { a with walk := none } else a }

/-- PAGE_WALK_COMPLETE (03 R77): the walk ends, a leaf without a fault enters the die's TLB, and the misses of the page are answered. -/
def execPageWalkComplete (part : Nat) (va : DWord) (s : State) : Out :=
  let p := s.part part
  let page := va.toNat
  match s.walkDie part page with
  | none => .fault (.notEnabled "PAGE_WALK_COMPLETE")
  | some die =>
    if p.stoppedAll && p.dbgRun.isNone && !p.spList.any fun i => (s.sp i).step != 0 then
      .fault (.notEnabled "PAGE_WALK_COMPLETE")
    else
      let s1 := s.modDie die fun d => { d with walks := d.walks.filter (· != ⟨part, page⟩) }
      let s2 := match s.walk part va with
        | .ok (e, size) =>
          if pteLz e then s1 else s1.modDie die fun d => { d with tlb := tlbPush 16384 ⟨part, page / size * size, size, e⟩ d.tlb }
        | .error _ => s1
      .next (s2.answerWalk die part page)

/-- PATROL_SCRUB (03 R81, R83): a line of the partition's HBM share (space 0) or vault share (space 1), in which the scrubber
found nothing, a single-bit error (1) or an uncorrectable one (2), beside those that lie there already. -/
def execPatrolScrub (part space line found : Nat) (s : State) : Out :=
  let p := s.part part
  let loc : Option Loc :=
    if space = 0 then (if line * 64 + 64 ≤ p.hbmSize then some ⟨.hbm, part, line * 64⟩ else none)
    else if space = 1 then p.vaultLoc (line * 64) 64 else none
  match loc with
  | none => .fault (.notEnabled "PATROL_SCRUB")
  | some l =>
    if found = 1 then .next ((if s.weak.contains (l.cell / 64) then s else { s with weak := (l.cell / 64) :: s.weak }).correct l)
    else if found = 2 ∧ !s.poisoned l then
      .next ({ s with poison := (l.cell / 64) :: s.poison }.modPart part fun q => { q with softUnc := q.softUnc + 1 })
    else .next (s.correct l)

end Sys2Proof.Machine
end

