-- ==== Sys2Proof/Machine/Prefix.lean ====
section
/-! DEFINITION. The Etesian prefix store (12). A node's NEXT field and the index of 2^21 buckets follow from KEY and STATE, a partition's own
part of them from its nodes (R240, R244). -/

namespace Sys2Proof.Machine

/-! Nodes and trees of a partition (12 R240 to R245). -/

def Part.nodeFirst (p : Part) : Nat := bitsOf (p.reg 0x400) 0 20
def Part.nodeCount (p : Part) : Nat := bitsOf (p.reg 0x400) 32 21
def Part.arenaBase (p : Part) : Nat := bitsOf (p.reg 0x408) 12 44 * 4096
def Part.slotLog (p : Part) : Nat := bitsOf (p.reg 0x408) 0 5

def State.node (s : State) (part k : Nat) : Node := s.nodes.getD ((s.part part).nodeFirst + k) Node.reset
def State.setNode (s : State) (part k : Nat) (n : Node) : State :=
  { s with nodes := s.nodes.set ((s.part part).nodeFirst + k) n }

/-- The nodes of a partition that are not FREE, by partition-relative number, ascending. -/
def State.usedNodes (s : State) (part : Nat) : Tab Node :=
  let p := s.part part
  (s.nodes.filter fun x => x.2.st != 0 && decide (p.nodeFirst ≤ x.1) && decide (x.1 < p.nodeFirst + p.nodeCount)).map fun x =>
    (x.1 - p.nodeFirst, x.2)

/-- ESFREE.FREE (12 R241). -/
def State.esFree (s : State) (part : Nat) : Nat := (s.part part).nodeCount - (s.usedNodes part).length

/-- The lowest-numbered free node. -/
def State.freeNode (s : State) (part : Nat) : Option Nat :=
  let k := (s.usedNodes part).foldl (fun n x => if x.1 = n then n + 1 else n) 0
  if k < (s.part part).nodeCount then some k else none

/-- The index bucket of a key (12 R244), and the nodes linked under a bucket, in ascending number. -/
def bucketOf (key : DWord) : Nat := bitsOf key 0 21
def State.bucket (s : State) (part b : Nat) : Tab Node :=
  (s.usedNodes part).filter fun x => (x.2.st == 2 || x.2.st == 3) && bucketOf x.2.key == b

/-- The NEXT field of a node: the next node in its bucket, 0xFFFFF for none; 0 in a FREE node (12 R244). -/
def State.nodeNext (s : State) (part k : Nat) : Nat :=
  let n := s.node part k
  if n.st = 0 then 0
  else (((s.bucket part (bucketOf n.key)).find? fun x => decide (k < x.1)).map (·.1)).getD 0xFFFFF

def Part.treeWord (p : Part) (t : Nat) : DWord := p.reg (0x808 + 16 * t)
def Part.treeSeed (p : Part) (t : Nat) : DWord := p.reg (0x800 + 16 * t)
def Part.treeValid (p : Part) (t : Nat) : Bool := (p.treeWord t).getLsbD 31
def Part.treeFast (p : Part) (t : Nat) : Bool := (p.treeWord t).getLsbD 30
def Part.treeRoot (p : Part) (t : Nat) : Nat := bitsOf (p.treeWord t) 32 20
def Part.treeG (p : Part) (t : Nat) : Nat := 2 ^ bitsOf (p.treeWord t) 0 4

/-- Bytes of a token block, rounded to 64, and the largest snapshot of a slot (12 R245). -/
def tokenArea (g : Nat) : Nat := 64 * ((4 * g + 63) / 64)
def Part.maxSnap (p : Part) (g : Nat) : Nat := 2 ^ p.slotLog - tokenArea g

/-- A handle (12 R245). -/
def handleOf (n : Node) (k : Nat) : Word := BitVec.ofNat 32 (n.gen % 4096 * 2 ^ 20 + k)
def State.stale (s : State) (part : Nat) (h : Word) : Bool :=
  let k := bitsOf h 0 20
  let n := s.node part k
  decide ((s.part part).nodeCount ≤ k) || n.st == 0 || n.st == 1 || n.gen % 4096 != bitsOf h 20 12

/-! Hashes (12 R246). -/

def hashStep (m : DWord) (k : DWord) (w : Word) : DWord := k * m + w.setWidth 64 + 1
def keyMul : DWord := 0x9E3779B97F4A7C15
def hash2Mul : DWord := 0xA24BAED4963EE407
def keyOver (k : DWord) (ws : List Word) : DWord := ws.foldl (hashStep keyMul) k
def hash2Over (k : DWord) (ws : List Word) : DWord := ws.foldl (hashStep hash2Mul) k

/-- Words of bytes. -/
def wordsOf (n : Nat) (bs : List Byte) : List Word := (List.range n).map fun i => BitVec.ofNat 32 (ofBytes ((bs.drop (4 * i)).take 4))

/-- Whose addresses an operation resolves, on the SN path: those of the issuing group's team (12 R258; 03 R68, R69). -/
def State.snapIssuer (s : State) (o : Op) : Issuer :=
  match s.group? o.gid with
  | some g => { s.issuer o.gid g with path := some .sn, core := none }
  | none => engineOn o.part .sn

/-- Read n tokens of caller memory. -/
def State.readTokens (s : State) (w : Issuer) (va : DWord) (n : Nat) : Except Cause (List Word) :=
  (s.readLong w .load (n + 1) va (4 * n)).map (wordsOf n)

/-- A store access leaves the HBM share: no cause of 18 R316 is raised, the operation's status is FAULT (12 R245). -/
def slotFault : Cause := ⟨0, 0⟩

/-- Bytes of a node's slot, or a cause: the slot leaves the share, or a line is poisoned. -/
def State.readSlot (s : State) (part off n : Nat) : Except Cause (List Byte) :=
  if n = 0 then .ok []
  else if (s.part part).hbmSize < off + n then .error slotFault
  else if (upTo (off / 64) ((off + n - 1) / 64 + 1 - off / 64)).any fun i => s.poisoned ⟨.hbm, part, 64 * i⟩ then .error ⟨64, 0⟩
  else .ok (Memory.read s.mem ⟨.hbm, part, off⟩ n)

/-! Issue (12 R247). -/

/-- A snapshot operation, other than a SNAPHASH, has yet to reach the store. -/
def State.unarrived (s : State) (id : Nat) : Bool :=
  match s.ops.get? id with
  | some o => (match o.kind with | .snap sub _ _ (.start _) _ => sub != 0 | _ => false)
  | none => false

/-- The operations that one issued by a group reaches the store after: its own earlier ones, and those whose issues its lanes' waits have
followed (12 R256). -/
def State.snapAfter (s : State) (g : Group) (m : Mask) : List Nat :=
  ((s.ops.filter fun x => x.2.uid == g.uid).map (·.1) ++ ((g.syncOf (lanesOf m)).saw.filter fun x => x.2 == 0).map (·.1)).filter s.unarrived

/-- A snapshot instruction: its scalars are read, its results become empty. -/
def snapOp (s : State) (sub d results : Nat) (srcs : List Nat) : Out :=
  s.issue { legal := .ordinary, srcs := srcs.map fun n => ⟨.s n, false⟩, late := (upTo d results).map .s } costOne fun s g =>
    let (s1, g1) := s.produce g .snapshot ((upTo d results).map .s) 0
      (.snap sub d (srcs.map g.sr) (.start (s.snapAfter g s.cur.mask)) none)
    .next (s1.finish (g1.onMask s.cur.mask fun l => l.sees s.fresh 0) s.cur.mask .on 1)

def execSnaphash (b : BitVec 6) (a d : BitVec 5) (s : State) : Out :=
  let d' := 2 * d.toNat
  snapOp s 0 d' 3 [2 * a.toNat, 2 * a.toNat + 1, b.toNat, d', d' + 1]
def execSnapfind (b : BitVec 6) (a d : BitVec 5) (s : State) : Out :=
  snapOp s 1 (2 * d.toNat) 2 [2 * a.toNat, 2 * a.toNat + 1, b.toNat]
def execSnapget (b : BitVec 5) (a : BitVec 6) (d : BitVec 5) (s : State) : Out :=
  snapOp s 2 (2 * d.toNat) 2 [a.toNat, 2 * b.toNat, 2 * b.toNat + 1]
def execSnapdep (b a d : BitVec 5) (s : State) : Out :=
  snapOp s 3 (2 * d.toNat) 2 (upTo (2 * a.toNat) 4 ++ [2 * b.toNat, 2 * b.toNat + 1])
def execSnaprel (b a : BitVec 6) (d : BitVec 5) (s : State) : Out :=
  snapOp s 4 (2 * d.toNat) 2 [a.toNat, b.toNat]

/-! Completion. -/

/-- The status word (12 R247). -/
def snapStatus (status depth : Nat) : Word := BitVec.ofNat 32 (status * 2 ^ 24 + depth % 2 ^ 24)

/-- Fill results from the first register on. -/
def State.snapFill (s : State) (id : Nat) (o : Op) (d : Nat) (ws : List Word) : State :=
  s.completeOp id o fun s g => s.applyWrites o (writesOf .s d 0 ws) g

/-- An operation fails: the status is written; what the other results hold is open (log entry 30). -/
def State.snapFail (s : State) (id : Nat) (o : Op) (d status : Nat) : State :=
  let n := o.dests.length - 1
  s.snapFill id o d (((List.range n).map fun i => Config.openWord (2 * id + i)) ++ [snapStatus status 0])

/-- A freed node. -/
def Node.freed (n : Node) : Node := { n with st := 0, gen := (n.gen + 1) % 4096 }

/-- What an operation that ends early leaves: the node a SNAPDEP took is freed (12 R253), and the pin of a SNAPGET released (R252). -/
def State.letNode (s : State) (part : Nat) (st : SnapSt) : State :=
  match st with
  | .start _ => s
  | .copying c _ => s.setNode part c (s.node part c).freed
  | .getting k _ _ => let n := s.node part k; s.setNode part k { n with refcnt := n.refcnt - 1 }

/-- A cause met by an operation (12 R259): Page-lazy stops it, and it goes on at the faulting access; poison faults the context (03 R81);
another completes it with FAULT, and Share-range and LINK-LOST fault the context too (18 R327, R331). -/
def State.snapCause (s : State) (id : Nat) (o : Op) (sub d : Nat) (args : List Word) (st : SnapSt) (c : Cause) : State :=
  let wh := s.addrOf o.part o.gid
  if c.code = 13 then
    (s.record o.part 0 13 c.va 0 0 5 wh 0).setOp id { o with kind := .snap sub d args st (some (s.nextRec o.part)) }
  else if c.code = 64 then s.contextFault o.part none 64 c.va 0 0 5 0 wh
  else
    let s1 := (s.letNode o.part st).snapFail id o d 10
    if c.fatal then s1.contextFault o.part none c.code c.va 0 0 5 0 wh else s1

def argAt (ws : List Word) (i : Nat) : Word := (ws[i]?).getD 0
def arg64 (ws : List Word) (i : Nat) : DWord := pair64 (argAt ws i) (argAt ws (i + 1))

/-- An operation that has not reached the store may reach it: it is not stopped, its job runs, and those before it have arrived (12
R256). -/
def State.snapArrives (s : State) (o : Op) (st : SnapSt) (stopped : Option Nat) : Bool :=
  match st with
  | .start after => stopped.isNone && !(s.part o.part).stoppedAll && !after.any s.unarrived
  | _ => false

/-- The operation of an event, with its sub-code, base, scalars and stage. -/
def State.snapOf (s : State) (id sub : Nat) : Option (Op × Nat × List Word × SnapSt × Option Nat) :=
  match s.ops.get? id with
  | none => none
  | some o =>
    match o.kind with
    | .snap k d args st stopped => if k = sub then some (o, d, args, st, stopped) else none
    | _ => none

/-- SNAPHASH_COMPLETE (12 R249). -/
def execSnaphashComplete (op : Nat) (s : State) : Out :=
  match s.snapOf op 0 with
  | none => .fault (.notEnabled "SNAPHASH_COMPLETE")
  | some (o, d, args, st, stopped) =>
    let b := argAt args 2
    let p := s.part o.part
    let va := arg64 args 0
    let t := bitsOf b 24 6
    if stopped.isSome || p.stoppedAll then .fault (.notEnabled "SNAPHASH_COMPLETE")
    else if b.getLsbD 30 || bitsOf b 16 8 != 0 || va.toNat % 4 != 0 then .next (s.snapFail op o d 8)
    else if b.getLsbD 31 && !p.treeValid t then .next (s.snapFail op o d 3)
    else
      match s.readTokens (s.snapIssuer o) va (bitsOf b 0 16) with
      | .error c => .next (s.snapCause op o 0 d args st c)
      | .ok ws =>
        let k := keyOver (if b.getLsbD 31 then p.treeSeed t else arg64 args 3) ws
        .next ((s.noteLong (s.snapIssuer o) (bitsOf b 0 16 + 1) va (4 * bitsOf b 0 16)).snapFill op o d [lo32 k, hi32 k, 0])

/-- A candidate confirms against the caller's tokens and second hash (12 R251). -/
def State.confirms (s : State) (part k : Nat) (fast : Bool) (g : Nat) (ws : List Word) (h2 : DWord) : Except Cause Bool :=
  let n := s.node part k
  if fast then .ok (n.hash2 == h2)
  else (s.readSlot part n.tokBase (4 * g)).map fun bs => wordsOf g bs == ws

/-- The first candidate that confirms, and how many were rejected. -/
def State.firstConfirmed (s : State) (part : Nat) (fast : Bool) (g : Nat) (ws : List Word) (h2 : DWord) :
    List Nat → Nat → Except Cause (Option Nat × Nat)
  | [], bad => .ok (none, bad)
  | k :: r, bad =>
    match s.confirms part k fast g ws h2 with
    | .error c => .error c
    | .ok true => .ok (some k, bad)
    | .ok false => State.firstConfirmed s part fast g ws h2 r (bad + 1)

/-- LINKED children of a node with a key, ascending: those of its bucket that agree in TREE, PARENT and KEY (12 R244, R250). -/
def State.candidates (s : State) (part tree parent : Nat) (key : DWord) : List Nat :=
  ((s.bucket part (bucketOf key)).filter fun x =>
    x.2.st == 2 && x.2.tree == tree && x.2.parent == parent && x.2.key == key).map (·.1)

/-- The search of 12 R250 from a node at depth b: the node reached, its depth, and the candidates rejected. -/
def State.findFrom (s : State) (w : Issuer) (part tree : Nat) (va : DWord) : Nat → Nat → Nat → Nat → Except Cause (Nat × Nat × Nat)
  | 0, x, b, bad => .ok (x, b, bad)
  | left + 1, x, b, bad =>
    let p := s.part part
    let g := p.treeG tree
    match s.readTokens w (va + BitVec.ofNat 64 (4 * g * b)) g with
    | .error c => .error c
    | .ok ws =>
      let n := s.node part x
      match s.firstConfirmed part (p.treeFast tree) g ws (hash2Over n.hash2 ws)
          (s.candidates part tree x (keyOver n.key ws)) bad with
      | .error c => .error c
      | .ok (some c, bad1) => State.findFrom s w part tree va left c (b + 1) bad1
      | .ok (none, bad1) => .ok (x, b, bad1)

def pinMax : Nat := 2 ^ 24 - 1

/-- Add to cr.ESMISMATCH, which saturates (12 R243). -/
def State.mismatch (s : State) (part n : Nat) : State :=
  s.modPart part fun p => p.setCr 0x28 (BitVec.ofNat 32 (min (2 ^ 32 - 1) ((p.cr 0x28).toNat + n)))

/-- Pin a node and stamp it. -/
def State.pin (s : State) (part k : Nat) : State :=
  let n := s.node part k
  s.setNode part k { n with refcnt := n.refcnt + 1, stamp := s.now.toNat }

/-- SNAPFIND_SEARCH (12 R250). -/
def execSnapfindSearch (op : Nat) (s : State) : Out :=
  match s.snapOf op 1 with
  | none => .fault (.notEnabled "SNAPFIND_SEARCH")
  | some (o, d, args, st, stopped) =>
    let b := argAt args 2
    let p := s.part o.part
    let va := arg64 args 0
    let t := bitsOf b 24 6
    if !s.snapArrives o st stopped then .fault (.notEnabled "SNAPFIND_SEARCH")
    else if bitsOf b 30 2 ≠ 0 ∨ va.toNat % 4 ≠ 0 then .next (s.snapFail op o d 8)
    else if !p.treeValid t then .next (s.snapFail op o d 3)
    else
      let w := s.snapIssuer o
      let blocks := bitsOf b 0 24 / p.treeG t
      match s.findFrom w o.part t va blocks (p.treeRoot t) 0 0 with
      | .error c => .next (s.snapCause op o 1 d args st c)
      | .ok (x, depth, bad) =>
        let read := 4 * p.treeG t * min blocks (depth + 1)
        let s1 := (s.noteLong w (read + 1) va read).mismatch o.part bad
        let n := s1.node o.part x
        if n.refcnt = pinMax then .next (s1.snapFail op o d 9)
        else .next ((s1.pin o.part x).snapFill op o d [handleOf n x, snapStatus 0 depth])

/-- Translate the rest of a destination, n blocks of 64 bytes, or what was translated before a cause. -/
def State.resolveDest (s : State) (w : Issuer) (va : DWord) :
    Nat → List (List Piece) → Except (Cause × List (List Piece)) (List (List Piece))
  | 0, ps => .ok ps
  | n + 1, ps =>
    match s.resolveEngine w .store (va + BitVec.ofNat 64 (64 * ps.length)) 64 with
    | .error c => .error (c, ps)
    | .ok q => State.resolveDest s w va n (ps ++ [q])

/-- A SNAPGET that has pinned its node goes on: it translates its whole destination, then copies block by block; its pin ends with the copy
(12 R252, R259). -/
def State.getStep (s : State) (op : Nat) (o : Op) (d : Nat) (args : List Word) (k : Nat) (dest : List (List Piece)) (done : Nat) : State :=
  let n := s.node o.part k
  let blocks := n.snapSize / 64
  match s.resolveDest (s.snapIssuer o) (arg64 args 1) (blocks - dest.length) dest with
  | .error (c, ps) => s.snapCause op o 2 d args (.getting k ps done) c
  | .ok ps =>
    let s1 :=
      if done < blocks then
        (s.readSlot o.part (n.snapBase + 64 * done) 64).map fun bs => s.writePieces o.part ((ps[done]?).getD []) bs
      else .ok s
    match s1 with
    | .error c => s.snapCause op o 2 d args (.getting k ps done) c
    | .ok s2 =>
      if done + 1 < blocks then s2.setOp op { o with kind := .snap 2 d args (.getting k ps (done + 1)) none }
      else (s2.setNode o.part k { n with refcnt := n.refcnt - 1, stamp := s.now.toNat }).completeOp op o fun s g =>
        (s.applyWrites o (writesOf .s d 0 [BitVec.ofNat 32 n.snapSize, 0]) g).acquireAt
          ([Reg.s d, .s (d + 1)].filter o.dests.contains) (some op)

/-- SNAPGET_COPY (12 R252): the pin, and the copy in steps of 64 bytes, at which a freeze stops it (20 R348). The first reader of d or d + 1
acquires the bytes written (R258). -/
def execSnapgetCopy (op : Nat) (s : State) : Out :=
  match s.snapOf op 2 with
  | none => .fault (.notEnabled "SNAPGET_COPY")
  | some (o, d, args, .getting k dest done, stopped) =>
    if stopped.isSome || (s.part o.part).stoppedAll then .fault (.notEnabled "SNAPGET_COPY")
    else .next (s.getStep op o d args k dest done)
  | some (o, d, args, st, stopped) =>
    let h := argAt args 0
    let k := bitsOf h 0 20
    let n := s.node o.part k
    if !s.snapArrives o st stopped then .fault (.notEnabled "SNAPGET_COPY")
    else if (arg64 args 1).toNat % 64 ≠ 0 then .next (s.snapFail op o d 8)
    else if s.stale o.part h then .next (s.snapFail op o d 2)
    else if n.refcnt = pinMax then .next (s.snapFail op o d 9)
    else if (s.part o.part).hbmSize < n.snapBase + n.snapSize ∧ n.snapSize ≠ 0 then .next (s.snapFail op o d 10)
    else .next ((s.setNode o.part k { n with refcnt := n.refcnt + 1 }).getStep op o d args k [] 0)

/-! Allocation and eviction (12 R255). -/

/-- The node evicted next: LINKED, without pins or children, with the lowest stamp. -/
def State.evictable (s : State) (part : Nat) : Option Nat :=
  ((s.usedNodes part).foldl (fun (best : Option (Nat × Node)) x =>
    if x.2.st = 2 ∧ x.2.refcnt = 0 ∧ x.2.nchild = 0 then
      match best with
      | some y => if x.2.stamp < y.2.stamp then some x else some y
      | none => some x
    else best) none).map (·.1)

/-- Evict a node. -/
def State.evict (s : State) (part k : Nat) : State :=
  let n := s.node part k
  let s1 := s.setNode part k n.freed
  let q := s1.node part n.parent
  s1.setNode part n.parent { q with nchild := q.nchild - 1 }

/-- Evict while fewer nodes are free than the watermark. -/
def State.evictLow (s : State) (part : Nat) : Nat → State
  | 0 => s
  | fuel + 1 =>
    if s.esFree part < bitsOf ((s.part part).cr 0x29) 0 21 then
      match s.evictable part with
      | some k => (s.evict part k).evictLow part fuel
      | none => s
    else s

/-- Take a free node: evict first when none is free. -/
def State.takeNode (s : State) (part : Nat) (make : Nat → Node → Node) : Option (State × Nat) :=
  let s1 := if s.esFree part = 0 then (match s.evictable part with | some k => s.evict part k | none => s) else s
  match s1.freeNode part with
  | none => none
  | some k =>
    let s2 := s1.setNode part k (make k (s1.node part k))
    some (s2.evictLow part (s2.usedNodes part).length, k)

/-- SNAPDEP_ALLOCATE (12 R253). -/
def execSnapdepAllocate (op : Nat) (s : State) : Out :=
  match s.snapOf op 3 with
  | none => .fault (.notEnabled "SNAPDEP_ALLOCATE")
  | some (o, d, args, st, stopped) =>
    let h := argAt args 0
    let size := (argAt args 1).toNat
    let k := bitsOf h 0 20
    let p := s.part o.part
    let n := s.node o.part k
    let g := p.treeG n.tree
    if !s.snapArrives o st stopped then .fault (.notEnabled "SNAPDEP_ALLOCATE")
    else if size % 64 ≠ 0 ∨ (arg64 args 2).toNat % 64 ≠ 0 ∨ (arg64 args 4).toNat % 4 ≠ 0 then .next (s.snapFail op o d 8)
    else if s.stale o.part h then .next (s.snapFail op o d 2)
    else if n.depth = 2 ^ 24 - 1 then .next (s.snapFail op o d 7)
    else if p.maxSnap g < size then .next (s.snapFail op o d 5)
    else
      let slot (c : Nat) : Nat := p.arenaBase + c * 2 ^ p.slotLog
      match s.takeNode o.part fun c m =>
          { m with st := 1, tree := n.tree, parent := k, key := n.key, hash2 := n.hash2, depth := n.depth + 1, refcnt := 0, nchild := 0,
                   tokBase := slot c, snapBase := slot c + tokenArea g, snapSize := size } with
      | none => .next (s.snapFail op o d 4)
      | some (s1, c) => .next (s1.setOp op { o with kind := .snap 3 d args (.copying c 0) none })

/-- Write bytes of a slot of the arena. -/
def State.putSlot (s : State) (part off : Nat) (bs : List Byte) : State :=
  (s.store ⟨.hbm, part, off⟩ bs).cleanse ⟨.hbm, part, off⟩ bs.length

/-- A SNAPDEP copies the next 64 bytes, of its tokens or of its snapshot; KEY and HASH2 advance over the tokens (12 R246, R253). -/
def State.depCopy (s : State) (op : Nat) (o : Op) (d : Nat) (args : List Word) (c done g : Nat) : State :=
  let n := s.node o.part c
  let tok := decide (done < 4 * g)
  let va := if tok then arg64 args 4 + BitVec.ofNat 64 done else arg64 args 2 + BitVec.ofNat 64 (done - 4 * g)
  let off := if tok then n.tokBase + done else n.snapBase + (done - 4 * g)
  let w := s.snapIssuer o
  let st := SnapSt.copying c done
  match s.readFlat w .load va 64 with
  | .error e => s.snapCause op o 3 d args st e
  | .ok bs =>
    if (s.part o.part).hbmSize < off + 64 then s.snapCause op o 3 d args st slotFault
    else
      let ws := if tok then wordsOf 16 bs else []
      let s1 := ((s.noteRead w va 64).putSlot o.part off bs).setNode o.part c { n with key := keyOver n.key ws, hash2 := hash2Over n.hash2 ws }
      s1.setOp op { o with kind := .snap 3 d args (.copying c (done + 64)) none }

/-- The link step of a SNAPDEP (12 R253). -/
def State.depLink (s : State) (op : Nat) (o : Op) (d : Nat) (args : List Word) (c done g : Nat) : State :=
  let p := s.part o.part
  let n := s.node o.part c
  let fast := p.treeFast n.tree
  match (if fast then .ok [] else s.readSlot o.part n.tokBase (4 * g)) with
  | .error e => s.snapCause op o 3 d args (.copying c done) e
  | .ok bs =>
    match s.firstConfirmed o.part fast g (wordsOf g bs) n.hash2 (s.candidates o.part n.tree n.parent n.key) 0 with
    | .error e => s.snapCause op o 3 d args (.copying c done) e
    | .ok (some e, bad) =>
      let s1 := (s.setNode o.part c n.freed).mismatch o.part bad
      let x := s1.node o.part e
      if x.refcnt = pinMax then s1.snapFail op o d 9
      else (s1.pin o.part e).snapFill op o d [handleOf x e, snapStatus 1 x.depth]
    | .ok (none, bad) =>
      let s1 := s.mismatch o.part bad
      let par := s1.node o.part n.parent
      let s2 := (s1.setNode o.part n.parent { par with nchild := par.nchild + 1 }).setNode o.part c { n with st := 2 }
      (s2.pin o.part c).snapFill op o d [handleOf n c, snapStatus 0 n.depth]

/-- SNAPDEP_LINK (12 R253): the copy in steps of 64 bytes, at which a freeze stops it (20 R348), then the link step. -/
def execSnapdepLink (op : Nat) (s : State) : Out :=
  match s.snapOf op 3 with
  | some (o, d, args, .copying c done, stopped) =>
    let p := s.part o.part
    let g := p.treeG (s.node o.part c).tree
    if stopped.isSome || p.stoppedAll then .fault (.notEnabled "SNAPDEP_LINK")
    else .next (if done < 4 * g + (argAt args 1).toNat then s.depCopy op o d args c done g else s.depLink op o d args c done g)
  | _ => .fault (.notEnabled "SNAPDEP_LINK")

/-- SNAPREL_APPLY (12 R254). -/
def execSnaprelApply (op : Nat) (s : State) : Out :=
  match s.snapOf op 4 with
  | none => .fault (.notEnabled "SNAPREL_APPLY")
  | some (o, d, args, st, stopped) =>
    let h := argAt args 0
    let b := argAt args 1
    let k := bitsOf h 0 20
    let n := s.node o.part k
    if !s.snapArrives o st stopped then .fault (.notEnabled "SNAPREL_APPLY")
    else if bitsOf b 1 31 ≠ 0 then .next (s.snapFail op o d 8)
    else if s.stale o.part h then .next (s.snapFail op o d 2)
    else if n.refcnt = 0 then .next (s.snapFail op o d 6)
    else
      let x := { n with refcnt := n.refcnt - 1, stamp := if b.getLsbD 0 then s.now.toNat else n.stamp }
      .next ((s.setNode o.part k x).snapFill op o d [BitVec.ofNat 32 x.refcnt, 0])

/-! Trees (12 R242). -/

/-- TREE_CREATE: a write of word 1 that takes VALID from 0 to 1, with its MODE and LOG2G; an ignored write changes nothing. -/
def execTreeCreate (part tree : Nat) (value : BitVec 64) (s : State) : Out :=
  let p := s.part part
  let lg := bitsOf value 0 4
  if !s.hostOpen part || decide (64 ≤ tree) || !value.getLsbD 31 || p.treeValid tree then .fault (.notEnabled "TREE_CREATE")
  else if lg < 4 ∨ 12 < lg ∨ 2 ^ p.slotLog < 4 * 2 ^ lg ∨ p.discarding.contains tree then .next s
  else match s.freeNode part with
    | none => .next s
    | some k =>
      let slot := p.arenaBase + k * 2 ^ p.slotLog
      let n := { s.node part k with
        st := 3, tree, parent := k, key := p.treeSeed tree, hash2 := ~~~(p.treeSeed tree), depth := 0, snapSize := 0,
        refcnt := 0, nchild := 0, tokBase := slot, snapBase := slot + tokenArea (2 ^ lg) }
      .next ((s.setNode part k n).modPart part fun p =>
        p.setReg (0x808 + 16 * tree) ((value &&& 0x4000000F) ||| BitVec.ofNat 64 (2 ^ 31 + k % 2 ^ 20 * 2 ^ 32)))

/-- TREE_DISCARD: a write of word 1 that takes VALID from 1 to 0. MODE and LOG2G stay. -/
def execTreeDiscard (part tree : Nat) (s : State) : Out :=
  let p := s.part part
  if !s.hostOpen part || decide (64 ≤ tree) || !p.treeValid tree then .fault (.notEnabled "TREE_DISCARD")
  else .next (s.modPart part fun p =>
    { p.setReg (0x808 + 16 * tree) (p.treeWord tree &&& 0x7FFFFFFF) with discarding := p.discarding ++ [tree] })

/-- Free every node of a tree. -/
def State.freeTree (s : State) (part tree : Nat) : State :=
  (s.usedNodes part).foldl (fun s x => if x.2.tree = tree then s.setNode part x.1 x.2.freed else s) s

/-- An operation in flight is on a tree. -/
def State.treeBusy (s : State) (part tree : Nat) : Bool :=
  s.ops.any fun x => x.2.part == part && (match x.2.kind with
    | .snap 0 _ args _ _ => (argAt args 2).getLsbD 31 && bitsOf (argAt args 2) 24 6 == tree
    | .snap 1 _ args _ _ => bitsOf (argAt args 2) 24 6 == tree
    | .snap _ _ _ (.copying c _) _ => (s.node part c).tree == tree
    | .snap _ _ args _ _ => (s.node part (bitsOf (argAt args 0) 0 20)).tree == tree
    | _ => false)

/-- TREE_DISCARD_FREE. -/
def execTreeDiscardFree (part tree : Nat) (s : State) : Out :=
  if !(s.part part).discarding.contains tree || s.treeBusy part tree then .fault (.notEnabled "TREE_DISCARD_FREE")
  else .next ((s.freeTree part tree).modPart part fun p => { p with discarding := p.discarding.filter (· != tree) })

end Sys2Proof.Machine
end

