-- ==== Sys2Proof/Machine/Convert.lean ====
section
/-! DEFINITION. CVT and NARROW: conversions in the issue (05 R111, R112, R122). -/

namespace Sys2Proof.Machine

/-- The register formats of CVT that are floats (05 R111). -/
def cvtFmt (n : Nat) : Fmt := if n = 2 then f16 else if n = 3 then bf16 else if n = 4 then f32 else f64

/-- One conversion (05 R112): source and destination formats, direction and the source's bits. -/
def cvtLane (src dst : Nat) (rm : Rm) (x : Nat) : Fr :=
  if src ≤ 1 then
    let i : Int := if src = 0 then (BitVec.ofNat 32 x).toInt else ((x % 2 ^ 32 : Nat) : Int)
    if dst = 1 then ⟨if i < 0 then 0 else x % 2 ^ 32, 0⟩
    else if dst = 0 then ⟨min (x % 2 ^ 32) (2 ^ 31 - 1), 0⟩
    else (cvtFmt dst).ofInt rm i
  else
    let f := cvtFmt src
    let y := if src = 5 then x else if src = 4 then x % 2 ^ 32 else x % 2 ^ 16
    if dst = 0 then
      let (i, ex) := toIntSat rm (-(2 ^ 31)) (2 ^ 31 - 1) (f.val y)
      ⟨(BitVec.ofInt 32 i).toNat, ex⟩
    else if dst = 1 then
      let (i, ex) := toIntSat rm 0 (2 ^ 32 - 1) (f.val y)
      ⟨i.toNat, ex⟩
    else if src = dst then f.integral rm y
    else f.convert (cvtFmt dst) rm y

/-- CVT (05 R111, R112). -/
def execCvt (b : BitVec 7) (f : Bool) (a d : BitVec 7) (r : BitVec 2) (s : State) : Out :=
  let src := b.toNat / 8
  let dst := b.toNat % 8
  let an := if src = 5 then 2 else 1
  s.vecFloat (.cvt b f a d r) (srcVs a.toNat an f) (upTo d.toNat (if dst = 5 then 2 else 1)) costLane fun g j =>
    let x := if src = 5 then (g.vr64 a.toNat j).toNat else (g.vr a.toNat j).toNat
    let y := cvtLane src dst (rmOf r.toNat) x
    if dst = 5 then y.words else y.word

/-! NARROW (05 R122). -/

/-- The scale of an entry whose SCALE is 00 or 01. -/
def TidEnt.flatScale (t : TidEnt) : Word := if t.scale = 1 then lo32 t.scaleArg else 0x3F800000

/-- Write one element from a binary32 word: the code and what it raises. -/
def narrowWrite (fmt : Nat) (s v : Word) : Nat × Word :=
  match quotient (f32.val v.toNat) (f32.val s.toNat) with
  | none => (if fmt = 4 then 0x80 else 0, xNV)
  | some q =>
    if fmt = 4 then df8Write q
    else
      let (lo, hi) : Int × Int := if fmt = 1 then (-128, 127) else if fmt = 2 then (0, 255) else (-8, 7)
      let (i, ex) := intWrite lo hi q
      ((BitVec.ofInt 8 i).toNat % (if fmt = 3 then 16 else 256), ex)

/-- The value of an integer or DF8 element (05 R105, R107). -/
def elemVal (fmt code : Nat) : Fv :=
  if fmt = 4 then df8Val code
  else if fmt = 2 then .fin false (code % 256) 0
  else
    let w := if fmt = 3 then 4 else 8
    let c := code % 2 ^ w
    if 2 ^ (w - 1) ≤ c then .fin true (2 ^ w - c) 0 else .fin false c 0

/-- Read one element: value × s rounded once; a DF8 NaN is the canonical NaN and raises nothing. Of the product R122 names overflow, underflow
and inexact; zero times an infinity, and a signalling NaN as the scale, raise invalid besides, as a multiply does (the model's choice: log
entry 69). -/
def narrowRead (fmt : Nat) (s : Word) (code : Nat) : Fr :=
  match elemVal fmt code with
  | .nan _ => ⟨f32.nan, 0⟩
  | v => f32.mulV v (f32.val s.toNat)

/-- Parts of a packed word. -/
def packParts (bits : Nat) : List Nat → Nat
  | [] => 0
  | c :: r => c + 2 ^ bits * packParts bits r

/-- NARROW's common shape: the named entry, then one float result per lane; a refused entry is Tensor-invalid. -/
def narrowOp (s : State) (b : BitVec 6) (fmts : List Nat) (srcs : List Src) (d : List Nat)
    (h : TidEnt → Group → Nat → List Word × Word) : Out :=
  s.issue { legal := .notDebug, srcs, dests := d.map .v } costLane fun s g =>
    let t := s.tidOf g b.toNat
    if !t.valid || !fmts.contains t.fmt || t.scale == 2 then
      .next (s.raise g s.cur.mask 22 0 ((d.head?).map .v) 0)
    else
      let ls := lanesOf s.cur.mask
      let fs := fpFaults (s.fpEnabled g) ls fun j => (h t g j).2
      let ok := s.cur.mask &&& ~~~(faultMask fs)
      let g1 := (d.zipIdx).foldl (fun g' x => g'.writeV x.1 ok fun j => (((h t g j).1)[x.2]?).getD 0) g
      s.doneFloat (g1.orFlags (orLanes (lanesOf ok) fun j => (h t g j).2)) ok (costLane g) (.v ((d.head?).getD 0)) fs

def packLane (n bits a : Nat) (t : TidEnt) (g : Group) (j : Nat) : List Word × Word :=
  let xs := (List.range n).map fun k => narrowWrite t.fmt t.flatScale (g.vr (a + k) j)
  ([BitVec.ofNat 32 (packParts bits (xs.map (·.1)))], xs.foldl (fun e x => e ||| x.2) 0)

def unpackLane (n bits a : Nat) (t : TidEnt) (g : Group) (j : Nat) : List Word × Word :=
  let xs := (List.range n).map fun k => narrowRead t.fmt t.flatScale (bitsOf (g.vr a j) (k * bits) bits)
  (xs.map fun x => BitVec.ofNat 32 x.bits, xs.foldl (fun e x => e ||| x.ex) 0)

def execPack8 (b : BitVec 6) (f : Bool) (a : BitVec 5) (d : BitVec 7) (s : State) : Out :=
  narrowOp s b [1, 2, 4] (srcVs (4 * a.toNat) 4 f) [d.toNat] (packLane 4 8 (4 * a.toNat))
def execUnpk8 (b : BitVec 6) (f : Bool) (a : BitVec 7) (d : BitVec 5) (s : State) : Out :=
  narrowOp s b [1, 2, 4] [srcV a f] (upTo (4 * d.toNat) 4) (unpackLane 4 8 a.toNat)
def execPack4 (b : BitVec 6) (f : Bool) (a : BitVec 4) (d : BitVec 7) (s : State) : Out :=
  narrowOp s b [3] (srcVs (8 * a.toNat) 8 f) [d.toNat] (packLane 8 4 (8 * a.toNat))
def execUnpk4 (b : BitVec 6) (f : Bool) (a : BitVec 7) (d : BitVec 4) (s : State) : Out :=
  narrowOp s b [3] [srcV a f] (upTo (8 * d.toNat) 8) (unpackLane 8 4 a.toNat)

end Sys2Proof.Machine
end

