-- ==== Sys2Proof/Machine/Control.lean ====
section
/-! DEFINITION. Control flow, traps by instruction, REP and the scheduling instructions (02 R54 to R56; 13 R260 to R264; 18
R322). -/

namespace Sys2Proof.Machine

/-- The address of the issue plus a displacement of off16 halfwords (02 R46). -/
def State.target16 (s : State) (o : BitVec 16) : DWord := s.cur.pc + disp16 o

/-- A branch: each lane whose condition holds goes to the target (13 R260). -/
def branch (s : State) (o : BitVec 16) (srcs : List Src) (cost : Group → Nat) (cond : Group → Nat → Bool) : Out :=
  s.issue { srcs } cost fun s g =>
    s.done g s.cur.mask (.to fun j => if cond g j then s.target16 o else s.cur.pc + 4) (cost g) none

def execBr (o : BitVec 16) (s : State) : Out := branch s o [] costOne fun _ _ => true
def execBrz (o : BitVec 16) (a : BitVec 6) (s : State) : Out :=
  branch s o [srcS a false] costOne fun g _ => g.sr a.toNat == 0
def execBrnz (o : BitVec 16) (a : BitVec 6) (s : State) : Out :=
  branch s o [srcS a false] costOne fun g _ => g.sr a.toNat != 0
def execBrneg (o : BitVec 16) (a : BitVec 6) (s : State) : Out :=
  branch s o [srcS a false] costOne fun g _ => (g.sr a.toNat).msb
def execBrk (o : BitVec 16) (a : BitVec 4) (s : State) : Out :=
  branch s o [srcK a false] costLane fun g j => maskBit (g.kr a.toNat) j
def execBrkn (o : BitVec 16) (a : BitVec 4) (s : State) : Out :=
  branch s o [srcK a false] costLane fun g j => !maskBit (g.kr a.toNat) j
def execBrv (o : BitVec 16) (a : BitVec 7) (s : State) : Out :=
  branch s o [srcV a false] costLane fun g j => g.vr a.toNat j != 0
def execBrvz (o : BitVec 16) (a : BitVec 7) (s : State) : Out :=
  branch s o [srcV a false] costLane fun g j => g.vr a.toNat j == 0

/-! Jumps, calls and the meeting register (13 R261, R262). -/

def execJmp (o : BitVec 16) (a : BitVec 5) (s : State) : Out :=
  s.issue { srcs := srcSs (2 * a.toNat) 2 false } costOne fun s g =>
    s.done g s.cur.mask (.to fun _ => evenAddr (g.sr64 (2 * a.toNat) + disp16 o)) 1 none

def execCall (o : BitVec 16) (a : BitVec 5) (s : State) : Out :=
  s.issue { dests := regSs (2 * a.toNat) 2 } costOne fun s g =>
    s.done (s.writeS2 s.cur.gid g (2 * a.toNat) (s.cur.pc + 4)) s.cur.mask (.to fun _ => s.target16 o) 1 none

def execJmpv (o : BitVec 16) (a : BitVec 6) (s : State) : Out :=
  s.issue { srcs := srcVs (2 * a.toNat) 2 false } costLane fun s g =>
    s.done g s.cur.mask (.to fun j => evenAddr (g.vr64 (2 * a.toNat) j + disp16 o)) (costLane g) none

/-- Set MEET in the lanes of a mask. -/
def Group.setMeet (g : Group) (m : Mask) (f : Nat → DWord) : Group :=
  g.modLanes fun j l => if maskBit m j then { l with meet := f j } else l

/-- RSTMEET (13 R261). -/
def execRstmeet (a : BitVec 6) (s : State) : Out :=
  s.issue { srcs := srcVs (2 * a.toNat) 2 false } costLane fun s g =>
    s.done (g.setMeet s.cur.mask fun j => g.vr64 (2 * a.toNat) j) s.cur.mask .on (costLane g) none

/-- SETMEET (13 R262): the pair receives the old MEET. -/
def execSetmeet (o : BitVec 16) (a : BitVec 6) (s : State) : Out :=
  s.issue { dests := regVs (2 * a.toNat) 2 } costLane fun s g =>
    let g1 := (g.writeV (2 * a.toNat) s.cur.mask fun j => lo32 (g.lane j).meet).writeV (2 * a.toNat + 1) s.cur.mask
      fun j => hi32 (g.lane j).meet
    s.done (g1.setMeet s.cur.mask fun _ => s.target16 o) s.cur.mask .on (costLane g) none

/-! Traps (18 R322). -/

/-- TRAP: the active set traps with Software-trap and the code. -/
def execTrap (c : BitVec 16) (s : State) : Out :=
  s.issue { legal := .ordinary } costOne fun s g => .next (s.raise g s.cur.mask 5 (c.setWidth 32) none 0)

/-- BREAK: a debug stop where a debug handler is resident, else the trap Breakpoint. -/
def execBreakI (c : BitVec 16) (s : State) : Out :=
  s.issue { legal := .ordinary } costOne fun s g =>
    if (s.part g.part).resident then
      .next ((s.finish g s.cur.mask .on 1).startWave g.part (some (s.cur.gid, s.cur.pc)) 97 c.toNat)
    else .next (s.raise g s.cur.mask 6 (c.setWidth 32) none 0)

/-- RTRAP: the lanes of cr.TRAPMASK resume and the handler ends. -/
def execRtrap (s : State) : Out :=
  s.issue { legal := .handler } costOne fun s g =>
    .next ((s.modSp (spIdOf s.cur.gid) fun q => { q with busy := s.now.toNat + 1 }).returnTrap s.cur.gid g)

/-! REP (02 R54 to R57). -/

/-- The index at which a lane begins a REP: its resume index, or 0. -/
def Lane.start (l : Lane) : Nat := l.resume.getD 0

/-- A REP whose target may be repeated begins: the lanes of the active set with the lowest lane's index form the sequence;
lanes with another index follow in one of their own. An index at or beyond the count leaves no repeat. -/
def Group.beginRep (g : Group) (c : Cur) (r : Rep) : Group × Mask × Goes :=
  let i := (g.lane ((lanesOf c.mask).head?.getD 0)).start
  let m := maskOf g.lanes.length fun j => maskBit c.mask j && (g.lane j).start == i
  if i < r.count then ({ g with rep := some { r with mask := m, idx := i } }, m, .wait)
  else (g, m, .to fun _ => r.past)

/-- REP: the target is fetched and every repeat is tested before the first (02 R56); then the repeats follow as issues of
their own. -/
def execRep (w : BitVec 2) (x y z : Bool) (c : BitVec 6) (s : State) : Out :=
  s.issue {} costOne fun s g =>
    let who := s.issuer s.cur.gid g
    match s.fetch who (s.cur.pc + 4) with
    | .miss page => .next ((s.addWalk (dieOf s.cur.gid) g.part page).waitAt g 13)
    | .cause e => .next (s.causeFor g s.cur.mask e.code e.va none)
    | .illegal _ _ => .next (s.raise g s.cur.mask 1 0 none 0)
    | .instr _ len word =>
      let s := s.fetched who (s.cur.pc + 4) len
      let r : Rep :=
        { pc := s.cur.pc, mask := s.cur.mask, idx := 0, count := c.toNat + 1, tlen := len, stride := 2 ^ w.toNat,
          stepD := z, stepA := y, stepB := x }
      match r.refusal g len word with
      | some cause => .next (s.raise g s.cur.mask cause 0 none 0)
      | none =>
        match s.cur.cls, g.handling with
        | .handler, some h => .next (s.finish { g with handling := some { h with rep := some r } } s.cur.mask .wait 1)
        | _, _ =>
          let (g1, m, go) := g.beginRep s.cur r
          .next (s.finish g1 m go 1)

/-! SCHED (13 R264). -/

/-- Mark the lanes of a mask as waiting at their instruction. -/
def Group.holdAt (g : Group) (m : Mask) (h : Hold) : Group := g.onMask m fun l => { l with hold := some h }

/-- A closest-hit or shading thread: barriers and REPACK are Shader-context there (10 R217). -/
def Group.shading (g : Group) : Bool := g.kind == .closestHit || g.kind == .viewShade

/-- REPACK: the active set waits at it (01 R26). -/
def execRepack (s : State) : Out :=
  s.issue { legal := .ordinary } costOne fun s g =>
    if g.shading then .next (s.raise g s.cur.mask 32 0 none 0)
    else .next (s.finish (g.holdAt s.cur.mask .repack) s.cur.mask .wait 1)

/-- Hold the issuing code ineligible: by YIELD for the groups that were eligible, at most 64 cycles, or by SLEEP. -/
def Group.rest (g : Group) (c : Cls) (sleep : Nat) (yield : Option (Nat × List Nat)) : Group :=
  match c, g.handling with
  | .handler, some h =>
    { g with handling := some { h with start := max h.start sleep, yield := yield } }
  | _, _ => { g with sleep := if sleep = 0 then g.sleep else sleep, yield := yield }

/-- YIELD: the group lets every other eligible group of its scheduler partition issue once. -/
def execYield (s : State) : Out :=
  s.issue {} costOne fun s g =>
    .next (s.finish (g.rest s.cur.cls 0 (some (s.timeOf g.part s.cur.gid + 64, s.cur.others))) s.cur.mask .on 1)

/-- SLEEP: the group is not eligible in the n cycles after the issue. -/
def execSleep (n : BitVec 16) (s : State) : Out :=
  s.issue {} costOne fun s g =>
    .next (s.finish (if n = 0 then g else g.rest s.cur.cls (s.timeOf g.part s.cur.gid + 1 + n.toNat) none) s.cur.mask .on 1)

/-- The register a WAITF names. -/
def waitfReg (c : BitVec 2) (a : BitVec 7) : Reg :=
  if c = 0 then .v a.toNat else if c = 1 then .s a.toNat else if c = 2 then .k a.toNat else .t a.toNat

/-- WAITF: the group waits at the instruction until the register is full; of s62 until a flit is there, and of s60 not at all. -/
def execWaitf (c : BitVec 2) (a : BitVec 7) (s : State) : Out :=
  s.issue {} costOne fun s g =>
    let r := waitfReg c a
    if !g.has r then .next (s.raise g s.cur.mask 3 0 none 0)
    else if r ≠ .s 60 ∧ g.srcEmpty r then .next (s.waitAt g (s.emptyWhy g [r]))
    else s.done g s.cur.mask .on 1 none

/-! Expiry of SLEEP and YIELD. -/

/-- SLEEP_EXPIRY (13 R264). -/
def execSleepExpiry (gid : Nat) (s : State) : Out :=
  match s.group? gid with
  | some g =>
    if g.sleep != 0 && decide (g.sleep ≤ s.timeOf g.part gid) && (!(s.part g.part).stoppedAll || slotOf gid == 16) then .next (s.setGroup gid { g with sleep := 0 })
    else .fault (.notEnabled "SLEEP_EXPIRY")
  | none => .fault (.notEnabled "SLEEP_EXPIRY")

/-- A YIELD has run out: no group is left to wait for, or 64 cycles have passed. -/
def yieldOver (clock : Nat) (y : Option (Nat × List Nat)) : Bool :=
  match y with
  | some (lim, xs) => xs.isEmpty || decide (lim ≤ clock)
  | none => false

/-- YIELD_EXPIRY (13 R264). -/
def execYieldExpiry (gid : Nat) (s : State) : Out :=
  match s.group? gid with
  | some g =>
    let now := s.timeOf g.part gid
    let hy := g.handling.bind (·.yield)
    if ((s.part g.part).stoppedAll && slotOf gid != 16) || !(yieldOver now g.yield || yieldOver now hy) then .fault (.notEnabled "YIELD_EXPIRY")
    else
      .next (s.setGroup gid
        { g with
          yield := if yieldOver now g.yield then none else g.yield
          handling := g.handling.map fun h => if yieldOver now h.yield then { h with yield := none } else h })
  | none => .fault (.notEnabled "YIELD_EXPIRY")

/-- A group of a scheduler partition issued, or ceased to be eligible: no YIELD waits for it any longer (13 R264). -/
def Group.unyield (g : Group) (p : Nat → Bool) : Group :=
  { g with
    yield := g.yield.map fun y => (y.1, y.2.filter fun x => !p x)
    handling := g.handling.map fun h => { h with yield := h.yield.map fun y => (y.1, y.2.filter fun x => !p x) } }

end Sys2Proof.Machine
end

