-- ==== Sys2Proof/Machine/Sync.lean ====
section
/-! DEFINITION. Fences (04 R100 to R103), team barriers (13 R265 to R267), the Zephyr net (13 R268 to R271) and LULL. -/

namespace Sys2Proof.Machine

/-! Fences: the group does not issue past one until it is complete (04 R100). -/

/-- LS accesses of these threads, in a stream of the mask or on an SO page, are still to be performed (04 R101). -/
def State.lsOpen (s : State) (tids : List Nat) (streams : BitVec 16) : Bool :=
  s.accs.any fun x => x.2.path == .ls && (streams.getLsbD x.2.stream || x.2.okind == .so) &&
    x.2.who.any fun w => tids.contains w.1

/-- An operation of the group on a path is not complete, or an access not performed (04 R102). -/
def State.pathOpen (s : State) (gid : Nat) (g : Group) (tids : List Nat) (path : Nat) : Bool :=
  let opOf (k : OpKind → Bool) : Bool := s.ops.any fun x => x.2.gid == gid && x.2.uid == g.uid && k x.2.kind
  if path = 0 then s.lsOpen tids 0xFFFF
  else if path = 1 then (s.core (coreOf gid)).chans.any fun c => c.2.copies.any fun x => x.uid == g.uid
  else if path = 2 then s.accs.any fun x => x.2.path == .mx && x.2.uid == g.uid
  else if path = 3 then opOf fun k => match k with | .trace .. | .rast .. | .view .. => true | _ => false
  else if path = 4 then (s.part g.part).colls.any fun c => c.contribs.any fun x => x.uid == g.uid
  else opOf fun k => match k with | .snap .. => true | _ => false

/-- A fence that waits while something is open, and then orders stores among agents and what its lanes do from then on. -/
def fence (s : State) (busy : State → Group → Bool) (order : State → Group → State × Group) : Out :=
  s.issue {} costOne fun s g =>
    if busy s g then .next (s.waitAt g 1) else (order s g).1.done (order s g).2 s.cur.mask .on 1 none

/-- The stores that a group's earlier accesses on a path made or returned (04 R101 to R103). For LS they are those of some of its threads.
What a group read on another path is not kept: every store performed for it there counts (log entry 4). -/
def State.fencedStores (s : State) (g : Group) (m : Mask) (streams : BitVec 16) (a : Path) (e : Late) : Bool :=
  if a = .ls then e.earlier (g.tidsOf m) (g.syncOf (lanesOf m)).saw streams true s.fresh
  else (e.path == a && e.uid == g.uid) || e.reaches (Viewer.engine a g.team)

/-- The lanes of a mask whose later LS accesses follow a fence in some streams. -/
def Group.fenceLanes (g : Group) (m : Mask) (streams : BitVec 16) : Group := g.onMask m fun l => l.fenced streams

/-- FENCE.S (04 R101): a release and an acquire on each masked stream. -/
def execFenceS (p : BitVec 2) (m : BitVec 16) (s : State) : Out :=
  fence s (fun s g => s.lsOpen (g.tidsOf s.cur.mask) m) fun s g =>
    (s.publish (fun _ e => s.fencedStores g s.cur.mask m .ls e) [.ls] (p.toNat + 1) g.team, g.fenceLanes s.cur.mask m)

/-- FENCE.P (04 R102): earlier accesses on path A are performed with respect to path B. -/
def execFenceP (p : BitVec 2) (b a : BitVec 3) (s : State) : Out :=
  fence s (fun s g => s.pathOpen s.cur.gid g (g.tidsOf s.cur.mask) a.toNat) fun s g =>
    (s.publish (fun _ e => s.fencedStores g s.cur.mask allStreams (Path.ofNum a.toNat) e) [Path.ofNum b.toNat] (p.toNat + 1) g.team,
     if b = 0 then g.fenceLanes (if a = 0 then s.cur.mask else widthMask g.width) allStreams else g)

/-- FENCE.A (04 R103): every earlier access of the group, at system scope with respect to every path. -/
def execFenceA (s : State) : Out :=
  fence s (fun s g =>
    s.accs.any (fun x => x.2.uid == g.uid) ||
    (List.range 6).any fun p => s.pathOpen s.cur.gid g (g.lanes.map (·.tid)) p) fun s g =>
    let all := widthMask g.width
    (s.publish (fun _ e => e.uid == g.uid || Path.all.any fun p => s.fencedStores g all allStreams p e) Path.all 4 g.team,
     g.fenceLanes all allStreams)

/-! Team barriers (13 R265, R266). -/

/-- The current phase of a team's barrier. -/
def Team.phase (t : Team) (n : Nat) : Nat := t.phases.getD n 0

/-- Arrivals of a barrier may have changed in this cycle. -/
def Team.touch (t : Team) (n clock : Nat) : Team := { t with arrAt := t.arrAt.set n clock }

/-- A lane's mark at a barrier is of a phase. -/
def Lane.marked (l : Lane) (n p : Nat) : Bool := l.marks.get? n == some p

/-- The number an SI barrier operand gives, if it is in range and the thread may use barriers: else the cause (13 R265). -/
def barNumber (g : Group) (bv : Word) : Except Nat Nat :=
  if g.shading then .error 32 else if 16 ≤ bv.toNat then .error 33 else .ok bv.toNat

/-- BAR and ARRIVE by the active set (13 R266); an arrival releases the accesses of its threads (04 R104). -/
def arrival (s : State) (e : Bool) (b : BitVec 7) (stay : Bool) : Out :=
  s.issue { legal := .ordinary, srcs := srcSI b e } costOne fun s g =>
    match barNumber g (valSI g b), s.teams.get? g.team with
    | .error c, _ => .next (s.raise (s.untouched g) s.cur.mask c 0 none 0)
    | .ok _, none => .fault .noIssue
    | .ok n, some t =>
      let p := t.phase n
      let old := maskOf g.lanes.length fun j => maskBit s.cur.mask j && (g.lane j).marked n p
      let new := s.cur.mask &&& ~~~old
      let clock := (s.part g.part).clock
      let g1 := (g.holdAt old (.again n p)).onMask new fun l =>
        { l with marks := l.marks.set n p, hold := if stay then some (.bar n p) else none }
      let s1 := if new = 0 then s
        else s.setTeam g.team { (t.touch n clock) with barToks := t.barToks ++ [(n, s.tokOf g new)] }
      .next (s1.finish g1 new (if stay || new == 0 then .wait else .on) 1)

def execBar (e : Bool) (b : BitVec 7) (s : State) : Out := arrival s e b true
def execArrive (e : Bool) (b : BitVec 7) (s : State) : Out := arrival s e b false

/-- The group passes a barrier: its later accesses follow its earlier ones, and see what arrivals released (04 R97, R104). -/
def Lane.passed (l : Lane) : Lane := { l.fenced allStreams with passes := l.passes + 1 }
def Group.passed (g : Group) : Group := g.modLanes fun _ l => l.passed

/-- WAIT (13 R266): a lane goes on when the phase of its mark has completed, or it has none. -/
def execWait (e : Bool) (b : BitVec 7) (s : State) : Out :=
  s.issue { legal := .ordinary, srcs := srcSI b e } costOne fun s g =>
    match barNumber g (valSI g b), s.teams.get? g.team with
    | .error c, _ => .next (s.raise (s.untouched g) s.cur.mask c 0 none 0)
    | .ok _, none => .fault .noIssue
    | .ok n, some t =>
      let p := t.phase n
      let held := maskOf g.lanes.length fun j => maskBit s.cur.mask j && (g.lane j).marked n p
      let free := s.cur.mask &&& ~~~held
      let g1 := g.holdAt held (.wait n p)
      .next (s.finish (if free = 0 then g1 else g1.passed) free (if free = 0 then .wait else .on) 1)

/-- The ordinary groups of a team: shading groups take no part in its barriers (10 R217). -/
def State.teamGroups (s : State) (team : Nat) : List (Nat × Group) :=
  s.groups.filter fun x => x.2.team == team && x.2.kind == .ordinary

/-- A group has arrived in a phase: every live lane is marked with it. -/
def Group.arrived (g : Group) (n p : Nat) : Bool := g.lanes.all fun l => !l.isLive || l.marked n p

/-- Release a group's lanes from a completed phase, whose arrivals had acquired `saw`. -/
def Group.phaseDone (g : Group) (n p : Nat) (saw : List (Nat × Nat)) : Group :=
  let go := g.lanesWhere fun l => l.hold == some (.bar n p) || l.hold == some (.wait n p)
  let g1 := g.modLanes fun _ l => (if l.hold = some (.again n p) then { l with hold := none } else l).snapFollows saw
  if go = 0 then g1 else (g1.release go).passed

/-- BARRIER_PHASE_COMPLETE (13 R266, 04 R104): in a cycle after the last arrival, once the arrivals' accesses are performed, which are then
so at team scope. -/
def execBarrierPhaseComplete (team n : Nat) (s : State) : Out :=
  match s.teams.get? team with
  | none => .fault (.notEnabled "BARRIER_PHASE_COMPLETE")
  | some t =>
    let p := t.phase n
    let gs := s.teamGroups team
    let mine := t.barToks.filter fun x => x.1 == n
    let clock := (s.part t.part).clock
    if mine.isEmpty || gs.isEmpty || !(gs.all fun x => x.2.arrived n p) || !decide (t.arrAt.getD n 0 < clock) ||
        !(mine.all fun x => s.tokDone x.2) || (s.part t.part).stoppedAll then
      .fault (.notEnabled "BARRIER_PHASE_COMPLETE")
    else
      let s1 := gs.foldl (fun s x => s.setGroup x.1 (x.2.phaseDone n p (sawOf (mine.map (·.2))))) (s.releaseToks (mine.map (·.2)) true [.ls] 1 team)
      .next (s1.setTeam team { t with phases := t.phases.set n (p + 1), barToks := t.barToks.filter fun x => x.1 != n })

/-! BARM (13 R267). -/

/-- The lanes waiting at a BARM slot. -/
def Group.barmLanes (g : Group) (n : Nat) : Mask :=
  g.lanesWhere fun l => match l.hold with | some (.barm k _ _) => k == n | _ => false

/-- The mask a waiting lane recorded. -/
def Lane.barmMask (l : Lane) : Mask := match l.hold with | some (.barm _ m _) => m | _ => 0

/-- The number below which a waiting lane's accesses come before its BARM. -/
def Lane.barmBound (l : Lane) : Nat := match l.hold with | some (.barm _ _ b) => b | _ => 0

/-- The accesses a lane issued before its BARM have been performed (04 R104). -/
def State.barmDone (s : State) (l : Lane) : Bool :=
  match l.hold with
  | some (.barm _ _ bound) => s.tokDone { tids := [l.tid], bound }
  | _ => true

/-- Park lanes that wait at an instruction, with a cause, one sub-warp for each address at which they wait, that of the lowest
lane first (13 R267, R269; 06; 12); `d` gives the destination of the instruction at an address (18 R321). -/
def State.parkHeld (s : State) (gid : Nat) (mask : Mask) (cause : Nat) (d : DWord → Option Reg) : State :=
  (lanesOf mask).foldl (fun s j =>
    match s.group? gid with
    | none => s
    | some g =>
      if (g.lane j).parked then s
      else
        let m := maskOf g.lanes.length fun i => maskBit mask i && !(g.lane i).parked && (g.lane i).pc == (g.lane j).pc
        s.trapLanes gid g { mask := m, pc := (g.lane j).pc, cause, code := 0, info := trapInfo 4 (d (g.lane j).pc), va := 0,
                            rep := (g.rep.filter fun r => r.mask &&& m != 0).map (·.idx) }) s

/-- The test of a BARM slot, repeated while it parks a lane. -/
def State.barmTest (s : State) (gid n : Nat) : Nat → State
  | 0 => s
  | fuel + 1 =>
    match s.group? gid with
    | none => s
    | some g =>
      let w := g.barmLanes n
      let l := g.lane ((lanesOf w).head?.getD 0)
      let m := l.barmMask
      if w = 0 || !((lanesOf m).all fun j => maskBit w j || !(g.lane j).isLive) then s
      else
        match (lanesOf w).find? fun j => (g.lane j).barmMask != m with
        | some j => (s.parkHeld gid ((1 : Mask) <<< j) 35 fun _ => none).barmTest gid n fuel
        | none =>
          if (lanesOf w).all fun j => s.barmDone (g.lane j) then
            (s.publish (fun _ e => (lanesOf w).any fun j => e.earlier [(g.lane j).tid] (g.lane j).sync.saw allStreams true (g.lane j).barmBound) [.ls] 1
              g.team).setGroup gid ((g.release w).onMask w Lane.passed)
          else s

/-- Test every slot of a group. -/
def State.barmAll (s : State) (gid : Nat) : State := (List.range 16).foldl (fun s n => s.barmTest gid n 65) s

def execBarm (e : Bool) (b : BitVec 7) (f : Bool) (a : BitVec 4) (s : State) : Out :=
  s.issue { legal := .ordinary, srcs := srcK a f :: srcSI b e } costOne fun s g =>
    match barNumber g (valSI g b) with
    | .error c => .next (s.raise (s.untouched g) s.cur.mask c 0 none 0)
    | .ok n =>
      let m := g.kr a.toNat &&& g.liveMask
      let s1 := s.finish (g.holdAt s.cur.mask (.barm n m s.fresh)) s.cur.mask .wait 1
      .next ((s1.parkHeld s.cur.gid (s.cur.mask &&& ~~~m) 35 fun _ => none).barmTest s.cur.gid n 65)

/-! The Zephyr net (13 R268 to R270). -/

/-- A control word is legal for a function: 0 ZBAR, 1 ZBCAST, 2 ZRED (13 R268). -/
def zctlOk (fn : Nat) (bv : Word) : Bool :=
  bitsOf bv 10 6 == 0 && !bv.getLsbD 6 && (if fn = 2 then bitsOf bv 8 2 != 3 else bitsOf bv 8 2 == 0) &&
  (fn == 1 || !bv.getLsbD 7)

/-- The lanes of the active set wait at the operation; what its last issue read stays with the group. -/
def zephyrOp (s : State) (fn : Nat) (srcs : List Src) (d : Option Nat) (bv val : Group → Word) : Out :=
  s.issue { legal := .ordinary, srcs, dests := d.toList.map .s } costOne fun s g =>
    let b := bv g
    if !zctlOk fn b then .next (s.raise (s.untouched g) s.cur.mask 34 0 (d.map .s) 0)
    else
      let id := bitsOf b 0 6
      let g1 := g.holdAt s.cur.mask (.zephyr fn id)
      let all := g1.lanesWhere fun l => l.hold == some (.zephyr fn id)
      let ds := (g.zwaits.filter fun x => x.id == id && x.fn == fn).flatMap fun (x : ZWait) => x.ds.filter fun y => y.1 != s.cur.pc
      let z : ZWait := { id, fn, bv := b, val := val g, d := d.getD 0, ds := (s.cur.pc, d.getD 0) :: ds,
                         time := (s.part g.part).clock, tok := s.tokOf g1 all }
      .next (s.finish { g1 with zwaits := (g.zwaits.filter fun x => !(x.id == id && x.fn == fn)) ++ [z] } s.cur.mask .wait 1)

def execZbar (e : Bool) (b : BitVec 7) (s : State) : Out :=
  zephyrOp s 0 (srcSI b e) none (fun g => valSI g b) fun _ => 0
def execZbcast (e : Bool) (b : BitVec 7) (f : Bool) (a d : BitVec 6) (s : State) : Out :=
  zephyrOp s 1 (srcS a f :: srcSI b e) (some d.toNat) (fun g => valSI g b) fun g => g.sr a.toNat
def execZred (e : Bool) (b : BitVec 6) (f : Bool) (a d : BitVec 6) (s : State) : Out :=
  zephyrOp s 2 [srcS a f, srcS b e] (some d.toNat) (fun g => g.sr b.toNat) fun g => g.sr a.toNat

/-- The lanes of a group that wait at an operation. -/
def Group.zLanes (g : Group) (fn id : Nat) : Mask := g.lanesWhere fun l => l.hold == some (.zephyr fn id)

/-- The operation at which every live lane of a group waits, once it may be recorded (13 R269). -/
def State.zReady (s : State) (g : Group) : Option ZWait :=
  g.zwaits.find? fun z => g.liveMask != 0 && g.zLanes z.fn z.id == g.liveMask &&
    decide (z.time < (s.part g.part).clock) && s.tokDone z.tok

/-- The destination of the operation at an address (13 R269). -/
def ZWait.dest (z : ZWait) (pc : DWord) : Option Reg :=
  if z.fn = 0 then none else (z.ds.find? fun x => x.1 == pc).map fun x => .s x.2

/-- The delay of a completed phase (13 R269). -/
def zDelay (fn : Nat) (arrs : List ZArr) : Nat :=
  let oneDie := arrs.all fun a => some a.die == arrs.head?.map (·.die)
  if fn = 2 then (if oneDie then 64 else 160) else if oneDie then 32 else 96

/-- Close a phase whose last arrival is recorded. -/
def ZPhase.close (z : ZPhase) (clock : Nat) : ZPhase :=
  if z.arrs.length = z.count then { z with due := some (clock + zDelay z.fn z.arrs) } else z

/-- Replace the open phase of an ID, or add one. -/
def putOpen (z : ZPhase) : List ZPhase → List ZPhase
  | [] => [z]
  | y :: r => if y.id = z.id ∧ y.due.isNone then z :: r else y :: putOpen z r

/-- ZEPHYR_ARRIVAL_RECORD (13 R269, R270): the arrival releases at device scope. -/
def execZephyrArrivalRecord (gid : Nat) (s : State) : Out :=
  match s.group? gid with
  | none => .fault (.notEnabled "ZEPHYR_ARRIVAL_RECORD")
  | some g =>
    let p := s.part g.part
    match s.zReady g with
    | none => .fault (.notEnabled "ZEPHYR_ARRIVAL_RECORD")
    | some z =>
      if p.stoppedAll then .fault (.notEnabled "ZEPHYR_ARRIVAL_RECORD")
      else
        let s1 := (s.releaseTok z.tok false [.ls] 2 g.team).setGroup gid { g with zwaits := g.zwaits.filter fun x => x != z }
        let count := bitsOf z.bv 16 16 + 1
        let op := bitsOf z.bv 8 2
        let arr : ZArr := { gid, uid := g.uid, val := z.val, root := z.bv.getLsbD 7, die := dieOf gid, d := z.d }
        match p.zph.find? fun y => y.id == z.id && y.due.isNone with
        | none =>
          let y : ZPhase := { id := z.id, fn := z.fn, count, op, arrs := [arr], due := none }
          .next (s1.modPart g.part fun q => { q with zph := q.zph ++ [y.close p.clock] })
        | some y =>
          if y.fn ≠ z.fn ∨ y.count ≠ count ∨ y.op ≠ op ∨ (arr.root ∧ y.arrs.any (·.root)) then
            .next (s1.parkHeld gid (g.zLanes z.fn z.id) 35 z.dest)
          else
            .next (s1.modPart g.part fun q =>
              { q with zph := putOpen ({ y with arrs := y.arrs ++ [arr] }.close p.clock) q.zph })

/-- The value a completed phase delivers (13 R269). -/
def ZPhase.value (z : ZPhase) : Word :=
  if z.fn = 1 then ((z.arrs.find? (·.root)).map (·.val)).getD 0
  else match z.arrs with
    | [] => 0
    | a :: r => r.foldl (fun x y =>
        if z.op = 0 then x + y.val else if z.op = 1 then (if x.slt y.val then y.val else x) else fmax x y.val) a.val

/-- What the arrivals of a phase had acquired. -/
def State.zSaw (s : State) (z : ZPhase) : List (Nat × Nat) :=
  z.arrs.flatMap fun a => match s.group? a.gid with
    | some g => (g.syncOf (lanesOf (g.zLanes z.fn z.id))).saw
    | none => []

/-- One participant's completion: its d is written and its lanes released. -/
def State.zDeliver (s : State) (z : ZPhase) (saw : List (Nat × Nat)) (a : ZArr) : State :=
  match s.group? a.gid with
  | none => s
  | some g =>
    if g.uid ≠ a.uid then s
    else
      let g1 := if z.fn = 0 then g else s.writeS a.gid g a.d z.value
      s.setGroup a.gid ((g1.release (g.zLanes z.fn z.id)).onMask (g.zLanes z.fn z.id) fun l => (l.acquire allStreams).snapFollows saw)

/-- ZEPHYR_COMPLETE (13 R269): at its fixed delay a phase reaches every participant in one step. -/
def execZephyrComplete (part id : Nat) (s : State) : Out :=
  let p := s.part part
  match p.zph.find? fun y => y.id == id && (match y.due with | some t => decide (t ≤ p.clock) | none => false) with
  | none => .fault (.notEnabled "ZEPHYR_COMPLETE")
  | some z =>
    if p.stoppedAll then .fault (.notEnabled "ZEPHYR_COMPLETE")
    else .next (z.arrs.foldl (fun t a => t.zDeliver z (s.zSaw z) a) (s.modPart part fun q => { q with zph := q.zph.erase z }))

/-! Performing one access, and what waits for it. -/

/-- MEMORY_ACCESS_PERFORM (04 R94), after which BARM slots of the access's threads are tested again (04 R104). -/
def execMemoryAccessPerform (acc : Nat) (ext : List Byte) (s : State) : Out :=
  match s.accs.get? acc with
  | none => .fault (.notEnabled "MEMORY_ACCESS_PERFORM")
  | some a =>
    match s.performStep acc a ext with
    | none => .fault (.notEnabled "MEMORY_ACCESS_PERFORM")
    | some t =>
      let waits := t.groups.filter fun x => x.2.lanes.any fun l =>
        (match l.hold with | some (.barm ..) => true | _ => false) && a.who.any fun w => w.1 == l.tid
      .next (waits.foldl (fun t x => t.barmAll x.1) t)

end Sys2Proof.Machine
end

