-- ==== Sys2Proof/Machine/Matrix.lean ====
section
/-! DEFINITION. Convergence registers and the matrix unit (09). -/

namespace Sys2Proof.Machine

/-- An undeclared convergence register. -/
def Conv.undeclared : Conv := { members := 0, signed := 0, word := 0, declared := false }

def Group.convOf (g : Group) (c : Nat) : Conv := g.conv.getD c Conv.undeclared
def Group.setConv (g : Group) (c : Nat) (x : Conv) : Group := { g with conv := g.conv.set c x }

/-! CDECL, CRST and CQRY (09 R195). -/

def execCdecl (f : Bool) (a : BitVec 4) (d : BitVec 3) (s : State) : Out :=
  s.issue { legal := .ordinary, srcs := [srcK a f] } costOne fun s g =>
    let m := g.kr a.toNat &&& g.liveMask
    if (g.convOf d.toNat).signed ≠ 0 then .next (s.raise g s.cur.mask 30 0 none 0)
    else if m = 0 then .next (s.raise g s.cur.mask 29 0 none 0)
    else s.done (g.setConv d.toNat { members := m, signed := 0, word := 0, declared := true }) s.cur.mask .on 1 none

/-- The lanes that wait as signers of a register. -/
def Group.signers (g : Group) (c : Nat) : Mask := g.lanesWhere fun l => l.hold == some (.sign c)

/-- CRST: waiting signers go on as if the MMA had completed (09 R200). -/
def execCrst (d : BitVec 3) (s : State) : Out :=
  s.issue {} costOne fun s g =>
    let w := g.signers d.toNat
    let g1 := { g with conv := g.conv.erase d.toNat, forced := g.forced.filter fun x => x.2 &&& w == 0 }
    s.done (if w = 0 then g1 else if s.cur.cls = .ordinary then g1.letGo w else g1.release w) s.cur.mask .on 1 none

def execCqry (a : BitVec 3) (d : BitVec 6) (s : State) : Out :=
  s.issue { dests := [.s d.toNat] } costOne fun s g =>
    let c := g.convOf a.toNat
    let x : Word := if c.declared then
        BitVec.ofNat 32 (2 ^ 31 + maskCount c.members * 65536 + maskCount c.signed * 256) else 0
    s.done (s.writeS s.cur.gid g d.toNat x) s.cur.mask .on 1 (if d.toNat = 61 then some x else none)

/-! The format selector (09 R203): format and scales, or none for Tensor-invalid. -/

def mmaSelect (e e16 : TidEnt) : Option (Nat × Word × Word) :=
  if !e.valid then none
  else if e.fmt = 4 then
    if e.scale = 0 then some (4, 0x3F800000, 0x3F800000)
    else if e.scale = 1 then
      if e16.valid && e16.fmt == 4 && decide (e16.scale ≤ 1) then some (4, e.flatScale, e16.flatScale) else none
    else none
  else if [1, 2, 3, 5, 6, 7].contains e.fmt then some (e.fmt, 0x3F800000, 0x3F800000)
  else none

/-! MMA (09 R196 to R199). -/

/-- An MMA of the group is pending on a tile (09 R206). -/
def State.mmaOn (s : State) (gid uid t : Nat) : Bool :=
  s.ops.any fun x => x.2.gid == gid && x.2.uid == uid && (match x.2.kind with
    | .mma _ _ _ _ _ t' wide _ => t' == t || (wide && t' + 1 == t)
    | _ => false)

/-- The tiles of an accumulator. -/
def accTiles (g : Group) (t : Nat) : List Nat := if g.width = 64 then [t, t + 1] else [t]

/-- The issue may take place (09 R199). -/
def State.mmaReady (s : State) (g : Group) (b a t : Nat) : Bool :=
  (accTiles g t).all (fun k => !g.isEmpty (.t k) || s.mmaOn s.cur.gid g.uid k) &&
  (regVs a 8 ++ regVs b 8).all (fun r => !g.isEmpty r) && decide ((s.core (coreOf s.cur.gid)).mq.length < 16)

/-- Why an issue of R199 waits (20 R361): an empty register, or a full matrix queue. -/
def State.mmaWhy (s : State) (g : Group) (b a t : Nat) : Nat :=
  let rs := regVs a 8 ++ regVs b 8 ++ ((accTiles g t).filter fun k => !s.mmaOn s.cur.gid g.uid k).map Reg.t
  if rs.any g.isEmpty then s.emptyWhy g (rs.filter g.isEmpty) else 3

/-- Eight words of a lane from a base; a lane outside MEMBERS supplies zero. -/
def panel (g : Group) (members : Mask) (base n : Nat) : List (List Word) :=
  (List.range n).map fun j => (List.range 8).map fun k => if maskBit members j then g.vr (base + k) j else 0

/-- Put an operation in a matrix queue: behind those of earlier issues, and of one clock's the lower scheduler partition's first (R205). -/
def State.queueMma (s : State) (id : Nat) : List Nat → List Nat
  | [] => [id]
  | y :: r =>
    match s.ops.get? id, s.ops.get? y with
    | some o, some p => if o.due = p.due ∧ spIdOf o.gid < spIdOf p.gid then id :: y :: r else y :: s.queueMma id r
    | _, _ => y :: s.queueMma id r

/-- The issue of R199: the operation is enqueued and every signer released. -/
def State.mmaIssue (s : State) (g : Group) (c : Nat) (x : Conv) (sel : Nat × Word × Word) (b a t : Nat) : State :=
  let id := s.fresh
  let k : OpKind := .mma sel.1 sel.2.1 sel.2.2 (panel g x.members a g.width) (panel g x.members b 32) t (g.width == 64) false
  let (s1, g1) := s.produce g .matrix ((accTiles g t).map Reg.t) 1 k
  let s2 := s1.modCore (coreOf s.cur.gid) fun q => { q with mq := s1.queueMma id q.mq }
  let rest := g.signers c &&& ~~~s.cur.mask
  let g2 := (g1.setConv c { x with signed := 0 }).onMask s.cur.mask fun l => { l with hold := none }
  s2.finish (if rest = 0 then g2 else g2.letGo rest) s.cur.mask (.to fun j => (g.lane j).pc + 4) 1

/-- MMA (09 R197, R199, R200). The signatures of the last signers are taken with the issue of R199: while that issue waits, SIGNED does not
hold them yet, a point that R197 leaves open (the model's choice: log entry 66). Where an EXIT has made the signers all the members, they are
the active set, each at its own address. -/
def execMma (f : BitVec 4) (c : BitVec 3) (b a : BitVec 7) (t : BitVec 4) (s : State) : Out :=
  s.issue { legal := .ordinary } costOne fun s g =>
    let k := c.toNat
    let x := g.convOf k
    let m := s.cur.mask
    let d : Option Reg := some (.t t.toNat)
    let word := BitVec.ofNat 32 ((encodeWord (.mma f c b a t)).getD 0)
    let forced := x.declared && x.signed == x.members && m &&& ~~~x.signed == 0
    let bad := m &&& (~~~x.members ||| x.signed)
    if !((regVs a.toNat 8 ++ regVs b.toNat 8 ++ (accTiles g t.toNat).map Reg.t).all g.has) then .next (s.raise g m 3 0 d 0)
    else if g.width = 16 ∨ (g.width = 64 ∧ t.toNat % 2 = 1) then .next (s.raise g m 28 0 d 0)
    else if !x.declared then .next (s.raise g m 29 0 d 0)
    else if !forced && bad != 0 then .next (s.raise g bad 29 0 d 0)
    else if x.signed ≠ 0 ∧ word ≠ x.word then .next (s.raise g m 31 0 d 0)
    else match mmaSelect (s.tidOf g f.toNat) (s.tidOf g (f.toNat + 16)) with
      | none =>
        if forced then
          .next (((s.modSp (spIdOf s.cur.gid) fun q => { q with busy := s.now.toNat + 1 }).setGroup s.cur.gid
            (((g.aged g m).issuedAt s.cur.pc).setConv k { x with signed := 0 })).parkHeld s.cur.gid m 22 fun _ => d)
        else .next (s.raise g m 22 0 d 0)
      | some sel =>
        let y := { x with word, signed := x.signed ||| m }
        if y.signed = x.members then
          if s.mmaReady g b.toNat a.toNat t.toNat then .next (s.mmaIssue g k y sel b.toNat a.toNat t.toNat)
          else .next (s.waitAt g (s.mmaWhy g b.toNat a.toNat t.toNat))
        else .next (s.finish ((g.setConv k y).holdAt m (.sign k)) m .wait 1)

/-- Members that have exited leave every register; where the signers are now all the members, their issue comes next (09
R200). -/
def Group.exitConv (g : Group) (gone : Mask) : Group :=
  g.conv.foldl (fun h x =>
    let c := x.2
    let ms := c.members &&& ~~~gone
    if ms = c.members then h
    else if ms = 0 then { h with conv := h.conv.erase x.1 }
    else if c.signed = ms then
      let w := h.signers x.1
      { h.setConv x.1 { c with members := ms } with forced := h.forced ++ [((h.lane ((lanesOf w).head?.getD 0)).pc, w)] }
    else h.setConv x.1 { c with members := ms }) g

/-! The order of sums (09 R204). -/

/-- Element k of a fragment of eight words (09 R201). -/
def fragElem (fmt : Nat) (ws : List Word) (k : Nat) : Fv :=
  let w (i : Nat) : Word := (ws[i]?).getD 0
  if fmt = 7 then f32.val (w k).toNat
  else if fmt = 5 then f16.val (bitsOf (w (k / 2)) (16 * (k % 2)) 16)
  else if fmt = 6 then bf16.val (bitsOf (w (k / 2)) (16 * (k % 2)) 16)
  else if fmt = 3 then elemVal 3 (bitsOf (w (k / 8)) (4 * (k % 8)) 4)
  else elemVal fmt (bitsOf (w (k / 4)) (8 * (k % 4)) 8)

/-- K of a format, and its execution clocks at width 32 (09 R201). -/
def mmaK (fmt : Nat) : Nat := if fmt = 3 then 64 else if fmt = 7 then 8 else if fmt = 5 ∨ fmt = 6 then 16 else 32
def mmaClocks (fmt : Nat) (wide : Bool) : Nat := (if fmt = 7 then 8 else 4) * (if wide then 2 else 1)

/-- An exact sum of products: its value, the infinities met, whether an ∞ × 0 was, and whether every product is a −0. -/
structure Dot where
  i : Int
  e : Int
  pos : Bool
  neg : Bool
  bad : Bool
  allNegZero : Bool
  deriving DecidableEq, Repr

def Dot.add (p : Dot) (a b : Fv) : Dot :=
  match mulExact a b with
  | none => { p with bad := true }
  | some (.inf true) => { p with neg := true, allNegZero := false }
  | some (.inf false) => { p with pos := true, allNegZero := false }
  | some (.nan _) => { p with bad := true }
  | some (.fin s m e) =>
    let (i, q) := addExact p.i p.e (sgn s m) e
    { p with i, e := q, allNegZero := p.allNegZero && s && m == 0 }

def dotOf (xs : List (Fv × Fv)) : Dot :=
  xs.foldl (fun p x => p.add x.1 x.2) { i := 0, e := 0, pos := false, neg := false, bad := false, allNegZero := true }

/-- One element of a floating product (09 R204). -/
def mmaFloat (p : Dot) (sA sB : Word) (d : Word) : Word :=
  let s := f32.val (fmul sA sB).toNat
  let dv := f32.val d.toNat
  let nan : Word := 0x7FC00000
  if p.bad || dv.isNan || (p.pos && p.neg) || fisNan sA || fisNan sB || s.isNan then nan
  else
    let pinf := p.pos || p.neg
    let pv : Fv := if p.pos then .inf false else if p.neg then .inf true else .fin (decide (p.i < 0)) p.i.natAbs p.e
    match mulExact s pv with
    | none => nan
    | some (.nan _) => nan
    | some (.inf t) => match dv with
      | .inf u => if t = u then BitVec.ofNat 32 (f32.infOf t) else nan
      | _ => BitVec.ofNat 32 (f32.infOf t)
    | some (.fin t m e) => match dv with
      | .inf u => BitVec.ofNat 32 (f32.infOf u)
      | .fin u n q =>
        let (i, z) := addExact (sgn t m) e (sgn u n) q
        BitVec.ofNat 32 (f32.roundInt .rne (u && n == 0 && p.allNegZero && !pinf) i z).bits
      | .nan _ => nan

/-- One element of an integer product, modulo 2^32 (09 R204). -/
def mmaInt (p : Dot) (d : Word) : Word := d + BitVec.ofInt 32 (p.i * 2 ^ p.e.toNat)

/-- Element (m, n): an accumulator word's next value. -/
def mmaElem (fmt : Nat) (sA sB : Word) (row col : List Word) (d : Word) : Word :=
  let p := dotOf ((List.range (mmaK fmt)).map fun k => (fragElem fmt row k, fragElem fmt col k))
  if fmt = 1 ∨ fmt = 2 ∨ fmt = 3 then mmaInt p d else mmaFloat p sA sB d

/-- The accumulator after an operation: word (m, n) of t, and of t + 1 from row 32 on (09 R202). -/
def Group.mmaApply (g : Group) (fmt : Nat) (sA sB : Word) (a b : List (List Word)) (t : Nat) : Group :=
  { g with
    t := Store.setAll (a.zipIdx.flatMap fun ra => b.zipIdx.map fun cb =>
      let cell := t * 1024 + ra.2 * 32 + cb.2
      (cell, mmaElem fmt sA sB ra.1 cb.1 (g.t.get cell))) g.t }

/-- Accumulators whose entry a debugger removed stay as they were (20 R358). -/
def Group.keepTiles (n old : Group) (tiles : List Nat) (dests : List Reg) : Group :=
  (tiles.filter fun k => !dests.contains (.t k)).foldl (fun (x : Group) k =>
    { x with t := (x.t.drop fun c => c / 1024 == k).setRange (k * 1024) (old.t.range (k * 1024) 1024) }) n

/-! Execution (09 R205, R206). -/

/-- The operation that a core's matrix unit starts next: the first whose group is not frozen, each group's in order. -/
def State.mmaNext (s : State) (core : Nat) : List Nat → List Nat → Option (Nat × Op)
  | _, [] => none
  | seen, id :: r =>
    match s.ops.get? id with
    | none => s.mmaNext core seen r
    | some o =>
      if seen.contains o.gid || (s.sp (spIdOf o.gid)).frozen then s.mmaNext core (o.gid :: seen) r else some (id, o)

/-- MMA_START (09 R205): the accumulator is read, and its new value stands in the tiles, which are empty. -/
def execMmaStart (core : Nat) (s : State) : Out :=
  let c := s.core core
  match s.mmaNext core [] c.mq with
  | none => .fault (.notEnabled "MMA_START")
  | some (id, o) =>
    let clock := (s.part o.part).clock
    match o.kind with
    | .mma fmt sA sB a b t wide false =>
      if clock < c.mfree ∨ clock < o.due ∨ (s.part o.part).stoppedAll then .fault (.notEnabled "MMA_START")
      else
        let n := mmaClocks fmt wide
        let s1 := s.setOp id { o with kind := .mma fmt sA sB a b t wide true, due := clock + n - 1 + 6 }
        let s2 := s1.modCore core fun q => { q with mq := q.mq.erase id, mrun := q.mrun ++ [id], mfree := clock + n }
        .next (s2.modGroup o.gid fun g => if g.uid = o.uid then (g.mmaApply fmt sA sB a b t).keepTiles g (accTiles g t) o.dests else g)
    | _ => .fault (.notEnabled "MMA_START")

/-- An operation that executes is done: a tile is full when the last MMA of the group pending on it is done. -/
def State.mmaEnd (s : State) (core op : Nat) (o : Op) : State :=
  let s1 := (s.dropOp op).modCore core fun q => { q with mrun := q.mrun.erase op }
  s1.modGroup o.gid fun g =>
    if g.uid ≠ o.uid then g
    else g.markFull (o.dests.filter fun r => match r with
      | .t k => !s1.mmaOn o.gid o.uid k
      | _ => true)

/-- MMA_COMPLETE (09 R206): a tile is full when the last MMA of the group pending on it is done. -/
def execMmaComplete (core op : Nat) (s : State) : Out :=
  match s.ops.get? op with
  | none => .fault (.notEnabled "MMA_COMPLETE")
  | some o =>
    match o.kind with
    | .mma _ _ _ _ _ _ _ true =>
      if !s.opReady op o || coreOf o.gid ≠ core then .fault (.notEnabled "MMA_COMPLETE")
      else .next (s.mmaEnd core op o)
    | _ => .fault (.notEnabled "MMA_COMPLETE")

end Sys2Proof.Machine
end

