-- ==== Sys2Proof/Machine/Registers.lean ====
section
/-! DEFINITION. Special and control registers: SRD, CRD and CWR (02 R39, R40; 08 R192, R193). -/

namespace Sys2Proof.Machine

/-- The class of a control register (02 R39): 0 U, 1 UR, 2 P. -/
def crClass (n : Nat) : Nat :=
  if n ≤ 0x11 ∨ n = 0x18 ∨ n = 0x20 ∨ n = 0x40 ∨ n = 0x41 ∨ n = 0x44 ∨ n = 0x45 ∨ n = 0x47 then 0
  else if n = 0x12 ∨ n = 0x28 ∨ n = 0x42 ∨ n = 0x43 ∨ n = 0x46 ∨ (0x48 ≤ n ∧ n ≤ 0x4A) then 1 else 2

/-- A control register of group scope (02 R39). -/
def crOfGroup (n : Nat) : Bool := decide (n ≤ 0x11) || (decide (0x42 ≤ n) && decide (n ≤ 0x4A))

/-- A control register of core scope (20 R344). -/
def crOfCore (n : Nat) : Bool := decide (0x60 ≤ n) && decide (n ≤ 0x77)

/-- The writable bits of a control register (00 R12 and the map of each). -/
def crWritable (n : Nat) : Word :=
  if n ≤ 0x0F then 0xF else if n ≤ 0x11 then 0x1F else if n = 0x18 then 0xFFFFF else if n = 0x20 then 0xFFFFFFFF
  else if n = 0x21 then 3 else if n = 0x29 then 0x1FFFFF else if n = 0x40 then 0xFFFFFFFE
  else if n = 0x41 ∨ n = 0x44 ∨ n = 0x45 ∨ n = 0x4B ∨ n = 0x50 then 0xFFFFFFFF else if n = 0x47 then 0x8000003F
  else if 0x60 ≤ n ∧ n ≤ 0x6F then (if n % 2 = 0 then 0xFFFFFFFE else 0xFFFFFFFF)
  else if 0x70 ≤ n ∧ n ≤ 0x77 then 0xFF0FFFFF
  else if n = 0x84 ∨ n = 0x86 ∨ n = 0x90 then 0xFFFFFFC0 else if n = 0x85 ∨ n = 0x91 then 0xFFFFFFFF
  else if n = 0x92 then 0xFFFFFFF0 else if n = 0x93 then 0x1FFFFF else 0

/-- The value a write leaves: reserved and RO bits keep theirs; a budget of 0 is ignored and a period is clamped (18 R323, 20
R359). -/
def crNext (n : Nat) (old x : Word) : Word :=
  if n = 0x4B ∧ x = 0 then old
  else if n = 0x93 then BitVec.ofNat 32 (min (2 ^ 20) (max 64 (x.toNat % 2 ^ 21)))
  else (old &&& ~~~(crWritable n)) ||| (x &&& crWritable n)

/-- The value of a control register as a group on a core reads it. -/
def State.crRead (s : State) (core : Nat) (g : Group) (n : Nat) : Word :=
  if crOfGroup n then g.cr n else if crOfCore n then (s.core core).bks.get n else (s.part g.part).cr n

/-- Write a control register of context, partition or core scope. -/
def State.crWriteShared (s : State) (part core n : Nat) (x : Word) : State :=
  if crOfCore n then s.modCore core fun c => { c with bks := c.bks.set n (crNext n (c.bks.get n) x) }
  else s.modPart part fun p => p.setCr n (crNext n (p.cr n) x)

/-- Float instructions that may wait for a flit with their flags to come (05 R110, 13 R275). -/
def Instr.isScalarFloat : Instr → Bool
  | .faddS .. | .fsubS .. | .fminS .. | .fmaxS .. | .fmulS .. | .ffmaS .. | .ffmsS .. | .ffnmaS .. => true
  | _ => false

/-- An earlier flag-raising instruction of the group has not completed (05 R110). -/
def State.flagsOpen (s : State) (gid uid : Nat) : Bool :=
  s.flagsPending gid uid || s.ops.any fun x => x.2.gid == gid && x.2.uid == uid &&
    (match x.2.kind with
      | .message i _ _ _ => Instr.isScalarFloat i
      | _ => false)

/-- A field of a packet: n bits from bit lo (16 R294). -/
def pktBits (ws : List DWord) (lo n : Nat) : Nat := bitsOf ((ws[lo / 64]?).getD 0) (lo % 64) n

/-- The grid's dimensions (16 R297). -/
def Grid.dims (x : Grid) : Nat × Nat × Nat := (pktBits x.packet 32 16, pktBits x.packet 48 16, pktBits x.packet 64 16)

/-- A scalar special register other than the clock (02 R40). -/
def State.special (s : State) (gid : Nat) (g : Group) (n : Nat) : Nat :=
  let team := s.teams.get? g.team
  let dims := ((team.bind fun t => s.grids.get? t.grid).map Grid.dims).getD (1, 1, 1)
  let idx := (team.map (·.index)).getD 0
  let here := g.kind != .debug
  let cl := clusterOf gid
  if n = 2 then g.width
  else if n = 3 then (g.sr 2).toNat
  else if n = 4 then idx % dims.1
  else if n = 5 then idx / dims.1 % dims.2.1
  else if n = 6 then idx / dims.1 / dims.2.1
  else if n = 7 then (if here then dims.1 else 0)
  else if n = 8 then (if here then dims.2.1 else 0)
  else if n = 9 then (if here then dims.2.2 else 0)
  else if n = 10 then g.level
  else if n = 13 then dieOf gid * 256 + quadOfCluster cl % 4 * 64 + cl % 12 * 4 + coreOf gid % 4
  else if n = 14 then spOf gid
  else if n = 15 then (s.part g.part).relCluster cl
  else (s.part g.part).count

/-- SRD (08 R192). CLOCKLO latches the high word for the group; CLOCKHI returns it, or the current one. -/
def execSrd (n : BitVec 10) (d : BitVec 7) (s : State) : Out :=
  if n.toNat ≤ 1 then
    s.issue { dests := [.v d.toNat] } costLane fun s g =>
      s.done (g.writeV d.toNat s.cur.mask fun j => if n = 0 then BitVec.ofNat 32 j else (g.lane j).orig) s.cur.mask .on
        (costLane g) none
  else
    s.issue { dests := [.s d.toNat] } costOne fun s g =>
      let x : Word := if n.toNat = 11 then lo32 s.now else if n.toNat = 12 then g.clockHi.getD (hi32 s.now)
        else BitVec.ofNat 32 (s.special s.cur.gid g n.toNat)
      let g1 := if n.toNat = 11 then { g with clockHi := some (hi32 s.now) } else g
      s.done (s.writeS s.cur.gid g1 d.toNat x) s.cur.mask .on 1 (if d.toNat = 61 then some x else none)

/-- A class-P register outside debug-handler code, or a write of a UR register (02 R39). -/
def crForbidden (c : Cls) (n : Nat) (write : Bool) : Bool :=
  (crClass n == 2 && c != .debug) || (crClass n == 1 && write)

/-- CRD (08 R193). -/
def execCrd (n : BitVec 12) (sc : BitVec 6) (s : State) : Out :=
  s.issue { priv := crForbidden s.cur.cls n.toNat false, dests := [.s sc.toNat] } costOne fun s g =>
    if (n.toNat = 0x10 ∨ n.toNat = 0x11) ∧ s.flagsOpen s.cur.gid g.uid then .next (s.waitAt (s.untouched g) 1)
    else
      let x := s.crRead (coreOf s.cur.gid) g n.toNat
      s.done (s.writeS s.cur.gid g sc.toNat x) s.cur.mask .on 1 (if sc.toNat = 61 then some x else none)

/-- CWR (08 R193). -/
def execCwr (n : BitVec 12) (sc : BitVec 6) (s : State) : Out :=
  s.issue { priv := crForbidden s.cur.cls n.toNat true, srcs := [srcS sc false] } costOne fun s g =>
    if (n.toNat = 0x10 ∨ n.toNat = 0x11) ∧ s.flagsOpen s.cur.gid g.uid then .next (s.waitAt (s.untouched g) 1)
    else
      let x := g.sr sc.toNat
      if crOfGroup n.toNat then s.done (g.setCr n.toNat (crNext n.toNat (g.cr n.toNat) x)) s.cur.mask .on 1 none
      else (s.crWriteShared g.part (coreOf s.cur.gid) n.toNat x).done g s.cur.mask .on 1 none

end Sys2Proof.Machine
end

