-- ==== Sys2Proof/Machine/Bins.lean ====
section
/-! DEFINITION. Forming groups (01 R21, R25, R31), bins and SPAWN (01 R30; 16 R304 to R306). -/

namespace Sys2Proof.Machine

/-- A lane as it is formed: live at an address with age 0 (01 R17, R25); its accesses follow what was released to it (16 R295, R306). -/
def Lane.fresh (tid : Nat) (orig : Word) (pc : DWord) : Lane :=
  { Lane.none with st := .live, tid, orig, pc, sync := ⟨allStreams, 0, []⟩ }

/-- The kernel argument address of a grid's packet (16 R297). -/
def Grid.arg (x : Grid) : DWord := (x.packet[3]?).getD 0
/-- The entry address of a grid's packet. -/
def Grid.entry (x : Grid) : DWord := (x.packet[2]?).getD 0

/-- A group formed in a slot for a team: one live lane for each value of v0, consecutive team-thread indices from `first`, the
other lanes never launched (01 R15, R23, R25, R31). -/
def State.formGroup (s : State) (team : Nat) (t : Team) (gid : Nat) (gnum first : Word) (pc : DWord) (v0 : List Word) :
    State :=
  let n := v0.length
  let arg := ((s.grids.get? t.grid).map Grid.arg).getD 0
  let live := (List.range n).map fun j => Lane.fresh (s.fresh + j) (first + BitVec.ofNat 32 j) pc
  let g : Group :=
    { Group.blank with
      uid := s.fresh + n, formed := (s.part t.part).clock, part := t.part, width := t.width, nv := t.nv, ns := t.ns, nt := t.nt, team, gnum
      lanes := live ++ List.replicate (t.width - n) Lane.none
      v := Store.setAll (v0.zipIdx.map fun x => (x.2, x.1)) []
      s := Store.setAll [(0, lo32 arg), (1, hi32 arg), (2, gnum), (3, BitVec.ofNat 32 t.index)] [] }
  (s.setGroup gid g).takeFresh (n + 1)

/-- The lowest-numbered free team slot of a team on a core (16 R305). -/
def State.freeSlot (s : State) (t : Team) (core : Nat) : Option Nat :=
  t.slots.find? fun gid => coreOf gid == core && (s.groups.get? gid).isNone

/-- A bin of a team and an entry address, else a FREE one, lowest number first (16 R306). -/
def Core.binFor (c : Core) (team : Nat) (e : DWord) : Option Nat :=
  match (List.range 16).find? fun b => match c.bins.get? b with
      | some x => x.team == team && x.entry == e
      | none => false with
  | some b => some b
  | none => (List.range 16).find? fun b => (c.bins.get? b).isNone

/-- The number of threads a bin holds. -/
def Core.binLoad (c : Core) (b : Nat) : Nat := ((c.bins.get? b).map (·.threads.length)).getD 0

/-- Threads enter a bin, which takes its team and entry when the first one does (16 R304). -/
def Core.enqueue (c : Core) (b team : Nat) (e : DWord) (ts : List BinThread) : Core :=
  { c with
    bins := c.bins.set b (match c.bins.get? b with
      | some x => { x with threads := x.threads ++ ts }
      | none => { team, entry := e, threads := ts, expired := false }) }

/-- A placement into the same bin waits already, ahead of later arrivals (16 R305). -/
def Core.queuedFor (c : Core) (team : Nat) (e : DWord) : Bool := c.placements.any fun p => p.team == team && p.entry == e

/-- Waiting placements enter their bins, in order, where there is room (16 R305). -/
def Core.place (clock : Nat) : List Placement → Core → Core
  | [], c => c
  | p :: r, c =>
    match (if c.queuedFor p.team p.entry then none else c.binFor p.team p.entry) with
    | some b =>
      if c.binLoad b + p.count ≤ 128 then
        Core.place clock r (c.enqueue b p.team p.entry ((List.range p.count).map fun i =>
          { arg := p.arg + BitVec.ofNat 32 i, arrived := clock, tok := p.toks }))
      else Core.place clock r { c with placements := c.placements ++ [p] }
    | none => Core.place clock r { c with placements := c.placements ++ [p] }

/-- Try a core's waiting placements again. -/
def State.flushPlacements (s : State) (part core : Nat) : State :=
  s.modCore core fun c => Core.place (s.part part).clock c.placements { c with placements := [] }

/-- A ready task places a group's width of threads as one arrival (06 R140). -/
def State.placeThreads (s : State) (part core : Nat) (p : Placement) : State :=
  (s.modCore core fun c => { c with placements := c.placements ++ [p] }).flushPlacements part core

/-- SPAWN (16 R306). -/
def execSpawn (a : BitVec 5) (d : BitVec 7) (s : State) : Out :=
  s.issue { legal := .ordinary, srcs := srcVs d.toNat 1 false ++ srcSs (2 * a.toNat) 2 false } costLane fun s g =>
    let e := evenAddr (g.sr64 (2 * a.toNat))
    let core := coreOf s.cur.gid
    let n := maskCount s.cur.mask
    match (if (s.core core).queuedFor g.team e then none else (s.core core).binFor g.team e) with
    | none => .next (s.waitAt (s.untouched g) 1)
    | some b =>
      if 128 < (s.core core).binLoad b + n then .next (s.waitAt (s.untouched g) 1)
      else
        let ts : List BinThread := (lanesOf s.cur.mask).map fun j =>
          { arg := g.vr d.toNat j, arrived := (s.part g.part).clock, tok := [s.tokOf g s.cur.mask] }
        .next ((s.modCore core fun c => c.enqueue b g.team e ts).finish g s.cur.mask .on (costLane g))

/-- The arrival of a bin's oldest thread. -/
def Bin.oldest (x : Bin) : Nat := (x.threads.head?.map (·.arrived)).getD 0

/-- BIN_TIMER_EXPIRY (01 R30, 16 R305). -/
def execBinTimerExpiry (core bin : Nat) (s : State) : Out :=
  match (s.core core).bins.get? bin with
  | none => .fault (.notEnabled "BIN_TIMER_EXPIRY")
  | some x =>
    match s.teams.get? x.team with
    | none => .fault (.notEnabled "BIN_TIMER_EXPIRY")
    | some t =>
      let p := s.part t.part
      if p.stoppedAll || x.expired || decide (p.clock < x.oldest + p.binTimer) then
        .fault (.notEnabled "BIN_TIMER_EXPIRY")
      else .next (s.modCore core fun c => { c with bins := c.bins.set bin { x with expired := true } })

/-- A bin may form a group as far as its threads and timer go. -/
def Bin.ripe (x : Bin) (width : Nat) : Bool := x.expired || decide (width ≤ x.threads.length)

/-- Another bin of the team comes first to a freed slot (16 R305). -/
def Core.binFirst (c : Core) (bin : Nat) (x : Bin) (width : Nat) : Bool :=
  !c.bins.any fun y => y.1 != bin && y.2.team == x.team && y.2.ripe width &&
    (decide (y.2.oldest < x.oldest) || (y.2.oldest == x.oldest && decide (y.1 < bin)))

/-- BIN_GROUP_FORM (16 R305, 01 R31): the group acquires what the SPAWNs and tasks that placed its threads released. -/
def execBinGroupForm (core bin : Nat) (s : State) : Out :=
  match (s.core core).bins.get? bin with
  | none => .fault (.notEnabled "BIN_GROUP_FORM")
  | some x =>
    match s.teams.get? x.team with
    | none => .fault (.notEnabled "BIN_GROUP_FORM")
    | some t =>
      let now := x.threads.take t.width
      match s.freeSlot t core with
      | none => .fault (.notEnabled "BIN_GROUP_FORM")
      | some gid =>
        if (s.part t.part).stoppedAll || !x.ripe t.width || !(s.core core).binFirst bin x t.width ||
            !(now.all fun b => b.tok.all s.tokDone) then
          .fault (.notEnabled "BIN_GROUP_FORM")
        else
          let s0 := (s.releaseToks (now.flatMap (·.tok)) false [.ls, .mx] 1 x.team).formGroup x.team t gid t.nextGroup t.nextIdx x.entry (now.map (·.arg))
          let s1 := s0.modGroup gid fun g => g.modLanes fun _ l => l.snapFollows (sawOf (now.flatMap (·.tok)))
          let s2 := s1.setTeam x.team
            { t with nextGroup := t.nextGroup + 1, nextIdx := t.nextIdx + BitVec.ofNat 32 now.length }
          let rest := x.threads.drop t.width
          let s3 := s2.modCore core fun c =>
            { c with bins := if rest.isEmpty then c.bins.erase bin
                             else c.bins.set bin { x with threads := rest, expired := false } }
          .next (s3.flushPlacements t.part core)

end Sys2Proof.Machine
end

