-- ==== Sys2Proof/Machine/Rays.lean ====
section
/-! DEFINITION. Nodes, primitives and one node visit (10 R208 to R211); scene-cut entries (11 R224). -/

namespace Sys2Proof.Machine

/-! Scene-cut entries (11 R224). -/

/-- The words of a cut. -/
abbrev Cut := List DWord

def Cut.word (x : Cut) (i : Nat) : DWord := (x[i]?).getD 0
def Cut.root (c : Cut) : DWord := c.word 0
def Cut.mat (c : Cut) : DWord := c.word 1
def Cut.shade (c : Cut) : DWord := c.word 2
def Cut.miss (c : Cut) : Word := hi32 (c.word 3)
def Cut.mask (c : Cut) : Nat := bitsOf (c.word 3) 24 8
def Cut.valid (c : Cut) : Bool := (c.word 3).getLsbD 0

def Cut.malformed (c : Cut) : Bool :=
  bitsOf (c.word 3) 1 23 != 0 || !canonical c.root || c.root.toNat % 8192 != 0 ||
  (c.shade != 0 && (!canonical c.shade || c.shade.getLsbD 0))

/-! Nodes (10 R208, R209). A node is its 1024 bits as one number. -/

abbrev NodeBits := Nat

def nodeChildren (n : NodeBits) : Nat := fld n 0 3 + 1
def nodeRef (n : NodeBits) (i : Nat) : Nat := fld n (544 + 32 * i) 32
def nodeBox (n : NodeBits) (i k : Nat) : Nat := fld n (160 + 48 * i + 8 * k) 8
def nodeExp (n : NodeBits) (a : Nat) : Nat := fld n (128 + 8 * a) 8
def nodeQuat (n : NodeBits) : Nat := fld n 8 24
def nodePrim (n : NodeBits) : DWord := BitVec.ofNat 64 (fld n 832 64)
def refType (r : Nat) : Nat := fld r 30 2

/-- A reference breaks its type's index rule, or is of type 11. -/
def refBad (node r : Nat) : Bool := refType r == 3 || (refType r == 0 && (fld r 6 24 != 0 || decide (fld r 0 6 ≤ node)))

def nodeMalformed (node : Nat) (n : NodeBits) : Bool :=
  let used := List.range (nodeChildren n)
  let unused := (List.range 8).drop (nodeChildren n)
  fld n 896 128 != 0 || fld n 153 7 != 0 || fld n 3 5 != 0 || fld (nodeQuat n) 21 1 != 0 ||
  ((List.range 3).any fun a => nodeExp n a == 0 || nodeExp n a == 255) ||
  ((List.range 3).any fun a => fld (nodeQuat n) (7 * a) 7 == 64) ||
  (used.any fun i => refBad node (nodeRef n i)) ||
  (unused.any fun i => nodeRef n i != 0 || fld n (160 + 48 * i) 48 != 0) ||
  ((used.any fun i => refType (nodeRef n i) == 2) && (!canonical (nodePrim n) || (nodePrim n).toNat % 64 != 0))

/-! Vectors of three words. -/

structure V3 where
  x : Word
  y : Word
  z : Word
  deriving DecidableEq, Repr

def v3Of (ws : List Word) : V3 := ⟨(ws[0]?).getD 0, (ws[1]?).getD 0, (ws[2]?).getD 0⟩
def V3.at (v : V3) (a : Nat) : Word := if a = 0 then v.x else if a = 1 then v.y else v.z
def V3.sub (a b : V3) : V3 := ⟨fsub a.x b.x, fsub a.y b.y, fsub a.z b.z⟩
/-- (a.x·b.x + a.y·b.y) + a.z·b.z -/
def V3.dot (a b : V3) : Word := fadd (fadd (fmul a.x b.x) (fmul a.y b.y)) (fmul a.z b.z)
/-- The products of 10 R211, each component a difference of two. -/
def V3.cross (a b : V3) : V3 :=
  ⟨fsub (fmul a.y b.z) (fmul a.z b.y), fsub (fmul a.z b.x) (fmul a.x b.z), fsub (fmul a.x b.y) (fmul a.y b.x)⟩

def fOne : Word := 0x3F800000
def fTwo : Word := 0x40000000
def fInf : Word := 0x7F800000
def fNegInf : Word := 0xFF800000

/-- An integer times a power of two as F32. -/
def fDyadic (i e : Int) : Word := BitVec.ofNat 32 (f32.roundInt .rne false i e).bits

/-- The rows r0, r1, r2 of a quaternion (10 R210). -/
def quatRows (w x y z : Word) : V3 × V3 × V3 :=
  let d (a : Word) : Word := fsub fOne (fmul fTwo a)
  let p (a b : Word) : Word := fmul fTwo (fadd a b)
  let m (a b : Word) : Word := fmul fTwo (fsub a b)
  let xx := fmul x x; let yy := fmul y y; let zz := fmul z z
  let xy := fmul x y; let xz := fmul x z; let yz := fmul y z
  let wx := fmul w x; let wy := fmul w y; let wz := fmul w z
  (⟨d (fadd yy zz), p xy wz, m xz wy⟩, ⟨m xy wz, d (fadd xx zz), p yz wx⟩, ⟨p xz wy, m yz wx, d (fadd xx yy)⟩)

/-- A stored component: a signed 7-bit count times K, the F32 nearest to (1/√2)/63 (10 R208). -/
def quatComp (c : Nat) : Word := fmul (fDyadic ((BitVec.ofNat 7 c).toInt) 0) 0x3C37E485

/-- The rows of a node's frame. -/
def nodeRows (n : NodeBits) : V3 × V3 × V3 :=
  let q := nodeQuat n
  let a := quatComp (fld q 14 7)
  let b := quatComp (fld q 7 7)
  let c := quatComp (fld q 0 7)
  let m := fsqrt (fmax 0 (fsub fOne (fadd (fadd (fmul a a) (fmul b b)) (fmul c c))))
  let k := fld q 22 2
  if k = 0 then quatRows m a b c else if k = 1 then quatRows a m b c else if k = 2 then quatRows a b m c
  else quatRows a b c m

/-- The interval of an axis, none where the child is rejected (10 R210). -/
def slab (lo hi o d : Word) : Option (Word × Word) :=
  if feq d 0 then (if fle lo o && fle o hi then some (fNegInf, fInf) else none)
  else
    let inv := fdiv fOne d
    let t1 := fmul (fsub lo o) inv
    let t2 := fmul (fsub hi o) inv
    if fisNan t1 || fisNan t2 then none else some (fmin t1 t2, fmax t1 t2)

/-- A child's box is entered (10 R210). -/
def boxEntered (n : NodeBits) (i : Nat) (o d : V3) (tmin tbest : Word) : Bool :=
  if (List.range 3).any fun a => decide (nodeBox n i (3 + a) < nodeBox n i a) then false
  else
    let e (a : Nat) : Int := (nodeExp n a : Int) - 127
    let ax (a : Nat) : Option (Word × Word) :=
      slab (fDyadic ((nodeBox n i a : Int) - 1) (e a)) (fDyadic ((nodeBox n i (3 + a) : Int) + 1) (e a)) (o.at a) (d.at a)
    match ax 0, ax 1, ax 2 with
    | some x, some y, some z =>
      fle (fmax (fmax (fmax tmin x.1) y.1) z.1) (fmin (fmin (fmin tbest x.2) y.2) z.2)
    | _, _, _ => false

/-- A triangle test: t, u, v and the front flag of a hit (10 R211). -/
def triangle (v0 v1 v2 o d : V3) (cull : Bool) (tmin tbest : Word) : Option (Word × Word × Word × Bool) :=
  let e1 := v1.sub v0
  let e2 := v2.sub v0
  let s := o.sub v0
  let pv := d.cross e2
  let det := e1.dot pv
  if feq det 0 || (cull && flt det 0) then none
  else
    let qv := s.cross e1
    let u := fdiv (s.dot pv) det
    let v := fdiv (d.dot qv) det
    let t := fdiv (e2.dot qv) det
    if fle 0 u && fle 0 v && fle (fadd u v) fOne && fle tmin t && fle t tbest then some (t, u, v, flt 0 det) else none

/-- A hit on a primitive replaces the best when it is nearer, or as near and lower in order (10 R211). -/
def Ray.hit (r : Ray) (inst prim : Nat) (h : Word × Word × Word × Bool) : Ray :=
  let better := match r.best with
    | none => true
    | some b => flt h.1 r.tbest || decide (inst < b.1) || (inst == b.1 && decide (prim < b.2.1))
  if better then { r with tbest := h.1, best := some (inst, prim, h.2.1, h.2.2.1, h.2.2.2) } else r

/-- A word of bytes at an offset. -/
def wordAt (bs : List Byte) (o : Nat) : Word := BitVec.ofNat 32 (ofBytes ((bs.drop o).take 4))
def v3At (bs : List Byte) (o : Nat) : V3 := ⟨wordAt bs o, wordAt bs (o + 4), wordAt bs (o + 8)⟩

/-- Who a ray reads for: its requester's team, on the GX path (04 R91, R93). -/
def gxIssuer (r : Ray) : Issuer := { engineOn r.part .gx with team := r.team }

/-- Test the primitives of a leaf run, ascending. -/
def leafRun (s : State) (n : NodeBits) (first : Nat) : Nat → Ray → Except Cause Ray
  | 0, r => .ok r
  | k + 1, r =>
    match leafRun s n first k r with
    | .error e => .error e
    | .ok r1 =>
      match s.readFlat (gxIssuer r) .load (nodePrim n + BitVec.ofNat 64 (48 * (first + k))) 36 with
      | .error e => .error e
      | .ok bs =>
        match triangle (v3At bs 0) (v3At bs 12) (v3At bs 24) (v3Of r.o) (v3Of r.d) (fld n 152 1 == 1) r.tmin r1.tbest with
        | some h => .ok (r1.hit (fld n 800 24) (first + k) h)
        | none => .ok r1

/-- The address of a node. -/
def nodeVa (r : Ray) (treelet node : Nat) : DWord := Cut.root r.cut + BitVec.ofNat 64 (8192 * treelet + 128 * node)

/-- The bits of a node, or a cause, 65 for a malformed node (10 R209, R214). -/
def readNode (s : State) (r : Ray) (treelet node : Nat) : Except Cause NodeBits :=
  let va := nodeVa r treelet node
  match s.readFlat (gxIssuer r) .load va 128 with
  | .error e => .error e
  | .ok bs => if nodeMalformed node (ofBytes bs) then .error ⟨65, va⟩ else .ok (ofBytes bs)

/-- The ray in the node's frame (10 R210). -/
def nodeOrigin (r : Ray) (n : NodeBits) : V3 :=
  let (r0, r1, r2) := nodeRows n
  let p := (v3Of r.o).sub ⟨BitVec.ofNat 32 (fld n 32 32), BitVec.ofNat 32 (fld n 64 32), BitVec.ofNat 32 (fld n 96 32)⟩
  ⟨r0.dot p, r1.dot p, r2.dot p⟩
def nodeDir (r : Ray) (n : NodeBits) : V3 :=
  let (r0, r1, r2) := nodeRows n
  let d := v3Of r.d
  ⟨r0.dot d, r1.dot d, r2.dot d⟩

/-- What becomes of a child of a node: not entered, a node of the same treelet, another treelet, or a leaf run whose tests leave the ray (10
R210, R211, R213). -/
inductive Child where
  | passed
  | node (n : Nat)
  | treelet (t : Nat)
  | leaf (r : Except Cause Ray)

def childOf (s : State) (r : Ray) (n : NodeBits) (i : Nat) : Child :=
  let ref := nodeRef n i
  if !boxEntered n i (nodeOrigin r n) (nodeDir r n) r.tmin r.tbest then .passed
  else if refType ref = 0 then .node (fld ref 0 6)
  else if refType ref = 1 then .treelet (fld ref 0 30)
  else if fld n 824 8 &&& Cut.mask r.cut = 0 then .passed
  else .leaf (leafRun s n (fld ref 5 25) (fld ref 0 5 + 1) r)

end Sys2Proof.Machine
end

