-- ==== Sys2Proof/Machine/Traverse.lean ====
section
/-! DEFINITION. TRACE and TRACES, the trade queues and the ray table (10 R212 to R218; 11 R235), shading bins (11 R236). -/

namespace Sys2Proof.Machine

/-! Scene cuts (11 R223). -/

/-- A valid cut of the copy that the grid of a group's team holds: a malformed entry counts as invalid (11 R223, R224). -/
def State.cutOf (s : State) (g : Group) (i : Nat) : Option Cut :=
  match ((s.teams.get? g.team).bind fun t => s.grids.get? t.grid).bind (·.cuts) with
  | some cs => if 256 ≤ i then none else (cs[i]?).bind fun c => if Cut.valid c && !Cut.malformed c then some c else none
  | none => none

/-! Pools of the ray table (11 R234, R235). -/

/-- Entries of a pool in use: 0 names the unreserved ones. -/
def Cluster.raysOf (c : Cluster) (level : Nat) : Nat := (c.rays.filter fun x => x.2.level == level).length

/-- Entries of a pool. -/
def Part.rayPool (p : Part) (level : Nat) : Nat := if level = 0 then 4096 - 1024 * p.viewV else 1024

/-- Entries of a pool that are free; a ray takes a place in the trade queues with its entry, and waits for one where their pool of 16,384 is
full, which R212 to R216 do not say (the model's choice: log entry 70). -/
def State.raysFree (s : State) (part cluster level : Nat) : Nat :=
  min ((s.part part).rayPool level - (s.cluster cluster).raysOf level) (16384 - (s.cluster cluster).tq.length)

/-- The lowest number a table does not hold. -/
def lowestFree {α : Type} (t : Tab α) : Nat := t.foldl (fun n x => if x.1 = n then n + 1 else n) 0

/-- Pixels along an edge, and of a view (11 R225). -/
def ViewSlot.side (v : ViewSlot) : Nat := 2 ^ (v.res + 1)
def ViewSlot.pixels (v : ViewSlot) : Nat := v.side * v.side

/-- A view's next ray has waited for its pool since before a TRACE: the pool was empty when the TRACE's wait began, and the ray had been
asked for by then (11 R235). -/
def Block.behind (b : Block) (v : ViewSlot) : Bool := b.empty && decide (v.asked < b.order)

/-- An older request waits for the pool that a group's TRACE or VIEW asks for: entries of its cluster's level, or view slots (11 R235). -/
def State.waitsBefore (s : State) (gid : Nat) (g : Group) (view : Bool) : Bool :=
  let mine := (g.block.map (·.order)).getD s.fresh
  (s.groups.any fun x => x.1 != gid && clusterOf x.1 == clusterOf gid && x.2.level == g.level &&
    (match x.2.block with
      | some b => b.view == view && decide (b.order < mine)
      | none => false)) ||
  (!view && (match g.block with
    | some b => (s.cluster (clusterOf gid)).views.any fun v => v.2.level == g.level && decide (v.2.nextPix < v.2.pixels) && b.behind v.2
    | none => false))

/-- A TRACE waits for a level's entries ahead of a view's next ray (11 R235). -/
def State.traceBefore (s : State) (cluster : Nat) (v : ViewSlot) : Bool :=
  s.groups.any fun x => clusterOf x.1 == cluster && x.2.level == v.level &&
    (match x.2.block with
      | some b => !b.view && !b.behind v
      | none => false)

/-- Wait for a pool, in the order in which the waits began. -/
def State.waitPool (s : State) (g : Group) (view : Bool) : State :=
  let new : Block := { pc := s.cur.pc, order := s.fresh, view, empty := s.raysFree g.part (clusterOf s.cur.gid) g.level == 0 }
  let g1 := match g.block with
    | some b => if b.pc = s.cur.pc ∧ b.view = view then g else { g with block := some new }
    | none => { g with block := some new }
  ({ s with fresh := s.fresh + 1 }).waitAt g1 4

/-! TRACE and TRACES (10 R215, R216). -/

/-- A ray that is not traversed (10 R215). -/
def badRay (ws : List Word) : Bool :=
  let w (i : Nat) : Word := (ws[i]?).getD 0
  ((List.range 6).any fun i => !ffinite (w i)) || ((List.range 3).all fun i => feq (w (3 + i)) 0) ||
  !fle 0 (w 6) || !fle (w 6) (w 7)

/-- A record without a hit: status and visits. -/
def missRecord (status visits : Nat) : List Word :=
  [BitVec.ofNat 32 status, fInf, 0xFFFFFFFF, 0xFFFFFFFF, 0, 0, BitVec.ofNat 32 visits, 0]

/-- An entry for a treelet that a ray has not been in. -/
def TqEnt.start (ray treelet clock : Nat) : TqEnt :=
  { ray, treelet, stack := [{ treelet, nodes := 1, mid := none }], arrived := clock, stopped := none }

/-- Add a ray to a cluster's table with an entry for treelet 0 (10 R213). -/
def State.addRay (s : State) (cluster clock : Nat) (r : Ray) : State × Nat :=
  let c := s.cluster cluster
  let n := lowestFree c.rays
  (s.setCluster cluster
    { c with rays := c.rays.set n r, tq := c.tq ++ [TqEnt.start n 0 clock] }, n)

/-- Submit the rays of an issue: each good lane takes an entry; the other lanes have their record at once. -/
def State.submitRays (s : State) (g : Group) (id : Nat) (cut : Option Cut) (d budget : Nat) :
    List Nat → State × List Nat × List (Nat × List Word)
  | [] => (s, [], [])
  | j :: r =>
    let (s1, left, recs) := State.submitRays s g id cut d budget r
    let ws := (upTo d 8).map fun n => g.vr n j
    match cut with
    | none => (s1, left, (j, missRecord 3 0) :: recs)
    | some c =>
      if badRay ws then (s1, left, (j, missRecord 4 0) :: recs)
      else
        let ray : Ray :=
          { op := id, lane := j, ofView := false, level := g.level, part := g.part, team := g.team, cut := c, o := ws.take 3,
            d := (ws.drop 3).take 3, tmin := (ws[6]?).getD 0, tbest := (ws[7]?).getD 0, best := none, budget, made := 0,
            pending := 1, status := 0, done := false }
        ((s1.addRay (clusterOf s.cur.gid) (s.part g.part).clock ray).1, j :: left, recs)

/-- A record is written in its lane; its registers stay as they are, full or empty (10 R216). -/
def Group.putRecord (g : Group) (d lane : Nat) (ws : List Word) : Group := ws.zipIdx.foldl (fun g x => g.setVr (d + x.2) lane x.1) g

/-- TRACE and TRACES: producers of eight registers; the records of rays that are not traversed are written at once (10 R216). -/
def traceOp (s : State) (spawn : Bool) (b a : BitVec 6) (d : BitVec 7) : Out :=
  s.issue { legal := .ordinary, srcs := srcVs d.toNat 8 false ++ [srcS a false, srcS b false] } costLane fun s g =>
    let g0 := s.untouched g
    if s.waitsBefore s.cur.gid g0 false || decide (s.raysFree g.part (clusterOf s.cur.gid) g.level < maskCount s.cur.mask) then
      .next (s.waitPool g0 false)
    else
      let id := s.fresh
      let budget := if g.sr b.toNat = 0 then ((s.part g.part).cr 0x20).toNat else (g.sr b.toNat).toNat
      let cut := s.cutOf g (g.sr a.toNat).toNat
      let (s1, g1) := s.produce g .viewTrace (regVs d.toNat 8) 0 (.trace d.toNat spawn [] [] false [])
      let (s2, left, recs) := s1.submitRays g id cut d.toNat budget (lanesOf s.cur.mask).reverse
      let s3 := { s2 with ops := s2.ops.modify id fun o => { o with kind := .trace d.toNat spawn left [] false [] } }
      let g2 := recs.foldl (fun g x => g.putRecord d.toNat x.1 x.2) g1
      .next (s3.finish g2 s.cur.mask .on (costLane g))

def execTrace (b a : BitVec 6) (d : BitVec 7) (s : State) : Out := traceOp s false b a d
def execTraces (b a : BitVec 6) (d : BitVec 7) (s : State) : Out := traceOp s true b a d

/-! Serving a trade queue (10 R213, R214). -/

/-- Entries that can be served. -/
def servable (tq : List TqEnt) : List TqEnt := tq.filter (·.stopped.isNone)

/-- The queue with most entries, the lowest number first. -/
def fullestQueue (es : List TqEnt) : Nat :=
  (List.range 256).foldl (fun best q =>
    let n (q : Nat) : Nat := (es.filter fun e => e.treelet % 256 == q).length
    if n best < n q then q else best) 0

/-- The queue served next: one whose oldest entry has waited 4,096 cycles, else the fullest. -/
def chooseQueue (clock : Nat) (es : List TqEnt) : Nat :=
  match es.find? fun e => decide (e.arrived + 4096 ≤ clock) with
  | some e => e.treelet % 256
  | none => fullestQueue es

/-- What serving a ray leaves: the ray, treelets it enqueued, the treelets it is still in when a cause stopped it, the free places of the
pool, the number of visits made, and what it read: nodes and primitives. -/
structure Served where
  ray : Ray
  queued : List Nat
  stack : List InTreelet
  stop : Option Cause
  room : Nat
  visits : Nat
  reads : List (DWord × Nat)
  deriving DecidableEq, Repr

/-- The lowest node of a mask. -/
def lowestNode (m : Mask) : Nat := ((lanesOf m).head?).getD 0

/-- Begin the visit of the lowest pending node of a treelet, or leave the treelet. A visit with no budget left is not made (10 R213). -/
def Served.begin (s : State) (v : Served) (f : InTreelet) (rest : List InTreelet) : Served :=
  if f.nodes = 0 then { v with stack := rest }
  else if v.ray.budget = 0 then { v with ray := { v.ray with status := 1 }, stack := rest }
  else
    let n := lowestNode f.nodes
    let v1 := { v with reads := (nodeVa v.ray f.treelet n, 128) :: v.reads }
    match readNode s v.ray f.treelet n with
    | .error e => { v1 with stop := some e }
    | .ok bits =>
      { v1 with
        ray := { v.ray with budget := v.ray.budget - 1, made := v.ray.made + 1 }, visits := v.visits + 1
        stack := { f with mid := some { node := n, bits, child := 0, joined := 0, own := [] } } :: rest }

/-- The next child of a visit under way, or its end. An entered treelet waits for the end of the visit where the pool has room for it, and is
visited at once where it has none; a leaf run that meets a cause undoes the visit, so that it can be made afresh (10 R213, R214). -/
def Served.child (s : State) (v : Served) (f : InTreelet) (m : Mid) (rest : List InTreelet) : Served :=
  let at' (m : Mid) : List InTreelet := { f with mid := some m } :: rest
  let next := { m with child := m.child + 1 }
  if nodeChildren m.bits ≤ m.child then
    { v with queued := v.queued ++ m.own
             stack := { f with nodes := (f.nodes &&& ~~~((1 : Mask) <<< m.node)) ||| m.joined, mid := none } :: rest }
  else match childOf s v.ray m.bits m.child with
    | .passed => { v with stack := at' next }
    | .node n => { v with stack := at' { next with joined := m.joined ||| ((1 : Mask) <<< n) } }
    | .treelet t =>
      if v.room = 0 then { v with stack := { treelet := t, nodes := 1, mid := none } :: at' next }
      else { v with room := v.room - 1, stack := at' { next with own := m.own ++ [t] } }
    | .leaf r =>
      let ref := nodeRef m.bits m.child
      let v1 := { v with reads := (nodePrim m.bits + BitVec.ofNat 64 (48 * fld ref 5 25), 48 * (fld ref 0 5 + 1)) :: v.reads }
      match r with
      | .ok r => { v1 with ray := r, stack := at' next }
      | .error e =>
        { v1 with stop := some e, room := v.room + m.own.length
                  ray := { v.ray with budget := v.ray.budget + 1, made := v.ray.made - 1 }, stack := { f with mid := none } :: rest }

/-- Serve a ray until it has left its treelets or a cause stops it. -/
def serveRay (s : State) : Nat → Served → Served
  | 0, v => v
  | fuel + 1, v =>
    match v.stop, v.stack with
    | none, f :: rest => serveRay s fuel (match f.mid with
        | none => v.begin s f rest
        | some m => v.child s f m rest)
    | _, _ => v

/-- Steps that suffice to serve a ray: a visit takes one to begin, one for each child, which may begin and end a treelet of its own, and one
to end. -/
def serveFuel (budget frames : Nat) : Nat := 32 * budget + 32 * frames + 64

/-- The group a ray was cast for, as a fault record names it. -/
def State.rayWhere (s : State) (cluster : Nat) (r : Ray) : Word :=
  let gid := if r.ofView then ((s.cluster cluster).views.get? r.op).map (·.gid) else (s.ops.get? r.op).map (·.gid)
  (gid.map fun x => s.addrOf r.part x).getD 0

/-- What the reads of a service leave: a notice, and errors corrected (18 R335; 03 R81). -/
def State.noteReads (s : State) (w : Issuer) (rs : List (DWord × Nat)) : State :=
  if !s.hostLost && s.weak.isEmpty then s
  else rs.foldr (fun x s => (List.range ((x.2 + 35) / 36)).foldl (fun s k =>
    s.noteRead w (x.1 + BitVec.ofNat 64 (36 * k)) (min 36 (x.2 - 36 * k))) s) s

/-- A cause ends a ray: its record, and for uncorrectable data and Share-range a context fault (10 R214; 18 R331). -/
def State.endRayFault (s : State) (cluster : Nat) (r : Ray) (x : Cause) : State :=
  let s1 := s.record r.part 1 x.code x.va 0 0 3 (s.rayWhere cluster r) 0
  if x.fatal then s1.contextFault r.part none x.code x.va 0 0 3 0 (s.rayWhere cluster r) else s1

/-- Serve one entry with some free places in the pool: a ray that has ended drops it; a Page-lazy read leaves it stopped in its place;
another cause ends the ray. It gives what stays of the entry, the entries it adds, and the visits made. -/
def State.serveEntry (s : State) (cluster room : Nat) (e : TqEnt) : State × Option TqEnt × List TqEnt × Nat :=
  match (s.cluster cluster).rays.get? e.ray with
  | none => (s, none, [], 0)
  | some r =>
    let put (s : State) (r : Ray) : State := s.modCluster cluster fun c => { c with rays := c.rays.set e.ray r }
    if r.status ≠ 0 then (put s { r with pending := r.pending - 1 }, none, [], 0)
    else
      let v := serveRay s (serveFuel r.budget e.stack.length)
        { ray := r, queued := [], stack := e.stack, stop := none, room, visits := 0, reads := [] }
      let s1 := s.noteReads (gxIssuer r) v.reads
      let new := v.queued.map fun t => TqEnt.start e.ray t (s.part r.part).clock
      let more := v.ray.pending + new.length
      match v.stop with
      | none => (put s1 { v.ray with pending := more - 1 }, none, new, v.visits)
      | some x =>
        if x.code = 13 then
          ((put s1 { v.ray with pending := more }).record r.part 0 13 x.va 0 0 3 (s.rayWhere cluster r) 0,
            some { e with stack := v.stack, stopped := some (s1.nextRec r.part) }, new, v.visits)
        else
          ((put s1 { v.ray with pending := more - 1, status := 5, best := none }).endRayFault cluster r x, none, new, v.visits)

/-- Serve the entries of a treelet in the order in which they arrived; a stopped entry keeps its place. What it gives: the entries that were
there, in order, those that are new, and the visits made. -/
def State.serveAll (s : State) (cluster : Nat) (take : TqEnt → Bool) : List TqEnt → Nat → State × List TqEnt × List TqEnt × Nat
  | [], _ => (s, [], [], 0)
  | e :: r, count =>
    if take e then
      let (s1, left, new, n) := s.serveEntry cluster (16384 - count) e
      let (s2, old, more, k) := s1.serveAll cluster take r (count + new.length - (if left.isNone then 1 else 0))
      (s2, left.toList ++ old, new ++ more, n + k)
    else
      let (s1, old, more, k) := s.serveAll cluster take r count
      (s1, e :: old, more, k)

/-- TRADE_QUEUE_SERVE (10 R213): every entry of the chosen queue whose treelet is that of its oldest. -/
def execTradeQueueServe (cluster : Nat) (s : State) : Out :=
  let c := s.cluster cluster
  let es := servable c.tq
  match (es.head?).bind fun e => c.rays.get? e.ray with
  | none => .fault (.notEnabled "TRADE_QUEUE_SERVE")
  | some r =>
    let p := s.part r.part
    if p.stoppedAll || decide (p.clock < c.visitFree) then .fault (.notEnabled "TRADE_QUEUE_SERVE")
    else
      let q := chooseQueue p.clock es
      let mine := es.filter fun e => e.treelet % 256 == q
      let tl := ((mine.head?).map (·.treelet)).getD 0
      let (s1, old, new, n) := s.serveAll cluster (fun e => e.stopped.isNone && e.treelet == tl) c.tq c.tq.length
      .next (s1.modCluster cluster fun c => { c with tq := old ++ new, visitFree := p.clock + (n + 7) / 8 })

/-! Shading bins (11 R236). -/

/-- Place a shading thread on a core: a bin for each kind, entry, team and, for views, material base. -/
def State.placeShading (s : State) (core level : Nat) (view : Bool) (entry : DWord) (team : Nat) (mat : DWord) (t : ShThread) :
    State :=
  let m := if view then mat else 0
  let same (b : ShBin) : Bool := b.view == view && b.entry == entry && b.team == team && b.mat == m && b.level == level
  s.modCore core fun c =>
    { c with
      shbins := if c.shbins.any same then c.shbins.map fun b => if same b then { b with threads := b.threads ++ [t] } else b
        else c.shbins ++ [{ view, entry, team, mat := m, level, threads := [t] }] }

/-- Registers v0 to v13 of a shading thread (10 R217, 11 R229). -/
def shadeRegs (r : Ray) (v0 : Word) (handle level : Nat) : List Word :=
  let b := r.best.getD (0, 0, 0, 0, false)
  [v0, r.tbest, BitVec.ofNat 32 b.1, BitVec.ofNat 32 b.2.1, b.2.2.1, b.2.2.2.1, BitVec.ofNat 32 handle, BitVec.ofNat 32 level] ++
    (r.o ++ r.d)

/-- The record of a ray that ended (10 R215). -/
def Ray.record (r : Ray) (status : Nat) : List Word :=
  match r.best with
  | none => missRecord status r.made
  | some (inst, prim, u, v, front) =>
    [BitVec.ofNat 32 status, r.tbest, BitVec.ofNat 32 inst, BitVec.ofNat 32 prim, u, v, BitVec.ofNat 32 r.made, if front then 1 else 0]

/-- The end of a ray of a TRACE or TRACES: its record is written (10 R216), and a closest-hit thread placed where one is due (R217). -/
def State.endTraceRay (s : State) (cluster n : Nat) (r : Ray) : State :=
  match s.ops.get? r.op with
  | none => s.modCluster cluster fun c => { c with rays := c.rays.erase n }
  | some o =>
    match o.kind with
    | .trace d spawn left shading shaded rays =>
      let wants := spawn && r.status == 0 && r.best.isSome && Cut.shade r.cut != 0
      let deep := wants && decide ((s.part r.part).viewV ≤ r.level)
      let go := wants && !deep
      let kind : OpKind := .trace d spawn (left.erase r.lane) (if go then r.lane :: shading else shading) (shaded || go)
        (if spawn then n :: rays else rays)
      let s1 := (s.setOp r.op { o with kind }).modGroup o.gid fun g =>
        if g.uid = o.uid then s.applyWrites o (writesOf .v d r.lane (r.record (if deep then 2 else r.status))) g else g
      let s2 := s1.modCluster cluster fun c =>
        { c with rays := if spawn then c.rays.set n { r with done := true } else c.rays.erase n }
      match (if go then s.group? o.gid else none) with
      | some g => s2.placeShading (coreOf o.gid) (r.level + 1) false (Cut.shade r.cut) g.team 0
          { regs := shadeRegs r (g.lane r.lane).orig (cluster * 4096 + n) (r.level + 1), arrived := (s.part r.part).clock,
            shade := (r.op, r.lane) }
      | none => s2
    | _ => s

/-! Pixels (11 R228, R231). -/

/-- A pixel of a view receives its value. -/
def ViewSlot.give (v : ViewSlot) (k : Nat) (x : Word) (clock : Nat) : ViewSlot := { v with pix := v.pix.set k x, lastAt := clock }

def State.givePixel (s : State) (cluster slot k : Nat) (x : Word) : State :=
  s.modCluster cluster fun c =>
    { c with views := c.views.modify slot fun v => v.give k x (s.part v.part).clock }

/-- The end of a view's ray (11 R228). -/
def State.endViewRay (s : State) (cluster n : Nat) (r : Ray) : State :=
  let c := s.cluster cluster
  let s1 := s.setCluster cluster { c with rays := c.rays.erase n }
  match c.views.get? r.op with
  | none => s1
  | some v =>
    let st := if r.status = 5 ∨ v.status = 5 then 5 else if r.status = 1 ∨ v.status = 1 then 1 else 0
    let s2 := s1.modCluster cluster fun c => { c with views := c.views.set r.op { v with status := st } }
    if r.status = 5 ∨ r.best.isNone then s2.givePixel cluster r.op r.lane (Cut.miss r.cut)
    else if Cut.shade r.cut = 0 then s2.givePixel cluster r.op r.lane r.tbest
    else (s2.modCluster cluster fun c => { c with views := c.views.modify r.op fun v => { v with shaded := true } }).placeShading (coreOf v.gid) v.level true (Cut.shade r.cut) v.team (Cut.mat r.cut)
      { regs := shadeRegs r (BitVec.ofNat 32 r.lane) (cluster * 64 + r.op) v.level, arrived := (s.part r.part).clock,
        shade := (cluster * 64 + r.op, r.lane) }

/-- RAY_COMPLETE (10 R213). -/
def execRayComplete (cluster ray : Nat) (s : State) : Out :=
  match (s.cluster cluster).rays.get? ray with
  | none => .fault (.notEnabled "RAY_COMPLETE")
  | some r =>
    if r.pending ≠ 0 ∨ r.done ∨ (s.part r.part).stoppedAll then .fault (.notEnabled "RAY_COMPLETE")
    else if r.ofView then .next (s.endViewRay cluster ray r)
    else .next (s.endTraceRay cluster ray r)

/-- TRACE_RECORD_FILL (10 R216, R217): every record has been written; the registers are full and the entries held are freed. Where
closest-hit threads ran, the first reader acquires (R218). -/
def execTraceRecordFill (op : Nat) (s : State) : Out :=
  match s.ops.get? op with
  | none => .fault (.notEnabled "TRACE_RECORD_FILL")
  | some o =>
    match o.kind with
    | .trace d _ [] [] shaded rays =>
      if (s.part o.part).stoppedAll then .fault (.notEnabled "TRACE_RECORD_FILL")
      else
        let s1 := s.modCluster (clusterOf o.gid) fun c => { c with rays := c.rays.keep fun n _ => !rays.contains n }
        .next (s1.completeOp op o fun _ g => if shaded then g.acquireAt ((regVs d 8).filter o.dests.contains) none else g)
    | _ => .fault (.notEnabled "TRACE_RECORD_FILL")

/-! SHADING_GROUP_FORM (10 R217; 11 R229, R236). -/

/-- The slot of a level on a core: slot 15 of SP(level − 1) (11 R234). -/
def shadeSlot (core level : Nat) : Nat := gidOf core (level - 1) 15

def ShBin.oldest (b : ShBin) : Nat := (b.threads.head?.map (·.arrived)).getD 0

/-- The order among ready bins of a level. -/
def ShBin.first (teamIndex : Nat → Nat) (a b : ShBin) : Bool :=
  decide (a.oldest < b.oldest) || (a.oldest == b.oldest &&
    ((!a.view && b.view) || (a.view == b.view && (decide (a.entry.toNat < b.entry.toNat) ||
      (a.entry == b.entry && decide (teamIndex a.team ≤ teamIndex b.team))))))

def bestBin (ti : Nat → Nat) : List ShBin → Option ShBin
  | [] => none
  | b :: r => match bestBin ti r with
    | some c => if ShBin.first ti b c then some b else some c
    | none => some b

/-- The shading group of up to 32 threads. -/
def shadeGroup (fresh part formed : Nat) (arg : DWord) (index : Nat) (b : ShBin) (ts : List ShThread) : Group :=
  let n := ts.length
  let live := ts.zipIdx.map fun x =>
    { Lane.fresh (fresh + x.2) (BitVec.ofNat 32 x.2) b.entry with shade := some x.1.shade }
  { Group.blank with
    uid := fresh + n, formed, kind := if b.view then .viewShade else .closestHit, part, width := 32, nv := 64, ns := 64, nt := 2,
    level := b.level, team := b.team
    lanes := live ++ List.replicate (32 - n) Lane.none
    v := Store.setAll (ts.zipIdx.flatMap fun x => x.1.regs.zipIdx.map fun y => (y.2 * 64 + x.2, y.1)) []
    s := Store.setAll ([(0, lo32 arg), (1, hi32 arg)] ++
      (if b.view then [(4, lo32 b.mat), (5, hi32 b.mat)] else [(3, BitVec.ofNat 32 index)])) [] }

def execShadingGroupForm (core level : Nat) (s : State) : Out :=
  match s.partOfCluster (core / 4) with
  | none => .fault (.notEnabled "SHADING_GROUP_FORM")
  | some part =>
    let p := s.part part
    let c := s.core core
    let team (t : Nat) : Nat := ((s.teams.get? t).map (·.index)).getD 0
    let ready := c.shbins.filter fun b => b.level == level && (decide (32 ≤ b.threads.length) ||
      decide (b.oldest + p.binTimer ≤ p.clock))
    match bestBin team ready with
    | none => .fault (.notEnabled "SHADING_GROUP_FORM")
    | some b =>
      if level = 0 ∨ (s.groups.get? (shadeSlot core level)).isSome ∨ p.stoppedAll then
        .fault (.notEnabled "SHADING_GROUP_FORM")
      else
        let now := b.threads.take 32
        let arg := ((s.teams.get? b.team).bind fun t => (s.grids.get? t.grid).map Grid.arg).getD 0
        let g := shadeGroup s.fresh part p.clock arg (team b.team) b now
        let rest := b.threads.drop 32
        let s1 := s.modCore core fun c =>
          let next := c.shbins.map fun x => if x = b then { x with threads := rest } else x
          { c with shbins := next.filter (!·.threads.isEmpty) }
        .next ((s1.setGroup (shadeSlot core level) g).takeFresh (now.length + 1))

end Sys2Proof.Machine
end

