-- ==== Sys2Proof/Machine/Exit.lean ====
section
/-! DEFINITION. The end of threads: EXIT, TRET and VRET (01 R32; 09 R200; 10 R218; 11 R230; 13 R263; 20 R343). -/

namespace Sys2Proof.Machine

/-- A lane that ends: its PC, MEET and issue age are dropped (01 R32). -/
def Lane.ended (l : Lane) : Lane :=
  { l with st := .exited, pc := 0, meet := 0, age := 0, rel := false, parked := false, hold := Option.none,
           resume := Option.none }

/-- The lanes of a mask keep no register values (08 R175). -/
def Group.forget (g : Group) (m : Mask) : Group := { g with v := g.v.drop fun c => maskBit m (c % 64) }

/-- What hangs on the threads that shade: a pixel gets its value, a requester's issue has one thread fewer. -/
def State.shadeEnd (s : State) (kind : GKind) (l : Lane) (x : Word) : State :=
  match kind, l.shade with
  | .viewShade, some (h, k) => s.givePixel (h / 64) (h % 64) k x
  | .closestHit, some (op, j) =>
    { s with ops := s.ops.modify op fun o =>
        match o.kind with
        | .trace d sp left shading shaded rays => { o with kind := .trace d sp left (shading.erase j) shaded rays }
        | _ => o }
  | _, _ => s

/-- A barrier's arrivals may have changed in this cycle (13 R266). -/
def State.touchBarriers (s : State) (team : Nat) : State :=
  match s.teams.get? team with
  | none => s
  | some t => s.setTeam team (t.barToks.foldl (fun t x => t.touch x.1 (s.part t.part).clock) t)

/-- The active set of an ordinary issue ends: members leave the convergence registers and barriers are tested again. -/
def State.endThreads (s : State) (g : Group) (value : Nat → Word) : State :=
  let m := s.cur.mask
  let s1 := s.finish (((g.onMask m Lane.ended).forget m).exitConv m) m .wait (costLane g)
  let s2 := (lanesOf m).foldl (fun s j => s.shadeEnd g.kind (g.lane j) (value j)) s1
  (s2.barmAll s.cur.gid).touchBarriers g.team

/-- An end that is first, as FENCE.S 0xFFFF at device scope, a release of the thread's own LS accesses (10 R218, 11 R230). -/
def State.endAfterAccesses (s : State) (g : Group) (value : Nat → Word) : Out :=
  if s.lsOpen (g.tidsOf s.cur.mask) allStreams then .next (s.waitAt g 1)
  else .next ((s.publish (fun _ e => s.fencedStores g s.cur.mask allStreams .ls e) [.ls] 2 g.team).endThreads g value)

/-- EXIT: in a shading thread it acts as VRET with the value 0 or as TRET; in the debug slot it ends the run. -/
def execExit (s : State) : Out :=
  s.issue { legal := .notHandler } costLane fun s g =>
    if s.cur.cls = .debug then
      .next (s.endDebug s.cur.gid g)
    else if g.shading then s.endAfterAccesses g fun _ => 0
    else .next (s.endThreads g fun _ => 0)

/-- Whether the issue's group is of a kind. -/
def State.curKind (s : State) (k : GKind) : Bool := (s.curGroup?.map (·.kind)) == some k

/-- TRET (10 R218). -/
def execTret (s : State) : Out :=
  s.issue { legal := if s.curKind .closestHit then .ordinary else .never } costOne fun s g =>
    s.endAfterAccesses g fun _ => 0

/-- VRET (11 R230). -/
def execVret (d : BitVec 7) (s : State) : Out :=
  s.issue { legal := if s.curKind .viewShade then .ordinary else .never, srcs := [srcV d false] } costOne fun s g =>
    s.endAfterAccesses (s.untouched g) fun j => g.vr d.toNat j

end Sys2Proof.Machine
end

