-- ==== Sys2Proof/Machine/Tasks.lean ====
section
/-! DEFINITION. The team window (05 R119 to R121) and task counters (06 R137 to R141). -/

namespace Sys2Proof.Machine

/-! TIDSET and TIDRD. -/

/-- The context's table of tensor identifiers (22 R372). -/
def Part.tidTable (p : Part) : DWord := p.reg 0x108 &&& ~~~(63 : DWord)

/-- The operand word of TIDSET is in order (05 R120). -/
def tidsetOk (tab : DWord) (b : Word) : Bool :=
  bitsOf b 22 10 == 0 && bitsOf b 14 2 == 0 && decide (bitsOf b 8 6 + bitsOf b 16 6 + 1 ≤ 64) &&
  decide (bitsOf b 0 8 + bitsOf b 16 6 + 1 ≤ 256) && tab.toNat % 64 == 0

/-- Resolve n entries of 64 bytes from an address. -/
def State.resolveEntries (s : State) (w : Issuer) (need : Need) (va : DWord) (n : Nat) : Except Cause (List Piece) :=
  (List.range n).foldl (fun r i =>
    joinPieces r (s.resolveFlat w need (va + BitVec.ofNat 64 (64 * i)) 64)) (.ok [])

/-- TIDSET (05 R120): its loads are plain LS loads of stream 0 of the active set, made in the issue once no earlier access must go first
and every page has been walked; the whole window range is written at once. -/
def execTidset (b : BitVec 6) (a : BitVec 5) (s : State) : Out :=
  s.issue { legal := .notDebug, srcs := srcSs (2 * a.toNat) 2 false ++ [srcS b false] } costOne fun s g =>
    let x := g.sr b.toNat
    let base := g.sr64 (2 * a.toNat)
    let tab := if base = 0 then (s.part g.part).tidTable else base
    let g0 := s.untouched g
    if !tidsetOk tab x then .next (s.raise g0 s.cur.mask 22 0 none 0)
    else
      let n := bitsOf x 16 6 + 1
      let from' := tab + BitVec.ofNat 64 (64 * bitsOf x 0 8)
      match s.resolveEntries (s.issuer s.cur.gid g) .load from' n with
      | .error c => .next (s.memFault g0 ((lanesOf s.cur.mask).map fun j => (j, c)) none)
      | .ok ps =>
        let base' : Acc := { s.accBase g 0 .ls 0 false false with who := g.whoOf (lanesOf s.cur.mask) }
        let acc (p : Piece) : Acc := { base' with okind := p.okind, loc := p.loc, len := p.len, va := p.va }
        let s0 := s.noteTlb (coreOf s.cur.gid) g.part ps
        if !(ps.all fun p => s.unordered s.fresh (acc p) && p.walk.isNone) then .next (s0.waitAt g0 1)
        else match ps.find? s.pieceBad with
          | some p => .next (s.causeFor g0 s.cur.mask 64 p.va none)
          | none =>
            let bs := ps.flatMap fun p => s.pieceBytes ((acc p).viewer []) p
            let ents := (List.range n).map fun i => entryOf ((bs.drop (64 * i)).take 64)
            if ents.any fun e => e.valid && e.malformed then .next (s.raise g0 s.cur.mask 22 0 none 0)
            else
              let s1 := ps.foldl (fun (s : State) p =>
                ((((s.orderedBefore s.fresh (acc p)).returned s.fresh (acc p) []).noteHost g.part p.loc p.va).correct p.loc)) s0
              ((s1.takeFresh 1).modTeam g.team fun t => { t with tids := t.tids.setRange (bitsOf x 8 6 * 64) bs }).done
                (g.onMask s.cur.mask fun l => l.follows base' ps) s.cur.mask .on 1 none

/-- TIDRD (05 R121): it is ordered after every earlier TIDSET of its group, which completes in its issue. -/
def execTidrd (a d : BitVec 6) (s : State) : Out :=
  s.issue { legal := .notDebug, srcs := [srcS a false], dests := [.s d.toNat], defer := some (.tidrd a d) } costOne fun s g =>
    let x := g.sr a.toNat
    if bitsOf x 10 22 ≠ 0 then .next (s.raise (s.untouched g) s.cur.mask 22 0 (some (.s d.toNat)) 0)
    else
      let w := (s.tidOf g (bitsOf x 0 6)).word (bitsOf x 7 3)
      let y := if x.getLsbD 6 then hi32 w else lo32 w
      s.done (s.writeS s.cur.gid g d.toNat y) s.cur.mask .on 1 (if d.toNat = 61 then some y else none)

/-! The task table. -/

/-- The core of a task number, if it is within the team's allotment: one entry per group slot the team owns on each core,
the lower core's entries first (06 R137). -/
def Team.taskCore (t : Team) (n : Nat) : Option Nat :=
  let all := t.slots.length
  if !t.pair then (if n < all then some t.core else none)
  else if n < (all + 1) / 2 then some t.core
  else if n < all then some (t.core + 1) else none

/-- A FREE entry. -/
def Task.free : Task := { st := 0, ctr := 0, code := 0, entry := 0, arg := 0, land := none, toks := [], core := 0, uid := 0 }

def Team.task (t : Team) (n : Nat) : Task := t.tasks.getD n Task.free

/-- A task's entry address (06 R138): none for an offset of 0. -/
def Task.entryVa (x : Task) (grid : DWord) : Option DWord :=
  let o := x.entry &&& ~~~(1 : Word)
  if o = 0 then none else some (evenAddr (grid + o.signExtend 64))

/-- A counter has reached 0 (06 R140): READY or ERROR, and W threads for an entry address. -/
def State.taskZero (s : State) (team : Nat) (t : Team) (n : Nat) (x : Task) : State :=
  let s1 := s.setTeam team { t with tasks := t.tasks.set n { x with st := if x.code = 0 then 2 else 3 } }
  match x.entryVa (((s.grids.get? t.grid).map Grid.entry).getD 0) with
  | some e => s1.placeThreads t.part ((t.taskCore n).getD t.core) { team, entry := e, arg := x.arg, count := t.width, toks := x.toks }
  | none => s1

/-- Decrement a PENDING task, recording an error code and what the decrement releases (06 R139, R140). -/
def State.decTask (s : State) (team n k code : Nat) (toks : List Tok) : State :=
  match s.teams.get? team with
  | none => s
  | some t =>
    let x := t.task n
    if x.st ≠ 1 then s
    else
      let y := { x with ctr := x.ctr - k, code := if x.code = 0 then code else x.code, toks := x.toks ++ toks }
      if y.ctr = 0 then s.taskZero team t n y else s.setTeam team { t with tasks := t.tasks.set n y }

/-- A live landing of the team with a key on a core (06 R138). -/
def Team.landingWith (t : Team) (core key : Nat) : Bool :=
  t.tasks.any fun x => x.2.core == core &&
    (match x.2.land with
      | some l => l.2.1 == key
      | none => false)

/-- TDEF (06 R138). -/
def execTdef (b a d : BitVec 6) (s : State) : Out :=
  s.issue { legal := .ordinary, srcs := [srcS d false, srcS a false, srcS b false] } costOne fun s g =>
    let w := g.sr d.toNat
    let av := g.sr a.toNat
    let bv := g.sr b.toNat
    let n := bitsOf w 0 6
    let land := w.getLsbD 6
    let g0 := s.untouched g
    let stop (c : Nat) : Out := .next (s.raise g0 s.cur.mask c 0 none 0)
    match s.teams.get? g.team with
    | none => .fault .noIssue
    | some t =>
      match t.taskCore n with
      | none => stop 26
      | some core =>
        let key := bitsOf bv 16 16
        let len := bitsOf bv 0 16
        let here := coreOf s.cur.gid
        if bitsOf w 7 9 ≠ 0 ∨ (t.task n).st = 1 then stop 26
        else if land ∧ (av.toNat % 64 ≠ 0 ∨ len = 0 ∨ t.landingWith here key) then stop 26
        else if land ∧ (if t.pair then 2 * t.scratch else t.scratch) < av.toNat + 64 * len then stop 8
        else
          let x : Task :=
            { st := 1, ctr := bitsOf w 16 16, code := 0, entry := if land then 0 else av, arg := if land then 0 else bv,
              land := if land then some (av.toNat, key, len * 64) else none, toks := [], core := if land then here else core,
              uid := s.fresh }
          let s1 := s.takeFresh 1
          let s2 := if x.ctr = 0 then s1.taskZero g.team t n x else s1.setTeam g.team { t with tasks := t.tasks.set n x }
          s2.done g s.cur.mask .on 1 none

/-- TDEC (06 R139): a release of the active set's earlier accesses. -/
def execTdec (b a d : BitVec 6) (s : State) : Out :=
  s.issue { legal := .ordinary, srcs := [srcS a false, srcS b false], dests := [.s d.toNat], defer := some (.tdec b a d) } costOne fun s g =>
    let n := (g.sr a.toNat).toNat
    let k := (g.sr b.toNat).toNat
    match s.teams.get? g.team with
    | none => .fault .noIssue
    | some t =>
      if (t.taskCore n).isNone ∨ 2 ^ 16 ≤ k then
        .next (s.raise (s.untouched g) s.cur.mask 26 0 (some (.s d.toNat)) 0)
      else
        let x := t.task n
        let y : Word := if x.st = 0 then 0xFFFFFFFF else if x.st = 1 then BitVec.ofNat 32 (x.ctr - k) else 0
        (s.decTask g.team n k 0 [s.tokOf g s.cur.mask]).done (s.writeS s.cur.gid g d.toNat y) s.cur.mask .on 1
          (if d.toNat = 61 then some y else none)

/-- What TWAIT returns for an entry that ends the wait (06 R141). -/
def Task.status (x : Task) : Word :=
  if x.st = 0 then 2 else if x.st = 3 then BitVec.ofNat 32 (x.code * 256 + 3) else 0

/-- TWAIT (06 R141): READY and ERROR acquire what the transition released, for the later LS and MX accesses of the whole group; where the
limit has expired CODE is the first code recorded so far. -/
def execTwait (b a d : BitVec 6) (s : State) : Out :=
  s.issue { legal := .ordinary, srcs := [srcS a false, srcS b false], dests := [.s d.toNat] } costOne fun s g =>
    let n := (g.sr a.toNat).toNat
    let g0 := s.untouched g
    let ends (s : State) (y : Word) (f : Lane → Lane) : Out :=
      s.done ((s.writeS s.cur.gid g d.toNat y).modLanes fun _ l => f l) s.cur.mask .on 1 (if d.toNat = 61 then some y else none)
    match s.teams.get? g.team with
    | none => .fault .noIssue
    | some t =>
      let x := t.task n
      if (t.taskCore n).isNone then .next (s.raise g0 s.cur.mask 26 0 (some (.s d.toNat)) 0)
      else if x.st = 0 then ends s x.status id
      else if 2 ≤ x.st then
        (if x.toks.all s.tokDone then ends (s.releaseToks x.toks false [.ls, .mx] 1 g.team) x.status fun l => (l.acquire allStreams).snapFollows (sawOf x.toks)
         else .next (s.waitAt g0 5))
      else match g.twait with
        | some (_, _, true) => ends s (BitVec.ofNat 32 (x.code % 256 * 256 + 1)) id
        | some _ => .next (s.waitAt g0 5)
        | none =>
          let lim := if g.sr b.toNat = 0 then 0 else (s.part g.part).clock + (g.sr b.toNat).toNat
          .next (s.waitAt { g0 with twait := some (s.cur.pc, lim, false) } 5)

/-- TWAIT_LIMIT_EXPIRY (06 R141). -/
def execTwaitLimitExpiry (gid : Nat) (s : State) : Out :=
  match s.group? gid with
  | none => .fault (.notEnabled "TWAIT_LIMIT_EXPIRY")
  | some g =>
    match g.twait with
    | some (pc, lim, false) =>
      if lim = 0 ∨ (s.part g.part).clock < lim ∨ (s.part g.part).stoppedAll then .fault (.notEnabled "TWAIT_LIMIT_EXPIRY")
      else .next (s.setGroup gid { g with twait := some (pc, lim, true) })
    | _ => .fault (.notEnabled "TWAIT_LIMIT_EXPIRY")

end Sys2Proof.Machine
end

