-- ==== Sys2Proof/Machine/Place.lean ====
section
/-! DEFINITION. The distributors: what a team needs of a core, placement, and steals (01 R21, R25; 16 R302, R303), with the
tables that placement and grid start read (05 R119, 11 R223, 16 R388). -/

namespace Sys2Proof.Machine

/-! The shape of a team, from its KERNEL packet (16 R297). -/

def Grid.width (x : Grid) : Nat := 16 * 2 ^ pktBits x.packet 16 2
def Grid.pair (x : Grid) : Bool := pktBits x.packet 18 1 == 1
def Grid.groups (x : Grid) : Nat := pktBits x.packet 19 6 + 1
def Grid.nv (x : Grid) : Nat := 8 * (pktBits x.packet 80 4 + 1)
def Grid.ns (x : Grid) : Nat := 16 + 8 * pktBits x.packet 84 3
def Grid.nt (x : Grid) : Nat := pktBits x.packet 88 5
def Grid.scratch (x : Grid) : Nat := 256 * pktBits x.packet 96 11
def Grid.prod (x : Grid) : Option Nat := if pktBits x.packet 119 1 = 1 then some (pktBits x.packet 112 6) else none

/-- The place of team slot k: which core of the team, and which scheduler partition (01 R21). -/
def slotPlace (pair : Bool) (k : Nat) : Nat × Nat := if pair then (k % 2, k / 2 % 4) else (0, k % 4)

/-! What a core has left (16 R302). -/

/-- Ordinary group slots of SPk, the bytes of its vector file for ordinary teams, and the tiles of a core. -/
def ordSlots (v k : Nat) : Nat := if k < v then 15 else 16
def ordFile (v k : Nat) : Nat := if k < v then 120 * 1024 else 128 * 1024
def ordTiles (v : Nat) : Nat := 128 - 2 * v

/-- What of a core is taken: group slots, vector-file bytes per scheduler partition, tiles, scratchpad and task entries. -/
structure Taken where
  slots : List Nat
  file : Nat → Nat
  tiles : Nat
  scratch : Nat
  tasks : Nat

/-- An empty core. -/
def Taken.none : Taken := { slots := [], file := fun _ => 0, tiles := 0, scratch := 0, tasks := 0 }

/-- The resident ordinary groups of a core. -/
def State.residents (s : State) (core : Nat) : List (Nat × Group) :=
  s.groups.filter fun x => coreOf x.1 == core && x.2.kind == .ordinary

/-- What teams and groups take of a core: a team owns its slots, scratchpad and task entries until it retires; registers and
tiles are the groups' (01 R21, R32). -/
def State.taken (s : State) (core : Nat) : Taken :=
  let ts := (s.teams.filter fun x => x.2.slots.any fun g => coreOf g == core).map (·.2)
  let gs := s.residents core
  let here (t : Team) : Nat := (t.slots.filter fun g => coreOf g == core).length
  { slots := (ts.flatMap (·.slots)).filter fun g => coreOf g == core
    file := fun k => ((gs.filter fun x => spOf x.1 == k).map fun x => x.2.nv * x.2.width * 4).sum
    tiles := (gs.map fun x => x.2.nt).sum
    scratch := (ts.map (·.scratch)).sum
    tasks := (ts.map here).sum }

/-- Free ordinary slots of a scheduler partition, ascending. -/
def Taken.free (u : Taken) (v core k : Nat) : List Nat :=
  (List.range (ordSlots v k)).filter fun i => !u.slots.contains (gidOf core k i)

/-- The core of a team's cores with place h can hold its share of a grid's team. -/
def Taken.holds (u : Taken) (v core h : Nat) (x : Grid) : Bool :=
  let mine := (List.range x.groups).filter fun k => (slotPlace x.pair k).1 == h
  let per (k : Nat) : Nat := (mine.filter fun i => (slotPlace x.pair i).2 == k).length
  ((List.range 4).all fun k =>
    decide (per k ≤ (u.free v core k).length) && decide (u.file k + per k * (x.nv * x.width * 4) ≤ ordFile v k)) &&
  decide (u.tiles + mine.length * x.nt ≤ ordTiles v) && decide (u.scratch + x.scratch ≤ 384 * 1024) &&
  decide (u.tasks + mine.length ≤ 64)

/-- An empty core or core pair could hold a team (16 R297). -/
def Grid.fits (x : Grid) (v : Nat) : Bool := Taken.none.holds v 0 0 x && (!x.pair || Taken.none.holds v 0 1 x)

/-- A core, or the pair that begins at it, can hold a team now. -/
def State.coreHolds (s : State) (v core : Nat) (x : Grid) : Bool :=
  (s.taken core).holds v core 0 x && (!x.pair || (s.taken (core + 1)).holds v (core + 1) 1 x)

/-- The load that placement compares. -/
def State.loadOf (s : State) (core : Nat) (pair : Bool) : Nat :=
  (s.residents core).length + (if pair then (s.residents (core + 1)).length else 0)

/-- The core of a cluster that takes a grid's next team: the least loaded that can hold it, lowest number first. -/
def State.pickCore (s : State) (v cluster : Nat) (x : Grid) : Option Nat :=
  let cand := (if x.pair then [cluster * 4, cluster * 4 + 2] else upTo (cluster * 4) 4).filter fun c => s.coreHolds v c x
  cand.foldl (fun best c => match best with
    | none => some c
    | some b => if s.loadOf c x.pair < s.loadOf b x.pair then some c else some b) none

/-! Tables read under 16 R388. -/

/-- A table as read: the state with its KIND 1 records, the entries, and what stops the reading. -/
structure Tabled where
  st : State
  ents : List (List Byte)
  pages : List Nat
  stop : Option Cause

/-- Read n entries: those of a faulting page are zero, with one record for each page; Page-lazy, Uncorrectable-data and
Share-range stop it. -/
def State.readTable (s : State) (part : Nat) (va : DWord) (size n : Nat) : Tabled :=
  (List.range n).foldl (fun (t : Tabled) i =>
    if t.stop.isSome then t
    else
      let a := va + BitVec.ofNat 64 (size * i)
      match t.st.readFlat (engineOf part) .load a size with
      | .ok bs => { t with st := t.st.noteRead (engineOf part) a size, ents := t.ents ++ [bs] }
      | .error e =>
        if e.code = 13 ∨ e.fatal then { t with stop := some e }
        else
          let pg := a.toNat / 4096
          { t with st := if t.pages.contains pg then t.st else t.st.record part 1 e.code e.va 0 0 8 0 0
                   pages := pg :: t.pages, ents := t.ents ++ [List.replicate size 0] })
    { st := s, ents := [], pages := [], stop := none }

/-- A fault of the packet processor, the distributors or grid start other than Page-lazy: Uncorrectable-data and Share-range
fault the context, any other writes a KIND 1 record (16 R388; 03 R81; 18 R331). -/
def State.procFault (s : State) (part : Nat) (e : Cause) : State :=
  if e.fatal then s.contextFault part none e.code e.va 0 0 8 0
  else s.record part 1 e.code e.va 0 0 8 0 0

/-- A table's Page-lazy fault holds the grid until its record is resumed; its other stops fault the context. -/
def State.gridStop (s : State) (part grid : Nat) (e : Cause) : State :=
  if e.code = 13 then
    (s.record part 0 13 e.va 0 0 8 0 0).modGrid grid fun x => { x with stopped := some (s.nextRec part) }
  else s.procFault part e

/-- Read the scene-cut table into a grid's copy (11 R223): 256 entries of four words. -/
def State.loadCuts (s : State) (part grid : Nat) : State :=
  let t := s.readTable part ((s.part part).reg 0x110) 32 256
  match t.stop with
  | some e => s.gridStop part grid e
  | none =>
    t.st.modGrid grid fun x =>
      { x with cuts := some (t.ents.map fun bs =>
          (List.range 4).map fun k => BitVec.ofNat 64 (ofBytes ((bs.drop (8 * k)).take 8))) }

/-! Placement (16 R302). -/

/-- The partition whose distributors may act now: loaded, not draining or drained, not frozen, not faulted (18 R327, R329). -/
def Part.placing (p : Part) : Bool :=
  p.ctxState == 2 && p.preempt != 1 && p.preempt != 2 && !p.stoppedAll && !p.faulted && !p.resetting

/-- The unplaced runs of a cluster: first team and count of each, and how many teams they are. -/
def Grid.runs (x : Grid) (cluster : Nat) : List (Nat × Nat) :=
  (x.ranges.filter fun r => r.1 == cluster && r.2.2 != 0).map (·.2)
def Grid.left (x : Grid) (cluster : Nat) : Nat := ((x.runs cluster).map (·.2)).sum

/-- The run that holds a cluster's lowest unplaced team. -/
def Grid.range (x : Grid) (cluster : Nat) : Nat × Nat :=
  ((x.runs cluster).foldl (fun (best : Option (Nat × Nat)) r => match best with
    | none => some r
    | some b => if r.1 < b.1 then some r else some b) none).getD (0, 0)

/-- The first team of a run of a cluster has been placed. -/
def Grid.shift (x : Grid) (cluster first : Nat) : Grid :=
  { x with ranges := x.ranges.map fun r => if r.1 = cluster ∧ r.2.1 = first ∧ r.2.2 ≠ 0 then (cluster, first + 1, r.2.2 - 1) else r }

/-- Grids of a partition in the order of the grid list (16 R302). -/
def insertGrid (x : Nat × Grid) : List (Nat × Grid) → List (Nat × Grid)
  | [] => [x]
  | y :: r => if x.2.prio > y.2.prio ∨ (x.2.prio = y.2.prio ∧ x.2.order < y.2.order) then x :: y :: r
              else y :: insertGrid x r

def State.gridList (s : State) (part : Nat) : List (Nat × Grid) :=
  (s.grids.filter fun x => x.2.part == part).foldr insertGrid []

/-- The grid whose next team a cluster places now, with its core: a grid is passed over only while its team does not fit, and
not once that team has waited 65,536 cycles; one whose reads of a table wait is not passed over (16 R302, R388). -/
def State.nextPlacement (s : State) (v clock cluster : Nat) : List (Nat × Grid) → Option (Nat × Grid × Nat)
  | [] => none
  | (i, x) :: r =>
    if (x.range cluster).2 = 0 then s.nextPlacement v clock cluster r
    else match s.pickCore v cluster x with
      | some core => if x.cuts.isNone || x.stopped.isSome then none else some (i, x, core)
      | none => if x.waits.getD cluster clock + 65536 ≤ clock then none else s.nextPlacement v clock cluster r

/-- The slots a team gets: the lowest-numbered free ordinary slot of each team slot's scheduler partition (01 R21). -/
def State.allotSlots (s : State) (v core : Nat) (pair : Bool) : Nat → List Nat → List Nat
  | 0, acc => acc
  | n + 1, acc =>
    let (h, k) := slotPlace pair acc.length
    let c := core + h
    match ((s.taken c).free v c k).find? fun i => !acc.contains (gidOf c k i) with
    | some i => s.allotSlots v core pair n (acc ++ [gidOf c k i])
    | none => acc

/-- The window of a team as it is loaded (05 R119): a valid and malformed entry is zero. -/
def windowOf (ents : List (List Byte)) : List Byte :=
  ents.flatMap fun bs => let e := entryOf bs; if e.valid && e.malformed then List.replicate 64 0 else bs

/-- Place a team on a core: its groups form as at launch (01 R25). -/
def State.placeTeam (s : State) (part v cluster grid : Nat) (x : Grid) (core : Nat) (window : List Byte) : State :=
  let first := (x.range cluster).1
  let n := x.groups
  let w := x.width
  let t : Team :=
    { part, grid, index := first, core, pair := x.pair, width := w, nv := x.nv, ns := x.ns, nt := x.nt, scratch := x.scratch,
      prod := x.prod, slots := s.allotSlots v core x.pair n [], nextGroup := BitVec.ofNat 32 n,
      nextIdx := BitVec.ofNat 32 (n * w), phases := [], arrAt := [], barToks := [], tasks := [],
      tids := Store.setRange [] 0 window }
  let id := s.fresh
  let s1 := (s.takeFresh 1).setTeam id t
  let s2 := t.slots.zipIdx.foldl (fun s y =>
    s.formGroup id t y.1 (BitVec.ofNat 32 y.2) (BitVec.ofNat 32 (y.2 * w)) x.entry
      ((List.range w).map fun j => BitVec.ofNat 32 (y.2 * w + j))) s1
  let clock := (s.part part).clock
  let x1 := x.shift cluster first
  (s2.setGrid grid { x1 with resident := x.resident + 1, waits := x.waits.set cluster clock }).modCluster cluster fun c =>
    { c with nextPlace := clock + 4 }

/-- TEAM_PLACE (16 R302, 05 R119). -/
def execTeamPlace (cluster : Nat) (s : State) : Out :=
  match s.partOfCluster cluster with
  | none => .fault (.notEnabled "TEAM_PLACE")
  | some part =>
    let p := s.part part
    if !p.placing || decide (p.clock < (s.cluster cluster).nextPlace) then .fault (.notEnabled "TEAM_PLACE")
    else match s.nextPlacement p.viewV p.clock cluster (s.gridList part) with
      | none => .fault (.notEnabled "TEAM_PLACE")
      | some (i, x, core) =>
        let t := s.readTable part p.tidTable 64 64
        match t.stop with
        | some e => .next (s.gridStop part i e)
        | none => .next (t.st.placeTeam part p.viewV cluster i x core (windowOf t.ents))

/-! Steals (16 R303). -/

/-- Of clusters with unplaced teams, the one with the most, the lowest number first. -/
def Grid.richest (x : Grid) (cs : List Nat) : Option Nat :=
  cs.foldl (fun best c =>
    if x.left c = 0 then best
    else match best with
      | none => some c
      | some b => if x.left b < x.left c then some c else some b) none

/-- Insert a run in descending order of its teams. -/
def insertRun (r : Nat × Nat) : List (Nat × Nat) → List (Nat × Nat)
  | [] => [r]
  | y :: ys => if y.1 < r.1 then r :: y :: ys else y :: insertRun r ys

/-- The k highest-indexed teams of runs in descending order, as runs. -/
def topTeams : Nat → List (Nat × Nat) → List (Nat × Nat)
  | _, [] => []
  | k, (f, n) :: r => if k = 0 then [] else (f + (n - min k n), min k n) :: topTeams (k - min k n) r

/-- Take the ⌈r / 2⌉ highest-indexed teams of a victim for a thief. -/
def Grid.rob (x : Grid) (die : Bool) (victim thief due : Nat) : Grid :=
  let taken := topTeams ((x.left victim + 1) / 2) ((x.runs victim).foldr insertRun [])
  { x with
    ranges := x.ranges.map fun r =>
      if r.1 = victim then
        match taken.find? fun t => decide (r.2.1 ≤ t.1) && decide (t.1 < r.2.1 + r.2.2) with
        | some t => (victim, r.2.1, t.1 - r.2.1)
        | none => r
      else r
    steals := x.steals ++ taken.map fun t => { die, cluster := thief, due, first := t.1, count := t.2 } }

/-- Stolen teams arrive at their thief. -/
def Grid.land (x : Grid) (y : Steal) (clock : Nat) : Grid :=
  { x with ranges := x.ranges ++ [(y.cluster, y.first, y.count)], steals := x.steals.erase y, waits := x.waits.set y.cluster clock }

/-- Teams are on their way to a cluster. -/
def Grid.stealing (x : Grid) (c : Nat) : Bool := x.steals.any fun y => y.cluster == c

/-- A cluster with an empty range that could hold the grid's next team. -/
def State.mayRob (s : State) (v : Nat) (x : Grid) (c : Nat) : Bool :=
  x.left c == 0 && !x.stealing c && (s.pickCore v c x).isSome

/-- A steal that has arrived. -/
def Grid.arrived (x : Grid) (die : Bool) (clock : Nat) (p : Nat → Bool) : Option Steal :=
  x.steals.find? fun y => y.die == die && decide (y.due ≤ clock) && p y.cluster

/-- CLUSTER_STEAL (16 R303): it begins, or, 64 cycles later, the teams arrive. -/
def execClusterSteal (cluster grid : Nat) (s : State) : Out :=
  match s.grids.get? grid with
  | none => .fault (.notEnabled "CLUSTER_STEAL")
  | some x =>
    let p := s.part x.part
    if !p.placing || !p.clusters.contains cluster then .fault (.notEnabled "CLUSTER_STEAL")
    else match x.arrived false p.clock (· == cluster) with
      | some y => .next (s.setGrid grid (x.land y p.clock))
      | none =>
        let sibs := p.clusters.filter fun c => dieOfCluster c == dieOfCluster cluster
        match x.richest sibs with
        | some v => if s.mayRob p.viewV x cluster then .next (s.setGrid grid (x.rob false v cluster (p.clock + 64)))
                    else .fault (.notEnabled "CLUSTER_STEAL")
        | none => .fault (.notEnabled "CLUSTER_STEAL")

/-- Unplaced teams of a die. -/
def Grid.dieLeft (x : Grid) (p : Part) (die : Nat) : Nat :=
  ((p.clusters.filter fun c => dieOfCluster c == die).map x.left).sum

/-- DIE_STEAL (16 R303): it begins, or, 256 cycles later, the teams arrive. -/
def execDieSteal (part die grid : Nat) (s : State) : Out :=
  match s.grids.get? grid with
  | none => .fault (.notEnabled "DIE_STEAL")
  | some x =>
    let p := s.part part
    let mine := p.clusters.filter fun c => dieOfCluster c == die
    if x.part ≠ part ∨ !p.placing then .fault (.notEnabled "DIE_STEAL")
    else match x.arrived true p.clock (mine.contains ·) with
      | some y => .next (s.setGrid grid (x.land y p.clock))
      | none =>
        if x.dieLeft p die ≠ 0 ∨ mine.any x.stealing then .fault (.notEnabled "DIE_STEAL")
        else
          let best := (List.range 4).foldl (fun b d => if x.dieLeft p b < x.dieLeft p d then d else b) 0
          match x.richest (p.clusters.filter fun c => dieOfCluster c == best), mine.find? (s.mayRob p.viewV x) with
          | some v, some thief => .next (s.setGrid grid (x.rob true v thief (p.clock + 256)))
          | _, _ => .fault (.notEnabled "DIE_STEAL")

end Sys2Proof.Machine
end

