-- ==== Sys2Proof/Machine/Packets.lean ====
section
/-! DEFINITION. Queues and packets (16 R290 to R301, R388). -/

namespace Sys2Proof.Machine

/-! Queue registers and descriptors (16 R290, R291). -/

def Part.enabled (p : Part) (q : Nat) : Bool := (p.reg (0x1000 + 16 * q)).getLsbD 0
def Part.setEnable (p : Part) (q : Nat) (on : Bool) : Part :=
  let a := 0x1000 + 16 * q
  p.setReg a (if on then p.reg a ||| 1 else p.reg a &&& ~~~(1 : DWord))

/-- The words of an 8-byte-granular run of bytes. -/
def dwordsOf (bs : List Byte) (n : Nat) : List DWord :=
  (List.range n).map fun i => BitVec.ofNat 64 (ofBytes ((bs.drop (8 * i)).take 8))

/-- A descriptor is malformed (16 R292). -/
def descBad (ws : List DWord) : Bool :=
  let w1 : DWord := (ws[1]?).getD 0
  let ring : DWord := (ws[0]?).getD 0
  let lg := bitsOf w1 0 5
  bitsOf w1 10 54 != 0 || bitsOf w1 5 3 != 0 || decide (lg < 4) || decide (16 < lg) || !canonical ring ||
  ring.toNat % (64 * 2 ^ lg) != 0

/-- Started packets of a queue. -/
def Part.pktsOf (p : Part) (q : Nat) : List Pkt := p.pkts.filter fun k => k.queue == q

/-- A queue stops with an error: ABORTED with a code. -/
def State.abortQueue (s : State) (part q code : Nat) : State :=
  s.putQueue part q { (s.part part).queue q with st := 2, code }

/-- Set a queue's record without its descriptor. -/
def State.modQueue (s : State) (part q : Nat) (f : Queue → Queue) : State :=
  s.modPart part fun p => { p with queues := p.queues.set q (f (p.queue q)) }

/-- Read the slot of the queue's next packet once, when it becomes the next and a doorbell covers it (16 R292, R388). -/
def State.prefetch (s : State) (part q : Nat) : State :=
  let x := (s.part part).queue q
  if x.st ≠ 1 ∨ x.disabling ∨ x.stopped.isSome ∨ x.slot.isSome ∨ x.write ≤ x.next ∨ s.hostLost then s
  else match s.readFlat (engineOf part) .load (x.ring + BitVec.ofNat 64 (64 * (x.next % 2 ^ x.log2n))) 64 with
    | .ok bs =>
      (s.noteRead (engineOf part) (x.ring + BitVec.ofNat 64 (64 * (x.next % 2 ^ x.log2n))) 64).modQueue part q fun x =>
        { x with slot := some (dwordsOf bs 8) }
    | .error e =>
      if e.code = 13 then
        (s.record part 0 13 e.va 0 0 8 0 0).modQueue part q fun x => { x with stopped := some (s.nextRec part) }
      else (s.procFault part e).modQueue part q fun x => { x with slot := some [] }

/-- Read the descriptor and make the queue ACTIVE or ABORTED (16 R292). `again` keeps the write index. A queue whose started
packets still run, or were restored, goes on after them. -/
def State.readQueue (s : State) (part q : Nat) (again : Bool) : State :=
  match s.readFlat (engineOf part) .load ((s.part part).descVa q) 32 with
  | .error e =>
    if e.code = 13 then
      (s.record part 0 13 e.va 0 0 8 0 0).modQueue part q fun x => { x with stopped := some (s.nextRec part) }
    else (s.procFault part e).abortQueue part q 1
  | .ok bs =>
    let s0 := s.noteRead (engineOf part) ((s.part part).descVa q) 32
    let ws := dwordsOf bs 4
    let x := (s0.part part).queue q
    let r := ((ws[2]?).getD 0).toNat
    if descBad ws then s0.putQueue part q { x with st := 2, code := 1, read := r }
    else
      let w1 : DWord := (ws[1]?).getD 0
      let live := !again && !((s0.part part).pktsOf q).isEmpty
      (s0.putQueue part q
        { x with st := 1, ring := (ws[0]?).getD 0, log2n := bitsOf w1 0 5, prio := bitsOf w1 8 2, read := r
                 write := if again then max x.write r else r
                 next := if live then max x.next r else r
                 done := if live then x.done else [], slot := none, disabling := false }).prefetch part q

/-- QUEUE_ENABLE: ENABLE written 0 to 1; ignored while no context is loaded (22 R373). -/
def execQueueEnable (part queue : Nat) (s : State) : Out :=
  let p := s.part part
  if !s.hostOpen part || decide (64 ≤ queue) || p.enabled queue then .fault (.notEnabled "QUEUE_ENABLE")
  else if p.ctxState ≠ 2 then .next s
  else .next ((s.modPart part fun p => p.setEnable queue true).readQueue part queue false)

/-- QUEUE_REENABLE: ENABLE written 1 while ABORTED. -/
def execQueueReenable (part queue : Nat) (s : State) : Out :=
  let p := s.part part
  if !s.hostOpen part || decide (64 ≤ queue) || !p.enabled queue || (p.queue queue).st != 2 then
    .fault (.notEnabled "QUEUE_REENABLE")
  else if p.ctxState ≠ 2 then .next s
  else .next (s.readQueue part queue true)

/-- QUEUE_DISABLE: ENABLE written 1 to 0. -/
def execQueueDisable (part queue : Nat) (s : State) : Out :=
  if !s.hostOpen part || decide (64 ≤ queue) || !(s.part part).enabled queue then .fault (.notEnabled "QUEUE_DISABLE")
  else .next ((s.modPart part fun p => p.setEnable queue false).modQueue part queue fun x =>
    { x with disabling := true, stopped := none, slot := none })

/-- QUEUE_DISABLE_DONE: its started packets have completed. -/
def execQueueDisableDone (part queue : Nat) (s : State) : Out :=
  let p := s.part part
  let x := p.queue queue
  if !x.disabling || !(p.pktsOf queue).isEmpty then .fault (.notEnabled "QUEUE_DISABLE_DONE")
  else .next (s.putQueue part queue { x with st := 0, disabling := false })

/-- QDOOR (16 R292). -/
def execQdoor (part queue : Nat) (value : BitVec 64) (s : State) : Out :=
  let x := (s.part part).queue queue
  let w := value.toNat
  if !s.hostOpen part || decide (64 ≤ queue) then .fault (.notEnabled "QDOOR")
  else if x.st = 0 ∨ w ≤ x.write then .next s
  else if 2 ^ x.log2n < w - x.read then .next (s.abortQueue part queue 7)
  else .next ((s.modQueue part queue fun x => { x with write := w }).prefetch part queue)

/-! Validity (16 R294, R296 to R301). -/

/-- A canonical address aligned to 64; 0 is one. -/
def sigOk (x : DWord) : Bool := canonical x && x.toNat % 64 == 0

/-- Words lo to hi are zero. -/
def wordsZero (ws : List DWord) (lo hi : Nat) : Bool := (upTo lo (hi + 1 - lo)).all fun i => (ws[i]?).getD 0 == 0

def kernelOk (ws : List DWord) : Bool :=
  let f := pktBits ws
  let g := f 19 6 + 1
  let entry : DWord := (ws[2]?).getD 0
  wordsZero ws 4 6 && f 120 8 == 0 && f 118 1 == 0 && f 107 5 == 0 && f 93 3 == 0 && f 87 1 == 0 && f 25 7 == 0 &&
  f 16 2 != 3 && f 32 16 != 0 && f 48 16 != 0 && f 64 16 != 0 && f 84 3 != 7 && decide (f 88 5 ≤ 16) &&
  decide (f 96 11 ≤ 1536) && (if f 18 1 = 1 then decide (2 ≤ g) else decide (g ≤ 32)) &&
  (f 119 1 == 0 || decide (f 112 6 < g)) && canonical entry && entry.toNat % 2 == 0

def barrierOk (ws : List DWord) : Bool :=
  pktBits ws 16 48 == 0 && wordsZero ws 6 6 && (upTo 1 5).all fun i => sigOk ((ws[i]?).getD 0)

def copyPktOk (ws : List DWord) : Bool :=
  let n := pktBits ws 32 32
  pktBits ws 16 16 == 0 && wordsZero ws 3 6 && sigOk ((ws[1]?).getD 0) && sigOk ((ws[2]?).getD 0) &&
  n % 64 == 0 && decide (64 ≤ n) && decide (n ≤ 2 ^ 30)

def signalOk (ws : List DWord) : Bool :=
  pktBits ws 18 46 == 0 && wordsZero ws 3 6 && decide (pktBits ws 16 2 ≤ 1) && sigOk ((ws[1]?).getD 0)

def pktOk (ws : List DWord) : Bool :=
  pktBits ws 9 7 == 0 && sigOk (pktSig ws) &&
  (if pktType ws = 1 then kernelOk ws else if pktType ws = 2 then barrierOk ws else if pktType ws = 3 then copyPktOk ws
   else if pktType ws = 4 then signalOk ws else false)

/-- The BARRIER bit of a header. -/
def pktBarrier (ws : List DWord) : Bool := pktBits ws 4 1 == 1

/-! Start (16 R293). -/

/-- Started BARRIER packets read again after a signal update of the partition's own packets (16 R298). -/
def State.rouseBarriers (s : State) (part : Nat) : State :=
  s.modPart part fun p => { p with pkts := p.pkts.map fun k => { k with nextRound := min k.nextRound p.clock } }

/-- The next packet of a queue may start. -/
def Part.startable (p : Part) (q : Nat) (x : Queue) : Bool :=
  x.st == 1 && !x.disabling && x.stopped.isNone && x.slot.isSome && decide (x.next < x.write) &&
  !(p.pktsOf q).any fun k => decide (k.index < x.next) && pktBarrier k.words

/-- Of startable queues: the highest priority, then the first after the one last served at that priority. -/
def Part.pickQueue (p : Part) : Option Nat :=
  let able := p.queues.filter fun y => p.startable y.1 y.2
  let top := able.foldl (fun m y => max m y.2.prio) 0
  let qs := (able.filter fun y => y.2.prio == top).map (·.1)
  let last := p.served.getD top 63
  match qs.find? fun q => decide (last < q) with
  | some q => some q
  | none => qs.head?

/-- Split n teams over clusters or dies in proportion to weights: the whole shares, and one more each for the first ones
(16 R302). -/
def shareOut (n : Nat) (ws : List Nat) : List Nat :=
  let base := ws.map fun w => n * w / ws.sum
  base.zipIdx.map fun x => if x.2 < n - base.sum then x.1 + 1 else x.1

/-- Contiguous ranges of given lengths. -/
def rangesFrom : Nat → List (Nat × Nat) → List (Nat × Nat × Nat)
  | _, [] => []
  | f, (c, n) :: r => (c, f, n) :: rangesFrom (f + n) r

/-- The ranges of a grid's clusters, die by die (16 R302). -/
def Part.splitTeams (p : Part) (n : Nat) : List (Nat × Nat × Nat) :=
  let dies := (List.range 4).filter fun d => p.clusters.any fun c => dieOfCluster c == d
  let of (d : Nat) := p.clusters.filter fun c => dieOfCluster c == d
  let shares := shareOut n (dies.map fun d => (of d).length)
  rangesFrom 0 ((dies.zip shares).flatMap fun x => (of x.1).zip (shareOut x.2 ((of x.1).map fun _ => 1)))

/-- The grid of a started KERNEL packet, which enters the grid list. -/
def State.startGrid (s : State) (part q : Nat) (x : Queue) (ws : List DWord) (ranges : List (Nat × Nat × Nat)) : State :=
  let clock := (s.part part).clock
  let g : Grid :=
    { part, queue := q, index := x.next, packet := ws, prio := x.prio, order := s.fresh, ranges
      waits := ranges.map fun r => (r.1, clock), cuts := none, stopped := none, resident := 0, steals := [] }
  ((s.takeFresh 1).setGrid s.fresh g).loadCuts part s.fresh

/-- How many teams a KERNEL packet launches. -/
def pktTeams (ws : List DWord) : Nat := pktBits ws 32 16 * pktBits ws 48 16 * pktBits ws 64 16

/-- Clusters ascending with an empty range each, so that every cluster has one. -/
def Part.rangesOf (p : Part) (ws : List DWord) : List (Nat × Nat × Nat) := p.splitTeams (pktTeams ws)

/-- The packet that a KERNEL's team fits no core of completes at once with code 4 (16 R297). -/
def Part.tooLarge (p : Part) (ws : List DWord) : Bool :=
  let x : Grid := { part := 0, queue := 0, index := 0, packet := ws, prio := 0, order := 0, ranges := [], waits := [],
                    cuts := none, stopped := none, resident := 0, steals := [] }
  pktType ws == 1 && !x.fits p.viewV

/-- A packet's start is an acquire at ACQSCOPE: what the agents of its scope have released is visible on every path of its work (16 R295). -/
def State.pktAcquire (s : State) (ws : List DWord) : State :=
  if pktBits ws 5 2 = 0 then s else s.publish (fun _ e => decide (2 ≤ e.reach.ls)) Path.all 2 0

/-- Start a valid packet. -/
def State.startPkt (s : State) (part q : Nat) (x : Queue) (ws : List DWord) : State :=
  let p := s.part part
  let large := p.tooLarge ws
  let k : Pkt :=
    { queue := q, index := x.next, words := ws, result := if large then 5 else 0, slots := [], abort := none, pos := 0,
      nextRound := p.clock, stopped := none, grid := if pktType ws = 1 ∧ !large then s.fresh else 0, id := s.fresh }
  let s1 := ((s.pktAcquire ws).modPart part fun p =>
    { p with pkts := p.pkts ++ [k], nextStart := p.clock + 8, served := p.served.set x.prio q }).modQueue part q fun y =>
      { y with next := y.next + 1, slot := none }
  let s2 := if pktType ws = 1 ∧ !large then s1.startGrid part q x ws (p.rangesOf ws) else s1.takeFresh 1
  s2.prefetch part q

/-- PACKET_START: an invalid packet does not start; its queue is ABORTED and its signal, if it can be named, gets code 1. -/
def execPacketStart (part : Nat) (s : State) : Out :=
  let p := s.part part
  if !p.placing || s.hostLost || decide (p.clock < p.nextStart) then .fault (.notEnabled "PACKET_START")
  else match p.pickQueue with
    | none => .fault (.notEnabled "PACKET_START")
    | some q =>
      let x := p.queue q
      let ws := x.slot.getD []
      if pktOk ws then .next (s.startPkt part q x ws)
      else
        let s1 := (s.modQueue part q fun y => { y with slot := none }).abortQueue part q 1
        if ws.isEmpty ∨ !sigOk (pktSig ws) then .next s1
        else match s1.signalTry part (pktSig ws) (some 1) with
          | .ok t => .next (t.rouseBarriers part)
          | .error e => .next (if e.code = 13 then s1.ppFault part e (.signal (pktSig ws) (some 1)) else s1.procFault part e)

/-! Completion (16 R293, R295). -/

/-- READ passes the completed packets it stands at. -/
def advanceRead : Nat → Nat → List Nat → Nat × List Nat
  | 0, r, d => (r, d)
  | n + 1, r, d => if d.contains r then advanceRead n (r + 1) (d.filter (· != r)) else (r, d)

/-- In HOST-LOST a queue without started packets becomes STOPPED (18 R335). -/
def State.stopIdle (s : State) (part q : Nat) : State :=
  let x := (s.part part).queue q
  if s.hostLost ∧ (x.st = 1 ∨ x.st = 2) ∧ ((s.part part).pktsOf q).isEmpty then s.putQueue part q { x with st := 3, code := 5 }
  else s

/-- A packet leaves the started ones and READ advances. -/
def State.retirePkt (s : State) (part : Nat) (k : Pkt) : State :=
  let x := (s.part part).queue k.queue
  let (r, d) := advanceRead (x.done.length + 1) x.read (k.index :: x.done)
  ((s.modPart part fun p => { p with pkts := p.pkts.erase k }).putQueue part k.queue { x with read := r, done := d }).stopIdle
    part k.queue

/-- Change a started packet. -/
def State.modPkt (s : State) (part : Nat) (k : Pkt) (f : Pkt → Pkt) : State :=
  s.modPart part fun p => { p with pkts := p.pkts.map fun y => if y = k then f y else y }

/-- Before a COPY completes, its writes are performed at device scope on every path, then released at RELSCOPE (16 R295, R300). -/
def State.pktRelease (s : State) (k : Pkt) : State :=
  if pktType k.words = 3 then s.publish (fun _ e => e.src.1 == k.id) Path.all (max 2 (pktBits k.words 7 2 + 1)) 0 else s

/-- A packet completes with a result code of `Pkt`: its signal is updated, then READ advances. A Page-lazy fault of the signal
holds the completion; any other fault drops the update (16 R388). -/
def State.completePkt (s : State) (part : Nat) (k : Pkt) : State :=
  match (s.pktRelease k).signalTry part (pktSig k.words) (if k.result = 1000 then none else some (k.result - 1)) with
  | .ok t => (t.retirePkt part k).rouseBarriers part
  | .error e =>
    if e.code = 13 then
      (s.record part 0 13 e.va 0 0 8 0 0).modPkt part k fun y => { y with stopped := some (s.nextRec part) }
    else
      let t := (s.pktRelease k).procFault part e
      if (t.part part).pkts.contains k then t.retirePkt part k else t

/-- The operation of a SIGNAL packet (16 R301). -/
def signalOpOf (ws : List DWord) (v : DWord) : DWord :=
  let x : DWord := (ws[2]?).getD 0
  if pktBits ws 16 2 = 0 then x else v + x

/-- A SIGNAL packet acts on its target and then completes. -/
def State.runSignal (s : State) (part : Nat) (k : Pkt) : State :=
  let ends (t : State) (r : Nat) : State :=
    let k' := { k with result := r }
    ((t.modPkt part k fun _ => k').rouseBarriers part).completePkt part
      { k' with nextRound := min k'.nextRound (t.part part).clock }
  match s.update64 part ((k.words[1]?).getD 0) (signalOpOf k.words) with
  | .ok t => ends t 1000
  | .error e =>
    if e.code = 13 then
      (s.record part 0 13 e.va 0 0 8 0 0).modPkt part k fun y => { y with stopped := some (s.nextRec part) }
    else ends (s.procFault part e) 4

/-- PACKET_COMPLETE (16 R295): a SIGNAL packet acts; a packet whose work has ended completes. -/
def execPacketComplete (part queue index : Nat) (s : State) : Out :=
  let p := s.part part
  match p.pkts.find? fun k => k.queue == queue && k.index == index with
  | none => .fault (.notEnabled "PACKET_COMPLETE")
  | some k =>
    if k.stopped.isSome then .fault (.notEnabled "PACKET_COMPLETE")
    else if pktType k.words = 4 ∧ k.result = 0 then .next (s.runSignal part k)
    else if k.result = 0 || (p.stoppedAll && pktType k.words != 4) then .fault (.notEnabled "PACKET_COMPLETE")
    else .next (s.completePkt part k)

/-! BARRIER packets (16 R298, R299). -/

/-- An abort with the value read: own signal, queue, and the packet ends where READ stands. A Page-lazy fault of the signal
holds the abort until its record is resumed; `sat` is what the barrier's reads have satisfied. -/
def State.abortBarrier (s : State) (part : Nat) (k : Pkt) (v : DWord) (sat : List Nat) : State :=
  let sig := pktSig k.words
  let set (t : State) : State :=
    let c := -v.toInt - 1
    (t.modPart part fun p => { p with pkts := p.pkts.erase k }).abortQueue part k.queue (if c ≤ 255 then c.toNat else 255)
  if sig = 0 then set s
  else match s.update64 part sig fun o => if o.toInt < 0 then o else v with
    | .ok t => (set t).rouseBarriers part
    | .error e =>
      if e.code = 13 then
        (s.record part 0 13 e.va 0 0 8 0 0).modPkt part k fun y =>
          { y with stopped := some (s.nextRec part), slots := sat, abort := some v }
      else
        let t := s.procFault part e
        if (t.part part).pkts.contains k then set t else t

/-- One round over the slots from i on; `k` is the packet as it was before the round. -/
def State.barrierRound (s : State) (part : Nat) (k : Pkt) : Nat → Nat → List Nat → State
  | 0, _, sat =>
    s.modPkt part k fun y =>
      { y with slots := sat, nextRound := (s.part part).clock + 1024
               result := if (upTo 1 5).all fun i => (k.words[i]?).getD 0 == 0 || sat.contains i then 1000 else 0 }
  | n + 1, i, sat =>
    let a : DWord := (k.words[i]?).getD 0
    if a = 0 ∨ sat.contains i then s.barrierRound part k n (i + 1) sat
    else match s.readFlat (engineOf part) .load a 8 with
      | .error e =>
        if e.code = 13 then
          (s.record part 0 13 e.va 0 0 8 0 0).modPkt part k fun y =>
            { y with stopped := some (s.nextRec part), slots := sat }
        else if e.fatal then s.procFault part e
        else (s.procFault part e).abortBarrier part k (-2) sat
      | .ok bs =>
        let v := BitVec.ofNat 64 (ofBytes bs)
        let s1 := s.noteRead (engineOf part) a 8
        if v = 0 then s1.barrierRound part k n (i + 1) (sat ++ [i])
        else if v.toInt < 0 then s1.abortBarrier part k v sat
        else s1.barrierRound part k n (i + 1) sat

/-- BARRIER_PACKET_ROUND (16 R298): not while the context drains (18 R329), is frozen (20 R348) or its queue is STOPPED. -/
def execBarrierPacketRound (part queue index : Nat) (s : State) : Out :=
  let p := s.part part
  match p.pkts.find? fun k => k.queue == queue && k.index == index with
  | none => .fault (.notEnabled "BARRIER_PACKET_ROUND")
  | some k =>
    if pktType k.words != 2 || k.result != 0 || k.stopped.isSome || !p.placing || (p.queue queue).st == 3 then
      .fault (.notEnabled "BARRIER_PACKET_ROUND")
    else match k.abort with
      | some v => .next (s.abortBarrier part k v k.slots)
      | none => .next (s.barrierRound part k 5 1 k.slots)

/-! COPY packets (16 R300). -/

/-- Bytes of a COPY packet. -/
def pktLength (ws : List DWord) : Nat := pktBits ws 32 32

/-- A sector of the packet copy engine faults. -/
def State.pktCopyFault (s : State) (part : Nat) (k : Pkt) (e : Cause) : State :=
  if e.code = 13 then
    (s.record part 0 13 e.va 0 0 2 0 0).modPkt part k fun y => { y with stopped := some (s.nextRec part) }
  else if e.fatal then s.contextFault part none e.code e.va 0 0 2 0
  else (s.record part 1 e.code e.va 0 0 2 0 66).modPkt part k fun y => { y with result := 4 }

/-- PACKET_COPY_SECTOR: the oldest COPY packet's next 64 bytes, on the CP path. -/
def execPacketCopySector (part : Nat) (s : State) : Out :=
  let p := s.part part
  match p.pkts.find? fun k => pktType k.words == 3 && k.result == 0 with
  | none => .fault (.notEnabled "PACKET_COPY_SECTOR")
  | some k =>
    if p.stoppedAll || k.stopped.isSome then .fault (.notEnabled "PACKET_COPY_SECTOR")
    else
      let src : DWord := (k.words[1]?).getD 0 + BitVec.ofNat 64 k.pos
      let dst : DWord := (k.words[2]?).getD 0 + BitVec.ofNat 64 k.pos
      let w := engineOn part .cp
      match s.readFlat w .load src 64 with
      | .error e => .next (s.pktCopyFault part k e)
      | .ok bs =>
        match (s.noteRead w src 64).writeFlat w dst bs with
        | .error e => .next (s.pktCopyFault part k e)
        | .ok t =>
          .next (t.modPkt part k fun y =>
            { y with pos := y.pos + 64, result := if y.pos + 64 = pktLength k.words then 1000 else 0 })

end Sys2Proof.Machine
end

