-- ==== Sys2Proof/Machine/Retire.lean ====
section
/-! DEFINITION. The end of groups, teams and grids (01 R32, R33) and the firing of a REPACK (01 R26 to R28). -/

namespace Sys2Proof.Machine

/-- Producers that still write registers of a group. -/
def State.producing (s : State) (gid uid : Nat) : Bool :=
  s.ops.any fun x => x.2.gid == gid && x.2.uid == uid && !x.2.dests.isEmpty

/-- GROUP_RETIRE (01 R32): slot, registers and tiles are free, and the receive queue is discarded. -/
def execGroupRetire (gid : Nat) (s : State) : Out :=
  match s.group? gid with
  | none => .fault (.notEnabled "GROUP_RETIRE")
  | some g =>
    if g.kind == .debug || g.liveMask != 0 || s.producing gid g.uid || (s.part g.part).stoppedAll then
      .fault (.notEnabled "GROUP_RETIRE")
    else .next { s with groups := s.groups.erase gid }

/-- Something of a team is still in a core: threads in a bin, a placement, a copy. -/
def Core.holdsTeam (c : Core) (team : Nat) : Bool :=
  c.bins.any (fun b => b.2.team == team) || c.placements.any (fun p => p.team == team) ||
  c.shbins.any (fun b => b.team == team) || c.chans.any fun x => x.2.copies.any fun y => y.team == team

/-- A task with an entry address that is not ready. -/
def Task.unready (x : Task) : Bool := x.st == 1 && (x.entry &&& ~~~(1 : Word)) != 0 && x.land.isNone

/-- A core forgets a team's write positions (06 R135). -/
def Core.forget (c : Core) (team : Nat) : Core :=
  { c with chans := c.chans.mapVal fun _ (x : Chan) =>
      { x with counts := x.counts.erase team, last := x.last.erase team } }

/-- A team's scratchpad is freed. -/
def State.freeScratch (s : State) (team : Nat) : State :=
  s.clearCells fun i => i / 2 ^ 64 == Space.scratch.code * 2 ^ 64 + team

/-- TEAM_RETIRE (01 R32). -/
def execTeamRetire (team : Nat) (s : State) : Out :=
  match s.teams.get? team with
  | none => .fault (.notEnabled "TEAM_RETIRE")
  | some t =>
    if (s.part t.part).stoppedAll || s.groups.any (fun x => x.2.team == team && x.2.kind != .debug) ||
        s.cores.any (fun x => x.2.holdsTeam team) || t.tasks.any (fun x => x.2.unready) then
      .fault (.notEnabled "TEAM_RETIRE")
    else
      let s1 := { s with teams := s.teams.erase team, cores := s.cores.mapVal fun _ (c : Core) => c.forget team }
      .next ((s1.freeScratch team).modGrid t.grid fun x => { x with resident := x.resident - 1 })

/-- GRID_END (01 R33): once every access of the grid has been performed, its packet completes. -/
def execGridEnd (grid : Nat) (s : State) : Out :=
  match s.grids.get? grid with
  | none => .fault (.notEnabled "GRID_END")
  | some x =>
    if (s.part x.part).stoppedAll || x.ranges.any (fun r => r.2.2 != 0) || !x.steals.isEmpty || x.resident != 0 ||
        s.accs.any (fun a => a.2.grid == grid) then
      .fault (.notEnabled "GRID_END")
    else
      let s0 := s.publish (fun _ e => e.grid == grid) Path.all 4 0
      let s1 := { s0 with grids := s0.grids.erase grid }
      match (s1.part x.part).pkts.find? fun k => k.grid == grid with
      | none => .next s1
      | some k => .next ((s1.modPkt x.part k fun y => { y with result := 1000 }).completePkt x.part { k with result := 1000 })

/-! REPACK (01 R26 to R28). -/

/-- A thread at a REPACK: its group's slot, its lane's number and its lane. -/
structure AtRepack where
  gid : Nat
  lane : Nat
  th : Lane
  deriving DecidableEq, Repr

/-- Insert a thread in ascending team-thread index. -/
def insertThread (x : AtRepack) : List AtRepack → List AtRepack
  | [] => [x]
  | y :: r => if x.th.orig.toNat ≤ y.th.orig.toNat then x :: y :: r else y :: insertThread x r

/-- The waiting threads of a group. -/
def Group.atRepack (gid : Nat) (g : Group) : List AtRepack :=
  ((List.range g.lanes.length).filter fun j => (g.lane j).isLive).map fun j => { gid, lane := j, th := g.lane j }

/-- The REPACK addresses of threads, ascending. -/
def repackAddrs (ts : List AtRepack) : List DWord := ts.foldl (fun acc x => insertAddr x.th.pc acc) []

/-- Cut a list into pieces of w. -/
def chunks (w : Nat) : Nat → List AtRepack → List (List AtRepack)
  | 0, _ => []
  | n + 1, xs => if xs.isEmpty then [] else xs.take w :: chunks w n (xs.drop w)

/-- The threads of the fresh groups, in their numbers (01 R27). -/
def freshGroups (w : Nat) (ts : List AtRepack) : List (List AtRepack) :=
  (repackAddrs ts).flatMap fun a =>
    let xs := (ts.filter fun x => x.th.pc == a).foldr insertThread []
    chunks w xs.length xs

/-- Where a thread goes on: past its REPACK, or with the next repeat. -/
def AtRepack.resumed (g : Group) (x : AtRepack) : Lane :=
  let l := { x.th with hold := Option.none, age := 0, rel := false }
  match g.rep with
  | some r =>
    if maskBit r.mask x.lane then
      match r.after with
      | some n => { l with resume := some n.idx }
      | none => { l with pc := r.past, resume := Option.none }
    else { l with pc := l.pc + 4, resume := Option.none }
  | none => { l with pc := l.pc + 4, resume := Option.none }

/-- The group a waiting thread was in. -/
def oldGroup (gs : List (Nat × Group)) (x : AtRepack) : Group :=
  ((gs.find? fun y => y.1 == x.gid).map (·.2)).getD Group.blank

/-- What the threads of a fresh group would acquire at the first reads of what their old groups held (23 R385), each in its new lane. -/
def freshAcquires (gs : List (Nat × Group)) (ts : List AtRepack) : List Acquire :=
  gs.flatMap fun x => x.2.acquires.filterMap fun a =>
    let m := maskOf ts.length fun k => match ts[k]? with | some y => y.gid == x.1 && maskBit a.lanes y.lane | none => false
    let rs := a.regs.filter fun r => match r with | .v _ => true | .s n => decide (n < 16) | _ => false
    if m == 0 || rs.isEmpty then none else some { a with regs := rs, lanes := m }

/-- The parity errors that come into a fresh group with the registers it takes over (03 R82). -/
def freshBad (gs : List (Nat × Group)) (first : Group) (here : Option Group) (ts : List AtRepack) : List (Reg × Nat) :=
  (ts.zipIdx.flatMap fun y => ((oldGroup gs y.1).bad.filter fun b => (match b.1 with | .v _ => true | _ => false) && b.2 == y.1.lane).map
    fun b => (b.1, y.2)) ++
  (first.bad.filter fun b => match b.1 with | .s n => decide (n < 16) | _ => false) ++
  ((here.map (·.bad)).getD []).filter fun b => match b.1 with | .t _ => true | _ => false

/-- A fresh group of threads in a slot (01 R28): `here` is the old group of that slot. s3 is copied as it stands: a program that has
overwritten the team index finds its own value there (the model's choice: log entry 71). -/
def freshGroup (t : Team) (team uid num now : Nat) (gs : List (Nat × Group)) (here : Option Group) (ts : List AtRepack) : Group :=
  let first := ((ts.head?).map (oldGroup gs)).getD Group.blank
  { Group.blank with
    uid, formed := now, enterAt := now, acquires := freshAcquires gs ts, bad := freshBad gs first here ts, part := t.part, width := t.width, nv := t.nv, ns := t.ns, nt := t.nt, team, gnum := BitVec.ofNat 32 num
    lanes := (ts.map fun x => x.resumed (oldGroup gs x)) ++ List.replicate (t.width - ts.length) Lane.none
    v := Store.setAll (ts.zipIdx.flatMap fun y =>
      ((oldGroup gs y.1).v.filter fun c => c.1 % 64 == y.1.lane).map fun c => (c.1 / 64 * 64 + y.2, c.2)) []
    s := Store.set (first.s.filter fun c => decide (c.1 < 16)) 2 (BitVec.ofNat 32 num)
    crs := Store.set (first.crs.filter fun c => decide (c.1 ≤ 0x10)) 0x11
      (ts.foldl (fun f x => f ||| (oldGroup gs x).cr 0x11) 0)
    t := (here.map (·.t)).getD [], rxq := (here.map (·.rxq)).getD [] }

/-- The waiting threads of a group trap at their REPACKs. -/
def State.parkRepack (s : State) (cause : Nat) (gs : List (Nat × Group)) : State :=
  gs.foldl (fun s x =>
    let ts := x.2.atRepack x.1
    (repackAddrs ts).foldl (fun s a =>
      s.parkHeld x.1 (x.2.lanesWhere fun l => l.isLive && l.pc == a) cause fun _ => none) s) s

/-- Groups in their order in the team (01 R25). -/
def insertByNum (x : Nat × Group) : List (Nat × Group) → List (Nat × Group)
  | [] => [x]
  | y :: r => if x.2.gnum.toNat ≤ y.2.gnum.toNat then x :: y :: r else y :: insertByNum x r

/-- A pending write to a v, s or k register of a waiting group; a view fills its status and its tile in one step, and counts by
its tile (01 R26, 11 R239). -/
def State.pendingRegs (s : State) (gid uid : Nat) : Bool :=
  s.ops.any fun x => x.2.gid == gid && x.2.uid == uid &&
    (match x.2.kind with | .view .. => false | _ => true) &&
    x.2.dests.any fun r => match r with | .t _ => false | _ => true

/-- Regroup the team's waiting threads into fresh groups in the slots given. -/
def State.regroup (s : State) (team : Nat) (t : Team) (gs : List (Nat × Group)) (slots : List Nat)
    (fs : List (List AtRepack)) : State :=
  let s1 := { s with groups := gs.foldl (fun (m : Tab Group) (x : Nat × Group) => m.erase x.1) s.groups }
  let s2 := (slots.zip fs).zipIdx.foldl (fun s y =>
    let here := (gs.find? fun x => x.1 == y.1.1).map (·.2)
    (s.takeFresh 1).setGroup y.1.1 (freshGroup t team s.fresh y.2 (s.part t.part).clock gs here y.1.2).settle) s1
  (s2.setTeam team { t with nextGroup := BitVec.ofNat 32 fs.length }).touchBarriers team

/-- REPACK_FIRE (01 R26 to R28). -/
def execRepackFire (team : Nat) (s : State) : Out :=
  match s.teams.get? team with
  | none => .fault (.notEnabled "REPACK_FIRE")
  | some t =>
    let gs := ((s.teamGroups team).filter fun x => x.2.liveMask != 0).foldr insertByNum []
    let ts := gs.flatMap fun x => x.2.atRepack x.1
    if ts.isEmpty || !(ts.all fun x => x.th.hold == some .repack && !x.th.parked) || (s.part t.part).stoppedAll ||
        gs.any fun x => s.pendingRegs x.1 x.2.uid then
      .fault (.notEnabled "REPACK_FIRE")
    else
      let bad := gs.filter fun x => x.2.empty.any fun r => match r with | .t _ => true | _ => false
      if !bad.isEmpty then .next (s.parkRepack 27 bad)
      else
        let fs := freshGroups t.width ts
        let slots := (t.slots.filter fun i => gs.any fun x => x.1 == i) ++
          t.slots.filter fun i => (s.groups.get? i).isNone
        if t.slots.length < fs.length then .next (s.parkRepack 37 gs)
        else if slots.length < fs.length then .fault (.notEnabled "REPACK_FIRE")
        else .next (s.regroup team t gs slots fs)

end Sys2Proof.Machine
end

