-- ==== Sys2Proof/Machine/Drain.lean ====
section
/-! DEFINITION. Pre-emption: requests, drains, the save area and forced resets (18 R328 to R330; 16 R292), with LULL and ZSIG
(13 R271, 20 R351). -/

namespace Sys2Proof.Machine

/-! Discarding work. -/

/-- Each started and uncompleted packet's signal receives code 6 where it is still writable (16 R292); a fault is treated as for any update
of the packet processor (16 R388). -/
def State.resetSignals (s : State) (part : Nat) (ks : List Pkt) : State :=
  ks.foldl (fun s k => s.signal part (pktSig k.words) (some 6)) s

/-- Every queue becomes DISABLED with ENABLE 0, and its packets are discarded (16 R292). -/
def State.disableQueues (s : State) (part : Nat) : State :=
  let s1 := (s.part part).queues.foldl (fun s y =>
    if y.2.st = 0 then s else s.setQueue part y.1 { y.2 with st := 0 }) s
  s1.modPart part fun p =>
    (List.range 64).foldl (fun p q => p.setEnable q false)
      { p with pkts := [], queues := p.queues.mapVal fun _ (x : Queue) => { Queue.off with read := x.read, code := x.code } }

/-- Free the scratchpads of a partition's teams. -/
def State.freeScratches (s : State) (part : Nat) : State :=
  s.teams.foldl (fun s x => if x.2.part = part then s.freeScratch x.1 else s) s

/-- Snapshot operations of a context let go of their nodes (12 R248, R252). -/
def State.letNodes (s : State) (part : Nat) : State :=
  s.ops.foldl (fun s x => match x.2.kind with
    | .snap _ _ _ st _ => if x.2.part = part then s.letNode part st else s
    | _ => s) s

/-- Every group, team, bin, task, view, copy and engine operation of a context is discarded; the debug slot is none of them. TLBs and caches
hold what they held. -/
def State.discardWork (s : State) (part : Nat) : State :=
  let cs := (s.part part).clusters
  let mine (p gid : Nat) : Bool := p == part && slotOf gid != 16
  let s1 := (s.letNodes part).freeScratches part
  { s1 with
    groups := s1.groups.keep fun gid g => !mine g.part gid
    teams := s1.teams.keep fun _ t => t.part != part
    grids := s1.grids.keep fun _ x => x.part != part
    ops := s1.ops.keep fun _ o => !mine o.part o.gid
    accs := s1.accs.keep fun _ a => !mine a.part a.gid
    flits := s1.flits.keep fun _ f => f.part != part
    cores := s1.cores.mapVal fun i (c : Core) => if cs.contains (i / 4) then { Core.reset with bks := c.bks, tlb := c.tlb, l1 := c.l1 } else c
    clusters := s1.clusters.mapVal fun i (c : Cluster) => if cs.contains i then { Cluster.reset with tlb := c.tlb } else c }.modPart part fun p =>
      { p with zph := [], colls := [] }

/-- A forced reset (18 R329): the context's resident work is discarded and STATE becomes RESET, with a NOTICE record; records
can no longer be resumed, but for those of the reset's own writes (16 R388; 18 R326). The frozen state of a faulted context stays (18
R327). -/
def State.forcedReset (s : State) (part : Nat) : State :=
  let s0 := s.modPart part fun p => { p with resumable := [], heldResumes := [], ppWaits := [] }
  let s1 := (s0.resetSignals part (s.part part).pkts).disableQueues part
  let s2 := if (s.part part).faulted then s1 else s1.discardWork part
  (s2.modPart part fun p => p.setPreempt 3).record part 3 70 0 0 0 0 0 0

/-! Requests (18 R328). -/

/-- A request: a RUNNING context begins to drain; a deadline of 0 forces the reset at once. -/
def State.requestDrain (s : State) (part : Nat) : State :=
  let p := s.part part
  if p.preempt ≠ 0 ∨ p.ctxState ≠ 2 then s
  else
    let s1 := s.modPart part fun p => { p.setPreempt 1 with drainCount := 0 }
    if p.cr 0x50 = 0 then s1.forcedReset part else s1

/-- PREEMPT_REQUEST: a write of REQ. -/
def execPreemptRequest (part : Nat) (s : State) : Out :=
  if s.hostOpen part then .next (s.requestDrain part) else .fault (.notEnabled "PREEMPT_REQUEST")

/-- SLICE in cycles. -/
def Part.slice (p : Part) : Nat := bitsOf (p.reg 0x340) 32 32 * 1024

/-- TIME_SLICE_EXPIRY: not while the job is frozen (23 R387). -/
def execTimeSliceExpiry (part : Nat) (s : State) : Out :=
  let p := s.part part
  if p.slice = 0 ∨ p.ctxState ≠ 2 ∨ p.preempt ≠ 0 ∨ p.sliceCount < p.slice ∨ p.stoppedAll then .fault (.notEnabled "TIME_SLICE_EXPIRY")
  else .next (s.requestDrain part)

/-- DRAIN_DEADLINE_EXPIRY: not while the job is frozen (23 R387), but for a context fault (18 R330). -/
def execDrainDeadlineExpiry (part : Nat) (s : State) : Out :=
  let p := s.part part
  if p.preempt ≠ 1 ∨ p.drainCount < (p.cr 0x50).toNat ∨ (p.stoppedAll && !p.faulted) then .fault (.notEnabled "DRAIN_DEADLINE_EXPIRY")
  else .next (s.forcedReset part)

/-! The save area (18 R329). Its layout after the first word is the model's (log entry 31). -/

/-- Where the save area lies in the HBM share. -/
def Part.saveAt (p : Part) : Nat := bitsOf (p.reg 0x350) 12 52 * 4096

def saveQueue (q : Nat) (x : Queue) : List Nat := [q, x.read, x.next, x.done.length] ++ x.done
def savePkt (k : Pkt) : List Nat :=
  [k.queue, k.index, k.slots.foldl (fun m i => m + 2 ^ i) 0] ++ k.words.map (·.toNat)

/-- The unplaced ranges of a grid, teams on their way to a thief among them. -/
def Grid.unplaced (x : Grid) : List (Nat × Nat) :=
  ((x.ranges.map fun r => (r.2.1, r.2.2)) ++ x.steals.map fun y => (y.first, y.count)).filter fun r => r.2 != 0

def saveGrid (x : Grid) : List Nat :=
  [x.queue, x.index, x.prio, x.unplaced.length] ++ x.unplaced.flatMap fun r => [r.1, r.2]

/-- The words of the save area after the first. -/
def State.saveWords (s : State) (part : Nat) : List Nat :=
  let p := s.part part
  let ks := p.pkts.filter fun k => pktType k.words == 1 || pktType k.words == 2
  let gs := (s.gridList part).map (·.2)
  [p.queues.length] ++ p.queues.flatMap (fun y => saveQueue y.1 y.2) ++ [ks.length] ++ ks.flatMap savePkt ++ [gs.length] ++
    gs.flatMap saveGrid

/-- Write consecutive 64-bit words into the HBM share; beyond it nothing is written. -/
def State.writeHbm (s : State) (part : Nat) : Nat → List Nat → State
  | _, [] => s
  | off, w :: r =>
    (if off + 8 ≤ (s.part part).hbmSize then
      s.store ⟨.hbm, part, off⟩ (toBytes 8 w) else s).writeHbm part (off + 8) r

/-- DRAIN_COMPLETE: before the deadline no team is resident and every started COPY and SIGNAL packet has completed. -/
def execDrainComplete (part : Nat) (s : State) : Out :=
  let p := s.part part
  if p.preempt != 1 || p.stoppedAll || decide ((p.cr 0x50).toNat ≤ p.drainCount) || s.teams.any (fun x => x.2.part == part) ||
      p.pkts.any fun k => decide (3 ≤ pktType k.words) then
    .fault (.notEnabled "DRAIN_COMPLETE")
  else
    let s1 := s.writeHbm part (p.saveAt + 8) (s.saveWords part)
    .next ((s1.writeHbm part p.saveAt [1]).modPart part fun p => p.setPreempt 2)

/-! Restoring at LOAD (22 R373). -/

/-- Read n words from an offset on. -/
def State.hbmWords (s : State) (part off n : Nat) : List Nat :=
  (List.range n).map fun i => (s.hbm64 part (off + 8 * i)).toNat

/-- Restore saved queues; the offset after them. -/
def State.loadQueues (s : State) (part : Nat) : Nat → Nat → State × Nat
  | 0, off => (s, off)
  | n + 1, off =>
    let w := s.hbmWords part off 4
    let at' (i : Nat) : Nat := (w[i]?).getD 0
    let k := min (at' 3) 65536
    (s.modQueue part (at' 0 % 64) fun x =>
      { x with read := at' 1, next := at' 2, done := s.hbmWords part (off + 32) k }).loadQueues part n (off + 32 + 8 * k)

/-- Restore saved packets. -/
def State.loadPkts (s : State) (part : Nat) : Nat → Nat → State × Nat
  | 0, off => (s, off)
  | n + 1, off =>
    let w := s.hbmWords part off 11
    let at' (i : Nat) : Nat := (w[i]?).getD 0
    let k : Pkt :=
      { queue := at' 0 % 64, index := at' 1, words := (w.drop 3).map (BitVec.ofNat 64)
        result := 0, slots := (upTo 1 5).filter fun i => at' 2 / 2 ^ i % 2 == 1, abort := none, pos := 0,
        nextRound := (s.part part).clock, stopped := none, grid := 0, id := s.fresh }
    ((s.takeFresh 1).modPart part fun p => { p with pkts := p.pkts ++ [k] }).loadPkts part n (off + 88)

/-- Runs given to clusters in turn, round by round; every cluster has one at least (log entry 31). -/
def giveRanges (cs : List Nat) (rs : List (Nat × Nat)) : List (Nat × Nat × Nat) :=
  (rs.zipIdx.filterMap fun x => (cs[x.2 % cs.length]?).map fun c => (c, x.1)) ++ (cs.drop rs.length).map fun c => (c, 0, 0)

/-- Restore saved grids: each takes its packet from the restored ones and reads its scene-cut table again; the offset after them. -/
def State.loadGrids (s : State) (part : Nat) : Nat → Nat → State × Nat
  | 0, off => (s, off)
  | n + 1, off =>
    let w := s.hbmWords part off 4
    let at' (i : Nat) : Nat := (w[i]?).getD 0
    let k := min (at' 3) 65536
    let rs := (List.range k).map fun i =>
      let v := s.hbmWords part (off + 32 + 16 * i) 2
      ((v[0]?).getD 0, (v[1]?).getD 0)
    let p := s.part part
    let id := s.fresh
    let ranges := giveRanges p.clusters rs
    let s1 := match p.pkts.find? fun y => y.queue == at' 0 && y.index == at' 1 && pktType y.words == 1 with
      | none => s
      | some y =>
        let x : Grid :=
          { part, queue := at' 0, index := at' 1, packet := y.words, prio := at' 2, order := id, ranges
            waits := ranges.map fun (r : Nat × Nat × Nat) => (r.1, p.clock), cuts := none, stopped := none, resident := 0, steals := [] }
        (((s.takeFresh 1).setGrid id x).modPkt part y fun z => { z with grid := id }).loadCuts part id
    s1.loadGrids part n (off + 32 + 16 * k)

/-- Errors in a run of the HBM share that is read: one bit is corrected and counted (03 R81, R83). -/
def State.correctRun (s : State) (part off n : Nat) : State :=
  let hit := s.weak.filter fun q => inRun (Loc.cell ⟨.hbm, part, off⟩ / 64) (n / 64 + 1) q
  { s with weak := s.weak.filter fun q => !hit.contains q }.modPart part fun p =>
    { p with softCorr := p.softCorr + BitVec.ofNat 64 hit.length }

/-- Restore from the save area, and write bit 0 of its first word to 0. A poisoned line of it faults the context, and nothing is restored
(03 R81). -/
def State.restore (s : State) (part : Nat) : State :=
  let a := (s.part part).saveAt
  if a = 0 then s
  else if s.poisoned ⟨.hbm, part, a⟩ then s.contextFault part none 64 0 0 0 8 0
  else if !(s.hbm64 part a).getLsbD 0 then s
  else
    let (s1, o1) := s.loadQueues part (min 64 (s.hbm64 part (a + 8)).toNat) (a + 16)
    let (s2, o2) := s1.loadPkts part (min 65536 (s1.hbm64 part o1).toNat) (o1 + 8)
    let (s3, o3) := s2.loadGrids part (min 65536 (s2.hbm64 part o2).toNat) (o2 + 8)
    if s.poison.any fun q => inRun (Loc.cell ⟨.hbm, part, a⟩ / 64) ((o3 - a) / 64 + 1) q then s.contextFault part none 64 0 0 0 8 0
    else (s3.writeHbm part a [((s.hbm64 part a) &&& ~~~(1 : DWord)).toNat]).correctRun part a (o3 - a)

/-! LULL and ZSIG. -/

/-- The lull wave by software, which debug-handler code does not start (20 R351). -/
def State.lullBy (s : State) (part gid : Nat) (cls : Cls) (pc : DWord) (code : Nat) : State :=
  if cls = .debug then s else s.startWave part (some (gid, pc)) 98 code

/-- LULL (20 R351). -/
def execLull (s : State) : Out :=
  s.issue {} costOne fun s g =>
    .next ((s.finish g s.cur.mask .on 1).lullBy g.part s.cur.gid s.cur.cls s.cur.pc 0)

/-- A ZSIG names PREEMPT, where its bv can be told before a register is read: an immediate, or a scalar that is there and full (02 R59). -/
def State.zsigPre (s : State) (b : BitVec 7) : Bool :=
  match s.curGroup? with
  | none => false
  | some g => (decide (64 ≤ b.toNat) || (b.toNat != 62 && g.has (.s b.toNat) && !g.isEmpty (.s b.toNat))) && valSI g b == 1

/-- ZSIG (13 R271): PREEMPT is privileged. -/
def execZsig (e : Bool) (b : BitVec 7) (f : Bool) (a : BitVec 6) (s : State) : Out :=
  s.issue { priv := s.cur.cls != .debug && s.zsigPre b, srcs := srcS a f :: srcSI b e } costOne fun s g =>
    let bv := valSI g b
    if bv = 0 then
      .next ((s.finish g s.cur.mask .on 1).lullBy g.part s.cur.gid s.cur.cls s.cur.pc (bitsOf (g.sr a.toNat) 0 16))
    else if bv = 1 then
      if s.cur.cls = .debug then .next ((s.finish g s.cur.mask .on 1).requestDrain g.part)
      else .next (s.raise (s.untouched g) s.cur.mask 2 0 none 0)
    else .next (s.raise (s.untouched g) s.cur.mask 34 0 none 0)

end Sys2Proof.Machine
end

