-- ==== Sys2Proof/Machine/Faults.lean ====
section
/-! DEFINITION. The partition fault queue (18 R324 to R326), handler entry (18 R318) and the loss of links (18 R335, 22 R376). -/

namespace Sys2Proof.Machine

/-! The fault ring (18 R324, R325). -/

/-- log2 of the ring's records: values outside 4 to 12 act as 4. -/
def Part.fqLog (p : Part) : Nat :=
  let x := bitsOf (p.reg 0x300) 1 4
  if 4 ≤ x ∧ x ≤ 12 then x else 4

def Part.fqWrite (p : Part) : Nat := (p.reg 0x308).toNat
def Part.fqRead (p : Part) : Nat := (p.reg 0x310).toNat

/-- Where the next record goes, if the ring can take one: ADDR and LOG2N both 0 configure none, a record beyond the HBM share
has no place, and a ring in host memory waits in HOST-LOST (18 R335). -/
def State.fqPlace (s : State) (part : Nat) : Option Loc :=
  let p := s.part part
  let b := p.reg 0x300
  let off := bitsOf b 12 52 * 4096 + 64 * (p.fqWrite % 2 ^ p.fqLog)
  if bitsOf b 12 52 = 0 ∧ bitsOf b 1 4 = 0 then none
  else if 2 ^ p.fqLog ≤ p.fqWrite - p.fqRead then none
  else if b.getLsbD 0 then (if s.hostLost then none else some ⟨.host, part, off⟩)
  else if off + 64 ≤ p.hbmSize then some ⟨.hbm, part, off⟩ else none

/-- The eight words of a record (18 R325). -/
def FRec.words (r : FRec) : List Nat :=
  [r.id % 2 ^ 32 * 2 ^ 32 + r.kind % 256 * 2 ^ 16 + r.cause % 256, r.va.toNat, r.pc.toNat,
   r.chan % 16 * 2 ^ 36 + r.engine % 16 * 2 ^ 32 + r.whereW.toNat, r.code.toNat, r.time.toNat, 0, 0]

/-- FAULT_RECORD_WRITE: the oldest waiting record, then FQWRITE, then the fault interrupt. -/
def execFaultRecordWrite (part : Nat) (s : State) : Out :=
  let p := s.part part
  match p.frecs, s.fqPlace part with
  | r :: rest, some l =>
    let s1 := { s.store l (r.words.flatMap (toBytes 8)) with irqs := (part, 0) :: s.irqs }
    .next ((s1.cleanse l 64).modPart part fun p =>
      { (p.setReg 0x308 (p.reg 0x308 + 1)) with frecs := rest })
  | _, _ => .fault (.notEnabled "FAULT_RECORD_WRITE")

/-! Resuming (18 R326). -/

/-- Take a record's stop away. -/
def unstop (id : Nat) (x : Option Nat) : Option Nat := if x = some id then none else x

def OpKind.unstop (id : Nat) : OpKind → OpKind
  | .snap sub d args st stopped => .snap sub d args st (Machine.unstop id stopped)
  | k => k

def Group.unstop (id : Nat) (g : Group) : Group :=
  { g with stopped := Machine.unstop id g.stopped,
           handling := g.handling.map fun h => { h with stopped := Machine.unstop id h.stopped } }

def Part.unstop (id : Nat) (p : Part) : Part :=
  { p with
    colls := p.colls.map fun c => { c with stopped := Machine.unstop id c.stopped }
    queues := p.queues.mapVal fun _ (x : Queue) => { x with stopped := Machine.unstop id x.stopped }
    pkts := p.pkts.map fun k => { k with stopped := Machine.unstop id k.stopped } }

def Chan.unstop (id : Nat) (h : Chan) : Chan :=
  { h with copies := h.copies.map fun y => { y with stopped := Machine.unstop id y.stopped } }

def Core.unstop (id : Nat) (x : Core) : Core := { x with chans := x.chans.mapVal fun _ h => h.unstop id }

def Cluster.unstop (id : Nat) (x : Cluster) : Cluster :=
  { x with tq := x.tq.map fun y => { y with stopped := Machine.unstop id y.stopped } }

/-- A queue that waited for its descriptor reads it again, one that waited for a slot reads the slot again. -/
def State.queueAgain (s : State) (part q : Nat) : State :=
  let x := (s.part part).queue q
  if x.st = 1 then s.prefetch part q
  else if (s.part part).enabled q then s.readQueue part q (x.st == 2) else s

/-- The work a record stopped goes on: its access is reissued by the agent that made it. -/
def State.resumeWork (s : State) (part id : Nat) : State :=
  let p := s.part part
  let qs := (p.queues.filter fun y => y.2.stopped == some id).map (·.1)
  let gs := (s.grids.filter fun y => y.2.part == part && y.2.stopped == some id && y.2.cuts.isNone).map (·.1)
  let mine (q : Nat) : Bool := q == part
  let s1 :=
    { s with
      groups := s.groups.mapVal fun _ (g : Group) => if mine g.part then g.unstop id else g
      ops := s.ops.mapVal fun _ (o : Op) => if mine o.part then { o with kind := o.kind.unstop id } else o
      grids := s.grids.mapVal fun _ (x : Grid) => if mine x.part then { x with stopped := unstop id x.stopped } else x
      cores := s.cores.mapVal fun i (x : Core) => if p.clusters.contains (i / 4) then x.unstop id else x
      clusters := s.clusters.mapVal fun i (x : Cluster) => if p.clusters.contains i then x.unstop id else x }
  let s2 := s1.modPart part fun p => { p.unstop id with resumable := p.resumable.filter (· != id) }
  let s3 := gs.foldl (fun s i => s.loadCuts part i) (qs.foldl (fun s q => s.queueAgain part q) s2)
  if p.ppWaits.any fun x => x.1 == id then (s3.ppResume part id).rouseBarriers part else s3

/-- The debug slot of a partition waits for a record (20 R343). -/
def State.debugWaits (s : State) (part id : Nat) : Bool :=
  s.groups.any fun x => x.2.kind == .debug && x.2.part == part && x.2.stopped == some id

/-- FQRESUME: a restartable record not yet resumed; work whose record still waits for the ring stays stopped (18 R324); a
freeze holds the resume back (20 R348), but for the debug slot's own accesses, which it does not stop (R343). -/
def execFqresume (part : Nat) (value : BitVec 64) (s : State) : Out :=
  let id := bitsOf value 0 32
  let p := s.part part
  if !s.hostOpen part then .fault (.notEnabled "FQRESUME")
  else if !p.resumable.contains id || p.frecs.any (fun r => r.id == id) then .next s
  else if p.stoppedAll && !s.debugWaits part id then
    .next (s.modPart part fun p => { p with heldResumes := p.heldResumes ++ [id], resumable := p.resumable.filter (· != id) })
  else .next (s.resumeWork part id)

/-! Handler entry (18 R318). -/

/-- HANDLER_ENTRY: an IDLE group with a parked sub-warp, from the cycle after the trap or the RTRAP on, while its scheduler
partition is not frozen; with cr.TRAPVEC now 0 the sub-warp's cause is a context fault. -/
def execHandlerEntry (gid : Nat) (s : State) : Out :=
  match s.group? gid with
  | none => .fault (.notEnabled "HANDLER_ENTRY")
  | some g =>
    let p := s.part g.part
    let sp := s.sp (spIdOf gid)
    if g.handling.isSome || g.parked.isEmpty || (decide (p.clock < g.enterAt) && sp.step == 0) || p.faulted ||
        (sp.frozen && sp.step != 1) then
      .fault (.notEnabled "HANDLER_ENTRY")
    else match p.trapVec == 0, g.parked.head? with
      | true, some x => .next (s.contextFault g.part (some gid) x.cause x.va x.pc 0 0 (x.code.setWidth 64))
      | _, _ => .next (s.enterHandler gid g)

/-! Loss of links. -/

/-- A run of flat space reaches host memory. -/
def State.inHost (s : State) (part : Nat) (need : Need) (va : DWord) (n : Nat) : Bool :=
  match s.resolveFlat (engineOf part) need va n with
  | .ok ps => ps.any fun p => p.loc.space == .host
  | .error _ => false

/-- A queue's ring, descriptor or a signal of its started packets lies in host memory (18 R335). -/
def State.queueInHost (s : State) (part q : Nat) (x : Queue) : Bool :=
  s.inHost part .load ((s.part part).descVa q) 64 ||
  ((List.range (max 1 (2 ^ x.log2n / 64))).any fun i => s.inHost part .load (x.ring + BitVec.ofNat 64 (4096 * i)) 64) ||
  ((s.part part).pktsOf q).any fun k =>
    (pktSig k.words != 0 && s.inHost part .load (pktSig k.words) 8) ||
    (pktType k.words == 2 && (upTo 1 5).any fun i =>
      (k.words[i]?).getD 0 != 0 && s.inHost part .load ((k.words[i]?).getD 0) 8) ||
    (pktType k.words == 4 && s.inHost part .load ((k.words[1]?).getD 0) 8)

/-- What a queue becomes when the host link is lost. -/
def State.loseQueue (s : State) (part q : Nat) : State :=
  let x := (s.part part).queue q
  if x.st ≠ 1 ∧ x.st ≠ 2 then s
  else if s.queueInHost part q x then s.putQueue part q { x with st := 3, code := 5 }
  else s.stopIdle part q

/-- HOST_LINK_LOST (18 R335). -/
def execHostLinkLost (s : State) : Out :=
  if s.hostLost || s.devResetting then .fault (.notEnabled "HOST_LINK_LOST")
  else
    let s1 := { s with hostLost := true }
    .next (s1.parts.foldl (fun s x => x.2.queues.foldl (fun s y => s.loseQueue x.1 y.1) s) s1)

/-- CXL_LINK_DOWN (22 R376): each partition with a share on the port gets one NOTICE record. -/
def execCxlLinkDown (port : Nat) (s : State) : Out :=
  if !s.cxlPorts.contains port || s.cxlDown.contains port then .fault (.notEnabled "CXL_LINK_DOWN")
  else
    let s1 := { s with cxlDown := port :: s.cxlDown }
    let first := 4096 * (indexIn s.cxlPorts port).getD 0
    .next (s1.parts.foldl (fun s x => if first < x.2.tierSize then s.record x.1 3 71 0 0 0 7 0 0 else s) s1)

end Sys2Proof.Machine
end

