-- ==== Sys2Proof/Machine/Resets.lean ====
section
/-! DEFINITION. Partition and device resets (18 R333, R334; 12 R240) and power-on. -/

namespace Sys2Proof.Machine

/-- A reset has begun: nothing of the partition moves until it is done, and PRESET.BUSY reads 1 (18 R333). -/
def State.beginReset (s : State) (part : Nat) : State :=
  let s1 := { s with groups := s.groups.keep fun gid g => !(g.part == part && slotOf gid == 16) }
  ((s1.modPart part fun p =>
    { (p.setReg 0x360 2) with resetting := true, stoppedAll := true, wave := none, resumeAt := none, dbgStart := none,
                              dbgRun := none, dump := none }).freeze (s1.part part).spList)

/-- PRESET: a write of 1 to bit 0. -/
def execPreset (part : Nat) (value : BitVec 32) (s : State) : Out :=
  if !s.hostOpen part then .fault (.notEnabled "PRESET")
  else if value.getLsbD 0 then .next (s.beginReset part) else .next s

/-- VF_FUNCTION_LEVEL_RESET. -/
def execVfFunctionLevelReset (part : Nat) (s : State) : Out :=
  if s.hostLost || s.devResetting || s.mc.recovery || decide (48 ≤ part) then .fault (.notEnabled "VF_FUNCTION_LEVEL_RESET")
  else .next (s.beginReset part)

/-- Every tree of a partition is discarded (12 R242). -/
def State.dropTrees (s : State) (part : Nat) : State :=
  (List.range 64).foldl (fun s t =>
    if (s.part part).treeValid t || (s.part part).discarding.contains t then s.freeTree part t else s) s

/-- The cells of vaults of some clusters. -/
def vaultCell (cs : List Nat) (i : Nat) : Bool :=
  decide (Space.vault.code * 2 ^ 128 ≤ i) && decide (i < (Space.vault.code + 1) * 2 ^ 128) && cs.contains (i / 2 ^ 64 % 2 ^ 64)

/-- What a partition keeps across its reset: its clusters, shares, key and node range, which the management controller sets; the
function's memory-enable bit; its soft-error counts; and that the loss of the host was noted. -/
def Part.afterReset (p : Part) : Part :=
  { Part.reset with
    clusters := p.clusters, hbmSize := p.hbmSize, tierSize := p.tierSize, key := p.key, memEnable := p.memEnable
    bar := Store.set [] 0x400 (p.reg 0x400), softCorr := p.softCorr, softUnc := p.softUnc, lossNoted := p.lossNoted }

/-- The state a partition reset leaves (18 R333). -/
def State.resetPart (s : State) (part : Nat) : State :=
  let s1 := ((s.resetSignals part (s.part part).pkts).disableQueues part).dropTrees part
  let cs := (s.part part).clusters
  let s2 := ((s1.discardWork part).clearCells (vaultCell cs)).tlbDrop fun t => t.part == part
  { s2 with
    groups := s2.groups.keep fun _ g => g.part != part
    ops := s2.ops.keep fun _ o => o.part != part
    accs := s2.accs.keep fun _ a => a.part != part
    sps := s2.sps.mapVal fun i (x : Sp) => if cs.contains (i / 16) then Sp.reset else x
    dies := s2.dies.mapVal fun _ (d : Die) => { d with walks := d.walks.filter fun w => w.part != part }
    poison := s2.poison.filter fun l => !vaultCell cs (l * 64)
    weak := s2.weak.filter fun l => !vaultCell cs (l * 64)
    parts := s2.parts.set part (s2.part part).afterReset }

/-- PARTITION_RESET_COMPLETE. -/
def execPartitionResetComplete (part : Nat) (s : State) : Out :=
  if (s.part part).resetting && !s.devResetting then .next (s.resetPart part)
  else .fault (.notEnabled "PARTITION_RESET_COMPLETE")

/-- A whole-device reset begins: the host port accepts nothing, and no partition moves (18 R334). -/
def State.beginDeviceReset (s : State) : State :=
  s.parts.foldl (fun s x => s.beginReset x.1) { s with devResetting := true, mc := { s.mc with booting := true } }

/-- DEVICE_RESET: a function-level reset of the physical function. In HOST-LOST it is the way out (18 R335). -/
def execDeviceReset (s : State) : Out :=
  if s.devResetting then .fault (.notEnabled "DEVICE_RESET") else .next s.beginDeviceReset

/-- MC_DEVICE_RESET: the management controller's command, which its port carries in a reset and in recovery too (22 R379). -/
def execMcDeviceReset (s : State) : Out := .next s.beginDeviceReset

/-- DEVICE_RESET_COMPLETE: every partition is as R333 leaves it, every vault and scratchpad is zero, the store's nodes are FREE
(12 R240, R244), the cycle count is 0 (08 R192) while domain time goes on (20 R349), and the links are up again (18 R335, 22 R376). -/
def execDeviceResetComplete (s : State) : Out :=
  if !s.devResetting || s.mc.booting || s.mc.recovery then .fault (.notEnabled "DEVICE_RESET_COMPLETE")
  else
    let s1 := s.parts.foldl (fun s x => s.resetPart x.1) s
    let all := List.range 192
    .next { s1 with
      mem := s1.mem.drop (vaultCell all), late := ⟨[], none⟩, weak := s1.weak.filter fun l => !vaultCell all (l * 64), poison := s1.poison.filter fun l => !vaultCell all (l * 64)
      nodes := [], cores := [], clusters := [], dies := [], sps := [], flits := [], now := 0, dtimeOff := s1.dtimeOff + s1.now
      hostLost := false, cxlDown := [], devResetting := false, parts := s1.parts.mapVal fun _ (p : Part) => { p with lossNoted := false } }

/-- The controller boots the flash image where its signature verifies and its version is at least the counter, which rises to
it; else it enters recovery (22 R381). -/
def Mc.boot (m : Mc) : Mc :=
  if m.flash.2.2 && decide (m.counter.toNat ≤ m.flash.2.1.toNat) then
    { m with running := (m.flash.1, m.flash.2.1), counter := m.flash.2.1, recovery := false, booting := false, ram := none }
  else { m with recovery := true, booting := false }

/-- DEVICE_POWER_ON: the device right after device reset, with the flash, the fuses and the partition settings that the
management controller holds (12 R240, 22 R379, R381). -/
def execDevicePowerOn (s : State) : Out :=
  let m := Mc.boot { s.mc with ram := none, alg := 0, replies := [] }
  .next { State.reset with agenda := s.agenda, fresh := s.fresh, mc := m, devResetting := m.recovery, cxlPorts := s.cxlPorts }

end Sys2Proof.Machine
end

