-- ==== Sys2Proof/Machine/Select.lean ====
section
/-! DEFINITION. Candidates of a scheduler partition: the issue each group would make in each class (01 R16 to R19; 16 R307,
R308; 20 R343, R352), and the PC comparators (20 R345). Whether a candidate can issue in a clock is what its instruction says. -/

namespace Sys2Proof.Machine

/-! The issue PC of a group's ordinary class. -/

/-- A lane that could issue but for its meeting point. -/
def Lane.free (l : Lane) : Bool := l.isLive && !l.parked && l.hold.isNone

/-- The repeat in progress goes on (02 R55). -/
def Group.repCand (g : Group) (r : Rep) : Option (DWord × Mask × Bool) :=
  let m := r.mask &&& g.lanesWhere Lane.free
  if m = 0 then none else some (r.pc, m, true)

/-- A lane waits as a signer of a convergence register. -/
def Lane.signs (l : Lane) : Bool := match l.hold with | some (.sign _) => true | _ => false

/-- Signers whose MMA an EXIT brought about are the next issue (09 R200). -/
def Group.forcedCand (g : Group) : Option (DWord × Mask × Bool) :=
  g.forced.findSome? fun x =>
    let m := x.2 &&& g.lanesWhere Lane.signs
    if m = 0 then none else some (x.1, m, false)

/-- Candidate lanes at an address: of a meeting's released threads, those alone (01 R19). -/
def Group.lanesAt (g : Group) (pc : DWord) : Mask :=
  if g.relq.head? = some pc then g.lanesWhere fun l => l.cand && l.pc == pc && l.rel
  else g.lanesWhere fun l => l.cand && l.pc == pc

/-- The first meeting value whose released threads have still to issue. -/
def Group.relCand (g : Group) : Option (DWord × Mask × Bool) :=
  match g.relq with
  | [] => none
  | m :: _ =>
    let w := g.lanesAt m
    if w = 0 then none else some (m, w, false)

/-- The candidate lane that R17 follows: the greatest age from 64 on, lowest lane first; else the lowest PC. -/
def Group.leader (g : Group) : Option Lane :=
  let cs := g.lanes.filter Lane.cand
  let old := cs.foldl (fun (b : Option Lane) l => match b with
    | none => some l
    | some x => if x.age < l.age then some l else some x) none
  match old with
  | none => none
  | some x =>
    if 64 ≤ x.age then some x
    else cs.foldl (fun (b : Option Lane) l => match b with
      | none => some l
      | some y => if l.pc.toNat < y.pc.toNat then some l else some y) none

/-- The choice of R17. -/
def Group.ageCand (g : Group) : Option (DWord × Mask × Bool) :=
  match g.leader with
  | none => none
  | some l => some (l.pc, g.lanesWhere fun x => x.cand && x.pc == l.pc, false)

/-- The address at which the group waits without choosing another (01 R18). -/
def Group.waitCand (g : Group) : Option (DWord × Mask × Bool) :=
  match g.waitPc with
  | none => none
  | some pc => if g.lanesAt pc = 0 then none else some (pc, g.lanesAt pc, false)

/-- The next issue of a group that repeats nothing. -/
def Group.otherIssue (g : Group) : Option (DWord × Mask × Bool) :=
  g.forcedCand.or ((g.waitCand.or g.relCand).or g.ageCand)

/-- The group's next issue of the ordinary class: address, active set, and whether it is a repeat. While repeats are to follow the group
issues at no other address, also where all their lanes wait at one (02 R55). -/
def Group.nextIssue (g : Group) : Option (DWord × Mask × Bool) :=
  match g.rep with
  | some r => if r.mask &&& g.lanesWhere (fun l => l.isLive && !l.parked) = 0 then g.otherIssue else g.repCand r
  | none => g.otherIssue

/-! Candidates by class. -/

/-- A candidate as an issue, before its instruction is fetched. -/
def candCur (gid : Nat) (cls : Cls) (x : DWord × Mask × Bool) : Cur :=
  { gid, cls, pc := x.1, mask := x.2.1, len := 4, cost := 1, rep := x.2.2, defer := none, others := [], waiters := [] }

/-- The ordinary class: not by SLEEP or YIELD ineligible, not stopped by a record, no operation to complete first. -/
def ordinaryCand (gid : Nat) (g : Group) : Option Cur :=
  if g.kind == .debug || g.stopped.isSome || g.serial.isSome || g.sleep != 0 || g.yield.isSome then none
  else g.nextIssue.map (candCur gid .ordinary)

/-- The trap-handler class (18 R319): from its start on; a step takes a handler that was entered in it (20 R352). -/
def handlerCand (clock step gid : Nat) (g : Group) : Option Cur :=
  match g.handling with
  | none => none
  | some h =>
    if h.stopped.isSome || h.yield.isSome || decide (clock + (if step = 0 then 0 else 1) < h.start) then none
    else some (candCur gid .handler (h.pc, (1 : Mask) <<< h.lane, h.rep.isSome))

/-- The debug slot (20 R343): not past a DUMP or a DSTEP that has not ended. -/
def debugCand (dumping : Bool) (gid : Nat) (g : Group) : Option Cur :=
  if g.kind != .debug || !(g.lane 0).isLive || dumping || g.stopped.isSome || g.serial.isSome || g.sleep != 0 || g.yield.isSome then none
  else some (candCur gid .debug ((g.lane 0).pc, 1, g.rep.isSome))

/-- The groups of a scheduler partition. -/
def State.spGroups (s : State) (sp : Nat) : List (Nat × Group) := s.groups.filter fun x => spIdOf x.1 == sp

/-- The debug slot waits for a dump, or for a step of a scheduler partition of its job. -/
def State.debugHeld (s : State) (part : Nat) : Bool :=
  (s.part part).dump.isSome || (s.part part).spList.any fun i => (s.sp i).step != 0

/-- Candidates of the debug-handler class. -/
def State.debugCands (s : State) (sp : Nat) : List (Nat × Cur) :=
  (s.spGroups sp).filterMap fun x => (debugCand (s.debugHeld x.2.part) x.1 x.2).map fun c => (0, c)

/-- A scheduler partition selects in its trap-handler and ordinary classes: it is not frozen, or it is being stepped. -/
def State.selects (s : State) (sp : Nat) : Bool := !(s.sp sp).frozen || (s.sp sp).step == 1

/-- Candidates of the trap-handler class with the order of their entry. -/
def State.handlerCands (s : State) (sp : Nat) : List (Nat × Cur) :=
  if !s.selects sp then []
  else (s.spGroups sp).filterMap fun x =>
    if (s.part x.2.part).faulted then none
    else (handlerCand (s.part x.2.part).clock (s.sp sp).step x.1 x.2).map fun c =>
      ((x.2.handling.map (·.entered)).getD 0, c)

/-- Candidates of the ordinary class with the order of their formation. -/
def State.ordinaryCands (s : State) (sp : Nat) : List (Nat × Cur) :=
  if !s.selects sp then []
  else (s.spGroups sp).filterMap fun x =>
    if (s.part x.2.part).faulted then none else (ordinaryCand x.1 x.2).map fun c => (x.2.formed, c)

/-- An issue's later clocks hold the scheduler partition (01 R14). -/
def State.spBusy (s : State) (sp : Nat) : Bool := decide (s.now.toNat < (s.sp sp).busy)

/-- Of candidates with a rank, the lowest rank first, then the lowest slot. -/
def insertCand (x : Nat × Cur) : List (Nat × Cur) → List (Nat × Cur)
  | [] => [x]
  | y :: r => if x.1 < y.1 ∨ (x.1 = y.1 ∧ x.2.gid ≤ y.2.gid) then x :: y :: r else y :: insertCand x r

def sortCands (xs : List (Nat × Cur)) : List (Nat × Cur) := xs.foldr insertCand []

/-! PC comparators (20 R344, R345). -/

/-- Comparator n of the core matches an issue of a group. -/
def State.cmpMatches (s : State) (c : Cur) (g : Group) (n : Nat) : Bool :=
  let bk := (s.core (coreOf c.gid)).bks
  let f := bk.get (0x70 + n)
  let a := pair64 (bk.get (0x60 + 2 * n)) (bk.get (0x61 + 2 * n)) &&& ~~~(1 : DWord)
  let q := ((s.teams.get? g.team).bind fun t => s.grids.get? t.grid).map (·.queue)
  f.getLsbD 31 && a == c.pc && (f.getLsbD 30 || q == some (bitsOf f 24 6)) && f.getLsbD (16 + spOf c.gid) &&
  f.getLsbD (slotOf c.gid)

/-- Lanes of a mask resume a REP after its first repeat (02 R57). -/
def Group.midRep (g : Group) (m : Mask) : Bool :=
  g.lanes.zipIdx.any fun (x : Lane × Nat) => maskBit m x.2 && (x.1.resume.getD 0 != 0)

/-- The lowest comparator that matches an issue: of the ordinary class, not a repeat or the rest of a REP, not exempt, not made under DSTEP. -/
def State.comparator (s : State) (c : Cur) : Option Nat :=
  match s.group? c.gid with
  | none => none
  | some g =>
    if c.cls != .ordinary || c.rep || g.midRep c.mask || g.passOnce == some c.pc || (s.sp (spIdOf c.gid)).step != 0 then none
    else (List.range 8).find? (s.cmpMatches c g)

/-- PC_MATCH (20 R345): in place of the issue the group's candidate would make, the scheduler partition stops; the group's next
issue at that address is exempt. -/
def execPcMatch (gid cmp : Nat) (s : State) : Out :=
  match s.group? gid with
  | none => .fault (.notEnabled "PC_MATCH")
  | some g =>
    match ordinaryCand gid g with
    | none => .fault (.notEnabled "PC_MATCH")
    | some c =>
      if s.comparator c ≠ some cmp ∨ (s.sp (spIdOf gid)).frozen then .fault (.notEnabled "PC_MATCH")
      else
        .next ((s.setGroup gid { g with passOnce := some c.pc, matched := true }).startWave g.part (some (gid, c.pc)) 96 cmp)

end Sys2Proof.Machine
end

