-- ==== Sys2Proof/Machine/Tiles.lean ====
section
/-! DEFINITION. Tiles by lane and whole tiles (08 R186 to R188). -/

namespace Sys2Proof.Machine

/-- Write words of a tile from lanes that reach it (08 R186). -/
def Group.writeT (g : Group) (t : Nat) (m : Mask) (at' : Nat → Nat) (f : Nat → Word) : Group :=
  { g with t := Store.setAll (((lanesOf m).filter (decide <| · < 32)).map fun j => (t * 1024 + at' j, f j)) g.t }

/-- A tile and an index scalar: an index of 32 or more is Register-bound (08 R187). -/
def tileRead (s : State) (i : Instr) (sc : BitVec 6) (v : BitVec 7) (t : BitVec 4) (at' : Nat → Nat → Nat) : Out :=
  s.issue { srcs := [⟨.t t.toNat, false⟩, srcS sc false], dests := [.v v.toNat], defer := some i } costOne fun s g =>
    let i := (g.sr sc.toNat).toNat
    if 32 ≤ i then .next (s.raise (s.untouched g) s.cur.mask 3 0 (some (.v v.toNat)) 0)
    else s.done (g.writeV v.toNat s.cur.mask fun j => if j < 32 then g.tw t.toNat (at' i j) else 0) s.cur.mask .on 1 none

def tileWrite (s : State) (i : Instr) (sc : BitVec 6) (v : BitVec 7) (t : BitVec 4) (at' : Nat → Nat → Nat) : Out :=
  s.issue { srcs := [srcV v false, srcS sc false], dests := [.t t.toNat], defer := some i } costOne fun s g =>
    let i := (g.sr sc.toNat).toNat
    if 32 ≤ i then .next (s.raise (s.untouched g) s.cur.mask 3 0 (some (.t t.toNat)) 0)
    else s.done (g.writeT t.toNat s.cur.mask (at' i) fun j => g.vr v.toNat j) s.cur.mask .on 1 none

def execTrdr (sc : BitVec 6) (v : BitVec 7) (t : BitVec 4) (s : State) : Out := tileRead s (.trdr sc v t) sc v t fun i j => i * 32 + j
def execTrdc (sc : BitVec 6) (v : BitVec 7) (t : BitVec 4) (s : State) : Out := tileRead s (.trdc sc v t) sc v t fun i j => j * 32 + i
def execTwrr (sc : BitVec 6) (v : BitVec 7) (t : BitVec 4) (s : State) : Out := tileWrite s (.twrr sc v t) sc v t fun i j => i * 32 + j
def execTwrc (sc : BitVec 6) (v : BitVec 7) (t : BitVec 4) (s : State) : Out := tileWrite s (.twrc sc v t) sc v t fun i j => j * 32 + i

/-- A tile without its words. -/
def Group.clearT (g : Group) (t : Nat) : Group := { g with t := g.t.drop fun c => c / 1024 == t }

/-- TZERO (08 R188). -/
def execTzero (t : BitVec 4) (s : State) : Out :=
  s.issue { dests := [.t t.toNat] } costOne fun s g => s.done (g.clearT t.toNat) s.cur.mask .on 1 none

/-- TMOV (08 R188); where the scalar comes with a flit the tile it names is read then (13 R275). -/
def execTmov (sc : BitVec 6) (t : BitVec 4) (s : State) : Out :=
  s.issue { srcs := [srcS sc false], dests := [.t t.toNat], defer := some (.tmov sc t),
            old := (s.indexed 0 sc.toNat).toList.map .t } costOne fun s g =>
    let k := (g.sr sc.toNat).toNat
    let g0 := s.untouched g
    if g.nt ≤ k then .next (s.raise g0 s.cur.mask 3 0 (some (.t t.toNat)) 0)
    else if k ≠ t.toNat ∧ g0.isEmpty (.t k) then .next (s.waitAt g0 (s.emptyWhy g0 [.t k]))
    else s.done (if k = t.toNat then g else { g with t := (g.clearT t.toNat).t.setRange (t.toNat * 1024) (g0.t.range (k * 1024) 1024) })
      s.cur.mask .on 1 none

end Sys2Proof.Machine
end

