-- ==== Sys2Proof/Machine/Views.lean ====
section
/-! DEFINITION. Views: VIEW, casting rays and completion (11 R225 to R231, R234, R235). -/

namespace Sys2Proof.Machine

/-- The camera scalars with what its rays are formed from (11 R226). -/
structure Camera where
  o : List Word
  h : Word
  near : Word
  far : Word
  rows : V3 × V3 × V3
  deriving DecidableEq, Repr

def camW (ws : List Word) (i : Nat) : Word := (ws[i]?).getD 0

/-- n2, the squared length of the orientation quaternion. -/
def camN2 (ws : List Word) : Word :=
  let q (i : Nat) : Word := fmul (camW ws i) (camW ws i)
  fadd (fadd (fadd (q 3) (q 4)) (q 5)) (q 6)

/-- A camera is bad (11 R226). -/
def cameraBad (ws : List Word) : Bool :=
  ((List.range 10).any fun i => !ffinite (camW ws i)) || feq (camN2 ws) 0 || !ffinite (camN2 ws) ||
  !flt 0 (camW ws 7) || flt (camW ws 8) 0 || !flt (camW ws 8) (camW ws 9)

def cameraOf (ws : List Word) : Camera :=
  let s := frsqrt (camN2 ws)
  let n (i : Nat) : Word := fmul (camW ws i) s
  { o := ws.take 3, h := camW ws 7, near := camW ws 8, far := camW ws 9, rows := quatRows (n 3) (n 4) (n 5) (n 6) }

/-- The direction of pixel k of a P × P image (11 R226). -/
def Camera.dir (c : Camera) (p k : Nat) : List Word :=
  let i : Int := ((k % p : Nat) : Int)
  let j : Int := ((k / p : Nat) : Int)
  let q (n : Int) : Word := fmul (fdiv (fDyadic n 0) (fDyadic p 0)) c.h
  let v : V3 := ⟨q (2 * i + 1 - p), q (p - 2 * j - 1), 0xBF800000⟩
  [c.rows.1.dot v, c.rows.2.1.dot v, c.rows.2.2.dot v]

/-- Slots of a level's pool (11 R234). -/
def Part.viewPool (p : Part) : Nat := if p.viewV = 0 then 64 else 64 / p.viewV
def Cluster.viewsOf (c : Cluster) (level : Nat) : Nat := (c.views.filter fun x => x.2.level == level).length

/-- VIEW (11 R225, R227). -/
def execView (b a : BitVec 6) (r : BitVec 3) (t : BitVec 4) (s : State) : Out :=
  s.issue { legal := .ordinary, srcs := srcSs a.toNat 10 false ++ [srcS b false], dests := [.t t.toNat, .s b.toNat] } costOne
    fun s g =>
      let ws := (upTo a.toNat 10).map g.sr
      let p := s.part g.part
      let cl := clusterOf s.cur.gid
      let now (status : Word) : Out :=
        s.done (s.writeS s.cur.gid (g.clearT t.toNat) b.toNat status) s.cur.mask .on 1 none
      if p.viewV ≤ g.level then now 2
      else match s.cutOf g (g.sr b.toNat).toNat with
        | none => now 3
        | some cut =>
          if cameraBad ws then now 4
          else if s.waitsBefore s.cur.gid (s.untouched g) true || decide (p.viewPool ≤ (s.cluster cl).viewsOf (g.level + 1)) then
            .next (s.waitPool (s.untouched g) true)
          else
            let slot := lowestFree (s.cluster cl).views
            let x : ViewSlot :=
              { op := s.fresh, gid := s.cur.gid, level := g.level + 1, part := g.part, team := g.team, cut, camera := ws,
                res := r.toNat, tile := t.toNat, stat := b.toNat, nextPix := 0, budget := (p.cr 0x20).toNat, asked := s.fresh, shaded := false, pix := [], lastAt := 0, status := 0,
                order := s.fresh }
            let (s1, g1) := s.produce g .viewTrace [.t t.toNat, .s b.toNat] 0 (.view slot cl)
            .next ((s1.modCluster cl fun c => { c with views := c.views.set slot x }).finish g1 s.cur.mask .on 1)

/-- The first view, in the order of the slots taken, with a ray left to cast and a free entry for it (11 R228). -/
def castNext (free : ViewSlot → Bool) (vs : Tab ViewSlot) : Option (Nat × ViewSlot) :=
  vs.foldl (fun best x =>
    if x.2.nextPix < x.2.pixels ∧ free x.2 then
      match best with
      | some y => if x.2.order < y.2.order then some x else some y
      | none => some x
    else best) none

/-- VIEW_RAY_CAST (11 R228): at most one ray per clock; an entry goes first to an older TRACE that waits for it (R235). -/
def execViewRayCast (cluster : Nat) (s : State) : Out :=
  let c := s.cluster cluster
  let part := (s.partOfCluster cluster).getD 0
  let p := s.part part
  match castNext (fun v => decide (0 < s.raysFree part cluster v.level) && !s.traceBefore cluster v) c.views with
  | none => .fault (.notEnabled "VIEW_RAY_CAST")
  | some (n, v) =>
    if p.stoppedAll || c.castAt == p.clock + 1 then .fault (.notEnabled "VIEW_RAY_CAST")
    else
      let cam := cameraOf v.camera
      let ray : Ray :=
        { op := n, lane := v.nextPix, ofView := true, level := v.level, part, team := v.team, cut := v.cut, o := cam.o,
          d := cam.dir v.side v.nextPix, tmin := cam.near, tbest := cam.far, best := none, budget := v.budget,
          made := 0, pending := 1, status := 0, done := false }
      let (s1, _) := s.addRay cluster p.clock ray
      .next ((s1.modCluster cluster fun c =>
        { c with castAt := p.clock + 1, views := c.views.set n { v with nextPix := v.nextPix + 1, asked := s.fresh } }).takeFresh 1)

/-- The tile a view fills (11 R231). -/
def Group.fillView (g : Group) (v : ViewSlot) : Group :=
  let p := v.side
  { g with t := Store.setAll (v.pix.map fun x => (v.tile * 1024 + x.1 / p * 32 + x.1 % p, x.2)) (g.clearT v.tile).t }

/-- VIEW_COMPLETE (11 R231): in the cycle after the last value arrived. Where shading threads ran, the first reader of b acquires (R238). -/
def execViewComplete (cluster slot : Nat) (s : State) : Out :=
  match (s.cluster cluster).views.get? slot with
  | none => .fault (.notEnabled "VIEW_COMPLETE")
  | some v =>
    let p := s.part v.part
    match s.ops.get? v.op with
    | none => .fault (.notEnabled "VIEW_COMPLETE")
    | some o =>
      if p.stoppedAll || v.pix.length != v.pixels || decide (p.clock ≤ v.lastAt) then .fault (.notEnabled "VIEW_COMPLETE")
      else
        let s1 := s.modCluster cluster fun c => { c with views := c.views.erase slot }
        .next (s1.completeOp v.op o fun s g =>
          let g1 := s.applyWrites o [{ reg := .s v.stat, lane := 0, val := BitVec.ofNat 64 v.status }]
            (if o.dests.contains (.t v.tile) then g.fillView v else g)
          if v.shaded then g1.acquireAt ([Reg.s v.stat].filter o.dests.contains) none else g1)

end Sys2Proof.Machine
end

