-- ==== Sys2Proof/Machine/Admit.lean ====
section
/-! DEFINITION. Issues that the opcode table lists as events of their own: a TRACE that obtains its entries, a VIEW that obtains its
slot (10 R216, 11 R227, R235), a word that is no instruction (02 R59); and what every issue leaves behind in its scheduler
partition. -/

namespace Sys2Proof.Machine

/-- What an issue leaves in its scheduler partition: WAITC rises for the groups it passed over (16 R308), YIELDs wait for
the group no longer (13 R264), the issue is what a sample of the cycle shows (20 R359), and of a DSTEP only accesses and fills
remain (20 R352). -/
def State.afterIssue (t : State) (c : Cur) : State :=
  let sp := spIdOf c.gid
  let s1 := if c.cls = .debug then t
    else t.modSp sp fun q =>
      { q with holder := slotOf c.gid, issued := some (c.pc, slotOf c.gid), elig := c.others.length + 1, step := if q.step = 1 then 2 else q.step }
  { s1 with
    waited := false
    cur := Cur.idle
    groups := s1.groups.mapVal fun i (g : Group) =>
      if spIdOf i ≠ sp then g
      else (if c.waiters.contains i then { g with waitc := g.waitc + 1 } else g).unyield (· == c.gid) }

/-- An issue was made, and the state after it; a wait is none. -/
def issueMade (c : Cur) (x : Out) : Option State :=
  match x with
  | .next t => if t.waited then none else some (t.afterIssue c)
  | _ => none

/-- The issue of a group that waits for a pool, if its scheduler partition is free to make it; `cur` says which groups it passes over, where
the scheduler partition has selected it (log entry 10). -/
def State.blockedIssue (s : State) (gid : Nat) (view : Bool) : Option (Cur × Instr) :=
  match s.group? gid with
  | none => none
  | some g =>
    match g.block, ordinaryCand gid g with
    | some b, some c =>
      if b.pc ≠ c.pc ∨ b.view ≠ view ∨ !s.selects (spIdOf gid) ∨ s.spBusy (spIdOf gid) ∨ c.rep ∨ (s.part g.part).faulted then none
      else match s.fetch (s.issuer gid g) c.pc with
        | .instr i len _ => some ({ c with len, others := s.cur.others, waiters := s.cur.waiters }, i)
        | _ => none
    | _, _ => none

/-- TRACE_ADMIT (10 R216, 11 R235). -/
def execTraceAdmit (gid : Nat) (s : State) : Out :=
  let no : Out := .fault (.notEnabled "TRACE_ADMIT")
  match s.blockedIssue gid false with
  | some (c, .trace b a d) =>
    match issueMade c (execTrace b a d { s with cur := c, waited := false }) with | some t => .next t | none => no
  | some (c, .traces b a d) =>
    match issueMade c (execTraces b a d { s with cur := c, waited := false }) with | some t => .next t | none => no
  | _ => no

/-- VIEW_SLOT_GRANT (11 R227, R235). -/
def execViewSlotGrant (gid : Nat) (s : State) : Out :=
  let no : Out := .fault (.notEnabled "VIEW_SLOT_GRANT")
  match s.blockedIssue gid true with
  | some (c, .view b a r t) =>
    match issueMade c (execView b a r t { s with cur := c, waited := false }) with | some t => .next t | none => no
  | _ => no

/-- A fetched word that is no instruction: Illegal-instruction for the whole active set. -/
def State.illegal (s : State) (len : Nat) : Out :=
  match s.curGroup? with
  | none => .fault .noIssue
  | some g =>
    let s1 := { s with cur := { s.cur with len } }
    .next (s1.raise g s1.cur.mask 1 0 none 0)

/-- ILLEGAL_INSTRUCTION: a 32-bit word that decodes to none, at the issue being made. -/
def execIllegalInstruction (word : BitVec 32) (s : State) : Out :=
  match decode (leBytes 4 word.toNat) with
  | .instr _ _ => .fault (.notEnabled "ILLEGAL_INSTRUCTION")
  | _ => s.illegal 4

end Sys2Proof.Machine
end

