-- ==== Sys2Proof/Machine/Collectives.lean ====
section
/-! DEFINITION. Collectives: CRED, CBCAST and their completion (13 R277 to R281). -/

namespace Sys2Proof.Machine

/-- COLLCFG of an ID (13 R277). -/
def Part.collCfg (p : Part) (id : Nat) : DWord := p.reg (0x600 + 8 * id)

/-- Contributing groups of an instance: LOCAL + 1. -/
def Coll.local (x : Coll) : Nat := bitsOf x.cfg 0 16 + 1
/-- Participating packages besides this one: NPKG. -/
def Coll.others (x : Coll) : Nat := bitsOf x.cfg 16 10

/-- A group may join an instance: there is room, and it has not contributed to it (13 R279). -/
def Coll.open' (x : Coll) (id uid : Nat) : Bool :=
  x.id == id && decide (x.contribs.length < x.local) && !x.contribs.any fun c => c.uid == uid

/-- Add a contributor to the first instance that takes it. -/
def joinColl (id uid : Nat) (c : CContrib) : List Coll → List Coll
  | [] => []
  | x :: r => if x.open' id uid then { x with contribs := x.contribs ++ [c] } :: r else x :: joinColl id uid c r

/-- CRED and CBCAST: a bad argument or an ID that is not configured is answered at once; else the lanes wait (13 R279, R280). -/
def collOp (s : State) (cast : Bool) (b : BitVec 6) (a : BitVec 5) (d : BitVec 6) : Out :=
  s.issue { legal := .ordinary, srcs := srcSs (2 * a.toNat) 4 false ++ [srcS b false], dests := [.s d.toNat] } costOne
    fun s g =>
      let x := g.sr b.toNat
      let src := g.sr64 (2 * a.toNat)
      let dst := g.sr64 (2 * a.toNat + 2)
      let id := bitsOf x 0 6
      let bad := bitsOf x 6 3 != 0 || (if cast then bitsOf x 10 2 != 0 else x.getLsbD 9) || src.toNat % 4 != 0 ||
        dst.toNat % 4 != 0
      let p := s.part g.part
      let found := p.colls.any fun y => y.open' id g.uid
      let answer (y : Word) : Out := s.done (s.writeS s.cur.gid g d.toNat y) s.cur.mask .on 1 none
      if bad then answer 4
      else if !found && !(p.collCfg id).getLsbD 63 then answer 5
      else
        let c : CContrib :=
          { gid := s.cur.gid, uid := g.uid, src, dst, count := bitsOf x 12 20 + 1,
            op := if cast then 4 else bitsOf x 10 2, root := cast && x.getLsbD 9, d := d.toNat, mask := s.cur.mask, key := s.fresh }
        let s1 := s.modPart g.part fun q =>
          { q with colls := if found then joinColl id g.uid c q.colls
                            else q.colls ++ [{ id, cfg := q.collCfg id, contribs := [c], stopped := none, lost := false }] }
        .next ((s1.takeFresh 1).finish (g.holdAt s.cur.mask (.collective id)) s.cur.mask .wait 1)

def execCred (b : BitVec 6) (a : BitVec 5) (d : BitVec 6) (s : State) : Out := collOp s false b a d
def execCbcast (b : BitVec 6) (a : BitVec 5) (d : BitVec 6) (s : State) : Out := collOp s true b a d

/-! The tree. -/

/-- One combine of two elements by OP (13 R279). -/
def collCombine (op : Nat) (x y : Word) : Word :=
  if op = 0 then x + y else if op = 1 then fadd x y else if op = 2 then (if x.slt y then y else x) else fmax x y

/-- Combine lists of elements in pairs at steps 1, 2, 4, … (08 R180); none where there is no list. -/
def collTree (op : Nat) (xs : List (List Word)) : Option (List Word) :=
  match xs with
  | [] => none
  | y :: _ =>
    some ((List.range y.length).map fun i =>
      ((reduceTree (fun p q => (collCombine op p q, 0)) (Nat.log2 xs.length + 1)
        (xs.map fun l => some ((l[i]?).getD 0, 0))).map (·.1)).getD 0)

/-- Two die results, of which one may be absent. -/
def collJoin (op : Nat) (x y : Option (List Word)) : Option (List Word) :=
  match x, y with
  | none, q => q
  | p, none => p
  | some p, some q => some (p.zipWith (collCombine op) q)

/-- Contributors by place: linear core, scheduler partition and slot (13 R279). -/
def insertContrib (c : CContrib × List Word) : List (CContrib × List Word) → List (CContrib × List Word)
  | [] => [c]
  | x :: r => if c.1.gid ≤ x.1.gid then c :: x :: r else x :: insertContrib c r

/-- The package's result: each die in order of place, then the dies at the gateways (13 R279). -/
def packageResult (op : Nat) (cs : List (CContrib × List Word)) : List Word :=
  let sorted := cs.foldr insertContrib []
  let die (n : Nat) := collTree op ((sorted.filter fun x => dieOf x.1.gid == n).map (·.2))
  (collJoin op (collJoin op (die 0) (die 1)) (collJoin op (die 2) (die 3))).getD []

/-- Insert the result of a package in ascending order of ID. -/
def insertPkg (x : Nat × List Word) : List (Nat × List Word) → List (Nat × List Word)
  | [] => [x]
  | y :: r => if x.1 ≤ y.1 then x :: y :: r else y :: insertPkg x r

/-- The words of a run of bytes. -/
def collWords (bs : List Byte) (n : Nat) : List Word :=
  (List.range n).map fun i => BitVec.ofNat 32 (ofBytes ((bs.drop (4 * i)).take 4))

/-- Who a contributor resolves addresses for. -/
def State.collIssuer (s : State) (part : Nat) (c : CContrib) : Issuer :=
  match s.group? c.gid with
  | some g => if g.uid = c.uid then { s.issuer c.gid g with path := some .co } else engineOn part .co
  | none => engineOn part .co

/-- The sources of the contributors, each read in full (13 R279), or the first cause with the contributor it concerns. -/
def State.collSources (s : State) (part : Nat) : List CContrib → Except (CContrib × Cause) (List (CContrib × List Word))
  | [] => .ok []
  | c :: r =>
    match s.readLong (s.collIssuer part c) .load (c.count + 2) c.src (4 * c.count) with
      | .error e => .error (c, e)
      | .ok bs => (s.collSources part r).map ((c, collWords bs c.count) :: ·)

/-- The pieces of a contributor's destination, or the first cause. -/
def State.collDest (s : State) (part : Nat) (c : CContrib) : Except Cause (List Piece) :=
  (List.range c.count).foldl (fun r i =>
    match r with
    | .error e => .error e
    | .ok ps => (s.resolveEngine (s.collIssuer part c) .store (c.dst + BitVec.ofNat 64 (4 * i)) 4).map (ps ++ ·)) (.ok [])

/-- The pieces of every destination, or the first that faults. -/
def State.collDests (s : State) (part : Nat) : List CContrib → Except (CContrib × Cause) (List (List Piece))
  | [] => .ok []
  | c :: r => match s.collDest part c with
    | .error e => .error (c, e)
    | .ok ps => (s.collDests part r).map (ps :: ·)

/-- The stores that follow are those of an operation. -/
def State.writesFor (s : State) (op : Nat) : State :=
  { s with late := { s.late with now := s.late.now.map fun e => { e with src := (op, 1) } } }

/-- After a fault or a loss each element holds its old value or the result: which, the manual leaves open (13 R280; log entry 30). -/
def State.collPartial (s : State) (part : Nat) (res : List Word) (c : CContrib) : State :=
  (res.zipIdx.foldl (fun s x =>
    if (Config.openWord (s.fresh + x.2)).getLsbD 0 then
      match s.writeFlat (s.collIssuer part c) (c.dst + BitVec.ofNat 64 (4 * x.2)) (toBytes 4 x.1.toNat) with
      | .ok t => t
      | .error _ => s
    else s) (s.writesFor c.key)).takeFresh res.length

/-- Contributors agree, and a broadcast has one root among all packages (13 R280). -/
def collMismatch (cs : List CContrib) (ext : List (Nat × List Word)) : Bool :=
  match cs with
  | [] => false
  | c :: r =>
    r.any (fun x => x.count != c.count || x.op != c.op) ||
    (if c.op = 4 then
      (cs.filter (·.root)).length + (ext.filter fun x => !x.2.isEmpty).length != 1 ||
      ext.any fun x => !x.2.isEmpty && x.2.length != c.count
    else ext.any fun x => x.2.length != c.count)

/-- The result every participant receives. -/
def collResult (pkg : Nat) (cs : List (CContrib × List Word)) (ext : List (Nat × List Word)) : List Word :=
  let op := (cs.head?.map (·.1.op)).getD 0
  if op = 4 then
    match cs.find? fun x => x.1.root with
    | some x => x.2
    | none => ((ext.find? fun x => !x.2.isEmpty).map (·.2)).getD []
  else (collTree op ((ext.foldr insertPkg [(pkg, packageResult op cs)]).map (·.2))).getD []

/-- One participant's completion: its d is written and its lanes go on, having acquired its own destination's bytes (13 R280, R281). -/
def State.collDeliver (s : State) (id : Nat) (status : Word) (c : CContrib) : State :=
  match s.group? c.gid with
  | none => s
  | some g =>
    if g.uid ≠ c.uid then s
    else
      let m := c.mask &&& g.lanesWhere fun l => l.hold == some (.collective id)
      s.setGroup c.gid (((s.writeS c.gid g c.d status).release m).onMask m fun l => l.sees c.key 1)

/-- An instance ends with a status. -/
def State.collEnd (s : State) (part : Nat) (x : Coll) (status : Word) : State :=
  x.contribs.foldl (fun s c => s.collDeliver x.id status c) (s.modPart part fun q => { q with colls := q.colls.erase x })

/-- What the gateways send to the other participating packages: the tag, this package's status and its part of the result (13 R279). -/
def State.collSend (s : State) (part : Nat) (x : Coll) (status : Nat) (ws : List Word) : State :=
  if x.others = 0 then s
  else { s with fabricOut := (part, 2, BitVec.ofNat 64 (bitsOf x.cfg 32 16) :: BitVec.ofNat 64 status :: ws.map (·.setWidth 64)) :: s.fabricOut }

/-- This package's part of a result: its combination, or the root's words where the root is here. -/
def collPart (cs : List (CContrib × List Word)) : List Word :=
  let op := (cs.head?.map (·.1.op)).getD 0
  if op = 4 then ((cs.find? fun x => x.1.root).map (·.2)).getD [] else packageResult op cs

/-- A source or destination faults: Page-lazy stops the instance; any other cause ends it with FAULT, and Uncorrectable-data and
Share-range fault the context too (13 R280; 03 R75, R81; 18 R331). -/
def State.collFault (s : State) (part : Nat) (x : Coll) (c : CContrib) (e : Cause) (res : List Word) : State :=
  let wh := s.addrOf part c.gid
  if e.code = 13 then
    let id := s.nextRec part
    (s.record part 0 13 e.va 0 0 6 wh 0).modPart part fun q =>
      { q with colls := q.colls.map fun y => if y = x then { y with stopped := some id } else y }
  else
    let s1 := ((x.contribs.foldl (fun s c => s.collPartial part res c) s).collSend part x 2 []).collEnd part x 2
    if e.fatal then s1.contextFault part none e.code e.va 0 0 6 0 wh else s1

/-- An instance that has lost a package ends with LINK; once it is full, each element may hold a result, whose value is open (13 R280). -/
def State.collLost (s : State) (part : Nat) (x : Coll) : State :=
  let n := (x.contribs.head?.map (·.count)).getD 0
  let s1 := if x.contribs.length = x.local then
      x.contribs.foldl (fun t c => t.collPartial part ((List.range n).map fun i => Config.openWord (s.fresh + i)) c) (s.takeFresh n)
    else s
  s1.collEnd part x 3

/-- The other packages' contributions are named once each, and this package is none of them. -/
def extOk (pkg n : Nat) (ext : List (Nat × List Word)) : Bool :=
  ext.length == n && (ext.map (·.1)).Nodup && !ext.any fun x => x.1 == pkg || decide (1024 ≤ x.1)

/-- COLLECTIVE_COMPLETE (13 R279, R280): the oldest full instance of an ID reads its sources, combines and writes; the other participating
packages contribute their results, or for a broadcast the root's words. -/
def execCollectiveComplete (part id : Nat) (there : Elsewhere) (s : State) : Out :=
  let p := s.part part
  let status := there.status
  let ext := there.words
  match p.colls.find? fun x => x.id == id with
  | none => .fault (.notEnabled "COLLECTIVE_COMPLETE")
  | some x =>
    if p.stoppedAll || x.stopped.isSome || decide (2 < status) || (x.others == 0 && status != 0) then
      .fault (.notEnabled "COLLECTIVE_COMPLETE")
    else if x.lost then .next (s.collLost part x)
    else if x.contribs.length ≠ x.local ∨ !extOk s.mc.pkgId.toNat x.others ext then
      .fault (.notEnabled "COLLECTIVE_COMPLETE")
    else if status = 1 ∨ collMismatch x.contribs ext then .next ((s.collSend part x 1 []).collEnd part x 1)
    else match s.collSources part x.contribs with
      | .error (c, e) => .next (s.collFault part x c e [])
      | .ok cs =>
        let res := collResult s.mc.pkgId.toNat cs ext
        let s1 := cs.foldl (fun s y => s.noteLong (s.collIssuer part y.1) (y.1.count + 1) y.1.src (4 * y.1.count)) s
        match s1.collDests part x.contribs with
        | .error (c, e) => .next (s1.collFault part x c e res)
        | .ok pss =>
          if status = 2 then
            .next (((x.contribs.foldl (fun s c => s.collPartial part res c) s1).collSend part x 0 (collPart cs)).collEnd part x 2)
          else
            let bs := res.flatMap fun w => toBytes 4 w.toNat
            .next ((((x.contribs.zip pss).foldl (fun s y => (s.writesFor y.1.key).writePieces part y.2 bs) s1).collSend part x 0
              (collPart cs)).collEnd part x 0)

/-- An instance loses a package that takes part in it. -/
def Coll.lose (part : Nat) (takes : List (Nat × Nat)) (x : Coll) : Coll :=
  if x.others ≠ 0 ∧ takes.contains (part, x.id) then { x with lost := true } else x

/-- PARTICIPATING_PACKAGE_UNREACHABLE (13 R280, 18 R336): the instances of the partitions and IDs in which the package takes part complete
with LINK; those of a frozen job are held until its resume. -/
def execParticipatingPackageUnreachable (l : LostPackage) (s : State) : Out :=
  if l.pkg = s.mc.pkgId.toNat ∨ 1024 ≤ l.pkg then .fault (.notEnabled "PARTICIPATING_PACKAGE_UNREACHABLE")
  else
    let s1 := { s with parts := s.parts.mapVal fun i (p : Part) => { p with colls := p.colls.map (Coll.lose i l.takes) } }
    .next (s1.parts.foldl (fun s x =>
      if x.2.stoppedAll then s
      else (x.2.colls.filter (·.lost)).foldl (fun s c => s.collLost x.1 c) s) s1)

end Sys2Proof.Machine
end

