-- ==== Sys2Proof/Machine/Copies.lean ====
section
/-! DEFINITION. The copy streamer: channels, the five forms, sectors, write positions (06 R123 to R136, R142, R143). -/

namespace Sys2Proof.Machine

/-- The tile of a descriptor in a tensor (06 R126): the first element, the extent C × R, and the outer indices. -/
structure TileOf where
  i0 : Nat
  i1 : Nat
  c : Nat
  r : Nat
  i2 : Nat
  i3 : Nat
  deriving DecidableEq, Repr

/-- The tile at (j0, j1) and outer index j2. -/
def TidEnt.tileAt (t : TidEnt) (j0 j1 j2 : Nat) : TileOf :=
  { i0 := j0 * t.tcols, i1 := j1 * t.trows, c := min t.tcols (t.dim 0 - j0 * t.tcols),
    r := min t.trows (t.dim 1 - j1 * t.trows), i2 := j2 % t.dim 2, i3 := j2 / t.dim 2 }

def descWord (ws : List Word) (i : Nat) : Nat := ((ws[i]?).getD 0).toNat

/-- Bytes of a run of n elements (06 R126). -/
def runBytes (fmt n : Nat) : Nat := if fmt = 3 then n / 2 else n * fmtBytes fmt

/-- The index j2 of a descriptor (06 R125). -/
def descJ2 (form : Nat) (dst : Bool) (ws : List Word) : Nat :=
  if form = 1 ∧ dst then descWord ws 3 % 65536 else descWord ws 3

/-- The first failing check of a COPY after Copy-rights, and the image size when none fails (06 R127, R130, R131, R133).
`owns` tells whether a partition-relative cluster belongs to the partition. -/
def copyCheck (form : Nat) (dst src idx : TidEnt) (dd sd : List Word) (owns : Nat → Bool) : Except Nat Nat :=
  let pref := form == 4
  let d := if pref then src else dst
  let dw := if pref then sd else dd
  let d0 := descWord dd 0
  let s0 := descWord sd 0
  let reserved := (!pref && (if form = 1 then fld d0 6 2 != 0 else decide (64 ≤ d0))) ||
    (if pref then decide (128 ≤ s0) else decide (64 ≤ s0)) || (form == 3 && decide (64 ≤ descWord sd 1))
  let bad (e : TidEnt) : Bool := !e.valid || e.malformed
  let badFmt := (form == 2 && (src.fmt == 8 || src.fmt == 9 || d.fmt == 8 || d.fmt == 9)) || (form == 3 && (idx.fmt != 9 || idx.ndim != 1))
  if reserved || bad d || bad src || (form == 3 && bad idx) || badFmt then .error 22
  else
    let dj2 := descJ2 form (!pref) dw
    let dt := d.tileAt (descWord dw 1) (descWord dw 2) dj2
    let st := src.tileAt (descWord sd 1) (descWord sd 2) (descWord sd 3)
    let gc := min src.tcols (src.dim 0 - descWord sd 3 * src.tcols)
    let range := decide (d.dim 2 * d.dim 3 ≤ dj2) || dt.c == 0 || dt.r == 0 ||
      (if form = 3 then gc == 0 else decide (src.dim 2 * src.dim 3 ≤ descWord sd 3) || st.c == 0 || st.r == 0)
    if range then .error 24
    else
      let i4 := d.fmt == 3
      let shape := src.trows != d.trows || src.tcols != d.tcols || src.fmt != d.fmt ||
        (i4 && (d.tcols % 2 == 1 || dt.c % 2 == 1)) ||
        (!pref && decide (1 < dt.r) && decide (d.stride 1 < runBytes d.fmt d.tcols)) ||
        (form == 2 && (src.sparse != 1 || d.sparse != 0 || !inScratchWindow d.base || d.tcols % 4 != 0 ||
          (descWord dd 1 * d.tcols) % 4 != 0 || (descWord sd 1 * d.tcols) % 4 != 0)) ||
        (form == 1 && (!inScratchWindow d.base ||
          (List.range 16).any fun b => d0 / 2 ^ (16 + b) % 2 == 1 && !owns (fld d0 8 8 + b / 4)))
      if shape then .error 25 else .ok (dt.r * runBytes d.fmt dt.c)

/-- The four scalars of a descriptor. -/
def descSrcs (d : BitVec 6) : List Src := srcSs d.toNat 4 false
def descOf (g : Group) (d : BitVec 6) : List Word := (upTo d.toNat 4).map g.sr

def Chan.empty : Chan := { copies := [], counts := [], last := [], sent := 0 }

/-- The producer group of a team (06 R124). -/
def State.producer (s : State) (g : Group) : Bool :=
  match s.teams.get? g.team with
  | some t => t.prod == some g.gnum.toNat
  | none => false

/-- COPY: once for the group, queued on a channel of its core (06 R123, R127). -/
def copyOp (s : State) (form : Nat) (ch : BitVec 3) (k d a : BitVec 6) : Out :=
  s.issue { legal := .ordinary, srcs := (if form = 4 then [] else descSrcs d) ++ descSrcs a ++ [srcS k false] } costOne
    fun s g =>
      let stop (c : Nat) : Out := .next (s.raise g s.cur.mask c 0 none 0)
      let dd := if form = 4 then [] else descOf g d
      let sd := descOf g a
      let src := s.tidOf g (descWord sd 0 % 64)
      let dst := if form = 4 then src else s.tidOf g (descWord dd 0 % 64)
      let idx := s.tidOf g (descWord sd 1 % 64)
      let p := s.part g.part
      let tw := g.sr k.toNat
      let n := bitsOf tw 0 6
      let core := coreOf s.cur.gid
      let c := (s.core core).chans.getD ch.toNat Chan.empty
      if g.shading then stop 32
      else if !s.producer g then stop 23
      else match copyCheck form dst src idx dd sd (fun r => (p.linCluster r).isSome), s.teams.get? g.team with
        | .error e, _ => stop e
        | .ok _, none => .fault .noIssue
        | .ok size, some t =>
          if bitsOf tw 6 25 ≠ 0 then stop 26
          else if !tw.getLsbD 31 && ((t.taskCore n).isNone || (t.task n).st != 1) then stop 26
          else if 8 ≤ c.copies.length then .next (s.waitAt (s.untouched g) 5)
          else
            let seq := c.counts.getD g.team 0 + 1
            let x : Copy :=
              { team := g.team, gid := s.cur.gid, uid := g.uid, form, dst, src, idx, dd, sd,
                task := if tw.getLsbD 31 then none else some n, core, id := s.fresh, seq, pos := 0, size, err := 0, stopped := none,
                targets := [], begun := false }
            let c1 := { c with copies := c.copies ++ [x], counts := c.counts.set g.team seq }
            ((s.takeFresh 1).modCore core fun q => { q with chans := q.chans.set ch.toNat c1 }).done g s.cur.mask .on 1 none

def execCpy (c : BitVec 3) (k d a : BitVec 6) (s : State) : Out := copyOp s 0 c k d a
def execCpymc (c : BitVec 3) (k d a : BitVec 6) (s : State) : Out := copyOp s 1 c k d a
def execCpysp (c : BitVec 3) (k d a : BitVec 6) (s : State) : Out := copyOp s 2 c k d a
def execCpyg (c : BitVec 3) (k d a : BitVec 6) (s : State) : Out := copyOp s 3 c k d a
def execPref (c : BitVec 3) (k a : BitVec 6) (s : State) : Out := copyOp s 4 c k 0 a

/-- What WPOS reports of a channel to a team: the copy's count, the bytes delivered and the copy's number (06 R135). -/
def Chan.report (c : Chan) (team : Nat) : Option (Nat × Nat × Nat) :=
  match c.copies.find? fun q => q.team == team with
  | some q => some (q.seq, q.pos, q.id)
  | none => c.last.get? team

/-- WPOS (06 R135, R136): the team's oldest outstanding copy on the channel, else its last one; the group acquires the bytes reported. For a
pair team the channel is that of the reading group's own core, which R135 leaves open (the model's choice: log entry 67). -/
def execWpos (a d : BitVec 6) (s : State) : Out :=
  s.issue { legal := .ordinary, srcs := [srcS a false], dests := [.s d.toNat], defer := some (.wpos a d) } costOne fun s g =>
    let x := g.sr a.toNat
    if 8 ≤ x.toNat then .next (s.raise (s.untouched g) s.cur.mask 24 0 (some (.s d.toNat)) 0)
    else
      let l := ((s.core (coreOf s.cur.gid)).chans.getD x.toNat Chan.empty).report g.team
      let y : Word := match l with
        | some (seq, pos, _) => BitVec.ofNat 32 (seq % 256 * 2 ^ 24 + pos % 2 ^ 24)
        | none => 0
      let sees := fun (q : Group) => q.modLanes fun _ z => match l with | some (_, pos, id) => z.sees id pos | none => z
      let s1 := if s.cur.defer.isSome then s.modGroup s.cur.gid sees else s
      s1.done (sees (s.writeS s.cur.gid g d.toNat y)) s.cur.mask .on 1 (if d.toNat = 61 then some y else none)

/-! Sectors. -/

/-- Who a copy resolves addresses for. -/
def State.copyIssuer (s : State) (x : Copy) : Issuer :=
  match s.teams.get? x.team with
  | some t => { part := t.part, team := x.team, path := some .cp, limit := if t.pair then 2 * t.scratch else t.scratch, core := some x.core }
  | none => { part := 0, team := x.team, path := some .cp, limit := 0, core := some x.core }

/-- The tile of the image (06 R126): the destination's, or the source's for a PREF. -/
def Copy.tile (x : Copy) : TileOf :=
  let w := if x.form = 4 then x.sd else x.dd
  x.dst.tileAt (descWord w 1) (descWord w 2) (descJ2 x.form (x.form != 4) w)

/-- Bytes of an image row. -/
def Copy.rowBytes (x : Copy) : Nat := runBytes x.dst.fmt x.tile.c

/-- The pieces of a sector: row, byte in the row and length. -/
def rowPieces (rowBytes : Nat) : Nat → Nat → Nat → List (Nat × Nat × Nat)
  | 0, _, _ => []
  | fuel + 1, at', n =>
    if n = 0 ∨ rowBytes = 0 then []
    else
      let k := min n (rowBytes - at' % rowBytes)
      (at' / rowBytes, at' % rowBytes, k) :: rowPieces rowBytes fuel (at' + k) (n - k)

def Copy.pieces (x : Copy) : List (Nat × Nat × Nat) := rowPieces x.rowBytes 64 x.pos (min 64 (x.size - x.pos))

/-- The address of a byte of an image row in a tensor whose row starts at element (i0, i1, i2, i3). -/
def TidEnt.rowVa (t : TidEnt) (i0 i1 i2 i3 off : Nat) : DWord := t.addr i0 i1 i2 i3 + BitVec.ofNat 64 off

/-- Bytes read on the CP path, or a cause. -/
def State.cpRead (s : State) (x : Copy) (va : DWord) (n : Nat) : Except Cause (List Byte) :=
  s.readFlat (s.copyIssuer x) .load va n

/-- n bytes of a source row from byte `off`: the bytes beyond its C elements read zero (06 R126). -/
def State.srcRow (s : State) (x : Copy) (i0 i1 i2 i3 c off n : Nat) : Except Cause (List Byte) :=
  let fmt := x.src.fmt
  let full := if fmt = 3 then (c + 1) / 2 else runBytes fmt c
  let k := min n (full - off)
  if k = 0 then .ok (List.replicate n 0)
  else
    match s.cpRead x (x.src.rowVa i0 i1 i2 i3 off) k with
    | .error e => .error e
    | .ok bs =>
      let bs1 := if fmt = 3 ∧ c % 2 = 1 ∧ off + k = full then
          bs.take (k - 1) ++ ((bs.drop (k - 1)).map fun b => b &&& 0x0F) else bs
      .ok (bs1 ++ List.replicate (n - k) 0)

/-- The row a gather takes for image row r: its linear index, or none for a row of zeros (06 R131). -/
def State.gatherRow (s : State) (x : Copy) (r : Nat) : Except Cause (Option Nat) :=
  let p := descWord x.sd 2 + r
  if x.idx.dim 0 ≤ p then .ok none
  else
    match s.cpRead x (x.idx.addr p 0 0 0) 4 with
    | .error e => .error e
    | .ok bs =>
      let q := ofBytes bs
      .ok (if 2 ^ 31 ≤ q ∨ x.src.dim 1 * x.src.dim 2 * x.src.dim 3 ≤ q then none else some q)

/-- The nibbles of stored and of image elements lie in bytes or in wider cells: element n of a run of bytes. -/
def elemAt (fmt : Nat) (bs : List Byte) (n : Nat) : Nat :=
  if fmt = 3 then bitsOf ((bs[n / 2]?).getD 0) (4 * (n % 2)) 4
  else ofBytes ((bs.drop (n * fmtBytes fmt)).take (fmtBytes fmt))

/-- Bytes of elements in order. -/
def packElems (fmt : Nat) : List Nat → List Byte
  | [] => []
  | [a] => if fmt = 3 then [BitVec.ofNat 8 a] else toBytes (fmtBytes fmt) a
  | a :: b :: r =>
    if fmt = 3 then BitVec.ofNat 8 (a + 16 * b) :: packElems fmt r
    else toBytes (fmtBytes fmt) a ++ (toBytes (fmtBytes fmt) b ++ packElems fmt r)

/-- One group of four logical elements of a sparse row: the elements, and whether its nibble is not well formed (06 R116,
R130). -/
def State.sparseGroup (s : State) (x : Copy) (i1 i2 i3 grp : Nat) : Except Cause (List Nat × Bool) :=
  let t := x.src
  if t.dim 0 ≤ 4 * grp then .ok ([0, 0, 0, 0], false)
  else
    let q := i1 + t.dim 1 * (i2 + t.dim 2 * i3)
    match s.cpRead x (t.meta + BitVec.ofNat 64 (q * ((t.dim 0 + 7) / 8) + grp / 2)) 1 with
    | .error e => .error e
    | .ok mb =>
      let nib := ofBytes mb / 16 ^ (grp % 2) % 16
      let p0 := nib % 4
      let p1 := nib / 4
      match s.cpRead x (t.addr (2 * grp) i1 i2 i3) (if t.fmt = 3 then 1 else 2 * fmtBytes t.fmt) with
      | .error e => .error e
      | .ok bs =>
        if p1 ≤ p0 then .ok ([0, 0, 0, 0], true)
        else
          .ok ((List.range 4).map fun k => if k = p0 then elemAt t.fmt bs 0 else if k = p1 then elemAt t.fmt bs 1 else 0,
            false)

/-- A whole image row of a sparse copy, from its groups. -/
def State.sparseRow (s : State) (x : Copy) (i1 i2 i3 first : Nat) : Nat → Except Cause (List Nat × Bool)
  | 0 => .ok ([], false)
  | n + 1 =>
    match s.sparseRow x i1 i2 i3 first n with
    | .error e => .error e
    | .ok (es, bad) =>
      match s.sparseGroup x i1 i2 i3 (first + n) with
      | .error e => .error e
      | .ok (fs, worse) => .ok (es ++ fs, bad || worse)

/-- The source bytes of one piece of a sector, and whether metadata was not well formed. -/
def State.copyPiece (s : State) (x : Copy) (r off n : Nat) : Except Cause (List Byte × Bool) :=
  let t := x.src
  let st := t.tileAt (descWord x.sd 1) (descWord x.sd 2) (descWord x.sd 3)
  if x.form = 3 then
    let i0 := descWord x.sd 3 * t.tcols
    match s.gatherRow x r with
    | .error e => .error e
    | .ok none => .ok (List.replicate n 0, false)
    | .ok (some q) =>
      (s.srcRow x i0 (q % t.dim 1) (q / t.dim 1 % t.dim 2) (q / t.dim 1 / t.dim 2) (min t.tcols (t.dim 0 - i0)) off n).map
        fun bs => (bs, false)
  else if st.r ≤ r then .ok (List.replicate n 0, false)
  else if x.form = 2 then
    let per := if t.fmt = 3 then 2 else 4 * fmtBytes t.fmt
    let g0 := off / per
    let g1 := (off + n + per - 1) / per
    (s.sparseRow x (st.i1 + r) st.i2 st.i3 (st.i0 / 4 + g0) (g1 - g0)).map fun y =>
      (((packElems t.fmt y.1).drop (off - g0 * per)).take n, y.2)
  else (s.srcRow x st.i0 (st.i1 + r) st.i2 st.i3 st.c off n).map fun bs => (bs, false)

/-- Gather the pieces of a sector, in order. -/
def State.copySector (s : State) (x : Copy) : List (Nat × Nat × Nat) → Except Cause (List (List Byte) × Bool)
  | [] => .ok ([], false)
  | (r, off, n) :: rest =>
    match s.copyPiece x r off n with
    | .error e => .error e
    | .ok (bs, bad) =>
      match s.copySector x rest with
      | .error e => .error e
      | .ok (more, worse) => .ok (bs :: more, bad || worse)

/-- The first reads of a piece, for the notice of 18 R335. -/
def State.noteCopy (s : State) (x : Copy) (ps : List (Nat × Nat × Nat)) : State :=
  let w := s.copyIssuer x
  let st := x.src.tileAt (descWord x.sd 1) (descWord x.sd 2) (descWord x.sd 3)
  ps.foldl (fun s p =>
    if x.form = 3 then
      let s1 := s.noteRead w (x.idx.addr (descWord x.sd 2 + p.1) 0 0 0) 4
      match s.gatherRow x p.1 with
      | .ok (some q) => s1.noteRead w (x.src.rowVa (descWord x.sd 3 * x.src.tcols) (q % x.src.dim 1)
          (q / x.src.dim 1 % x.src.dim 2) (q / x.src.dim 1 / x.src.dim 2) p.2.1) p.2.2
      | _ => s1
    else s.noteRead w (x.src.rowVa (if x.form = 2 then st.i0 / 2 else st.i0) (st.i1 + p.1) st.i2 st.i3
      (if x.form = 2 then p.2.1 / 2 else p.2.1)) (if x.form = 2 then (p.2.2 + 1) / 2 else p.2.2)) s

/-- The destination address of a piece. -/
def Copy.dstVa (x : Copy) (r off : Nat) : DWord :=
  let t := x.tile
  x.dst.rowVa t.i0 (t.i1 + r) t.i2 t.i3 off

/-- The places a sector is written to, or the first cause. -/
def State.copyDest (s : State) (x : Copy) (ps : List (Nat × Nat × Nat)) : Except Cause (List (List Piece)) :=
  ps.foldr (fun p acc =>
    match s.resolveEngine (s.copyIssuer x) .store (x.dstVa p.1 p.2.1) p.2.2, acc with
    | .error e, _ => .error e
    | .ok _, .error e => .error e
    | .ok l, .ok r => .ok (l :: r)) (.ok [])

/-! Multicast (06 R133). -/

/-- The cores a core mask names. -/
def State.copyCores (s : State) (part : Nat) (x : Copy) : List Nat :=
  let d0 := descWord x.dd 0
  (List.range 16).filterMap fun b =>
    if d0 / 2 ^ (16 + b) % 2 = 1 then ((s.part part).linCluster (fld d0 8 8 + b / 4)).map fun c => c * 4 + b % 4 else none

/-- A landing covers every destination byte of the image. -/
def Copy.covered (x : Copy) (off len : Nat) : Bool :=
  (List.range x.tile.r).all fun r =>
    let va := x.dstVa r 0
    inScratchWindow va && decide (off ≤ va.toNat % 2 ^ 32) && decide (va.toNat % 2 ^ 32 + x.rowBytes ≤ off + len)

/-- The landing of a target core: team, task and the number of its definition. Of two teams with such a landing R133 does not say which
receives: the model takes the first by team number (the model's choice: log entry 68). -/
def State.landingFor (s : State) (x : Copy) (core : Nat) : Option (Nat × Nat × Nat) :=
  let key := descWord x.dd 3 / 65536
  s.teams.findSome? fun t =>
    (t.2.tasks.find? fun e => e.2.core == core && (match e.2.land with
      | some (off, k, len) => k == key && x.covered off len
      | none => false)).map fun e => (t.1, e.1, e.2.uid)

/-- A landing is still the one a delivery began on. -/
def State.landingLive (s : State) (l : Nat × Nat × Nat) : Bool :=
  match s.teams.get? l.1 with
  | some t => (t.task l.2.1).uid == l.2.2 && (t.task l.2.1).land.isSome
  | none => false

/-- Deliver a sector to the landings that are still there. -/
def State.multicast (s : State) (x : Copy) (ps : List (Nat × Nat × Nat)) (bss : List (List Byte)) : State :=
  x.targets.foldl (fun s t => match t.2 with
    | some l =>
      (ps.zip bss).foldl (fun s p =>
        s.writePieces 0 (piecesAt ⟨.scratch, l.1, (x.dstVa p.1.1 p.1.2.1).toNat % 2 ^ 32⟩ .rc 0 0 (0, 0) none p.1.2.2) p.2) s
    | none => s) s

/-! The channel. -/

/-- A copy's writes are performed at its tensor's COMPSCOPE before its tasks are decremented (05 R113, 06 R143). -/
def State.performCopy (s : State) (x : Copy) : State :=
  s.publish (fun _ e => e.path == .cp && e.src.1 == x.id) [.ls, .mx] (x.dst.scope + 2) x.team

/-- The end of a channel's first copy: its report stays, its task is decremented (06 R135, R139). -/
def State.endCopy (s : State) (core chan : Nat) (c : Chan) (x : Copy) (code : Nat) : State :=
  let s1 := (s.performCopy x).modCore core fun q =>
    { q with chans := q.chans.set chan { c with copies := c.copies.drop 1, last := c.last.set x.team (x.seq, x.pos, x.id) } }
  match x.task with
  | some n => s1.decTask x.team n 1 code []
  | none => s1

/-- A fault of a sector stops the channel or abandons the copy (06 R142; 18 R331). -/
def State.copyFault (s : State) (part core chan : Nat) (c : Chan) (x : Copy) (e : Cause) : State :=
  let wh := s.addrOf part x.gid
  if e.code = 13 then
    let y := { x with stopped := some (s.nextRec part) }
    (s.record part 0 13 e.va 0 chan 1 wh 0).modCore core fun q =>
      { q with chans := q.chans.set chan { c with copies := y :: c.copies.drop 1 } }
  else if e.fatal then s.contextFault part none e.code e.va 0 chan 1 0 wh
  else (s.record part 1 e.code e.va 0 chan 1 wh 66).endCopy core chan c x 1

/-- A PREF of level 0 brings the lines of a sector's source into its core's L1 data cache, where they are such as it holds (06 R132; 03
R67). -/
def State.prefLines (s : State) (x : Copy) (ps : List (Nat × Nat × Nat)) : State :=
  if descWord x.sd 0 / 64 % 2 = 1 then s
  else
    let w := s.copyIssuer x
    let st := x.src.tileAt (descWord x.sd 1) (descWord x.sd 2) (descWord x.sd 3)
    let qs := ps.flatMap fun p => piecesOf (s.resolveFlat w .load (x.src.rowVa st.i0 (st.i1 + p.1) st.i2 st.i3 p.2.1) p.2.2)
    let ls := (qs.filter (s.allocates x.core w.part 0)).map fun p => p.loc.cell / 64
    s.modCore x.core fun c => { c with l1 := (ls ++ c.l1.filter fun l => !ls.contains l).take 2048 }

/-- COPY_SECTOR_DELIVER (06 R123, R129 to R134, R142). The landings of a CPYMC are looked up at its first sector; sectors that a landing
received before it was revoked stay written (the model's choice: log entry 68). -/
def execCopySectorDeliver (core chan : Nat) (s : State) : Out :=
  let q := s.core core
  let c := q.chans.getD chan Chan.empty
  match c.copies.head? with
  | none => .fault (.notEnabled "COPY_SECTOR_DELIVER")
  | some x0 =>
    let w := s.copyIssuer x0
    let p := s.part w.part
    let used := if q.sectors.1 = p.clock then q.sectors.2 else 0
    if p.stoppedAll || x0.stopped.isSome || decide (x0.size ≤ x0.pos) || decide (4 ≤ used) || c.sent == p.clock + 1 then
      .fault (.notEnabled "COPY_SECTOR_DELIVER")
    else
      let x1 := if x0.form ≠ 1 then x0
        else if x0.begun then
          { x0 with targets := x0.targets.map fun t => (t.1, t.2.filter s.landingLive) }
        else { x0 with begun := true, targets := (s.copyCores w.part x0).map fun k => (k, s.landingFor x0 k) }
      let ps := x1.pieces
      let n := min 64 (x1.size - x1.pos)
      let go (s0 : State) (bad : Bool) : Out :=
        let s := s0.noteCopy x1 ps
        let y := { x1 with pos := x1.pos + n, err := if bad ∧ x1.err = 0 then 3 else x1.err }
        .next (s.modCore core fun q =>
          { q with sectors := (p.clock, used + 1)
                   chans := q.chans.set chan { c with copies := y :: c.copies.drop 1, sent := p.clock + 1 } })
      match s.copySector x1 ps with
      | .error e => if x1.form = 4 then go s false else .next (s.copyFault w.part core chan c x1 e)
      | .ok (bss, bad) =>
        if x1.form = 4 then go (s.prefLines x1 ps) false
        else if x1.form = 1 then go (s.multicast x1 ps bss) false
        else match s.copyDest x1 ps with
          | .error e => .next (s.copyFault w.part core chan c x1 e)
          | .ok ls => go ((ls.zip bss).foldl (fun s y => s.writePieces w.part y.1 y.2) s) bad

/-- COPY_COMPLETE (06 R133, R139, R143): every write has been performed; landings' tasks are decremented, then the copy's. -/
def execCopyComplete (core chan : Nat) (s : State) : Out :=
  let c := (s.core core).chans.getD chan Chan.empty
  match c.copies.head? with
  | none => .fault (.notEnabled "COPY_COMPLETE")
  | some x =>
    if (s.part (s.copyIssuer x).part).stoppedAll || x.stopped.isSome || decide (x.pos < x.size) then
      .fault (.notEnabled "COPY_COMPLETE")
    else
      let ts := x.targets.map fun t => (t.1, t.2.filter s.landingLive)
      let s1 := ts.foldl (fun s t => match t.2 with
        | some l => s.decTask l.1 l.2.1 1 0 []
        | none => s) (s.performCopy x)
      let code := if ts.any (·.2.isNone) then 2 else x.err
      .next (s1.endCopy core chan c x code)

end Sys2Proof.Machine
end

