-- ==== Sys2Proof/Machine/Debug.lean ====
section
/-! DEFINITION. Debugging: the lull wave's stops, the debug slot, DSTEP and DRES, the resume, the host's debug commands and its
access to registers (20 R342 to R353, R358). -/

namespace Sys2Proof.Machine

/-! The wave (20 R347). -/

/-- LULL_WAVE_STOP: 32 cycles after the start event on the origin's die, 96 cycles after it on the others. -/
def execLullWaveStop (part : Nat) (s : State) : Out :=
  let p := s.part part
  match p.wave with
  | none => .fault (.notEnabled "LULL_WAVE_STOP")
  | some w =>
    let now := s.now.toNat
    let open' (s : State) : List Nat := p.spList.filter fun i => !(s.sp i).frozen
    let near := (open' s).filter fun i => dieOfCluster (i / 16) == w.die
    let s1 := if w.time + 32 ≤ now then s.freeze near else s
    if w.time + 96 ≤ now || (open' s1).isEmpty then .next (s1.stopAll part)
    else if w.time + 32 ≤ now ∧ !near.isEmpty then .next s1
    else .fault (.notEnabled "LULL_WAVE_STOP")

/-- A partition's context belongs to a job of other packages: DOMAIN is 1, the JOBIDs are equal and so are the domain keys (20 R342). -/
def State.ofJob (s : State) (part : Nat) (job key : DWord) : Bool :=
  let p := s.part part
  p.domainBit && p.ctxState == 2 && !s.devResetting && !p.resetting && p.reg 0x390 == job && p.key == key && key != 0

/-- HALT_FLIT_ARRIVE: every scheduler partition of the job stops; a flit of another job, and one that reaches a package after an earlier
wave, change nothing. The flit carries the origin's fields and its time (20 R349). -/
def execHaltFlitArrive (part : Nat) (cause cause2 : BitVec 32) (stamp : JobStamp) (s : State) : Out :=
  let p := s.part part
  if !s.ofJob part stamp.job stamp.key || p.wave.isSome || p.stoppedAll then .next s
  else
    .next ((s.modPart part fun p =>
      { p.writeLull (cause ||| 0xC0000000) (cause2 &&& 0xFFFF0000) stamp.time with
        dbgStart := some ((p.spList.head?).getD 0, 0, 0) }).stopAll part)

/-! The debug slot (20 R343, R350). -/

/-- The group of a debug slot at its start. -/
def State.debugGroup (s : State) (part : Nat) (addr : Word) (pc : DWord) : Group :=
  let p := s.part part
  let job := p.reg 0x390
  let lane : Lane := { Lane.none with st := .live, tid := s.fresh + 1, pc := evenAddr (p.reg 0x380) }
  { Group.blank with
    uid := s.fresh, formed := p.clock, kind := .debug, part, width := 16, nv := 32, ns := 64, nt := 0
    lanes := lane :: List.replicate 15 Lane.none
    s := Store.setAll [(0, lo32 job), (1, hi32 job), (2, p.cr 0x80), (3, addr), (4, lo32 pc), (5, hi32 pc)] [] }

/-- DEBUG_SLOT_START: in the cycle after the last stop, where a debug handler is resident. -/
def execDebugSlotStart (part : Nat) (s : State) : Out :=
  let p := s.part part
  match p.dbgStart with
  | none => .fault (.notEnabled "DEBUG_SLOT_START")
  | some (sp, addr, pc) =>
    if !p.stoppedAll || !p.resident || p.resetting || p.dbgRun.isSome || decide (s.now.toNat ≤ p.stopAt) then
      .fault (.notEnabled "DEBUG_SLOT_START")
    else
      let gid := sp * 17 + 16
      .next (((s.setGroup gid (s.debugGroup part addr pc)).takeFresh 2).modPart part fun p =>
        { p with dbgStart := none, dbgRun := some gid })

/-! DSTEP (20 R352). -/

/-- The cycles in which a partition's job has been frozen so far. -/
def State.frozenFor (s : State) (part : Nat) : Nat := s.now.toNat - (s.part part).stopAt

/-- A fill that a freeze holds lands: a load's or atomic's data, or the tile of a matrix operation that has executed, as its execution went on
in the freeze (20 R348). -/
def State.heldFill (s : State) (id : Nat) (o : Op) : State :=
  match o.kind with
  | .load .. => if s.opPerformed id then s.fill id o else s
  | .atom .. => if s.opPerformed id then s.fill id o else s
  | .tile .. => if s.opPerformed id then s.fill id o else s
  | .mma _ _ _ _ _ _ _ true => if o.due ≤ (s.part o.part).clock + s.frozenFor o.part then s.mmaEnd (coreOf o.gid) id o else s
  | _ => s

/-- The held fills of some slots land, oldest first. -/
def State.fillHeld (s : State) (mine : Nat → Bool) : State :=
  s.ops.foldl (fun s x => if mine x.2.gid then s.heldFill x.1 x.2 else s) s

/-- A step of the scheduler partition a word names begins: its held fills land and it may make one issue. A word that names
none of the partition's, one that is not frozen or one of a faulted context does nothing. -/
def State.beginStep (s : State) (part : Nat) (a : Word) : State :=
  let sp := bitsOf a 0 12
  if bitsOf a 12 20 = 0 ∧ (s.part part).spList.contains sp ∧ (s.sp sp).frozen ∧ !(s.part part).faulted ∧ (s.sp sp).step = 0 then
    (s.fillHeld fun gid => spIdOf gid == sp && slotOf gid != 16).modSp sp fun x => { x with step := 1 }
  else s

/-- DSTEP (20 R351, R352). -/
def execDstep (a : BitVec 6) (s : State) : Out :=
  s.issue { legal := .debug, srcs := [srcS a false] } costOne fun s g =>
    .next ((s.finish g s.cur.mask .on 1).beginStep g.part (g.sr a.toNat))

/-! DRES and the resume (20 R353). -/

/-- A resume at a domain time is on its way: it has no effect on a job that is not frozen or whose context is faulted. The
job's other packages receive it over the fabric. -/
def State.takeResume (s : State) (part : Nat) (t : DWord) : State :=
  let p := s.part part
  if p.stoppedAll && !p.faulted && !p.resetting then s.modPart part fun p => { p with resumeAt := some t } else s
def State.requestResume (s : State) (part : Nat) (t : DWord) : State :=
  let p := s.part part
  let s1 := s.takeResume part t
  if p.domainBit then { s1 with fabricOut := (part, 1, [t, p.reg 0x390, p.key]) :: s1.fabricOut } else s1

/-- Another package's resume of a job arrives over the fabric. -/
def State.resumeArrives (s : State) (part : Nat) (t job key : DWord) : Out :=
  .next (if s.ofJob part job key then s.takeResume part t else s)

/-- DRES ends the run of the debug slot. -/
def execDres (a : BitVec 5) (s : State) : Out :=
  s.issue { legal := .debug, srcs := srcSs (2 * a.toNat) 2 false } costOne fun s g =>
    let s1 := s.finish g s.cur.mask .on 1
    .next ((s1.endDebug s.cur.gid ((s1.group? s.cur.gid).getD g)).requestResume g.part (g.sr64 (2 * a.toNat)))

/-- Resumes that the freeze held back take effect. -/
def State.resumeHeld (s : State) (part : Nat) : State :=
  let ids := (s.part part).heldResumes
  ids.foldl (fun s id => s.resumeWork part id) (s.modPart part fun p => { p with heldResumes := [] })

/-- The job runs again: every scheduler partition in the same cycle; LATE is set after the time asked for (20 R349). Handlers whose entry the
freeze deferred are entered in the next cycle (18 R318), and the matrix operations that went on in the freeze have that much less to go. -/
def State.unfreeze (s : State) (part : Nat) (late : Bool) : State :=
  let s1 := s.modPart part fun p =>
    { (if late then p.setCr 0x81 (p.cr 0x81 ||| 256) else p) with
      stoppedAll := false, wave := none, resumeAt := none, dbgStart := none }
  let now := (s.part part).clock
  { s1 with
    groups := s1.groups.mapVal fun _ (g : Group) =>
      if g.part = part then { g with matched := false, enterAt := if g.parked.isEmpty then g.enterAt else now + 1 } else g
    ops := s1.ops.mapVal fun _ (o : Op) => match o.kind with
      | .mma _ _ _ _ _ _ _ true => if o.part = part then { o with due := o.due - s.frozenFor part } else o
      | _ => o
    sps := (s1.part part).spList.foldl (fun t i => t.modify i fun x => { x with frozen := false }) s1.sps }.resumeHeld part

/-- JOB_RESUME: at the later of T and the end of the debug slot's run; a held fill that faults the context leaves it frozen. -/
def execJobResume (part : Nat) (s : State) : Out :=
  let p := s.part part
  match p.resumeAt with
  | none => .fault (.notEnabled "JOB_RESUME")
  | some t =>
    if !p.stoppedAll || p.faulted || p.resetting || p.dbgRun.isSome || (p.spList.any fun i => (s.sp i).step != 0) ||
        decide (s.dtime.toNat < t.toNat) then
      .fault (.notEnabled "JOB_RESUME")
    else
      let s1 := s.fillHeld fun gid => p.spList.contains (spIdOf gid) && slotOf gid != 16
      if (s1.part part).faulted then .next (s1.modPart part fun p => { p with resumeAt := none })
      else .next (s1.unfreeze part (t != 0 && decide (t.toNat < s.dtime.toNat)))

/-! DBGCMD (20 R353). -/

/-- DBGCMD_LULL: the host stops the job; without a loaded context there is none. -/
def execDbgcmdLull (part : Nat) (s : State) : Out :=
  if !s.hostOpen part then .fault (.notEnabled "DBGCMD_LULL")
  else if (s.part part).ctxState = 2 then .next (s.startWave part none 98 0) else .next s

/-- DBGCMD_DSTEP. -/
def execDbgcmdDstep (part : Nat) (value : BitVec 62) (s : State) : Out :=
  if !s.hostOpen part then .fault (.notEnabled "DBGCMD_DSTEP") else .next (s.beginStep part (value.setWidth 32))

/-- DBGCMD_DRES. -/
def execDbgcmdDres (part : Nat) (value : BitVec 62) (s : State) : Out :=
  if !s.hostOpen part then .fault (.notEnabled "DBGCMD_DRES") else .next (s.requestResume part (value.setWidth 64))

/-! DBGADDR, DBGDATA and DBGSTAT (20 R358). -/

/-- What DBGADDR names. -/
inductive DbgReg where
  | reg (r : Reg) (lane : Nat)
  | meet (lane : Nat)
  | pc (lane : Nat)
  | cr (n : Nat)
  deriving DecidableEq, Repr

/-- The slot of an access. -/
def dbgGid (x : DWord) : Nat := gidOf (bitsOf x 48 10) (bitsOf x 46 2) (bitsOf x 42 4)

/-- The register of an access, if the group has it. -/
def dbgReg (g : Group) (x : DWord) : Option DbgReg :=
  let n := bitsOf x 22 14
  let lane := bitsOf x 36 6
  let inLane : Bool := decide (lane < g.width)
  match bitsOf x 58 3 with
  | 0 => if n < g.nv && inLane then some (.reg (.v n) lane) else none
  | 1 => if g.has (.s n) then some (.reg (.s n) 0) else none
  | 2 => if n < 16 then some (.reg (.k n) 0) else none
  | 3 => if n / 1024 < g.nt then some (.reg (.t (n / 1024)) (n % 1024)) else none
  | 4 => if inLane then some (.meet lane) else none
  | 5 => if inLane then some (.pc lane) else none
  | 6 => if crListed n then some (.cr n) else none
  | _ => none

/-- The content of a register, full or empty; s60 to s63 are as a dump shows them (20 R356). -/
def State.dbgValue (s : State) (gid : Nat) (g : Group) : DbgReg → DWord
  | .reg (.v n) lane => (g.vr n lane).setWidth 64
  | .reg (.s n) _ => (if n = 62 then BitVec.ofNat 32 g.rxq.length else g.sr n).setWidth 64
  | .reg (.k n) _ => g.kr n
  | .reg (.t n) w => (g.tw n w).setWidth 64
  | .meet lane => (g.lane lane).meet
  | .pc lane => (g.lane lane).pc
  | .cr n => (s.crRead (coreOf gid) g n).setWidth 64

/-- A register written; a lane given another PC leaves a repeat in progress. -/
def State.dbgSet (s : State) (gid : Nat) (g : Group) (x : DWord) : DbgReg → State
  | .reg (.v n) lane => s.setGroup gid (g.setVr n lane (lo32 x))
  | .reg (.s n) _ => s.setGroup gid (s.writeS gid g n (lo32 x))
  | .reg (.k n) _ => s.setGroup gid (g.setKr n x)
  | .reg (.t n) w => s.setGroup gid (g.setTw n w (lo32 x))
  | .meet lane => s.setGroup gid (g.setMeet ((1 : Mask) <<< lane) fun _ => x).settle
  | .pc lane =>
    let m : Mask := (1 : Mask) <<< lane
    s.setGroup gid ((g.dropRep m).moveTo m fun _ => evenAddr x).settle
  | .cr n => if crOfGroup n then s.setGroup gid (g.setCr n (crNext n (g.cr n) (lo32 x))) else
      s.crWriteShared g.part (coreOf gid) n (lo32 x)

/-- The register has a scoreboard entry. -/
def State.dbgBusy (s : State) (gid uid : Nat) : DbgReg → Bool
  | .reg r _ => s.ops.any fun x => x.2.gid == gid && x.2.uid == uid && x.2.dests.contains r
  | _ => false

/-- Remove a register's entries, so that data for it is discarded, and mark it full. -/
def State.dbgForce (s : State) (gid : Nat) (g : Group) : DbgReg → State
  | .reg r _ =>
    { s with ops := s.ops.mapVal fun _ (o : Op) =>
        if o.gid = gid ∧ o.uid = g.uid then { o with dests := o.dests.filter (· != r) } else o }.setGroup gid (g.markFull [r])
  | _ => s

/-- The end of an access: DBGADDR without GO, and its status. -/
def State.dbgEnd (s : State) (part : Nat) (value : DWord) (status : Nat) : State :=
  s.modPart part fun p => (p.setReg 0x3A0 (value &&& 0x7FFFFFFFFFC00000)).setReg 0x3B0 (BitVec.ofNat 64 status)

/-- An access finds a group of the partition on a frozen scheduler partition, and a register of it; else its status. -/
def State.dbgFind (s : State) (part : Nat) (value : DWord) : Except Nat (Nat × Group × DbgReg) :=
  let gid := dbgGid value
  match s.group? gid with
  | none => .error 3
  | some g =>
    if !(s.part part).spList.contains (spIdOf gid) || !(s.sp (spIdOf gid)).frozen then .error 3
    else match dbgReg g value with
      | none => .error 2
      | some r => .ok (gid, g, r)

/-- A host's write of DBGADDR with GO, WRITE and FORCE as given. -/
def State.dbgGo (s : State) (part : Nat) (value : DWord) (write force : Bool) : Bool :=
  s.hostOpen part && value.getLsbD 63 && value.getLsbD 62 == write && (!write || value.getLsbD 61 == force)

/-- DBG_REG_READ. -/
def execDbgRegRead (part : Nat) (value : BitVec 64) (s : State) : Out :=
  if !s.dbgGo part value false false then .fault (.notEnabled "DBG_REG_READ")
  else match s.dbgFind part value with
    | .error e => .next (s.dbgEnd part value e)
    | .ok (gid, g, r) => .next ((s.modPart part fun p => p.setReg 0x3A8 (s.dbgValue gid g r)).dbgEnd part value 0)

/-- DBG_REG_WRITE: a register with a scoreboard entry is busy. -/
def execDbgRegWrite (part : Nat) (value : BitVec 64) (s : State) : Out :=
  if !s.dbgGo part value true false then .fault (.notEnabled "DBG_REG_WRITE")
  else match s.dbgFind part value with
    | .error e => .next (s.dbgEnd part value e)
    | .ok (gid, g, r) =>
      if s.dbgBusy gid g.uid r then .next (s.dbgEnd part value 1)
      else .next ((s.dbgSet gid g ((s.part part).reg 0x3A8) r).dbgEnd part value 0)

/-- DBG_REG_FORCE_WRITE. -/
def execDbgRegForceWrite (part : Nat) (value : BitVec 64) (s : State) : Out :=
  if !s.dbgGo part value true true then .fault (.notEnabled "DBG_REG_FORCE_WRITE")
  else match s.dbgFind part value with
    | .error e => .next (s.dbgEnd part value e)
    | .ok (gid, g, r) =>
      let s1 := s.dbgForce gid g r
      .next ((s1.dbgSet gid ((s1.group? gid).getD g) ((s.part part).reg 0x3A8) r).dbgEnd part value 0)

end Sys2Proof.Machine
end

