-- ==== Sys2Proof/Machine/Dump.lean ====
section
/-! DEFINITION. Dumps (20 R354 to R357, 21 R363): the buffer, the header, the six kinds of section, and the writes in order. What a
dump writes stands when it begins, as its job is frozen; each write is a step of its own (log entry 40). -/

namespace Sys2Proof.Machine

/-! What is dumped (20 R354, R356). -/

/-- The groups of a scheduler partition's sixteen slots, ascending. -/
def State.slotGroups (s : State) (sp : Nat) : List (Nat × Group) :=
  s.groups.filter fun x => spIdOf x.1 == sp && slotOf x.1 != 16

/-- The dumped scheduler partitions. -/
def State.dumpSps (s : State) (part : Nat) : List Nat :=
  (s.part part).spList.filter fun i => (s.sp i).frozen && !(s.slotGroups i).isEmpty

def mask64 (m : Mask) : List Byte := toBytes 8 m.toNat
def word32 (x : Word) : List Byte := toBytes 4 x.toNat

/-- The linear index of a group's team. -/
def State.teamIndex (s : State) (team : Nat) : Nat := ((s.teams.get? team).map (·.index)).getD 0

/-- The WAITF at which a group waits (13 R264). -/
def State.waitfPc (s : State) (gid : Nat) (g : Group) : Option DWord :=
  g.waitPc.filter fun pc => match s.readFlat (s.issuer gid g) .fetch pc 4 with
    | .ok bs => (match decode bs with | .instr (.waitf ..) _ => true | _ => false)
    | .error _ => false

/-- A lane record; the lane waits at a WAITF of the group or not. -/
def Lane.record (waitf : Bool) (l : Lane) : List Byte :=
  let st := match l.st with | .live => 0 | .exited => 1 | .never => 2
  let signer := match l.hold with | some (.sign _) => 4 | _ => 0
  let waits := match l.hold with
    | some .repack => 8 | some (.bar ..) => 8 | some (.again ..) => 8 | some (.wait ..) => 8 | some (.barm ..) => 8
    | some (.zephyr ..) => 8
    | _ => if waitf then 8 else 0
  toBytes 8 l.pc.toNat ++ toBytes 8 l.meet.toNat ++ word32 l.orig ++
    toBytes 4 (st + 256 * ((if l.held then 1 else 0) + (if l.parked then 2 else 0) + signer + waits) + 65536 * l.age +
      2 ^ 24) ++ toBytes 8 0

/-- Kind 1: a group's record and its lanes. -/
def State.dumpState (s : State) (x : Nat × Group) : List Byte :=
  let g := x.2
  let flags := (if g.handling.isSome then 1 else 0) + (if g.matched then 2 else 0) +
    (if g.sleep != 0 || g.yield.isSome then 4 else 0)
  let parked := g.parked.length + (if g.handling.isSome then 1 else 0)
  toBytes 1 (slotOf x.1) ++ toBytes 1 g.width ++ toBytes 1 g.nv ++ toBytes 1 g.ns ++ toBytes 1 g.nt ++ toBytes 1 flags ++
    toBytes 2 parked ++ mask64 g.liveMask ++ toBytes 4 (s.teamIndex g.team) ++ word32 g.gnum ++ toBytes 4 g.waitc ++
    toBytes 4 g.level ++ word32 (g.cr 0x42) ++ word32 (g.cr 0x43) ++ word32 (g.cr 0x44) ++ word32 (g.cr 0x45) ++
    word32 (g.cr 0x46) ++ word32 (g.cr 0x47) ++ toBytes 8 0 ++ g.lanes.flatMap fun (l : Lane) => l.record (l.cand && s.waitfPc x.1 g == some l.pc)

/-- Kind 2: a group's registers. -/
def dumpRegs (x : Nat × Group) : List Byte :=
  let g := x.2
  ((List.range g.nv).flatMap fun n => (List.range g.width).flatMap fun j => word32 (g.vr n j)) ++
    ((List.range (min g.ns 60)).flatMap fun n => word32 (g.s.get n)) ++
    word32 g.msgDst ++ word32 0 ++ toBytes 4 g.rxq.length ++ word32 g.msgSrc ++
    ((List.range 16).flatMap fun i => match g.rxq[i]? with
      | some f => word32 f.1 ++ word32 f.2
      | none => toBytes 8 0) ++
    ((List.range 16).flatMap fun n => mask64 (g.kr n)) ++
    ((List.range g.nt).flatMap fun t => (List.range 1024).flatMap fun w => word32 (g.tw t w))

/-- The code of a producer class in a dump. -/
def PClass.code : PClass → Nat
  | .memory => 1 | .sfu => 2 | .matrix => 3 | .viewTrace => 4 | .copy => 5 | .message => 6 | .snapshot => 7 | .compare => 8

/-- An operation's data has returned and a freeze holds it (20 R348). -/
def State.opHeld (s : State) (id : Nat) (o : Op) : Bool :=
  match o.kind with
  | .load .. => s.opPerformed id
  | .atom .. => s.opPerformed id
  | .tile .. => s.opPerformed id
  | .mma _ _ _ _ _ _ _ started => started && decide (o.due ≤ (s.part o.part).clock + s.frozenFor o.part)
  | _ => false

/-- Kind 3: a group's pending register writes. -/
def State.dumpBoard (s : State) (x : Nat × Group) : List Byte :=
  (s.ops.filter fun y => y.2.gid == x.1 && y.2.uid == x.2.uid).flatMap fun y =>
    y.2.dests.flatMap fun r =>
      let (c, n) := match r with | .v n => (0, n) | .s n => (1, n) | .k n => (2, n) | .t n => (3, n)
      toBytes 8 y.2.pc.toNat ++ toBytes 1 (slotOf x.1) ++ toBytes 1 c ++ toBytes 1 n ++ toBytes 1 y.2.cls.code ++
        toBytes 1 (if s.opHeld y.1 y.2 then 1 else 0) ++ toBytes 3 0

/-- How many groups of a team have arrived at a barrier in its current phase. -/
def State.groupsArrived (s : State) (team n p : Nat) : Nat :=
  ((s.teamGroups team).filter fun x => x.2.arrived n p && x.2.lanes.any fun l => l.isLive && l.marked n p).length

/-- Zephyr IDs as a 64-bit set. -/
def idSet (ids : List Nat) : Mask := ids.foldl (fun (m : Mask) i => m ||| ((1 : Mask) <<< i)) 0

/-- Kind 4: a group's synchronisation state. -/
def State.dumpSync (s : State) (x : Nat × Group) : List Byte :=
  let g := x.2
  let phase (n : Nat) : Nat := ((s.teams.get? g.team).map fun t => t.phase n).getD 0
  let arrivals := ((s.part g.part).zph.filter fun z => z.due.isNone && z.arrs.any fun a => a.gid == x.1 && a.uid == g.uid)
  ((List.range 16).flatMap fun n => toBytes 4 (phase n) ++ toBytes 4 (s.groupsArrived g.team n (phase n))) ++
    ((List.range 8).flatMap fun c =>
      let v := g.conv.getD c { members := 0, signed := 0, word := 0, declared := false }
      toBytes 8 (if v.declared then 1 else 0) ++ mask64 v.members ++ mask64 v.signed ++ word32 v.word ++ toBytes 4 0) ++
    ((List.range 16).flatMap fun n => mask64 (g.barmLanes n)) ++
    mask64 (idSet (arrivals.map (·.id))) ++ mask64 (idSet (g.zwaits.map (·.id)))

/-- Kind 5: a copy channel. -/
def State.dumpChan (s : State) (c : Chan) : List Byte :=
  match c.copies with
  | [] => List.replicate 32 0
  | x :: _ =>
    toBytes 1 c.copies.length ++ toBytes 1 (if x.stopped.isSome then 2 else 1) ++ toBytes 2 0 ++
      toBytes 4 (s.teamIndex x.team) ++ toBytes 4 (x.seq % 256 * 2 ^ 24 + x.pos % 2 ^ 24) ++ toBytes 4 x.size ++
      toBytes 4 (x.stopped.getD 0) ++ toBytes 12 0

/-- Kind 6: a team's scratchpad. -/
def State.dumpScratch (s : State) (id : Nat) (t : Team) : List Byte :=
  let n := if t.pair then 2 * t.scratch else t.scratch
  toBytes 8 t.index ++ toBytes 8 n ++ Memory.read s.mem ⟨.scratch, id, 0⟩ n

/-- A section: its head, its payload, and zero bytes up to a multiple of 64 (20 R356; the sizes of 21). -/
def dumpSection (kind place : Nat) (payload : List Byte) : List Byte :=
  let b := toBytes 2 kind ++ toBytes 2 0 ++ toBytes 4 place ++ toBytes 8 payload.length ++ payload
  b ++ List.replicate ((64 - b.length % 64) % 64) 0

/-- Teams in the order of kind 6: core, then the start of their grids, then their index. -/
def teamBefore (order : Nat → Nat) (a b : Nat × Team) : Bool :=
  decide (a.2.core < b.2.core) ||
  (a.2.core == b.2.core && (decide (order a.2.grid < order b.2.grid) ||
    (order a.2.grid == order b.2.grid && decide (a.2.index ≤ b.2.index))))

def insertTeam (order : Nat → Nat) (x : Nat × Team) : List (Nat × Team) → List (Nat × Team)
  | [] => [x]
  | y :: r => if teamBefore order x y then x :: y :: r else y :: insertTeam order x r

/-- Every section of a dump in order. -/
def State.dumpSections (s : State) (part : Nat) : List (List Byte) :=
  let sps := s.dumpSps part
  let per (kind : Nat) (f : Nat × Group → List Byte) : List (List Byte) :=
    sps.map fun i => dumpSection kind i ((s.slotGroups i).flatMap f)
  let cores := (s.part part).coreList.filter fun c => sps.any fun i => i / 4 == c
  let order (g : Nat) : Nat := ((s.grids.get? g).map (·.order)).getD 0
  let teams := (s.teams.filter fun t => s.groups.any fun x => x.2.team == t.1 && sps.contains (spIdOf x.1)).foldr
    (insertTeam order) []
  per 1 s.dumpState ++ per 2 dumpRegs ++ per 3 s.dumpBoard ++ per 4 s.dumpSync ++
    (cores.map fun c => dumpSection 5 (c * 4) ((List.range 8).flatMap fun h => s.dumpChan ((s.core c).chans.getD h Chan.empty))) ++
    (teams.map fun t => dumpSection 6 (t.2.core * 4) (s.dumpScratch t.1 t.2))

/-! Writing it (20 R355, R357). -/

/-- The header of a dump. -/
def State.dumpHeader (s : State) (part st required written nsp nsec : Nat) : List Byte :=
  let p := s.part part
  toBytes 4 0x44435A46 ++ toBytes 2 1 ++ toBytes 2 st ++ toBytes 8 (p.reg 0x390).toNat ++ word32 (p.cr 0x80) ++
    word32 (p.cr 0x81) ++ word32 (p.cr 0x82) ++ word32 (p.cr 0x83) ++ toBytes 8 required ++ toBytes 8 written ++
    toBytes 4 nsp ++ toBytes 4 nsec ++ toBytes 8 0

/-- Split bytes into runs of 64. -/
def blocks64 : Nat → List Byte → List (List Byte)
  | 0, _ => []
  | n + 1, bs => bs.take 64 :: blocks64 n (bs.drop 64)

/-- The writes of the blocks of one section from WRITTEN on; header bytes 40 to 55 follow the block that brings WRITTEN to a multiple
of 4,096 (21 R363). -/
def dumpBlocks (nsp nsec : Nat) : Nat → List (List Byte) → List (Nat × List Byte)
  | _, [] => []
  | written, b :: r =>
    (written, b) ::
      ((if (written + 64) % 4096 ≠ 0 then []
        else [(40, toBytes 8 (written + 64) ++ toBytes 4 nsp ++ toBytes 4 (if r.isEmpty then nsec + 1 else nsec))]) ++
       dumpBlocks nsp nsec (written + 64) r)

/-- The sections that fit, in order: their writes, WRITTEN and NSEC at the end, and whether every section fits. -/
def dumpAll (len nsp : Nat) : Nat → Nat → List (List Byte) → List (Nat × List Byte) × Nat × Nat × Bool
  | written, nsec, [] => ([], written, nsec, true)
  | written, nsec, x :: r =>
    if len < written + x.length then ([], written, nsec, false)
    else
      let (ws, rest) := dumpAll len nsp (written + x.length) (nsec + 1) r
      (dumpBlocks nsp nsec written (blocks64 (x.length / 64) x) ++ ws, rest)

/-- Where a dump goes, and its room in bytes (20 R354). -/
def Part.dumpBase (p : Part) : DWord := p.cr64 0x84 &&& ~~~(63 : DWord)
def Part.dumpLen (p : Part) : Nat := (p.cr 0x86).toNat / 64 * 64

/-- What a dump writes, in order (20 R357); nothing where ADDR is not canonical or LEN is 0. -/
def State.dumpStart (s : State) (part d : Nat) : DumpRun :=
  let p := s.part part
  if !canonical p.dumpBase || p.dumpLen == 0 then { d, result := 5, base := 0, writes := [] }
  else
    let nsp := (s.dumpSps part).length
    let secs := s.dumpSections part
    let required := secs.foldl (fun n x => n + x.length) 64
    let (ws, written, nsec, whole) := dumpAll p.dumpLen nsp 64 0 secs
    let st := if whole then 2 else 3
    { d, result := st, base := p.dumpBase
      writes := (0, s.dumpHeader part 1 required 64 nsp 0) :: ws ++ [(0, s.dumpHeader part st required written nsp nsec)] }

/-- DUMP (20 R354): the slot does not issue past it until the dump ends. -/
def execDump (d : BitVec 6) (s : State) : Out :=
  s.issue { legal := .debug, dests := [.s d.toNat] } costOne fun s g =>
    .next ((s.finish g s.cur.mask .on 1).modPart g.part fun p => { p with dump := some (s.dumpStart g.part d.toNat) })

/-- The dump is over: d receives its result. -/
def State.endDump (s : State) (part gid d : Nat) (x : Word) : State :=
  (s.modGroup gid fun g => { g with s := g.s.set d x }).modPart part fun p => { p with dump := none }

/-- A write of a dump, translated before any of its bytes is written; a fault of any cause ends the dump there (20 R357). -/
def State.dumpWrite (s : State) (part gid : Nat) (g : Group) (x : DumpRun) (w : Nat × List Byte) (rest : List (Nat × List Byte)) : State :=
  match s.writeFlat (s.issuer gid g) (x.base + BitVec.ofNat 64 w.1) w.2 with
  | .ok t =>
    if rest.isEmpty then t.endDump part gid x.d (BitVec.ofNat 32 x.result)
    else t.modPart part fun p => { p with dump := some { x with writes := rest } }
  | .error c =>
    let t1 := s.modPart part fun p => p.setCr 0x81 ((p.cr 0x81 &&& 0xFFFFFF00) ||| 1)
    (t1.record part 3 c.code c.va ((g.lane 0).pc - 4) 0 0 (s.addrOf part gid) 0).endDump part gid x.d 4

/-- DUMP_COMPLETE (20 R357): the next write of a dump, and its end with the last of them. -/
def execDumpComplete (part : Nat) (s : State) : Out :=
  let p := s.part part
  match p.dump, p.dbgRun with
  | some x, some gid =>
    match s.group? gid with
    | none => .fault (.notEnabled "DUMP_COMPLETE")
    | some g =>
      match x.writes with
      | [] => .next (s.endDump part gid x.d (BitVec.ofNat 32 x.result))
      | w :: rest => .next (s.dumpWrite part gid g x w rest)
  | _, _ => .fault (.notEnabled "DUMP_COMPLETE")

end Sys2Proof.Machine
end

