-- ==== Sys2Proof/Machine/Integer.lean ====
section
/-! DEFINITION. Integer, logic, shift, minimum, bit, field, selection and compare instructions, and the H forms of the first
(02 R43; 07 R147 to R156). -/

namespace Sys2Proof.Machine

/-! Arithmetic of words. -/

/-- Saturate to the signed 32-bit range (07 R147). -/
def satS (i : Int) : Word :=
  if i < -2147483648 then 0x80000000 else if 2147483647 < i then 0x7FFFFFFF else BitVec.ofInt 32 i

def iadds (a b : Word) : Word := satS (a.toInt + b.toInt)
def isubs (a b : Word) : Word := satS (a.toInt - b.toInt)
/-- Bits 63:32 of the signed product, and of the unsigned one (07 R148). -/
def mulHiS (a b : Word) : Word := BitVec.ofInt 32 (a.toInt * b.toInt / 2 ^ 32)
def mulHiN (a b : Word) : Word := BitVec.ofNat 32 (a.toNat * b.toNat / 2 ^ 32)
def shl5 (a n : Word) : Word := a <<< (n.toNat % 32)
def shr5 (a n : Word) : Word := a >>> (n.toNat % 32)
def sar5 (a n : Word) : Word := a.sshiftRight (n.toNat % 32)
def rol5 (a n : Word) : Word := (a <<< (n.toNat % 32)) ||| (a >>> (32 - n.toNat % 32))
def minS (a b : Word) : Word := if a.slt b then a else b
def maxS (a b : Word) : Word := if a.slt b then b else a
def minN (a b : Word) : Word := if a.toNat < b.toNat then a else b
def maxN (a b : Word) : Word := if a.toNat < b.toNat then b else a

/-- How many bits are 1 among the lowest n (07 R154). -/
def popCount {w : Nat} (x : BitVec w) : Nat := ((List.range w).filter x.getLsbD).length
/-- The lowest 1 bit, or the width (07 R154). -/
def ctz {w : Nat} (x : BitVec w) : Nat := ((List.range w).find? x.getLsbD).getD w
def clz {w : Nat} (x : BitVec w) : Nat := ((List.range w).find? fun i => x.getLsbD (w - 1 - i)).getD w
def brev (x : Word) : Word := BitVec.ofNat 32 ((List.range 32).foldl (fun a i => a * 2 + (if x.getLsbD i then 1 else 0)) 0)

/-- Field position, length and mask of 07 R155. -/
def fieldPos (b : Word) : Nat := bitsOf b 0 5
def fieldLen (b : Word) : Nat := min (fieldPos b + (bitsOf b 8 5 + 1)) 32 - fieldPos b
def bfxn (a b : Word) : Word := BitVec.ofNat 32 (bitsOf a (fieldPos b) (fieldLen b))
def bfxs (a b : Word) : Word :=
  let l := fieldLen b
  let x := bitsOf a (fieldPos b) l
  if x / 2 ^ (l - 1) % 2 = 1 then BitVec.ofInt 32 ((x : Int) - 2 ^ l) else BitVec.ofNat 32 x
def bfi (d a b : Word) : Word :=
  let m : Word := BitVec.ofNat 32 ((2 ^ fieldLen b - 1) * 2 ^ fieldPos b)
  (d &&& ~~~m) ||| ((a <<< fieldPos b) &&& m)
/-- Byte k of a byte shuffle, and the shuffle (07 R155). -/
def shufByte (d a b : Word) (k : Nat) : Nat :=
  if b.getLsbD (8 + k) then 0 else bitsOf (if b.getLsbD (12 + k) then d else a) (8 * bitsOf b (2 * k) 2) 8
def bshuf (d a b : Word) : Word :=
  BitVec.ofNat 32 (shufByte d a b 0 + 256 * shufByte d a b 1 + 65536 * shufByte d a b 2 + 16777216 * shufByte d a b 3)

/-! Shapes: two vectors, a vector and an SI operand, one vector, the H form, compares into k. -/

def opVV (s : State) (i : Instr) (e : Bool) (b : BitVec 7) (f : Bool) (a d : BitVec 7) (h : Word → Word → Word) : Out :=
  s.vecOp i [srcV a f, srcV b e] d.toNat fun g j => h (g.vr a.toNat j) (g.vr b.toNat j)

def opVI (s : State) (i : Instr) (e : Bool) (b : BitVec 7) (f : Bool) (a d : BitVec 7) (h : Word → Word → Word) : Out :=
  s.vecOp i (srcV a f :: srcSI b e) d.toNat fun g j => h (g.vr a.toNat j) (valSI g b)

/-- As opVI, reading the old d first (07 R155). -/
def opDVI (s : State) (i : Instr) (e : Bool) (b : BitVec 7) (f : Bool) (a d : BitVec 7)
    (h : Word → Word → Word → Word) : Out :=
  s.vecOp i (srcV a f :: srcSI b e) d.toNat (fun g j => h (g.vr d.toNat j) (g.vr a.toNat j) (valSI g b)) [.v d.toNat]

def opV (s : State) (i : Instr) (f : Bool) (a d : BitVec 7) (h : Word → Word) : Out :=
  s.vecOp i [srcV a f] d.toNat fun g j => h (g.vr a.toNat j)

/-- d ← d op a for v0 to v31, and d ← op a (02 R43). -/
def opH (s : State) (i : Instr) (a d : BitVec 5) (f : Bool) (h : Word → Word → Word) : Out :=
  s.vecOp i [srcV a f] d.toNat (fun g j => h (g.vr d.toNat j) (g.vr a.toNat j)) [.v d.toNat]
def opH1 (s : State) (i : Instr) (a d : BitVec 5) (f : Bool) (h : Word → Word) : Out :=
  s.vecOp i [srcV a f] d.toNat fun g j => h (g.vr a.toNat j)

/-- A compare of integers into k, a producer of 4 or 5 cycles that writes the bits of the active set and clears bits from W
on (07 R153). -/
def cmpK (s : State) (i : Instr) (srcs : List Src) (d : BitVec 4) (c : Group → Nat → Bool) : Out :=
  let defer := match s.curGroup? with
    | some g => if srcs.any (fun x => x.reg == .s 62) && g.rxq.isEmpty then some i else none
    | none => none
  s.issue { srcs, late := [.k d.toNat], defer } costLane fun s g =>
    let new := maskOf g.width fun j => if maskBit s.cur.mask j then c g j else maskBit (g.k.get d.toNat) j
    match s.cur.defer with
    | some _ => s.done (g.setKr d.toNat new) s.cur.mask .on (costLane g) none
    | none =>
      let (s1, g1) := s.produce g .compare [.k d.toNat] (if g.width = 64 then 5 else 4)
        (.writes [⟨.k d.toNat, 0, new⟩])
      .next (s1.finish g1 s.cur.mask .on (costLane g))

def cmpVV (s : State) (i : Instr) (e : Bool) (b : BitVec 7) (f : Bool) (a : BitVec 7) (d : BitVec 4)
    (c : Word → Word → Bool) : Out :=
  cmpK s i [srcV a f, srcV b e] d fun g j => c (g.vr a.toNat j) (g.vr b.toNat j)

def cmpVI (s : State) (i : Instr) (e : Bool) (b : BitVec 7) (f : Bool) (a : BitVec 7) (d : BitVec 4)
    (c : Word → Word → Bool) : Out :=
  cmpK s i (srcV a f :: srcSI b e) d fun g j => c (g.vr a.toNat j) (valSI g b)

/-! The H format (02 R43): d ← d op a. -/

def execMovH (a d : BitVec 5) (f : Bool) (s : State) : Out :=
  opH1 s (.movH a d f) a d f fun y => y
def execNotH (a d : BitVec 5) (f : Bool) (s : State) : Out :=
  opH1 s (.notH a d f) a d f fun y => ~~~y
def execIaddH (a d : BitVec 5) (f : Bool) (s : State) : Out :=
  opH s (.iaddH a d f) a d f (· + ·)
def execIsubH (a d : BitVec 5) (f : Bool) (s : State) : Out :=
  opH s (.isubH a d f) a d f (· - ·)
def execImulH (a d : BitVec 5) (f : Bool) (s : State) : Out :=
  opH s (.imulH a d f) a d f (· * ·)
def execAndH (a d : BitVec 5) (f : Bool) (s : State) : Out :=
  opH s (.andH a d f) a d f (· &&& ·)
def execOrH (a d : BitVec 5) (f : Bool) (s : State) : Out :=
  opH s (.orH a d f) a d f (· ||| ·)
def execXorH (a d : BitVec 5) (f : Bool) (s : State) : Out :=
  opH s (.xorH a d f) a d f (· ^^^ ·)
def execShlH (a d : BitVec 5) (f : Bool) (s : State) : Out :=
  opH s (.shlH a d f) a d f shl5
def execShrH (a d : BitVec 5) (f : Bool) (s : State) : Out :=
  opH s (.shrH a d f) a d f shr5
def execSarH (a d : BitVec 5) (f : Bool) (s : State) : Out :=
  opH s (.sarH a d f) a d f sar5

/-! IADD and IADDI (07 R147). -/

def execIadd (e : Bool) (b : BitVec 7) (f : Bool) (a d : BitVec 7) (s : State) : Out :=
  opVV s (.iadd e b f a d) e b f a d (· + ·)
def execIsub (e : Bool) (b : BitVec 7) (f : Bool) (a d : BitVec 7) (s : State) : Out :=
  opVV s (.isub e b f a d) e b f a d (· - ·)
def execIadds (e : Bool) (b : BitVec 7) (f : Bool) (a d : BitVec 7) (s : State) : Out :=
  opVV s (.iadds e b f a d) e b f a d iadds
def execIsubs (e : Bool) (b : BitVec 7) (f : Bool) (a d : BitVec 7) (s : State) : Out :=
  opVV s (.isubs e b f a d) e b f a d isubs

/-! With an SI operand (07 R147). -/

def execIaddi (e : Bool) (b : BitVec 7) (f : Bool) (a d : BitVec 7) (s : State) : Out :=
  opVI s (.iaddi e b f a d) e b f a d (· + ·)
def execIsubi (e : Bool) (b : BitVec 7) (f : Bool) (a d : BitVec 7) (s : State) : Out :=
  opVI s (.isubi e b f a d) e b f a d (· - ·)
def execIaddsi (e : Bool) (b : BitVec 7) (f : Bool) (a d : BitVec 7) (s : State) : Out :=
  opVI s (.iaddsi e b f a d) e b f a d iadds
def execIsubsi (e : Bool) (b : BitVec 7) (f : Bool) (a d : BitVec 7) (s : State) : Out :=
  opVI s (.isubsi e b f a d) e b f a d isubs

/-! IMUL (07 R148). -/

def execImul (e : Bool) (b : BitVec 7) (f : Bool) (a d : BitVec 7) (s : State) : Out :=
  opVV s (.imul e b f a d) e b f a d (· * ·)
def execImulhi (e : Bool) (b : BitVec 7) (f : Bool) (a d : BitVec 7) (s : State) : Out :=
  opVV s (.imulhi e b f a d) e b f a d mulHiS
def execImulhin (e : Bool) (b : BitVec 7) (f : Bool) (a d : BitVec 7) (s : State) : Out :=
  opVV s (.imulhin e b f a d) e b f a d mulHiN
/-- IMAD reads the old d (07 R148). -/
def execImad (e : Bool) (b : BitVec 7) (f : Bool) (a d : BitVec 7) (s : State) : Out :=
  s.vecOp (.imad e b f a d) [srcV a f, srcV b e] d.toNat
    (fun g j => g.vr a.toNat j * g.vr b.toNat j + g.vr d.toNat j) [.v d.toNat]

/-! LOGIC and LOGICI (07 R149). -/

def execAnd (e : Bool) (b : BitVec 7) (f : Bool) (a d : BitVec 7) (s : State) : Out :=
  opVV s (.and e b f a d) e b f a d (· &&& ·)
def execOr (e : Bool) (b : BitVec 7) (f : Bool) (a d : BitVec 7) (s : State) : Out :=
  opVV s (.or e b f a d) e b f a d (· ||| ·)
def execXor (e : Bool) (b : BitVec 7) (f : Bool) (a d : BitVec 7) (s : State) : Out :=
  opVV s (.xor e b f a d) e b f a d (· ^^^ ·)
def execAndn (e : Bool) (b : BitVec 7) (f : Bool) (a d : BitVec 7) (s : State) : Out :=
  opVV s (.andn e b f a d) e b f a d (fun x y => x &&& ~~~y)

/-! With an SI operand (07 R149). -/

def execAndI (e : Bool) (b : BitVec 7) (f : Bool) (a d : BitVec 7) (s : State) : Out :=
  opVI s (.andI e b f a d) e b f a d (· &&& ·)
def execOrI (e : Bool) (b : BitVec 7) (f : Bool) (a d : BitVec 7) (s : State) : Out :=
  opVI s (.orI e b f a d) e b f a d (· ||| ·)
def execXorI (e : Bool) (b : BitVec 7) (f : Bool) (a d : BitVec 7) (s : State) : Out :=
  opVI s (.xorI e b f a d) e b f a d (· ^^^ ·)
def execAndnI (e : Bool) (b : BitVec 7) (f : Bool) (a d : BitVec 7) (s : State) : Out :=
  opVI s (.andnI e b f a d) e b f a d (fun x y => x &&& ~~~y)

/-! SHIFT: the amount is bv bits 4:0 (07 R150). -/

def execShl (e : Bool) (b : BitVec 7) (f : Bool) (a d : BitVec 7) (s : State) : Out :=
  opVI s (.shl e b f a d) e b f a d shl5
def execShr (e : Bool) (b : BitVec 7) (f : Bool) (a d : BitVec 7) (s : State) : Out :=
  opVI s (.shr e b f a d) e b f a d shr5
def execSar (e : Bool) (b : BitVec 7) (f : Bool) (a d : BitVec 7) (s : State) : Out :=
  opVI s (.sar e b f a d) e b f a d sar5
def execRol (e : Bool) (b : BitVec 7) (f : Bool) (a d : BitVec 7) (s : State) : Out :=
  opVI s (.rol e b f a d) e b f a d rol5

/-! MINMAX (07 R151). -/

def execMin (e : Bool) (b : BitVec 7) (f : Bool) (a d : BitVec 7) (s : State) : Out :=
  opVV s (.min e b f a d) e b f a d minS
def execMax (e : Bool) (b : BitVec 7) (f : Bool) (a d : BitVec 7) (s : State) : Out :=
  opVV s (.max e b f a d) e b f a d maxS
def execMinn (e : Bool) (b : BitVec 7) (f : Bool) (a d : BitVec 7) (s : State) : Out :=
  opVV s (.minn e b f a d) e b f a d minN
def execMaxn (e : Bool) (b : BitVec 7) (f : Bool) (a d : BitVec 7) (s : State) : Out :=
  opVV s (.maxn e b f a d) e b f a d maxN

/-! ICMP, ICMPN and ICMPI (07 R152, R153). -/

def execIcmpEq (e : Bool) (b : BitVec 7) (f : Bool) (a : BitVec 7) (d : BitVec 4) (s : State) : Out :=
  cmpVV s (.icmpEq e b f a d) e b f a d (fun x y => x == y)
def execIcmpNe (e : Bool) (b : BitVec 7) (f : Bool) (a : BitVec 7) (d : BitVec 4) (s : State) : Out :=
  cmpVV s (.icmpNe e b f a d) e b f a d (fun x y => x != y)
def execIcmpLt (e : Bool) (b : BitVec 7) (f : Bool) (a : BitVec 7) (d : BitVec 4) (s : State) : Out :=
  cmpVV s (.icmpLt e b f a d) e b f a d (fun x y => x.slt y)
def execIcmpLe (e : Bool) (b : BitVec 7) (f : Bool) (a : BitVec 7) (d : BitVec 4) (s : State) : Out :=
  cmpVV s (.icmpLe e b f a d) e b f a d (fun x y => !y.slt x)
def execIcmpLtn (e : Bool) (b : BitVec 7) (f : Bool) (a : BitVec 7) (d : BitVec 4) (s : State) : Out :=
  cmpVV s (.icmpLtn e b f a d) e b f a d (fun x y => decide (x.toNat < y.toNat))
def execIcmpLen (e : Bool) (b : BitVec 7) (f : Bool) (a : BitVec 7) (d : BitVec 4) (s : State) : Out :=
  cmpVV s (.icmpLen e b f a d) e b f a d (fun x y => decide (x.toNat ≤ y.toNat))
def execIcmpTst (e : Bool) (b : BitVec 7) (f : Bool) (a : BitVec 7) (d : BitVec 4) (s : State) : Out :=
  cmpVV s (.icmpTst e b f a d) e b f a d (fun x y => x &&& y != 0)
def execIcmpTstn (e : Bool) (b : BitVec 7) (f : Bool) (a : BitVec 7) (d : BitVec 4) (s : State) : Out :=
  cmpVV s (.icmpTstn e b f a d) e b f a d (fun x y => x &&& y == 0)
def execIcmpEqI (e : Bool) (b : BitVec 7) (f : Bool) (a : BitVec 7) (d : BitVec 4) (s : State) : Out :=
  cmpVI s (.icmpEqI e b f a d) e b f a d (fun x y => x == y)
def execIcmpNeI (e : Bool) (b : BitVec 7) (f : Bool) (a : BitVec 7) (d : BitVec 4) (s : State) : Out :=
  cmpVI s (.icmpNeI e b f a d) e b f a d (fun x y => x != y)
def execIcmpLtI (e : Bool) (b : BitVec 7) (f : Bool) (a : BitVec 7) (d : BitVec 4) (s : State) : Out :=
  cmpVI s (.icmpLtI e b f a d) e b f a d (fun x y => x.slt y)
def execIcmpLeI (e : Bool) (b : BitVec 7) (f : Bool) (a : BitVec 7) (d : BitVec 4) (s : State) : Out :=
  cmpVI s (.icmpLeI e b f a d) e b f a d (fun x y => !y.slt x)

/-! BITS (07 R154). -/

def execPopc (f : Bool) (a d : BitVec 7) (s : State) : Out :=
  opV s (.popc f a d) f a d (fun x => BitVec.ofNat 32 (popCount x))
def execClz (f : Bool) (a d : BitVec 7) (s : State) : Out :=
  opV s (.clz f a d) f a d (fun x => BitVec.ofNat 32 (clz x))
def execBrev (f : Bool) (a d : BitVec 7) (s : State) : Out :=
  opV s (.brev f a d) f a d brev
def execCtz (f : Bool) (a d : BitVec 7) (s : State) : Out :=
  opV s (.ctz f a d) f a d (fun x => BitVec.ofNat 32 (ctz x))

/-! FIELD (07 R155). -/

def execBfxn (e : Bool) (b : BitVec 7) (f : Bool) (a d : BitVec 7) (s : State) : Out :=
  opVI s (.bfxn e b f a d) e b f a d bfxn
def execBfxs (e : Bool) (b : BitVec 7) (f : Bool) (a d : BitVec 7) (s : State) : Out :=
  opVI s (.bfxs e b f a d) e b f a d bfxs

/-! FIELD, reading the old d (07 R155). -/

def execBfi (e : Bool) (b : BitVec 7) (f : Bool) (a d : BitVec 7) (s : State) : Out :=
  opDVI s (.bfi e b f a d) e b f a d bfi
def execBshuf (e : Bool) (b : BitVec 7) (f : Bool) (a d : BitVec 7) (s : State) : Out :=
  opDVI s (.bshuf e b f a d) e b f a d bshuf
/-- SEL: a where bit j of the mask is 1, b elsewhere; the mask and a always block (07 R156). -/
def execSel (e : Bool) (b : BitVec 7) (k : BitVec 3) (a d : BitVec 7) (s : State) : Out :=
  s.vecOp (.sel e b k a d) [srcV a false, srcV b e, srcK k false] d.toNat fun g j =>
    if maskBit (g.kr k.toNat) j then g.vr a.toNat j else g.vr b.toNat j
/-- MOVI.V: the sign-extended immediate in every active lane (02 R45). -/
def execMoviV (i : BitVec 18) (d : BitVec 7) (s : State) : Out :=
  s.vecOp (.moviV i d) [] d.toNat fun _ _ => imm18 i

end Sys2Proof.Machine
end

