-- ==== Sys2Proof/Machine/FloatOps.lean ====
section
/-! DEFINITION. Float arithmetic in the issue: F32, packed halves and F64, with compares into k (07 R157 to R162, R167, R168).
-/

namespace Sys2Proof.Machine

def val32 (x : Word) : Fv := f32.val x.toNat

/-- The binary32 operations of 07 R158 to R160. -/
def fop (h : Fv → Fv → Fv → Fr) (d a b : Word) : List Word × Word := (h (val32 d) (val32 a) (val32 b)).word
def faddF (_ a b : Fv) : Fr := f32.addV .rne a b
def fsubF (_ a b : Fv) : Fr := f32.addV .rne a b.neg
def fmulF (_ a b : Fv) : Fr := f32.mulV a b
def ffmaF (d a b : Fv) : Fr := f32.fmaV a b d
def ffmsF (d a b : Fv) : Fr := f32.fmaV a b d.neg
def ffnmaF (d a b : Fv) : Fr := f32.fmaV a.neg b d
def fminW (_ a b : Word) : List Word × Word := (f32.minmax false a.toNat b.toNat).word
def fmaxW (_ a b : Word) : List Word × Word := (f32.minmax true a.toNat b.toNat).word

/-- Two vectors; `h` gets the old d, a and b; `old` says that it reads d. -/
def floatVV (s : State) (i : Instr) (e : Bool) (b : BitVec 7) (f : Bool) (a d : BitVec 7)
    (h : Word → Word → Word → List Word × Word) (old : Bool := false) : Out :=
  s.vecFloat i [srcV a f, srcV b e] [d.toNat] costLane (fun g j => h (g.vr d.toNat j) (g.vr a.toNat j) (g.vr b.toNat j))
    (if old then [.v d.toNat] else [])

/-- A vector and a scalar. -/
def floatVS (s : State) (i : Instr) (e : Bool) (b : BitVec 6) (f : Bool) (a d : BitVec 7)
    (h : Word → Word → Word → List Word × Word) (old : Bool := false) : Out :=
  s.vecFloat i [srcV a f, srcS b e] [d.toNat] costLane (fun g j => h (g.vr d.toNat j) (g.vr a.toNat j) (g.sr b.toNat))
    (if old then [.v d.toNat] else [])

def floatH (s : State) (i : Instr) (a d : BitVec 5) (f : Bool) (h : Word → Word → Word → List Word × Word) : Out :=
  s.vecFloat i [srcV a f] [d.toNat] costLane (fun g j => h 0 (g.vr d.toNat j) (g.vr a.toNat j)) [.v d.toNat]

def floatV (s : State) (i : Instr) (f : Bool) (a d : BitVec 7) (h : Word → List Word × Word) : Out :=
  s.vecFloat i [srcV a f] [d.toNat] costLane fun g j => h (g.vr a.toNat j)

/-- Two packed elements, computed independently (07 R167). -/
def packed (h : Nat → Nat → Nat → Fr) (d a b : Word) : List Word × Word :=
  let r0 := h (bitsOf d 0 16) (bitsOf a 0 16) (bitsOf b 0 16)
  let r1 := h (bitsOf d 16 16) (bitsOf a 16 16) (bitsOf b 16 16)
  ([BitVec.ofNat 32 (r1.bits * 65536 + r0.bits)], r0.ex ||| r1.ex)
def pAdd (m : Fmt) (_ a b : Nat) : Fr := m.addV .rne (m.val a) (m.val b)
def pMul (m : Fmt) (_ a b : Nat) : Fr := m.mulV (m.val a) (m.val b)
def pFma (m : Fmt) (d a b : Nat) : Fr := m.fmaV (m.val a) (m.val b) (m.val d)
def pMax (m : Fmt) (_ a b : Nat) : Fr := m.minmax true a b

/-- Binary64 pairs, named by half their number (07 R168). -/
def floatD (s : State) (i : Instr) (e : Bool) (b : BitVec 6) (f : Bool) (a d : BitVec 6) (h : Nat → Nat → Nat → Fr)
    (old : Bool := false) : Out :=
  s.vecFloat i (srcVs (2 * a.toNat) 2 f ++ srcVs (2 * b.toNat) 2 e) [2 * d.toNat, 2 * d.toNat + 1] cost64
    (fun g j => (h (g.vr64 (2 * d.toNat) j).toNat (g.vr64 (2 * a.toNat) j).toNat (g.vr64 (2 * b.toNat) j).toNat).words)
    (if old then [.v (2 * d.toNat), .v (2 * d.toNat + 1)] else [])

/-- The conditions of FCMP with the exceptions they raise (07 R161). -/
def fcmpEq (a b : Fv) : Bool × Word :=
  (!a.isNan && !b.isNan && cmpV a b == .eq, if a.isSnan || b.isSnan then xNV else 0)
def fcmpLt (a b : Fv) : Bool × Word := (!a.isNan && !b.isNan && cmpV a b == .lt, if a.isNan || b.isNan then xNV else 0)
def fcmpLe (a b : Fv) : Bool × Word := (!a.isNan && !b.isNan && cmpV a b != .gt, if a.isNan || b.isNan then xNV else 0)
def fcmpUno (a b : Fv) : Bool × Word := (a.isNan || b.isNan, if a.isSnan || b.isSnan then xNV else 0)

/-- FCMP, a producer into k: the condition and the exceptions are known at issue; at completion the bits and flags are
written, or the enabled exceptions trap (07 R153, R161; 05 R110). -/
def cmpFloat (s : State) (e : Bool) (b : BitVec 7) (f : Bool) (a : BitVec 7) (d : BitVec 4)
    (c : Fv → Fv → Bool × Word) : Out :=
  s.issue { srcs := [srcV a f, srcV b e], late := [.k d.toNat] } costLane fun s g =>
    let r := fun j => c (val32 (g.vr a.toNat j)) (val32 (g.vr b.toNat j))
    let new := maskOf g.width fun j => if maskBit s.cur.mask j then (r j).1 else maskBit (g.k.get d.toNat) j
    let ex := (lanesOf s.cur.mask).map fun j => (j, (r j).2)
    s.flagOp g .compare [.k d.toNat] (if g.width = 64 then 5 else 4) [⟨.k d.toNat, 0, new⟩] ex


/-! The H forms (02 R43). -/

def execFaddH (a d : BitVec 5) (f : Bool) (s : State) : Out :=
  floatH s (.faddH a d f) a d f (fop faddF)
def execFsubH (a d : BitVec 5) (f : Bool) (s : State) : Out :=
  floatH s (.fsubH a d f) a d f (fop fsubF)
def execFmulH (a d : BitVec 5) (f : Bool) (s : State) : Out :=
  floatH s (.fmulH a d f) a d f (fop fmulF)
def execFmaxH (a d : BitVec 5) (f : Bool) (s : State) : Out :=
  floatH s (.fmaxH a d f) a d f fmaxW
def execFminH (a d : BitVec 5) (f : Bool) (s : State) : Out :=
  floatH s (.fminH a d f) a d f fminW

/-! FADD and FMUL (07 R158 to R160). -/

def execFadd (e : Bool) (b : BitVec 7) (f : Bool) (a d : BitVec 7) (s : State) : Out :=
  floatVV s (.fadd e b f a d) e b f a d (fop faddF)
def execFsub (e : Bool) (b : BitVec 7) (f : Bool) (a d : BitVec 7) (s : State) : Out :=
  floatVV s (.fsub e b f a d) e b f a d (fop fsubF)
def execFmin (e : Bool) (b : BitVec 7) (f : Bool) (a d : BitVec 7) (s : State) : Out :=
  floatVV s (.fmin e b f a d) e b f a d fminW
def execFmax (e : Bool) (b : BitVec 7) (f : Bool) (a d : BitVec 7) (s : State) : Out :=
  floatVV s (.fmax e b f a d) e b f a d fmaxW
def execFmul (e : Bool) (b : BitVec 7) (f : Bool) (a d : BitVec 7) (s : State) : Out :=
  floatVV s (.fmul e b f a d) e b f a d (fop fmulF)
def execFfma (e : Bool) (b : BitVec 7) (f : Bool) (a d : BitVec 7) (s : State) : Out :=
  floatVV s (.ffma e b f a d) e b f a d (fop ffmaF) true
def execFfms (e : Bool) (b : BitVec 7) (f : Bool) (a d : BitVec 7) (s : State) : Out :=
  floatVV s (.ffms e b f a d) e b f a d (fop ffmsF) true
def execFfnma (e : Bool) (b : BitVec 7) (f : Bool) (a d : BitVec 7) (s : State) : Out :=
  floatVV s (.ffnma e b f a d) e b f a d (fop ffnmaF) true

/-! With a scalar b (07 R158, R159). -/

def execFaddS (e : Bool) (b : BitVec 6) (f : Bool) (a d : BitVec 7) (s : State) : Out :=
  floatVS s (.faddS e b f a d) e b f a d (fop faddF)
def execFsubS (e : Bool) (b : BitVec 6) (f : Bool) (a d : BitVec 7) (s : State) : Out :=
  floatVS s (.fsubS e b f a d) e b f a d (fop fsubF)
def execFminS (e : Bool) (b : BitVec 6) (f : Bool) (a d : BitVec 7) (s : State) : Out :=
  floatVS s (.fminS e b f a d) e b f a d fminW
def execFmaxS (e : Bool) (b : BitVec 6) (f : Bool) (a d : BitVec 7) (s : State) : Out :=
  floatVS s (.fmaxS e b f a d) e b f a d fmaxW
def execFmulS (e : Bool) (b : BitVec 6) (f : Bool) (a d : BitVec 7) (s : State) : Out :=
  floatVS s (.fmulS e b f a d) e b f a d (fop fmulF)
def execFfmaS (e : Bool) (b : BitVec 6) (f : Bool) (a d : BitVec 7) (s : State) : Out :=
  floatVS s (.ffmaS e b f a d) e b f a d (fop ffmaF) true
def execFfmsS (e : Bool) (b : BitVec 6) (f : Bool) (a d : BitVec 7) (s : State) : Out :=
  floatVS s (.ffmsS e b f a d) e b f a d (fop ffmsF) true
def execFfnmaS (e : Bool) (b : BitVec 6) (f : Bool) (a d : BitVec 7) (s : State) : Out :=
  floatVS s (.ffnmaS e b f a d) e b f a d (fop ffnmaF) true

/-! FCMP (07 R161). -/

def execFcmpEq (e : Bool) (b : BitVec 7) (f : Bool) (a : BitVec 7) (d : BitVec 4) (s : State) : Out :=
  cmpFloat s e b f a d fcmpEq
def execFcmpLt (e : Bool) (b : BitVec 7) (f : Bool) (a : BitVec 7) (d : BitVec 4) (s : State) : Out :=
  cmpFloat s e b f a d fcmpLt
def execFcmpLe (e : Bool) (b : BitVec 7) (f : Bool) (a : BitVec 7) (d : BitVec 4) (s : State) : Out :=
  cmpFloat s e b f a d fcmpLe
def execFcmpUno (e : Bool) (b : BitVec 7) (f : Bool) (a : BitVec 7) (d : BitVec 4) (s : State) : Out :=
  cmpFloat s e b f a d fcmpUno

/-! FUNARY (07 R162). -/

def execFabs (f : Bool) (a d : BitVec 7) (s : State) : Out :=
  floatV s (.fabs f a d) f a d (fun x => ([x &&& 0x7FFFFFFF], 0))
def execFneg (f : Bool) (a d : BitVec 7) (s : State) : Out :=
  floatV s (.fneg f a d) f a d (fun x => ([x ^^^ 0x80000000], 0))
/-- Never inexact (07 R162). -/
def execFfloor (f : Bool) (a d : BitVec 7) (s : State) : Out :=
  floatV s (.ffloor f a d) f a d fun x =>
    let r := f32.integral .rdn x.toNat
    ([BitVec.ofNat 32 r.bits], r.ex &&& xNV)
/-- Never inexact (07 R162). -/
def execFceil (f : Bool) (a d : BitVec 7) (s : State) : Out :=
  floatV s (.fceil f a d) f a d fun x =>
    let r := f32.integral .rup x.toNat
    ([BitVec.ofNat 32 r.bits], r.ex &&& xNV)

/-! H2, B2 (07 R167) and F64 (07 R168). -/

def execHadd2 (e : Bool) (b : BitVec 7) (f : Bool) (a d : BitVec 7) (s : State) : Out :=
  floatVV s (.hadd2 e b f a d) e b f a d (packed (pAdd f16))
def execHmul2 (e : Bool) (b : BitVec 7) (f : Bool) (a d : BitVec 7) (s : State) : Out :=
  floatVV s (.hmul2 e b f a d) e b f a d (packed (pMul f16))
def execHfma2 (e : Bool) (b : BitVec 7) (f : Bool) (a d : BitVec 7) (s : State) : Out :=
  floatVV s (.hfma2 e b f a d) e b f a d (packed (pFma f16)) true
def execHmax2 (e : Bool) (b : BitVec 7) (f : Bool) (a d : BitVec 7) (s : State) : Out :=
  floatVV s (.hmax2 e b f a d) e b f a d (packed (pMax f16))
def execBadd2 (e : Bool) (b : BitVec 7) (f : Bool) (a d : BitVec 7) (s : State) : Out :=
  floatVV s (.badd2 e b f a d) e b f a d (packed (pAdd bf16))
def execBmul2 (e : Bool) (b : BitVec 7) (f : Bool) (a d : BitVec 7) (s : State) : Out :=
  floatVV s (.bmul2 e b f a d) e b f a d (packed (pMul bf16))
def execBfma2 (e : Bool) (b : BitVec 7) (f : Bool) (a d : BitVec 7) (s : State) : Out :=
  floatVV s (.bfma2 e b f a d) e b f a d (packed (pFma bf16)) true
def execBmax2 (e : Bool) (b : BitVec 7) (f : Bool) (a d : BitVec 7) (s : State) : Out :=
  floatVV s (.bmax2 e b f a d) e b f a d (packed (pMax bf16))
def execDadd (e : Bool) (b : BitVec 6) (f : Bool) (a d : BitVec 6) (s : State) : Out :=
  floatD s (.dadd e b f a d) e b f a d (pAdd f64)
def execDmul (e : Bool) (b : BitVec 6) (f : Bool) (a d : BitVec 6) (s : State) : Out :=
  floatD s (.dmul e b f a d) e b f a d (pMul f64)
def execDfma (e : Bool) (b : BitVec 6) (f : Bool) (a d : BitVec 6) (s : State) : Out :=
  floatD s (.dfma e b f a d) e b f a d (pFma f64) true
def execDmin (e : Bool) (b : BitVec 6) (f : Bool) (a d : BitVec 6) (s : State) : Out :=
  floatD s (.dmin e b f a d) e b f a d fun _ x y => f64.minmax false x y

end Sys2Proof.Machine
end

