-- ==== Sys2Proof/Machine/Host.lean ====
section
/-! DEFINITION. The host's registers in BAR0 (22 R370 to R374; 03 R78), requests of the host and of peer packages to device
memory (22 R369, R378; 20 R348), and what comes back from a peer. -/

namespace Sys2Proof.Machine

/-! TLB invalidation (03 R78). -/

def Part.tlbBusy (p : Part) : Bool := (p.reg 0x208).getLsbD 0

/-- TLBINV_GO: a write of TLBINV with GO; ignored while BUSY. -/
def execTlbinvGo (part : Nat) (value : BitVec 64) (s : State) : Out :=
  if !s.hostOpen part || !value.getLsbD 0 then .fault (.notEnabled "TLBINV_GO")
  else if (s.part part).tlbBusy then .next s
  else .next (s.modPart part fun p => (p.setReg 0x200 (value &&& 0x00FFFFFFFFFFF006)).setReg 0x208 1)

/-- The range TLBINV names: first address and size. -/
def tlbRange (v : DWord) : Nat × Nat :=
  let n := match bitsOf v 1 2 with | 0 => 2 ^ 12 | 1 => 2 ^ 21 | _ => 2 ^ 29
  let va := bitsOf v 12 44 * 4096
  if bitsOf v 1 2 = 3 then (0, 2 ^ 64) else (va / n * n, n)

/-- An address as VA bits 55:0 give it. -/
def va56 (x : Nat) : Nat := x % 2 ^ 56

/-- A page, by base and size, overlaps a range; no page has size 0. -/
def pageMeets (r pg : Nat × Nat) : Bool :=
  pg.2 != 0 && (r.2 == 2 ^ 64 || (decide (va56 pg.1 < r.1 + r.2) && decide (r.1 < va56 pg.1 + pg.2)))

/-- A held translation overlaps a range. -/
def Tlb.meets (t : Tlb) (r : Nat × Nat) : Bool := pageMeets r (t.base, t.size)

/-- An operation has translated parts of its destination by a page that overlaps the range (12 R252). -/
def Op.usedBy (r : Nat × Nat) (o : Op) : Bool :=
  match o.kind with
  | .snap _ _ _ (.getting _ dest _) _ => dest.any fun ps => ps.any fun p => pageMeets r p.page
  | _ => false

/-- TLBINV_COMPLETE: no TLB holds a translation of a page that overlaps the range, and what was translated by one has been
performed. -/
def execTlbinvComplete (part : Nat) (s : State) : Out :=
  let p := s.part part
  let r := tlbRange (p.reg 0x200)
  if !p.tlbBusy || s.accs.any (fun a => a.2.part == part && pageMeets r a.2.page) || s.ops.any (fun o => o.2.part == part && o.2.usedBy r) then
    .fault (.notEnabled "TLBINV_COMPLETE")
  else .next ((s.tlbDrop fun t => t.part == part && t.meets r).modPart part fun p => p.setReg 0x208 0)

/-! Loading a context (22 R372, R373). -/

/-- A command is done: STATE changes, and ERR stays that of the last command (22 R372). -/
def Part.toCtx (p : Part) (st : Nat) : Part := p.setCtx st (bitsOf (p.reg 0x120) 8 8)

/-- CONTEXT_LOAD: CTXCMD LOAD; refused with ERR 1, 2 or 3. -/
def execContextLoad (part : Nat) (s : State) : Out :=
  let p := s.part part
  let root := bitsOf (p.reg 0x100) 17 39 * 2 ^ 17
  if !s.hostOpen part then .fault (.notEnabled "CONTEXT_LOAD")
  else if p.ctxState ≠ 0 then .next (s.modPart part fun p => p.setCtx p.ctxState 1)
  else if p.count < 4 then .next (s.modPart part fun p => p.setCtx 0 2)
  else if p.hbmSize < root + 2 ^ 17 then .next (s.modPart part fun p => p.setCtx 0 3)
  else .next (s.modPart part fun p => p.setCtx 1 0)

/-- CONTEXT_LOAD_DONE: translations invalidated, cr.VIEWNEST.ACTIVE set to NEST, pre-emption running, the save area restored,
and STATE becomes LOADED. -/
def execContextLoadDone (part : Nat) (s : State) : Out :=
  let p := s.part part
  if p.ctxState ≠ 1 ∨ p.resetting then .fault (.notEnabled "CONTEXT_LOAD_DONE")
  else
    let nest := BitVec.ofNat 32 (bitsOf (p.cr 0x21) 0 2 * 17)
    let s1 := s.modPart part fun p =>
      { (p.setPreempt 0).setCr 0x21 nest with drainCount := 0, sliceCount := 0 }
    .next (((s1.tlbDrop fun t => t.part == part).restore part).modPart part fun p => p.toCtx 2)

/-- CONTEXT_UNLOAD: CTXCMD UNLOAD; refused with ERR 1, 4 or 5. -/
def execContextUnload (part : Nat) (s : State) : Out :=
  let p := s.part part
  if !s.hostOpen part then .fault (.notEnabled "CONTEXT_UNLOAD")
  else if p.ctxState ≠ 2 then .next (s.modPart part fun p => p.setCtx p.ctxState 1)
  else if p.faulted then .next (s.modPart part fun p => p.setCtx 2 5)
  else if s.teams.any (fun t => t.2.part == part) || (p.preempt != 2 && !p.pkts.isEmpty) then
    .next (s.modPart part fun p => p.setCtx 2 4)
  else .next (s.modPart part fun p => p.setCtx 3 0)

/-- CONTEXT_UNLOAD_DONE: queues disabled, the context's work and translations discarded, and STATE becomes NONE. Stores that have been
issued are still performed (01 R32). -/
def execContextUnloadDone (part : Nat) (s : State) : Out :=
  let p := s.part part
  if p.ctxState ≠ 3 ∨ p.resetting then .fault (.notEnabled "CONTEXT_UNLOAD_DONE")
  else
    let s1 := ((s.disableQueues part).discardWork part).tlbDrop fun t => t.part == part
    .next ({ s1 with accs := s.accs }.modPart part fun p => { p.toCtx 0 with resumable := [], heldResumes := [], ppWaits := [] })

/-! The control-register window (22 R374). -/

/-- The status of an access: 0, or 1 BADREG, 2 BADCORE, 3 READONLY. -/
def State.craccStatus (s : State) (part core n : Nat) (write : Bool) : Nat :=
  if !crListed n || crOfGroup n then 1
  else if crOfCore n && !(s.part part).coreList.contains core then 2
  else if write && crClass n == 1 then 3
  else 0

/-- A control register outside group scope. -/
def State.crShared (s : State) (part core n : Nat) : Word :=
  if crOfCore n then (s.core core).bks.get n else (s.part part).cr n

/-- The end of an access through CRACC. -/
def State.craccEnd (s : State) (part : Nat) (value : DWord) (status : Nat) : State :=
  s.modPart part fun p => (p.setReg 0x140 (value &&& 0x43FF000000000FFF)).setReg 0x150 (BitVec.ofNat 64 status)

/-- CRACC_READ. -/
def execCraccRead (part : Nat) (value : BitVec 64) (s : State) : Out :=
  let n := bitsOf value 0 12
  let core := bitsOf value 48 10
  if !s.hostOpen part || !value.getLsbD 63 || value.getLsbD 62 then .fault (.notEnabled "CRACC_READ")
  else
    let e := s.craccStatus part core n false
    let s1 := if e = 0 then s.modPart part fun p => p.setReg 0x148 ((s.crShared part core n).setWidth 64) else s
    .next (s1.craccEnd part value e)

/-- CRACC_WRITE. -/
def execCraccWrite (part : Nat) (value : BitVec 64) (s : State) : Out :=
  let n := bitsOf value 0 12
  let core := bitsOf value 48 10
  if !s.hostOpen part || !value.getLsbD 63 || !value.getLsbD 62 then .fault (.notEnabled "CRACC_WRITE")
  else
    let e := s.craccStatus part core n true
    let s1 := if e = 0 then s.crWriteShared part core n (lo32 ((s.part part).reg 0x148)) else s
    .next (s1.craccEnd part value e)

/-! Every other register (00 R12, 22 R370). -/

/-- The value of a register whose writable bits are a mask. -/
def Part.wr (p : Part) (off : Nat) (mask v : DWord) : Part :=
  p.setReg off ((p.reg off &&& ~~~mask) ||| (v &&& mask))

/-- Some tree of the partition is valid. -/
def Part.anyTree (p : Part) : Bool := (List.range 64).any p.treeValid

/-- A fault ring is configured (18 R324). -/
def Part.fqOn (p : Part) : Bool := bitsOf (p.reg 0x300) 12 52 != 0 || bitsOf (p.reg 0x300) 1 4 != 0

/-- A ring is configured where `old` had none: records that no ring could take are not written any more, and their work waits until
partition reset (18 R324). -/
def Part.fqSet (p old : Part) : Part :=
  if p.fqOn && !old.fqOn then
    { p with frecs := [], resumable := p.resumable.filter fun i => !p.frecs.any fun r => r.id == i }
  else p

/-- A register at an offset after a write of it; none where the write is a command of its own row of the table. Registers are
written whole (log entry 50). -/
def Part.barWrite (p : Part) (off : Nat) (v : DWord) : Option Part :=
  let free : Bool := p.ctxState == 0
  if off = 0x100 then some (if free then p.wr off 0x00FFFFFFFFFE0000 v else p)
  else if off = 0x108 then some (if free then p.wr off 0xFFFFFFFFFFFFFFC0 v else p)
  else if off = 0x110 then some (if free then p.wr off 0xFFFFFFFFFFFFE000 v else p)
  else if off = 0x118 then (if bitsOf v 0 2 = 1 ∨ bitsOf v 0 2 = 2 then none else some p)
  else if off = 0x140 then (if v.getLsbD 63 then none else some (p.wr off 0x43FF000000000FFF v))
  else if off = 0x148 then some (p.wr off 0xFFFFFFFF v)
  else if off = 0x200 then
    (if v.getLsbD 0 then none else if p.tlbBusy then some p else some (p.wr off 0x00FFFFFFFFFFF006 v))
  else if off = 0x300 then some (if p.fqRead = p.fqWrite then (p.wr off 0xFFFFFFFFFFFFF01F v).fqSet p else p)
  else if off = 0x310 then some (if v.toNat < p.fqRead ∨ p.fqWrite < v.toNat then p else p.setReg off v)
  else if off = 0x318 then none
  else if off = 0x340 then (if v.getLsbD 0 then none else some (p.wr off 0xFFFFFFFF00000000 v))
  else if off = 0x350 then some (p.wr off 0xFFFFFFFFFFFFF000 v)
  else if off = 0x360 then (if v.getLsbD 0 then none else some p)
  else if off = 0x380 then some (p.wr off 0xFFFFFFFFFFFFFFFE v)
  else if off = 0x388 then some (p.wr off 7 v)
  else if off = 0x390 then some (p.setReg off v)
  else if off = 0x398 then (if bitsOf v 62 2 = 0 then some p else none)
  else if off = 0x3A0 then (if v.getLsbD 63 then none else some (p.wr off 0x7FFFFFFFFFC00000 v))
  else if off = 0x3A8 then some (p.setReg off v)
  else if off = 0x408 then
    some (if p.anyTree then p
      else if 12 ≤ bitsOf v 0 5 ∧ bitsOf v 0 5 ≤ 24 then p.wr off 0x00FFFFFFFFFFF01F v else p.wr off 0x00FFFFFFFFFFF000 v)
  else if 0x600 ≤ off ∧ off < 0x800 ∧ off % 8 = 0 then some (p.wr off 0x8000FFFF03FFFFFF v)
  else if 0x800 ≤ off ∧ off < 0xC00 ∧ off % 16 = 0 then
    some (if p.treeValid ((off - 0x800) / 16) then p else p.setReg off v)
  else if 0x800 ≤ off ∧ off < 0xC00 ∧ off % 16 = 8 then
    let valid := p.treeValid ((off - 0x800) / 16)
    (if v.getLsbD 31 != valid then none else if valid then some p else some (p.wr off 0x4000000F v))
  else if 0x1000 ≤ off ∧ off < 0x1400 ∧ off % 16 = 0 then
    let on := p.enabled ((off - 0x1000) / 16)
    (if v.getLsbD 0 != on then none else if on then some p else some (p.wr off 0xFFFFFFFFFFFFFFC0 v))
  else if 0x1000 ≤ off ∧ off < 0x1400 ∧ off % 16 = 8 then none
  else if 0x4000 ≤ off ∧ off % 512 = 0x1F8 ∧ v.getLsbD 0 ∧ off < 0x4000 + 512 * (p.count * 16) then none
  else some p

/-- BAR_REGISTER_WRITE. -/
def execBarRegisterWrite (part offset : Nat) (value : BitVec 64) (s : State) : Out :=
  if !s.hostOpen part then .fault (.notEnabled "BAR_REGISTER_WRITE")
  else match (s.part part).barWrite offset value with
    | none => .fault (.notEnabled "BAR_REGISTER_WRITE")
    | some p => .next (s.setPart part p)

/-- FQSTAT (18 R324): a record waits for its ring, and the context is faulted. -/
def State.fqStat (s : State) (part : Nat) : DWord :=
  let p := s.part part
  (if p.faulted then 2 else 0) + (if !p.frecs.isEmpty && p.fqOn && (s.fqPlace part).isNone then 1 else 0)

/-- A stall counter at an offset above 0x4000 (20 R361): words 0 to 16 of a block are the histogram, 33 to 51 the reasons. -/
def Part.stallWord (p : Part) (o : Nat) : DWord :=
  let w := o % 512 / 8
  if o / 512 < p.count * 16 ∧ (w ≤ 16 ∨ (33 ≤ w ∧ w ≤ 51)) then p.stalls.get (o / 512 * 64 + w) else 0

/-- A read of BAR0 (22 R370): command and write-only registers read zero, and so does every offset that is not listed. -/
def State.barRead (s : State) (part off : Nat) : DWord :=
  let p := s.part part
  if off % 8 ≠ 0 then 0
  else if off = 0x320 then s.fqStat part
  else if off = 0x410 then BitVec.ofNat 64 (s.esFree part)
  else if 0x4000 ≤ off then p.stallWord (off - 0x4000)
  else p.reg off

/-- A read of BAR0 by the host. -/
def State.hostBarRead (s : State) (part off : Nat) : Out :=
  if !s.hostOpen part then .fault (.notEnabled "BAR read")
  else .next { s with hostOut := (part, toBytes 8 (s.barRead part off).toNat) :: s.hostOut }

/-- CONFIGURATION_WRITE: the memory-enable bit of a virtual function, which one without clusters refuses (22 R369). -/
def execConfigurationWrite (part : Nat) (memEnable : Bool) (s : State) : Out :=
  if s.hostLost || s.devResetting || s.mc.recovery || decide (48 ≤ part) then .fault (.notEnabled "CONFIGURATION_WRITE")
  else if (s.part part).count = 0 then .next s
  else .next (s.modPart part fun p => { p with memEnable })

/-! Requests to device memory (20 R348, 22 R378). -/

/-- Bytes of a partition's HBM share, vault share or second-tier share. -/
def State.devLoc (s : State) (part space off n : Nat) : Option Loc :=
  let p := s.part part
  match space with
  | 0 => if off + n ≤ p.hbmSize then some ⟨.hbm, part, off⟩ else none
  | 1 => p.vaultLoc off n
  | 2 => if off + n ≤ p.tierSize then some ⟨.tier, part, off⟩ else none
  | _ => none

/-- The parts of a run of bytes in its 64-byte lines: place and length of each. -/
def lineRuns (l : Loc) (n : Nat) : List (Loc × Nat) := (splitUnits 64 n l.off n).map fun x => ({ l with off := x.1 }, x.2)

/-- A read of a run would consume poison, or reaches a port that is down (03 R81, 22 R376). -/
def State.runBad (s : State) (l : Loc) (n : Nat) : Bool := (lineRuns l n).any fun x => s.poisoned x.1 || !s.tierUp x.1

/-- The bytes of a run as a viewer reads them, unit by unit (03 R79). -/
def State.readRun (s : State) (v : Viewer) (unit : Nat) (l : Loc) (n : Nat) : List Byte :=
  (splitUnits unit n l.off n).flatMap fun x => s.viewBytes v { l with off := x.1 } x.2

/-- What a read of a run leaves: errors corrected (03 R81). -/
def State.correctLines (s : State) (l : Loc) (n : Nat) : State := (lineRuns l n).foldl (fun s x => s.correct x.1) s

/-- Write bytes of a request line by line: lines that are covered whole lose their poison, and a port that is down drops its own (22 R376). -/
def State.putRuns (s : State) : List (Loc × Nat) → List Byte → State
  | [], _ => s
  | x :: r, bs => (if s.tierUp x.1 then (s.store x.1 (bs.take x.2)).cleanse x.1 x.2 else s).putRuns r (bs.drop x.2)
def State.writeRun (s : State) (l : Loc) (bs : List Byte) : State := s.putRuns (lineRuns l bs.length) bs

/-- A request from outside has consumed poison (03 R81): Uncorrectable-data faults the context, or is a notice where none is loaded. -/
def State.outsideBad (s : State) (part : Nat) : State :=
  if (s.part part).ctxState = 2 then s.contextFault part none 64 0 0 0 7 0 else s.record part 3 64 0 0 0 7 0 0

/-- HOST_REQUEST_TO_DEVICE_MEMORY: space 0 HBM share, 1 vault share, 2 second-tier share; one beyond the share does nothing. A
freeze does not hold it. A read that meets poison returns no data. -/
def execHostRequestToDeviceMemory (part space offset : Nat) (write : Bool) (data : List (BitVec 8)) (size : Nat) (s : State) :
    Out :=
  if !s.hostOpen part || (write && data.length != size) then .fault (.notEnabled "HOST_REQUEST_TO_DEVICE_MEMORY")
  else match s.devLoc part space offset size with
    | none => .next s
    | some l =>
      if write then .next (s.writeRun l data)
      else if s.runBad l size then .next ({ s with hostOut := (part, []) :: s.hostOut }.outsideBad part)
      else .next { s.correctLines l size with
        hostOut := (part, s.readRun { Viewer.all with far := 4 } l.space.unit l size) :: s.hostOut }

/-- The target of a peer's offset in the space of a partition. -/
def State.peerLoc (s : State) (part : Nat) (off : BitVec 46) (n : Nat) : Option Loc :=
  match bitsOf off 44 2 with
  | 0 => s.devLoc part 0 (bitsOf off 0 44) n
  | 1 => if bitsOf off 32 12 = 0 then s.devLoc part 1 (bitsOf off 0 32) n else none
  | _ => s.devLoc part 2 (bitsOf off 0 45) n

/-- The partition that holds a domain key; key 0 takes part in no domain. -/
def State.keyPart (s : State) (key : DWord) : Option Nat :=
  if key = 0 then none else (s.parts.find? fun x => x.2.key == key).map (·.1)

/-- PEER_REQUEST: kind 0 reads, 1 writes, 2 + op is an atomic whose data is its operand, and for a CAS the new value after it.
A request without a matching key, beyond the share or with reserved bits set is refused and performs nothing; in a device reset
every one is. One that reads poison performs nothing and is answered without data. -/
def execPeerRequest (key : BitVec 64) (kind : Nat) (offset : BitVec 46) (data : List (BitVec 8)) (size : Nat) (s : State) :
    Out :=
  let refuse : Out := .next { s with fabricOut := (0, 4, []) :: s.fabricOut }
  if s.devResetting then refuse
  else match s.keyPart key with
    | none => refuse
    | some part =>
      match s.peerLoc part offset size with
      | none => refuse
      | some l =>
        let old := s.readRun (if 2 ≤ kind then Viewer.all else { Viewer.all with far := 3 }) 16 l size
        let bad := kind != 1 && s.runBad l size
        let s1 := if kind = 1 then s else s.correctLines l size
        let answer (t : State) (bs : List Byte) : Out := .next { t with fabricOut := (part, 3, dwordsOf bs ((bs.length + 7) / 8)) :: t.fabricOut }
        let poisoned : Out := .next ({ s with fabricOut := (part, 5, []) :: s.fabricOut }.outsideBad part)
        if kind = 0 then (if bad then poisoned else answer s1 old)
        else if kind = 1 then
          (if data.length = size then answer (s.writeRun l data) [] else .fault (.notEnabled "PEER_REQUEST"))
        else
          let x := BitVec.ofNat 64 (ofBytes (data.take size))
          let y := BitVec.ofNat 64 (ofBytes (data.drop size))
          let v := BitVec.ofNat 64 (ofBytes old)
          if (size ≠ 4 ∧ size ≠ 8) ∨ 9 < kind then .fault (.notEnabled "PEER_REQUEST")
          else if bad then poisoned
          else if kind = 9 ∧ v ≠ x then answer s1 old
          else answer (s1.writeRun l (toBytes size (atomNew (kind - 2) size v x y).toNat)) old

/-- PEER_REFUSAL: Share-range at the requester, with the VA. -/
def execPeerRefusal (acc : Nat) (s : State) : Out :=
  match s.accs.get? acc with
  | none => .fault (.notEnabled "PEER_REFUSAL")
  | some a =>
    if a.loc.space ≠ .peer ∨ a.sent.isNone ∨ !s.ungated a.part a.gid then .fault (.notEnabled "PEER_REFUSAL")
    else .next ({ s with accs := s.accs.erase acc }.contextFault a.part (some a.gid) 67 a.va a.pc 0 0 0)

/-- PEER_RESPONSE_TIMEOUT: no response within 2 ms, which is 4,000,000 cycles of the job (20 R348). -/
def execPeerResponseTimeout (acc : Nat) (s : State) : Out :=
  match s.accs.get? acc with
  | none => .fault (.notEnabled "PEER_RESPONSE_TIMEOUT")
  | some a =>
    match a.sent with
    | none => .fault (.notEnabled "PEER_RESPONSE_TIMEOUT")
    | some t =>
      if a.loc.space ≠ .peer ∨ s.timeOf a.part a.gid < t + 4000000 ∨ !s.ungated a.part a.gid then .fault (.notEnabled "PEER_RESPONSE_TIMEOUT")
      else .next ({ s with accs := s.accs.erase acc }.contextFault a.part (some a.gid) 71 a.va a.pc 0 0 0)

end Sys2Proof.Machine
end

