-- ==== Sys2Proof/Machine/Scalar.lean ====
section
/-! DEFINITION. Scalar and mask instructions: once for the group (02 R45; 07 R169 to R174). -/

namespace Sys2Proof.Machine

/-- A scalar a and an SI operand (07 R170, R171). -/
def opSI (s : State) (i : Instr) (e : Bool) (b : BitVec 7) (f : Bool) (a d : BitVec 6) (h : Word → Word → Word) : Out :=
  s.sclOp i (srcS a f :: srcSI b e) d.toNat fun g => h (g.sr a.toNat) (valSI g b)

/-- A pair a, named by half its number, and an SI operand of 64 bits (07 R172). -/
def opSI64 (s : State) (i : Instr) (e : Bool) (b : BitVec 7) (f : Bool) (a d : BitVec 5) (h : DWord → DWord → DWord) :
    Out :=
  s.scl2Op i (srcSs (2 * a.toNat) 2 f ++ srcSI64 b e) (2 * d.toNat) fun g => h (g.sr64 (2 * a.toNat)) (valSI64 g b)

def opKK (s : State) (i : Instr) (e : Bool) (b : BitVec 4) (f : Bool) (a d : BitVec 4) (h : Mask → Mask → Mask) : Out :=
  s.maskOp i [srcK a f, srcK b e] d.toNat fun g => h (g.kr a.toNat) (g.kr b.toNat)

def oneIf (c : Bool) : Word := if c then 1 else 0

/-- MOVI.S (02 R45). -/
def execMoviS (i : BitVec 18) (d : BitVec 6) (s : State) : Out := s.sclOp (.moviS i d) [] d.toNat fun _ => imm18 i
/-- MOVIH.S: bits 31:14 from the immediate, bits 13:0 kept (02 R45). -/
def execMovihS (i : BitVec 18) (d : BitVec 6) (s : State) : Out :=
  s.sclOp (.movihS i d) [] d.toNat (fun g => (g.sr d.toNat &&& 0x3FFF) ||| (i.setWidth 32 <<< 14)) [.s d.toNat]
/-- ADDI.S (02 R45). -/
def execAddiS (i : BitVec 18) (d : BitVec 6) (s : State) : Out :=
  s.sclOp (.addiS i d) [] d.toNat (fun g => g.sr d.toNat + imm18 i) [.s d.toNat]

/-! SALU, SALU2 and SCMP (07 R170, R171). -/

def execSadd (e : Bool) (b : BitVec 7) (f : Bool) (a d : BitVec 6) (s : State) : Out :=
  opSI s (.sadd e b f a d) e b f a d (· + ·)
def execSsub (e : Bool) (b : BitVec 7) (f : Bool) (a d : BitVec 6) (s : State) : Out :=
  opSI s (.ssub e b f a d) e b f a d (· - ·)
def execSmul (e : Bool) (b : BitVec 7) (f : Bool) (a d : BitVec 6) (s : State) : Out :=
  opSI s (.smul e b f a d) e b f a d (· * ·)
def execSand (e : Bool) (b : BitVec 7) (f : Bool) (a d : BitVec 6) (s : State) : Out :=
  opSI s (.sand e b f a d) e b f a d (· &&& ·)
def execSor (e : Bool) (b : BitVec 7) (f : Bool) (a d : BitVec 6) (s : State) : Out :=
  opSI s (.sor e b f a d) e b f a d (· ||| ·)
def execSxor (e : Bool) (b : BitVec 7) (f : Bool) (a d : BitVec 6) (s : State) : Out :=
  opSI s (.sxor e b f a d) e b f a d (· ^^^ ·)
def execSshl (e : Bool) (b : BitVec 7) (f : Bool) (a d : BitVec 6) (s : State) : Out :=
  opSI s (.sshl e b f a d) e b f a d shl5
def execSshr (e : Bool) (b : BitVec 7) (f : Bool) (a d : BitVec 6) (s : State) : Out :=
  opSI s (.sshr e b f a d) e b f a d shr5
def execSeq (e : Bool) (b : BitVec 7) (f : Bool) (a d : BitVec 6) (s : State) : Out :=
  opSI s (.seq e b f a d) e b f a d (fun x y => oneIf (x == y))
def execSne (e : Bool) (b : BitVec 7) (f : Bool) (a d : BitVec 6) (s : State) : Out :=
  opSI s (.sne e b f a d) e b f a d (fun x y => oneIf (x != y))
def execSlt (e : Bool) (b : BitVec 7) (f : Bool) (a d : BitVec 6) (s : State) : Out :=
  opSI s (.slt e b f a d) e b f a d (fun x y => oneIf (x.slt y))
def execSltn (e : Bool) (b : BitVec 7) (f : Bool) (a d : BitVec 6) (s : State) : Out :=
  opSI s (.sltn e b f a d) e b f a d (fun x y => oneIf (decide (x.toNat < y.toNat)))

/-! S64 (07 R172). -/

def execSadd64 (e : Bool) (b : BitVec 7) (f : Bool) (a d : BitVec 5) (s : State) : Out :=
  opSI64 s (.sadd64 e b f a d) e b f a d (· + ·)
def execSsub64 (e : Bool) (b : BitVec 7) (f : Bool) (a d : BitVec 5) (s : State) : Out :=
  opSI64 s (.ssub64 e b f a d) e b f a d (· - ·)
def execSmulw (e : Bool) (b : BitVec 7) (f : Bool) (a d : BitVec 5) (s : State) : Out :=
  opSI64 s (.smulw e b f a d) e b f a d (· * ·)
def execSshl64 (e : Bool) (b : BitVec 7) (f : Bool) (a d : BitVec 5) (s : State) : Out :=
  opSI64 s (.sshl64 e b f a d) e b f a d (fun x y => x <<< (y.toNat % 64))

/-! KOP (07 R173). -/

def execKand (e : Bool) (b : BitVec 4) (f : Bool) (a d : BitVec 4) (s : State) : Out :=
  opKK s (.kand e b f a d) e b f a d (· &&& ·)
def execKor (e : Bool) (b : BitVec 4) (f : Bool) (a d : BitVec 4) (s : State) : Out :=
  opKK s (.kor e b f a d) e b f a d (· ||| ·)
def execKxor (e : Bool) (b : BitVec 4) (f : Bool) (a d : BitVec 4) (s : State) : Out :=
  opKK s (.kxor e b f a d) e b f a d (· ^^^ ·)
def execKandn (e : Bool) (b : BitVec 4) (f : Bool) (a d : BitVec 4) (s : State) : Out :=
  opKK s (.kandn e b f a d) e b f a d (fun x y => x &&& ~~~y)

/-! KMOV (07 R174). -/

def execK2s (f : Bool) (a : BitVec 4) (d : BitVec 5) (s : State) : Out :=
  s.scl2Op (.k2s f a d) [srcK a f] (2 * d.toNat) fun g => g.kr a.toNat
def execS2k (f : Bool) (a : BitVec 5) (d : BitVec 4) (s : State) : Out :=
  s.maskOp (.s2k f a d) (srcSs (2 * a.toNat) 2 f) d.toNat fun g => g.sr64 (2 * a.toNat)
def execKpopc (f : Bool) (a : BitVec 4) (d : BitVec 6) (s : State) : Out :=
  s.sclOp (.kpopc f a d) [srcK a f] d.toNat fun g => BitVec.ofNat 32 (popCount (g.kr a.toNat))
def execKffs (f : Bool) (a : BitVec 4) (d : BitVec 6) (s : State) : Out :=
  s.sclOp (.kffs f a d) [srcK a f] d.toNat fun g =>
    if g.kr a.toNat = 0 then 0xFFFFFFFF else BitVec.ofNat 32 (ctz (g.kr a.toNat))

end Sys2Proof.Machine
end

