-- ==== Sys2Proof/Machine/Messages.lean ====
section
/-! DEFINITION. Flits: arrival, claim, and the instructions that wait for one (13 R272 to R276). -/

namespace Sys2Proof.Machine

/-- Carry out an instruction that waited for its flit; `cur.defer` names its operation. Only these instructions issue before
their flit is there: those that write their destination in the issue, and the compares, with a scalar field (13 R275). -/
def runDeferred (i : Instr) (s : State) : Out :=
  match i with
  | .iaddi e b f a d => execIaddi e b f a d s
  | .isubi e b f a d => execIsubi e b f a d s
  | .iaddsi e b f a d => execIaddsi e b f a d s
  | .isubsi e b f a d => execIsubsi e b f a d s
  | .andI e b f a d => execAndI e b f a d s
  | .orI e b f a d => execOrI e b f a d s
  | .xorI e b f a d => execXorI e b f a d s
  | .andnI e b f a d => execAndnI e b f a d s
  | .shl e b f a d => execShl e b f a d s
  | .shr e b f a d => execShr e b f a d s
  | .sar e b f a d => execSar e b f a d s
  | .rol e b f a d => execRol e b f a d s
  | .icmpEqI e b f a d => execIcmpEqI e b f a d s
  | .icmpNeI e b f a d => execIcmpNeI e b f a d s
  | .icmpLtI e b f a d => execIcmpLtI e b f a d s
  | .icmpLeI e b f a d => execIcmpLeI e b f a d s
  | .bfxn e b f a d => execBfxn e b f a d s
  | .bfxs e b f a d => execBfxs e b f a d s
  | .bfi e b f a d => execBfi e b f a d s
  | .bshuf e b f a d => execBshuf e b f a d s
  | .faddS e b f a d => execFaddS e b f a d s
  | .fsubS e b f a d => execFsubS e b f a d s
  | .fminS e b f a d => execFminS e b f a d s
  | .fmaxS e b f a d => execFmaxS e b f a d s
  | .fmulS e b f a d => execFmulS e b f a d s
  | .ffmaS e b f a d => execFfmaS e b f a d s
  | .ffmsS e b f a d => execFfmsS e b f a d s
  | .ffnmaS e b f a d => execFfnmaS e b f a d s
  | .shfl e b f a d => execShfl e b f a d s
  | .shflx e b f a d => execShflx e b f a d s
  | .shflu e b f a d => execShflu e b f a d s
  | .shfld e b f a d => execShfld e b f a d s
  | .bcast e b f a d => execBcast e b f a d s
  | .rdlane e b f a d => execRdlane e b f a d s
  | .lrd e b f a d => execLrd e b f a d s
  | .lmeet e b d => execLmeet e b d s
  | .lpc e b d => execLpc e b d s
  | .sadd e b f a d => execSadd e b f a d s
  | .ssub e b f a d => execSsub e b f a d s
  | .smul e b f a d => execSmul e b f a d s
  | .sand e b f a d => execSand e b f a d s
  | .sor e b f a d => execSor e b f a d s
  | .sxor e b f a d => execSxor e b f a d s
  | .sshl e b f a d => execSshl e b f a d s
  | .sshr e b f a d => execSshr e b f a d s
  | .seq e b f a d => execSeq e b f a d s
  | .sne e b f a d => execSne e b f a d s
  | .slt e b f a d => execSlt e b f a d s
  | .sltn e b f a d => execSltn e b f a d s
  | .sadd64 e b f a d => execSadd64 e b f a d s
  | .ssub64 e b f a d => execSsub64 e b f a d s
  | .smulw e b f a d => execSmulw e b f a d s
  | .sshl64 e b f a d => execSshl64 e b f a d s
  | .s2k f a d => execS2k f a d s
  | .rdx e b f a d => execRdx e b f a d s
  | .lwr e b f a d => execLwr e b f a d s
  | .trdr sc v t => execTrdr sc v t s
  | .trdc sc v t => execTrdc sc v t s
  | .twrr sc v t => execTwrr sc v t s
  | .twrc sc v t => execTwrc sc v t s
  | .tmov sc t => execTmov sc t s
  | .tidrd a d => execTidrd a d s
  | .tdec b a d => execTdec b a d s
  | .wpos a d => execWpos a d s
  | _ => .fault .noIssue

/-- The oldest read of MSGRX of a group that waits for a flit (13 R275). -/
def State.oldestRead (s : State) (gid uid : Nat) : Option (Nat × Op) :=
  s.ops.find? fun x => x.2.gid == gid && x.2.uid == uid &&
    (match x.2.kind with
      | .message _ _ _ none => true
      | _ => false)

/-- A waiting read claims a flit and completes with it, or waits on where another register that it names is empty. -/
def State.claimFor (s : State) (id : Nat) (o : Op) (payload src : Word) : Out :=
  match o.kind with
  | .message i c g0 _ =>
    let s1 := { s with ops := s.ops.set id { o with kind := .message i c g0 (some (payload, src)) },
                       cur := { c with defer := some id } }
    match runDeferred i { s1 with waited := false } with
    | .next t => .next { (if t.waited then s1 else t) with cur := s.cur, waited := s.waited }
    | r => r
  | _ => .next s

/-- An earlier flit of the same sender is on its way to the same slot (13 R274). -/
def State.flitBefore (s : State) (id : Nat) (f : Flit) : Bool :=
  s.flits.any fun x => decide (x.1 < id) && x.2.srcUid == f.srcUid && x.2.dst == f.dst

/-- Reads that hold a flit and waited on another register complete where they can (13 R275). -/
def State.retryReads (s : State) : State :=
  (s.ops.filterMap fun x => match x.2.kind with
    | .message _ _ _ (some f) => some (x.1, f)
    | _ => none).foldl (fun s x => match s.ops.get? x.1 with
      | some o => if !s.ungated o.part o.gid then s else match s.claimFor x.1 o x.2.1 x.2.2 with
        | .next t => t
        | _ => s
      | none => s) s

/-- FLIT_ARRIVE (13 R274 to R276): the flit is discarded where no group holds the slot, claimed by the oldest waiting read,
or queued; at a queue of 16 it waits. -/
def execFlitArrive (flit : Nat) (s : State) : Out :=
  match s.flits.get? flit with
  | none => .fault (.notEnabled "FLIT_ARRIVE")
  | some f =>
    let p := s.part f.part
    if p.stoppedAll || !decide (f.due ≤ p.clock) || !s.tokDone f.tok || s.flitBefore flit f then
      .fault (.notEnabled "FLIT_ARRIVE")
    else
      let s1 := { s with flits := s.flits.erase flit }.releaseTok f.tok false [.ls] 2 0
      match s.group? f.dst with
      | none => .next s1
      | some g0 =>
        let g := g0.modLanes fun _ l => l.snapFollows f.tok.saw
        let s1 := s1.setGroup f.dst g
        match s1.oldestRead f.dst g.uid with
        | some (id, o) => s1.claimFor id o f.payload f.srcAddr
        | none =>
          if 16 ≤ g.rxq.length then .fault (.notEnabled "FLIT_ARRIVE")
          else .next (s1.setGroup f.dst { g with rxq := g.rxq ++ [(f.payload, f.srcAddr)] })

end Sys2Proof.Machine
end

