-- ==== Sys2Proof/Machine/Mgmt.lean ====
section
/-! DEFINITION. The management controller: boot, update and recovery, monitoring, attestation and the vendor-defined messages (22
R377 to R381; 12 R241). An answer is a code of the model's own and its words. -/

namespace Sys2Proof.Machine

/-- Answer on the management port. -/
def State.reply (s : State) (code : Nat) (ws : List DWord) : State :=
  { s with mc := { s.mc with replies := (code, ws) :: s.mc.replies } }

/-- An error answer. -/
def State.replyError (s : State) : State := s.reply 0 []

/-! Firmware (22 R381). -/

/-- MC_BOOT: after a reset the controller boots the flash image, or enters recovery. -/
def execMcBoot (s : State) : Out :=
  if !s.mc.booting then .fault (.notEnabled "MC_BOOT") else .next { s with mc := s.mc.boot }

/-- An image verifies: its signature, and its version against the counter. -/
def Mc.verifies (m : Mc) (version : BitVec 6) (signed : Bool) : Bool := signed && decide (m.counter.toNat ≤ version.toNat)

/-- PLDM_FIRMWARE_UPDATE: a verified image is written to flash and runs after the next reset; another leaves flash as it is. -/
def execPldmFirmwareUpdate (image : BitVec 64) (version : BitVec 6) (signed : Bool) (s : State) : Out :=
  if s.mc.verifies version signed then
    .next ({ s with mc := { s.mc with flash := (image, version, true) } }.reply 1 [])
  else .next s.replyError

/-- RECOVERY_IMAGE_LOAD: in recovery, a verified image boots from RAM; the counter rises to its version. The controller then offers the
image, answer 16, and PLDM_FIRMWARE_UPDATE writes it to flash. -/
def execRecoveryImageLoad (image : BitVec 64) (version : BitVec 6) (signed : Bool) (s : State) : Out :=
  if !s.mc.recovery then .fault (.notEnabled "RECOVERY_IMAGE_LOAD")
  else if s.mc.verifies version signed then
    .next ({ s with mc := { s.mc with ram := some (image, version), running := (image, version), counter := version,
                                      recovery := false } }.reply 2 [] |>.reply 16 [image, version.setWidth 64])
  else .next s.replyError

/-! Monitoring (22 R379). -/

/-- PLDM_MONITORING: temperatures, power and link state, the CXL ports that are down, HOST-LOST and the soft-error counters of
a partition (03 R83). -/
def execPldmMonitoring (part : Nat) (s : State) : Out :=
  let p := s.part part
  .next (s.reply 3 ([Config.sensor 0 s.now, Config.sensor 1 s.now, Config.sensor 2 s.now,
    BitVec.ofNat 64 (s.cxlDown.foldl (fun n i => n + 2 ^ i) 0), (if s.hostLost then 1 else 0), p.softCorr, p.softUnc]))

/-! Attestation (22 R380). -/

/-- GET_VERSION: SPDM 1.3. -/
def execGetVersion (s : State) : Out := .next (s.reply 4 [0x13])

/-- GET_CAPABILITIES. -/
def execGetCapabilities (s : State) : Out := .next (s.reply 5 [Config.mgmtWord 0 0])

/-- NEGOTIATE_ALGORITHMS: brainpool where it is offered, else P-384, answered as its bit of BaseAsymAlgo (log entry 57); without either, or
without SHA-384, an error. -/
def execNegotiateAlgorithms (brainpool p384 sha384 : Bool) (s : State) : Out :=
  if sha384 && brainpool then .next ({ s with mc := { s.mc with alg := 1 } }.reply 6 [0x081B])
  else if sha384 && p384 then .next ({ s with mc := { s.mc with alg := 2 } }.reply 6 [0x80])
  else .next s.replyError

/-- Words that stand for a digest, a chain or a signature. -/
def mgmtWords (kind first n : Nat) : List DWord := (upTo first n).map (Config.mgmtWord kind)

/-- GET_DIGESTS: the chains of slots 0 and 1, each a SHA-384 digest. -/
def execGetDigests (s : State) : Out := .next (s.reply 7 (mgmtWords 2 0 12))

/-- GET_CERTIFICATE: the chain of slot 0 or 1. -/
def execGetCertificate (slot : Nat) (s : State) : Out :=
  if slot < 2 then .next (s.reply 8 (mgmtWords (3 + slot) 0 64)) else .next s.replyError

/-- CHALLENGE: signed with the key of the algorithm settled on, whose chain is in slot 0 or 1. -/
def execChallenge (slot : Nat) (nonce : BitVec 256) (s : State) : Out :=
  if s.mc.alg ≠ 0 ∧ slot + 1 = s.mc.alg then .next (s.reply 9 (mgmtWords (5 + slot) (nonce.toNat * 12) 12))
  else .next s.replyError

/-- GET_MEASUREMENTS: 1 the running image, 2 the rollback counter, 3 the partition configuration; never a domain key. -/
def execGetMeasurements (index : Nat) (s : State) : Out :=
  if index = 1 then .next (s.reply 10 [s.mc.running.1, s.mc.running.2.setWidth 64])
  else if index = 2 then .next (s.reply 10 [s.mc.counter.setWidth 64])
  else if index = 3 then
    .next (s.reply 10 (s.mc.pkgId.setWidth 64 :: s.parts.flatMap fun x =>
      BitVec.ofNat 64 x.1 :: x.2.reg 0x400 :: BitVec.ofNat 64 x.2.clusters.length :: x.2.clusters.map (BitVec.ofNat 64)))
  else .next s.replyError

/-! Vendor-defined messages (22 R377 to R379). -/

/-- Numbers rise strictly. -/
def rising : List Nat → Bool
  | [] => true
  | [_] => true
  | x :: y :: r => decide (x < y) && rising (y :: r)

/-- A cluster set a partition may have: none, or at least four; ascending, on the package, and no other partition's (00 R7). -/
def State.clustersOk (s : State) (part : Nat) (cs : List Nat) : Bool :=
  rising cs && cs.all (fun c => decide (c < 192)) && (cs.isEmpty || decide (4 ≤ cs.length)) &&
  !s.parts.any fun x => x.1 != part && x.2.clusters.any cs.contains

/-- The package's HBM that shares may use: 512 GiB but for the store's 72 MiB; and its second tier (00 R5; 12 R240; 22 R375). -/
def hbmRoom : Nat := 2 ^ 39 - 72 * 2 ^ 20
def tierRoom : Nat := 2 ^ 45

/-- Shares that a partition of so many clusters may have: the HBM share follows its clusters, at most their part of the package's HBM (00 R7;
log entry 72), and with the other partitions' no memory is given twice. -/
def State.sharesOk (s : State) (part clusters hbm tier : Nat) : Bool :=
  let others := s.parts.filter fun x => x.1 != part
  decide (hbm * 192 ≤ clusters * 2 ^ 39) && decide (hbm + (others.map fun x => x.2.hbmSize).sum ≤ hbmRoom) &&
  decide (tier + (others.map fun x => x.2.tierSize).sum ≤ tierRoom)

/-- MC_SET_PARTITION_CONFIG: only while the partition has no context loaded. -/
def execMcSetPartitionConfig (part : Nat) (clusters : List Nat) (hbmSize tierSize : Nat) (s : State) : Out :=
  if 48 ≤ part ∨ (s.part part).ctxState ≠ 0 ∨ !s.clustersOk part clusters ∨ !s.sharesOk part clusters.length hbmSize tierSize then
    .next s.replyError
  else
    .next ((s.modPart part fun p =>
      { p with clusters, hbmSize, tierSize, memEnable := p.memEnable && !clusters.isEmpty }).reply 11 [])

/-- MC_SET_DOMAIN_KEY: only while the partition has no context loaded. -/
def execMcSetDomainKey (part : Nat) (key : BitVec 64) (s : State) : Out :=
  if 48 ≤ part ∨ (s.part part).ctxState ≠ 0 then .next s.replyError
  else .next ((s.modPart part fun p => { p with key }).reply 12 [])

/-- MC_SET_PACKAGE_ID. -/
def execMcSetPackageId (id : BitVec 10) (s : State) : Out :=
  .next ({ s with mc := { s.mc with pkgId := id } }.reply 13 [])

/-- A node range is on the store and overlaps no other partition's (12 R240). -/
def State.nodesOk (s : State) (part first count : Nat) : Bool :=
  decide (first < 1048576) && decide (first + count ≤ 1048576) &&
  !s.parts.any fun x => x.1 != part && decide (x.2.nodeFirst < first + count) &&
    decide (first < x.2.nodeFirst + x.2.nodeCount)

/-- MC_SET_ESNODES: only while the partition has no context loaded. -/
def execMcSetEsnodes (part first count : Nat) (s : State) : Out :=
  if 48 ≤ part ∨ (s.part part).ctxState ≠ 0 ∨ !s.nodesOk part first count then .next s.replyError
  else .next ((s.modPart part fun p => p.setReg 0x400 (BitVec.ofNat 64 (count * 2 ^ 32 + first))).reply 14 [])

/-- MC_CR_ACCESS: a control register as CRACC reaches it (22 R374). -/
def execMcCrAccess (part : Nat) (write : Bool) (core : Nat) (num : BitVec 12) (data : BitVec 32) (s : State) : Out :=
  let n := num.toNat
  let e := s.craccStatus part core n write
  if e ≠ 0 then .next (s.reply 15 [BitVec.ofNat 64 e])
  else if write then .next ((s.crWriteShared part core n data).reply 15 [0])
  else .next (s.reply 15 [0, (s.crShared part core n).setWidth 64])

end Sys2Proof.Machine
end

