-- ==== Sys2Proof/Machine/Profile.lean ====
section
/-! DEFINITION. Stall accounting (20 R361) and sampling (20 R359, R360). -/

namespace Sys2Proof.Machine

/-! Stall reasons (20 R361). -/

/-- The partition-relative number of a scheduler partition: core × 4 + SP. -/
def Part.relSp (p : Part) (sp : Nat) : Nat := p.relCluster (sp / 16) * 16 + sp % 16

/-- The oldest of some groups: earliest formation, ties to the lowest slot. -/
def oldestGroup (xs : List (Nat × Group)) : Option (Nat × Group) :=
  xs.foldl (fun (b : Option (Nat × Group)) x => match b with
    | none => some x
    | some y => if x.2.formed < y.2.formed then some x else some y) none

/-- The groups of a scheduler partition's slots. -/
def State.slotResidents (s : State) (sp : Nat) : List (Nat × Group) := (s.spGroups sp).filter fun x => slotOf x.1 != 16

/-- Some lane waits in one of the ways. -/
def Group.waitsAt (g : Group) (f : Hold → Bool) : Bool := g.lanes.any fun l => l.isLive && (l.hold.map f).getD false

def Hold.isBarrier : Hold → Bool
  | .bar .. | .again .. | .wait .. | .barm .. => true
  | _ => false
def Hold.isZephyr : Hold → Bool
  | .zephyr .. => true
  | _ => false
def Hold.isCollective : Hold → Bool
  | .collective .. => true
  | _ => false
def Hold.isSign : Hold → Bool
  | .sign .. => true
  | _ => false

/-- The reason of a group with nothing to issue: the first row of the table that holds. -/
def Group.idleReason (g : Group) : Nat :=
  let none' := g.nextIssue.isNone
  let live := g.lanes.filter Lane.isLive
  if none' && g.waitsAt Hold.isBarrier then 8
  else if none' && g.waitsAt Hold.isZephyr then 9
  else if none' && g.waitsAt Hold.isCollective then 18
  else if none' && g.waitsAt (· == .repack) then 11
  else if live.isEmpty then 1
  else if live.all (·.parked) then 19
  else if (live.filter fun l => !l.parked).all fun l => l.held || (l.hold.map Hold.isSign).getD false then 10
  else if g.sleep != 0 || g.yield.isSome || ((g.handling.map (·.yield.isSome)).getD false) then 12
  else if g.stopped.isSome && g.why == 13 then 13
  else 1

/-- A bin of a core has threads to form a group with and waits for a slot of a scheduler partition. -/
def State.binWaits (s : State) (sp : Nat) : Bool :=
  (s.core (sp / 4)).bins.any fun b => match s.teams.get? b.2.team with
    | some t => b.2.ripe t.width && t.slots.any fun gid => spIdOf gid == sp
    | none => false

/-- The reason a cycle of a scheduler partition without an eligible group is charged to. -/
def State.stallReason (s : State) (sp : Nat) : Nat :=
  if (s.sp sp).frozen then 15
  else match oldestGroup (s.slotResidents sp) with
    | none => if s.binWaits sp then 14 else 16
    | some x =>
      if s.spBusy sp then 17
      else
        let clock := (s.part x.2.part).clock
        if (ordinaryCand x.1 x.2).isSome || (handlerCand clock 0 x.1 x.2).isSome then max 1 x.2.why
        else x.2.idleReason

/-- Add 1 to a counter of a scheduler partition's block. -/
def Part.count1 (p : Part) (sp word : Nat) : Part :=
  let i := p.relSp sp * 64 + word
  { p with stalls := p.stalls.set i (p.stalls.get i + 1) }

/-- Charge a cycle without an eligible group: bucket 0 and one reason. -/
def State.chargeIdle (s : State) (part sp : Nat) : State :=
  let r := s.stallReason sp
  (s.modPart part fun p => (p.count1 sp 0).count1 sp (32 + r)).modSp sp fun x => { x with charged := true, reason := r }

/-- No group of a scheduler partition is eligible, as far as its candidates' last waits tell. -/
def State.noneEligible (s : State) (sp : Nat) : Bool :=
  (s.sp sp).issued.isNone &&
  ((s.sp sp).frozen || s.spBusy sp ||
    ((s.ordinaryCands sp ++ s.handlerCands sp).all fun x => ((s.group? x.2.gid).map fun g => g.why != 0).getD true))

/-- CYCLE_WITH_NO_ELIGIBLE_GROUP: once in a cycle. -/
def execCycleWithNoEligibleGroup (core sp : Nat) (s : State) : Out :=
  let i := core * 4 + sp
  match s.partOfCluster (core / 4) with
  | none => .fault (.notEnabled "CYCLE_WITH_NO_ELIGIBLE_GROUP")
  | some part =>
    if 4 ≤ sp ∨ (s.sp i).charged ∨ !s.noneEligible i then .fault (.notEnabled "CYCLE_WITH_NO_ELIGIBLE_GROUP")
    else .next (s.chargeIdle part i)

/-- STALL_COUNTER_CLEAR: a write of 1 to bit 0 at +0x1F8 of a block. -/
def execStallCounterClear (part block : Nat) (value : BitVec 64) (s : State) : Out :=
  if !s.hostOpen part ∨ (s.part part).count * 16 ≤ block then .fault (.notEnabled "STALL_COUNTER_CLEAR")
  else if value.getLsbD 0 then
    .next (s.modPart part fun p => { p with stalls := p.stalls.drop fun i => i / 64 == block })
  else .next s

/-! Sampling (20 R359, R360). -/

def Part.sampBase (p : Part) : DWord := p.cr64 0x90 &&& ~~~(63 : DWord)
def Part.sampLen (p : Part) : Nat := (p.cr 0x92).toNat / 16
def Part.sampling (p : Part) : Bool := p.sampBase != 0 && decide (8 ≤ p.sampLen)

/-- The issue PC of a group that did not issue. -/
def Group.issuePc (g : Group) : DWord :=
  match g.nextIssue with
  | some x => x.1
  | none => ((g.lanes.find? Lane.isLive).map (·.pc)).getD 0

/-- A sample of a scheduler partition: PC, slot and reason. -/
def State.sampleOf (s : State) (sp : Nat) : DWord × Nat × Nat :=
  match (s.sp sp).issued with
  | some (pc, slot) => (pc, slot, 0)
  | none =>
    let r := s.stallReason sp
    match oldestGroup (s.slotResidents sp) with
    | some x => (x.2.issuePc, slotOf x.1, r)
    | none => (0, 0, r)

/-- The 16 bytes of a record. -/
def sampleRecord (pc : DWord) (sp slot reason : Nat) (now : DWord) : List Byte :=
  toBytes 8 pc.toNat ++ toBytes 2 sp ++ toBytes 1 slot ++ toBytes 1 reason ++ toBytes 4 (now.toNat % 2 ^ 32)

/-- Write one record, or drop it when the buffer is full: the state and the fill after it; none where an access faults. -/
def State.writeSample (s : State) (part : Nat) (bs : List Byte) : Option (State × Option Nat) :=
  let p := s.part part
  let w := engineOf part
  let c := p.sampLen - 4
  match s.readFlat w .load p.sampBase 24 with
  | .error _ => none
  | .ok ctl =>
    let write := ofBytes (ctl.take 8)
    let read := ofBytes ((ctl.drop 8).take 8)
    let dropped := ofBytes (ctl.drop 16)
    let fill := (write + 2 ^ 64 - read) % 2 ^ 64
    if c ≤ fill then
      match s.writeFlat w (p.sampBase + 16) (toBytes 8 (dropped + 1)) with
      | .ok t => some (t, none)
      | .error _ => none
    else
      match s.writeFlat w (p.sampBase + 64 + BitVec.ofNat 64 (16 * (write % c))) bs with
      | .error _ => none
      | .ok t =>
        match t.writeFlat w p.sampBase (toBytes 8 (write + 1)) with
        | .ok t1 => some (t1, some (fill + 1))
        | .error _ => none

/-- The period after a record with this fill, or none where it stays (20 R360). -/
def Part.newPeriod (p : Part) (fill : Nat) : Option Nat :=
  let c := p.sampLen - 4
  let now := (p.cr 0x93).toNat
  let next := if 3 * c < 4 * fill then min (2 ^ 20) (2 * now) else if 4 * fill < c then max 64 (now / 2) else now
  if next = now ∨ (p.lastAdjust ≠ 0 ∧ p.clock + 1 < p.lastAdjust + 65536) then none else some next

/-- Adjust PERIOD after a record; the change writes a record of its own. -/
def State.adjustPeriod (s : State) (part sp fill : Nat) : State :=
  let p := s.part part
  match p.newPeriod fill with
  | none => s
  | some n =>
    let s1 := s.modPart part fun p => { p.setCr 0x93 (BitVec.ofNat 32 n) with lastAdjust := p.clock + 1 }
    match s1.writeSample part (sampleRecord (BitVec.ofNat 64 n) (p.relSp sp) 0 255 s.now) with
    | some x => x.1
    | none => s1

/-- SAMPLE_TAKE: every PERIOD unfrozen cycles; a sample whose accesses fault is lost. -/
def execSampleTake (core sp : Nat) (s : State) : Out :=
  let i := core * 4 + sp
  match s.partOfCluster (core / 4) with
  | none => .fault (.notEnabled "SAMPLE_TAKE")
  | some part =>
    let p := s.part part
    if 4 ≤ sp ∨ !p.sampling ∨ p.stoppedAll ∨ p.clock < (s.sp i).nextSample then .fault (.notEnabled "SAMPLE_TAKE")
    else
      let s1 := s.modSp i fun x => { x with nextSample := p.clock + (p.cr 0x93).toNat }
      let (pc, slot, reason) := s.sampleOf i
      match s1.writeSample part (sampleRecord pc (p.relSp i) slot reason s.now) with
      | none => .next s1
      | some (t, none) => .next t
      | some (t, some fill) => .next (t.adjustPeriod part i fill)

end Sys2Proof.Machine
end

