-- ==== Sys2Proof/Machine/Raster.lean ====
section
/-! DEFINITION. RAST and the rasteriser of a core (10 R220 to R222). -/

namespace Sys2Proof.Machine

/-- A vertex of a triangle in units of 1/256 pixel, held exactly. -/
abbrev Vtx := Int × Int

/-- A coordinate rounded to a multiple of 1/256, or none where it is NaN, infinite or too large (10 R221). -/
def coord256 (x : Word) : Option Int :=
  match f32.val x.toNat with
  | .fin neg m e =>
    if decide (0 ≤ e) && decide (2 ^ 20 ≤ m * 2 ^ e.toNat) then none
    else if decide (e < 0) && decide (2 ^ 20 * 2 ^ (-e).toNat ≤ m) then none
    else some (toIntSat .rne (-(2 ^ 40)) (2 ^ 40) (.fin neg m (e + 8))).1
  | _ => none

/-- E(a→b, p), in units of 2^−16 pixel². -/
def edgeFn (a b p : Vtx) : Int := (b.1 - a.1) * (p.2 - a.2) - (b.2 - a.2) * (p.1 - a.1)

def topLeft (a b : Vtx) : Bool := decide (b.2 < a.2) || (b.2 == a.2 && decide (a.1 < b.1))

/-- The centre of a pixel. -/
def centre (x y : Nat) : Vtx := (256 * (x : Int) + 128, 256 * (y : Int) + 128)

/-- A point is covered by a counter-ordered triangle (10 R221). -/
def inside (a b v : Vtx) (p : Vtx) : Bool :=
  let ok (a b : Vtx) : Bool := decide (0 < edgeFn a b p) || (edgeFn a b p == 0 && topLeft a b)
  ok a b && ok b v && ok v a

/-- The walk of a triangle: its vertices as given, its box and its signed area. -/
structure Scan where
  v0 : Vtx
  v1 : Vtx
  v2 : Vtx
  z : List Word
  x0 : Nat
  y0 : Nat
  x1 : Nat
  y1 : Nat
  area : Int
  deriving DecidableEq, Repr

def floor256 (i : Int) : Int := i / 256
def ceil256 (i : Int) : Int := -((-i) / 256)
def min3 (a b x : Int) : Int := min a (min b x)
def max3 (a b x : Int) : Int := max a (max b x)

/-- The walk of eleven scalars, or none where there is no sample (10 R221). -/
def walkOf (ws : List Word) : Option Scan :=
  let w (i : Nat) : Word := (ws[i]?).getD 0
  let lo := w 9
  let hi := w 10
  let b (x : Word) (k : Nat) : Nat := bitsOf x (16 * k) 16
  match coord256 (w 0), coord256 (w 1), coord256 (w 3), coord256 (w 4), coord256 (w 6), coord256 (w 7) with
  | some ax, some ay, some bx, some by', some vx, some vy =>
    if [b lo 0, b lo 1, b hi 0, b hi 1].any (fun n => decide (16383 < n)) || decide (b hi 0 < b lo 0) ||
        decide (b hi 1 < b lo 1) then none
    else
      let area := edgeFn (ax, ay) (bx, by') (vx, vy)
      let x0 := max (b lo 0 : Int) (floor256 (min3 ax bx vx))
      let y0 := max (b lo 1 : Int) (floor256 (min3 ay by' vy))
      let x1 := min (b hi 0 : Int) (ceil256 (max3 ax bx vx))
      let y1 := min (b hi 1 : Int) (ceil256 (max3 ay by' vy))
      if area = 0 ∨ x1 < x0 ∨ y1 < y0 then none
      else some
        { v0 := (ax, ay), v1 := (bx, by'), v2 := (vx, vy), z := [w 2, w 5, w 8], x0 := x0.toNat, y0 := y0.toNat,
          x1 := x1.toNat, y1 := y1.toNat, area }
  | _, _, _, _, _, _ => none

/-- Blocks in a row, and in all. -/
def Scan.across (k : Scan) : Nat := k.x1 / 8 - k.x0 / 8 + 1
def Scan.blocks (k : Scan) : Nat := k.across * (k.y1 / 8 - k.y0 / 8 + 1)

/-- The pixel of a position 64 × blk + pos. -/
def Scan.pixel (k : Scan) (n : Nat) : Nat × Nat :=
  let blk := n / 64
  ((k.x0 / 8 + blk % k.across) * 8 + n % 8, (k.y0 / 8 + blk / k.across) * 8 + n % 64 / 8)

def Scan.inBox (k : Scan) (n : Nat) : Bool :=
  let (x, y) := k.pixel n
  decide (k.x0 ≤ x) && decide (x ≤ k.x1) && decide (k.y0 ≤ y) && decide (y ≤ k.y1)

def Scan.covers (k : Scan) (n : Nat) : Bool :=
  let (x, y) := k.pixel n
  k.inBox n && (if k.area < 0 then inside k.v0 k.v2 k.v1 (centre x y) else inside k.v0 k.v1 k.v2 (centre x y))

/-- An exact quotient of integers rounded once; a zero quotient is +0. -/
def fQuot (a b : Int) : Word :=
  BitVec.ofNat 32 (f32.divV (.fin (decide (a * b < 0)) a.natAbs 0) (.fin false b.natAbs 0)).bits

/-- The four registers of a lane that receives a pixel. -/
def Scan.sample (k : Scan) (n : Nat) : List Word :=
  let (x, y) := k.pixel n
  let p := centre x y
  let u := fQuot (edgeFn k.v2 k.v0 p) k.area
  let v := fQuot (edgeFn k.v0 k.v1 p) k.area
  let z (i : Nat) : Word := (k.z[i]?).getD 0
  [BitVec.ofNat 32 (y * 65536 + x), u, v,
    fadd (fadd (z 0) (fmul u (fsub (z 1) (z 0)))) (fmul v (fsub (z 2) (z 0)))]

/-- Give positions to lanes from a first one on: the samples and the position after the last. -/
def Scan.give (k : Scan) : Nat → Nat → List Nat → List (Nat × Nat) × Nat
  | 0, n, _ => ([], n)
  | fuel + 1, n, lanes =>
    match lanes with
    | [] => ([], n)
    | j :: r =>
      if k.covers n then
        let (xs, e) := k.give fuel (n + 1) r
        ((j, n) :: xs, e)
      else k.give fuel (n + 1) lanes

/-- The next position in the box, or none. -/
def Scan.next (k : Scan) : Nat → Nat → Option Nat
  | 0, _ => none
  | fuel + 1, n => if k.inBox n then some n else k.next fuel (n + 1)

def noSample : List Word := [0xFFFFFFFF, 0, 0, 0x7F800000]

/-- What a RAST gives: the samples by lane, the token, and how many blocks it scans. -/
def rastResult (ws : List Word) (token : Word) (lanes : List Nat) : List (Nat × List Word) × Word × Nat :=
  match walkOf ws with
  | none => (lanes.map fun j => (j, noSample), 0, 0)
  | some k =>
    let start := token.toNat - 1
    let all := 64 * k.blocks
    let (xs, e) := k.give (all - start) start lanes
    let got := lanes.map fun j => (j, match xs.find? fun x => x.1 == j with
      | some x => k.sample x.2
      | none => noSample)
    let tok := match k.next (all - e) e with
      | some n => BitVec.ofNat 32 (n + 1)
      | none => 0
    (got, tok, if start < e then (e - 1) / 64 - start / 64 + 1 else 0)

/-- RAST (10 R220, R221): a producer of four registers and of its token. -/
def execRast (b a : BitVec 6) (d : BitVec 7) (s : State) : Out :=
  s.issue { legal := .ordinary, srcs := srcSs a.toNat 11 false ++ [srcS b false],
            late := regVs d.toNat 4 ++ [.s b.toNat] } costLane fun s g =>
    let (xs, tok, n) := rastResult ((upTo a.toNat 11).map g.sr) (g.sr b.toNat) (lanesOf s.cur.mask)
    let core := coreOf s.cur.gid
    let first := max ((s.part g.part).clock + 1) (s.core core).rfree
    let ws := (xs.flatMap fun x => writesOf .v d.toNat x.1 x.2) ++ [{ reg := .s b.toNat, lane := 0, val := tok.setWidth 64 }]
    let id := s.fresh
    let (s1, g1) := s.produce g .viewTrace (regVs d.toNat 4 ++ [.s b.toNat]) (first + n + 3 - (s.part g.part).clock) (.rast ws)
    let s2 := s1.modCore core fun c => { c with rq := c.rq ++ [id], rfree := first + n }
    .next (s2.finish g1 s.cur.mask .on (costLane g))

/-- RAST_COMPLETE (10 R222): issues are served in order. -/
def execRastComplete (core : Nat) (s : State) : Out :=
  match (s.core core).rq with
  | [] => .fault (.notEnabled "RAST_COMPLETE")
  | id :: r =>
    match s.ops.get? id with
    | none => .next (s.modCore core fun c => { c with rq := r })
    | some o =>
      match o.kind with
      | .rast ws =>
        if !s.opReady id o then .fault (.notEnabled "RAST_COMPLETE")
        else .next ((s.modCore core fun c => { c with rq := r }).completeOp id o fun s g => s.applyWrites o ws g)
      | _ => .fault (.notEnabled "RAST_COMPLETE")

end Sys2Proof.Machine
end

