-- ==== Sys2Proof/Machine/Special.lean ====
section
/-! DEFINITION. The special functions (07 R163 to R166). RCP, RSQ and SQRT are correctly rounded. For the others the manual
gives a bound of 2 ulp and not the bits: the model encloses the exact value with fixed-point numbers of 160 fraction bits,
lists the words within the bound, and takes the one that a constant without a body picks. -/

namespace Sys2Proof.Machine

/-- One in fixed point. -/
def fxOne : Int := 2 ^ 160

/-- π and ln 2 with 192 fraction bits, rounded down. -/
def piFx : Int := 0x3243f6a8885a308d313198a2e03707344a4093822299f31d0
def ln2Fx : Int := 0xb17217f7d1cf79abc9e3b39803f2f6af40f343267298b62d

def fxMul (a b : Int) : Int := a * b / fxOne

/-- A dyadic m × 2^e in fixed point, rounded down. -/
def fxOf (m : Int) (e : Int) : Int := if 0 ≤ e + 160 then m * 2 ^ (e + 160).toNat else m / 2 ^ (-(e + 160)).toNat

/-- Sum of t + t·x/k + t·x²/(k(k+1)) … for n terms, with a sign for every step. -/
def fxSeries (x : Int) (neg : Bool) (step : Nat) : Nat → Nat → Int → Int
  | 0, _, _ => 0
  | n + 1, k, t =>
    t + fxSeries x neg step n (k + step)
      (let u := fxMul t x / ((if step = 2 then k * (k + 1) else k : Nat) : Int)
       if neg then -u else u)

/-- e^x for 0 ≤ x < 1. -/
def fxExp (x : Int) : Int := fxSeries x false 1 60 1 fxOne

/-- sin and cos for |x| ≤ 1. -/
def fxSin (x : Int) : Int := fxSeries (fxMul x x) true 2 35 2 x
def fxCos (x : Int) : Int := fxSeries (fxMul x x) true 2 35 1 fxOne

/-- z + z³/3 + z⁵/5 … for n terms, given z² and the next odd number. -/
def fxAtanh (z2 : Int) : Nat → Nat → Int → Int
  | 0, _, _ => 0
  | n + 1, k, p => p / (k : Int) + fxAtanh z2 n (k + 2) (fxMul p z2)

/-- ln m for 1 ≤ m < 2. -/
def fxLn (m : Int) : Int := 2 * fxAtanh (let z := (m - fxOne) * fxOne / (m + fxOne); fxMul z z) 60 1
  ((m - fxOne) * fxOne / (m + fxOne))

/-- A fixed-point enclosure of a magnitude: value and slack 2^−110, as a dyadic scaled by 2^e. -/
structure Encl where
  v : Int
  e : Int
  deriving DecidableEq, Repr

def enclSlack : Int := 2 ^ 50

/-- A positive binary32 word lies within 2 ulp of the enclosed magnitude (07 R164), the slack counted in its favour. -/
def withinUlps (y : Encl) (bits : Nat) : Bool :=
  match f32.val bits with
  | .fin _ m e =>
    let l : Int := (Nat.log2 y.v.natAbs : Int) - 160 + y.e
    let q : Int := max l (-126) - 23 + 1
    let base := min (min e q) (y.e - 160)
    let r := (m : Int) * 2 ^ (e - base).toNat
    let v := y.v * 2 ^ (y.e - 160 - base).toNat
    let sl := enclSlack * 2 ^ (y.e - 160 - base).toNat
    decide (r ≤ v + sl + 2 ^ (q - base).toNat) && decide (v ≤ r + sl + 2 ^ (q - base).toNat)
  | _ => false

/-- The positive words within the bound, around the enclosed magnitude's truncation. -/
def candidates (y : Encl) : List Nat :=
  let t := (f32.round .rz false y.v.natAbs (y.e - 160) false).bits
  (upTo (t - 5) 10).filter (withinUlps y)

/-- The word the FZ9 returns for an enclosed magnitude: one within the bound, always the same for the same input. -/
def pickWord (fn : Nat) (x : Word) (neg : Bool) (y : Encl) : Nat :=
  let cs := candidates y
  f32.zero neg + (cs[Config.sfuChoice fn x % cs.length]?).getD (f32.round .rne false y.v.natAbs (y.e - 160) false).bits

/-- 2^x for a dyadic x: fraction and exponent. -/
def enclExp2 (s : Int) (e : Int) : Encl :=
  let x := fxOf s e
  let n := x / fxOne
  ⟨fxExp ((x - n * fxOne) * ln2Fx / 2 ^ 192), n⟩

/-- |log2 x| and its sign for a positive dyadic. -/
def enclLog2 (m : Nat) (e : Int) : Bool × Encl :=
  let l := Nat.log2 m
  let v := fxLn (fxOf m (-(l : Int))) * 2 ^ 192 / ln2Fx + ((l : Int) + e) * fxOne
  (decide (v < 0), ⟨v.natAbs, 0⟩)

/-- The quarter turn of x and the rest, |rest| ≤ π/4 about, for |x| below 2^20 (07 R166). -/
def reduce (s : Int) (e : Int) : Int × Int :=
  let half := piFx / 2
  let x := fxOf s (e + 32)
  let k := (2 * x + half) / (2 * half)
  (k, (x - k * half) / 2 ^ 32)

/-- sin of x plus q quarter turns, as sign and magnitude. -/
def enclSin (s : Int) (e : Int) (q : Int) : Bool × Encl :=
  let (k, r) := reduce s e
  let n := ((k + q) % 4).toNat
  let v : Int := if n = 0 then fxSin r else if n = 1 then fxCos r else if n = 2 then -(fxSin r) else -(fxCos r)
  (decide (v < 0), ⟨v.natAbs, 0⟩)

/-- tanh |x| for 2^−12 ≤ |x| < 9. -/
def enclTanh (m : Nat) (e : Int) : Encl :=
  let y := 2 * fxOf m e * 2 ^ 192 / ln2Fx
  let n := y / fxOne
  let ex := fxExp ((y - n * fxOne) * ln2Fx / 2 ^ 192) * 2 ^ n.toNat
  ⟨(ex - fxOne) * fxOne / (ex + fxOne), 0⟩

/-! The eight functions: a word and the exceptions (07 R164, R165). -/

def nanIn (s : Bool) : Fr := ⟨f32.nan, if s then xNV else 0⟩

def sfuRcp (x : Word) : Fr :=
  match f32.val x.toNat with
  | .nan s => nanIn s
  | v => f32.divV (.fin false 1 0) v

def sfuRsq (x : Word) : Fr := f32.rsqrtV (f32.val x.toNat)
def sfuSqrt (x : Word) : Fr := f32.sqrtV (f32.val x.toNat)

/-- A dyadic is an integer: its value. -/
def dyadicInt (s : Bool) (m : Nat) (e : Int) : Option Int :=
  if 0 ≤ e then some (sgn s (m * 2 ^ e.toNat))
  else if m % 2 ^ (-e).toNat = 0 then some (sgn s (m / 2 ^ (-e).toNat)) else none

def sfuEx2 (x : Word) : Fr :=
  match f32.val x.toNat with
  | .nan s => nanIn s
  | .inf s => if s then ⟨0, 0⟩ else ⟨f32.inf, 0⟩
  | .fin s m e =>
    if m = 0 then ⟨0x3F800000, 0⟩
    else if !s && cmpV (.fin s m e) (.fin false 128 0) != .lt then ⟨f32.inf, xOF ||| xNX⟩
    else if s && cmpV (.fin s m e) (.fin true 150 0) != .gt then ⟨0, xUF ||| xNX⟩
    else match dyadicInt s m e with
      | some i => if -149 ≤ i then f32.round .rne false 1 i false else ⟨0, xUF ||| xNX⟩
      | none =>
        let y := enclExp2 (sgn s m) e
        ⟨pickWord 2 x false y, xNX ||| (if s && cmpV (.fin s m e) (.fin true 126 0) == .lt then xUF else 0)⟩

def sfuLg2 (x : Word) : Fr :=
  match f32.val x.toNat with
  | .nan s => nanIn s
  | .inf s => if s then f32.invalid else ⟨f32.inf, 0⟩
  | .fin s m e =>
    if m = 0 then ⟨f32.infOf true, xDZ⟩
    else if s then f32.invalid
    else if m = 2 ^ Nat.log2 m then f32.ofInt .rne ((Nat.log2 m : Int) + e)
    else
      let (neg, y) := enclLog2 m e
      ⟨pickWord 3 x neg y, xNX⟩

/-- |x| is below 2^−12 (07 R164). -/
def tinyArg (m : Nat) (e : Int) : Bool := cmpV (.fin false m e) (.fin false 1 (-12)) == .lt

/-- x itself, for SIN and TANH of a tiny argument. -/
def tinySelf (x : Word) : Fr := ⟨x.toNat, xNX ||| (if x.toNat / 2 ^ 23 % 256 = 0 then xUF else 0)⟩

def sfuSin (x : Word) : Fr :=
  match f32.val x.toNat with
  | .nan s => nanIn s
  | .inf _ => f32.invalid
  | .fin s m e =>
    if m = 0 then ⟨x.toNat, 0⟩
    else if tinyArg m e then tinySelf x
    else if cmpV (.fin false m e) (.fin false 1 20) != .lt then ⟨f32.zero s, xNX⟩
    else
      let (neg, y) := enclSin (sgn s m) e 0
      ⟨pickWord 4 x neg y, xNX⟩

def sfuCos (x : Word) : Fr :=
  match f32.val x.toNat with
  | .nan s => nanIn s
  | .inf _ => f32.invalid
  | .fin s m e =>
    if m = 0 then ⟨0x3F800000, 0⟩
    else if cmpV (.fin false m e) (.fin false 1 20) != .lt then ⟨0x3F800000, xNX⟩
    else
      let (neg, y) := enclSin (sgn s m) e 1
      ⟨pickWord 5 x neg y, xNX⟩

def sfuTanh (x : Word) : Fr :=
  match f32.val x.toNat with
  | .nan s => nanIn s
  | .inf s => ⟨f32.zero s + 0x3F800000, 0⟩
  | .fin s m e =>
    if m = 0 then ⟨x.toNat, 0⟩
    else if tinyArg m e then tinySelf x
    else if cmpV (.fin false m e) (.fin false 9 0) != .lt then ⟨f32.zero s + 0x3F800000, xNX⟩
    else ⟨pickWord 7 x s (enclTanh m e), xNX⟩

/-- The clocks a special function occupies the scheduler partition's pipe (07 R163). -/
def pipeClocks (g : Group) : Nat := g.width / 8

/-- A special function, a producer whose lanes' results and exceptions come at its latency; it waits while the pipe is busy
(07 R163). An issue of the debug slot neither waits for the pipe nor occupies it (the model's choice: log entry 73). -/
def sfuOp (s : State) (f : Bool) (a d : BitVec 7) (lat : Nat) (h : Word → Fr) : Out :=
  s.issue { srcs := [srcV a f], late := [.v d.toNat] } costLane fun s g =>
    let now := (s.part g.part).clock
    let sid := spIdOf s.cur.gid
    if s.cur.cls ≠ .debug ∧ now < (s.sp sid).sfuBusy then .next (s.waitAt (s.untouched g) 2)
    else
      let ls := lanesOf s.cur.mask
      let s1 := if s.cur.cls = .debug then s else s.modSp sid fun q => { q with sfuBusy := now + pipeClocks g }
      s1.flagOp g .sfu [.v d.toNat] (lat + if g.width = 64 then 4 else 0)
        (ls.map fun j => ⟨.v d.toNat, j, (BitVec.ofNat 64 (h (g.vr a.toNat j)).bits)⟩)
        (ls.map fun j => (j, (h (g.vr a.toNat j)).ex))

def execRcp (f : Bool) (a d : BitVec 7) (s : State) : Out := sfuOp s f a d 12 sfuRcp
def execRsq (f : Bool) (a d : BitVec 7) (s : State) : Out := sfuOp s f a d 12 sfuRsq
def execEx2 (f : Bool) (a d : BitVec 7) (s : State) : Out := sfuOp s f a d 10 sfuEx2
def execLg2 (f : Bool) (a d : BitVec 7) (s : State) : Out := sfuOp s f a d 10 sfuLg2
def execSin (f : Bool) (a d : BitVec 7) (s : State) : Out := sfuOp s f a d 18 sfuSin
def execCos (f : Bool) (a d : BitVec 7) (s : State) : Out := sfuOp s f a d 18 sfuCos
def execSqrt (f : Bool) (a d : BitVec 7) (s : State) : Out := sfuOp s f a d 16 sfuSqrt
def execTanh (f : Bool) (a d : BitVec 7) (s : State) : Out := sfuOp s f a d 18 sfuTanh

end Sys2Proof.Machine
end

