-- ==== Sys2Proof/Machine/Dispatch.lean ====
section
/-! DEFINITION. What each instruction and event does, one arm for each constructor (the opcode table). -/

namespace Sys2Proof.Machine

/-- The meaning of an instruction or event in a state. -/
def exec (i : Instr) (s : State) : Host.Outcome State Fault Refusal :=
  match i with
  | .movH a d f => Sys2Proof.Machine.execMovH a d f s
  | .notH a d f => Sys2Proof.Machine.execNotH a d f s
  | .iaddH a d f => Sys2Proof.Machine.execIaddH a d f s
  | .isubH a d f => Sys2Proof.Machine.execIsubH a d f s
  | .imulH a d f => Sys2Proof.Machine.execImulH a d f s
  | .andH a d f => Sys2Proof.Machine.execAndH a d f s
  | .orH a d f => Sys2Proof.Machine.execOrH a d f s
  | .xorH a d f => Sys2Proof.Machine.execXorH a d f s
  | .shlH a d f => Sys2Proof.Machine.execShlH a d f s
  | .shrH a d f => Sys2Proof.Machine.execShrH a d f s
  | .sarH a d f => Sys2Proof.Machine.execSarH a d f s
  | .faddH a d f => Sys2Proof.Machine.execFaddH a d f s
  | .fsubH a d f => Sys2Proof.Machine.execFsubH a d f s
  | .fmulH a d f => Sys2Proof.Machine.execFmulH a d f s
  | .fmaxH a d f => Sys2Proof.Machine.execFmaxH a d f s
  | .fminH a d f => Sys2Proof.Machine.execFminH a d f s
  | .iadd e b f a d => Sys2Proof.Machine.execIadd e b f a d s
  | .isub e b f a d => Sys2Proof.Machine.execIsub e b f a d s
  | .iadds e b f a d => Sys2Proof.Machine.execIadds e b f a d s
  | .isubs e b f a d => Sys2Proof.Machine.execIsubs e b f a d s
  | .iaddi e b f a d => Sys2Proof.Machine.execIaddi e b f a d s
  | .isubi e b f a d => Sys2Proof.Machine.execIsubi e b f a d s
  | .iaddsi e b f a d => Sys2Proof.Machine.execIaddsi e b f a d s
  | .isubsi e b f a d => Sys2Proof.Machine.execIsubsi e b f a d s
  | .imul e b f a d => Sys2Proof.Machine.execImul e b f a d s
  | .imulhi e b f a d => Sys2Proof.Machine.execImulhi e b f a d s
  | .imulhin e b f a d => Sys2Proof.Machine.execImulhin e b f a d s
  | .imad e b f a d => Sys2Proof.Machine.execImad e b f a d s
  | .and e b f a d => Sys2Proof.Machine.execAnd e b f a d s
  | .or e b f a d => Sys2Proof.Machine.execOr e b f a d s
  | .xor e b f a d => Sys2Proof.Machine.execXor e b f a d s
  | .andn e b f a d => Sys2Proof.Machine.execAndn e b f a d s
  | .andI e b f a d => Sys2Proof.Machine.execAndI e b f a d s
  | .orI e b f a d => Sys2Proof.Machine.execOrI e b f a d s
  | .xorI e b f a d => Sys2Proof.Machine.execXorI e b f a d s
  | .andnI e b f a d => Sys2Proof.Machine.execAndnI e b f a d s
  | .shl e b f a d => Sys2Proof.Machine.execShl e b f a d s
  | .shr e b f a d => Sys2Proof.Machine.execShr e b f a d s
  | .sar e b f a d => Sys2Proof.Machine.execSar e b f a d s
  | .rol e b f a d => Sys2Proof.Machine.execRol e b f a d s
  | .min e b f a d => Sys2Proof.Machine.execMin e b f a d s
  | .max e b f a d => Sys2Proof.Machine.execMax e b f a d s
  | .minn e b f a d => Sys2Proof.Machine.execMinn e b f a d s
  | .maxn e b f a d => Sys2Proof.Machine.execMaxn e b f a d s
  | .icmpEq e b f a d => Sys2Proof.Machine.execIcmpEq e b f a d s
  | .icmpNe e b f a d => Sys2Proof.Machine.execIcmpNe e b f a d s
  | .icmpLt e b f a d => Sys2Proof.Machine.execIcmpLt e b f a d s
  | .icmpLe e b f a d => Sys2Proof.Machine.execIcmpLe e b f a d s
  | .icmpLtn e b f a d => Sys2Proof.Machine.execIcmpLtn e b f a d s
  | .icmpLen e b f a d => Sys2Proof.Machine.execIcmpLen e b f a d s
  | .icmpTst e b f a d => Sys2Proof.Machine.execIcmpTst e b f a d s
  | .icmpTstn e b f a d => Sys2Proof.Machine.execIcmpTstn e b f a d s
  | .icmpEqI e b f a d => Sys2Proof.Machine.execIcmpEqI e b f a d s
  | .icmpNeI e b f a d => Sys2Proof.Machine.execIcmpNeI e b f a d s
  | .icmpLtI e b f a d => Sys2Proof.Machine.execIcmpLtI e b f a d s
  | .icmpLeI e b f a d => Sys2Proof.Machine.execIcmpLeI e b f a d s
  | .popc f a d => Sys2Proof.Machine.execPopc f a d s
  | .clz f a d => Sys2Proof.Machine.execClz f a d s
  | .brev f a d => Sys2Proof.Machine.execBrev f a d s
  | .ctz f a d => Sys2Proof.Machine.execCtz f a d s
  | .bfxn e b f a d => Sys2Proof.Machine.execBfxn e b f a d s
  | .bfxs e b f a d => Sys2Proof.Machine.execBfxs e b f a d s
  | .bfi e b f a d => Sys2Proof.Machine.execBfi e b f a d s
  | .bshuf e b f a d => Sys2Proof.Machine.execBshuf e b f a d s
  | .sel e b k a d => Sys2Proof.Machine.execSel e b k a d s
  | .fadd e b f a d => Sys2Proof.Machine.execFadd e b f a d s
  | .fsub e b f a d => Sys2Proof.Machine.execFsub e b f a d s
  | .fmin e b f a d => Sys2Proof.Machine.execFmin e b f a d s
  | .fmax e b f a d => Sys2Proof.Machine.execFmax e b f a d s
  | .fmul e b f a d => Sys2Proof.Machine.execFmul e b f a d s
  | .ffma e b f a d => Sys2Proof.Machine.execFfma e b f a d s
  | .ffms e b f a d => Sys2Proof.Machine.execFfms e b f a d s
  | .ffnma e b f a d => Sys2Proof.Machine.execFfnma e b f a d s
  | .faddS e b f a d => Sys2Proof.Machine.execFaddS e b f a d s
  | .fsubS e b f a d => Sys2Proof.Machine.execFsubS e b f a d s
  | .fminS e b f a d => Sys2Proof.Machine.execFminS e b f a d s
  | .fmaxS e b f a d => Sys2Proof.Machine.execFmaxS e b f a d s
  | .fmulS e b f a d => Sys2Proof.Machine.execFmulS e b f a d s
  | .ffmaS e b f a d => Sys2Proof.Machine.execFfmaS e b f a d s
  | .ffmsS e b f a d => Sys2Proof.Machine.execFfmsS e b f a d s
  | .ffnmaS e b f a d => Sys2Proof.Machine.execFfnmaS e b f a d s
  | .fcmpEq e b f a d => Sys2Proof.Machine.execFcmpEq e b f a d s
  | .fcmpLt e b f a d => Sys2Proof.Machine.execFcmpLt e b f a d s
  | .fcmpLe e b f a d => Sys2Proof.Machine.execFcmpLe e b f a d s
  | .fcmpUno e b f a d => Sys2Proof.Machine.execFcmpUno e b f a d s
  | .fabs f a d => Sys2Proof.Machine.execFabs f a d s
  | .fneg f a d => Sys2Proof.Machine.execFneg f a d s
  | .ffloor f a d => Sys2Proof.Machine.execFfloor f a d s
  | .fceil f a d => Sys2Proof.Machine.execFceil f a d s
  | .rcp f a d => Sys2Proof.Machine.execRcp f a d s
  | .rsq f a d => Sys2Proof.Machine.execRsq f a d s
  | .ex2 f a d => Sys2Proof.Machine.execEx2 f a d s
  | .lg2 f a d => Sys2Proof.Machine.execLg2 f a d s
  | .sin f a d => Sys2Proof.Machine.execSin f a d s
  | .cos f a d => Sys2Proof.Machine.execCos f a d s
  | .sqrt f a d => Sys2Proof.Machine.execSqrt f a d s
  | .tanh f a d => Sys2Proof.Machine.execTanh f a d s
  | .hadd2 e b f a d => Sys2Proof.Machine.execHadd2 e b f a d s
  | .hmul2 e b f a d => Sys2Proof.Machine.execHmul2 e b f a d s
  | .hfma2 e b f a d => Sys2Proof.Machine.execHfma2 e b f a d s
  | .hmax2 e b f a d => Sys2Proof.Machine.execHmax2 e b f a d s
  | .badd2 e b f a d => Sys2Proof.Machine.execBadd2 e b f a d s
  | .bmul2 e b f a d => Sys2Proof.Machine.execBmul2 e b f a d s
  | .bfma2 e b f a d => Sys2Proof.Machine.execBfma2 e b f a d s
  | .bmax2 e b f a d => Sys2Proof.Machine.execBmax2 e b f a d s
  | .dadd e b f a d => Sys2Proof.Machine.execDadd e b f a d s
  | .dmul e b f a d => Sys2Proof.Machine.execDmul e b f a d s
  | .dfma e b f a d => Sys2Proof.Machine.execDfma e b f a d s
  | .dmin e b f a d => Sys2Proof.Machine.execDmin e b f a d s
  | .cvt b f a d r => Sys2Proof.Machine.execCvt b f a d r s
  | .pack8 b f a d => Sys2Proof.Machine.execPack8 b f a d s
  | .unpk8 b f a d => Sys2Proof.Machine.execUnpk8 b f a d s
  | .pack4 b f a d => Sys2Proof.Machine.execPack4 b f a d s
  | .unpk4 b f a d => Sys2Proof.Machine.execUnpk4 b f a d s
  | .shfl e b f a d => Sys2Proof.Machine.execShfl e b f a d s
  | .shflx e b f a d => Sys2Proof.Machine.execShflx e b f a d s
  | .shflu e b f a d => Sys2Proof.Machine.execShflu e b f a d s
  | .shfld e b f a d => Sys2Proof.Machine.execShfld e b f a d s
  | .ballot f a d => Sys2Proof.Machine.execBallot f a d s
  | .vredAdd f a d => Sys2Proof.Machine.execVredAdd f a d s
  | .vredFadd f a d => Sys2Proof.Machine.execVredFadd f a d s
  | .vredFmax f a d => Sys2Proof.Machine.execVredFmax f a d s
  | .bcast e b f a d => Sys2Proof.Machine.execBcast e b f a d s
  | .rdlane e b f a d => Sys2Proof.Machine.execRdlane e b f a d s
  | .rdx e b f a d => Sys2Proof.Machine.execRdx e b f a d s
  | .wrx e b f a d => Sys2Proof.Machine.execWrx e b f a d s
  | .lrd e b f a d => Sys2Proof.Machine.execLrd e b f a d s
  | .lwr e b f a d => Sys2Proof.Machine.execLwr e b f a d s
  | .lmeet e b d => Sys2Proof.Machine.execLmeet e b d s
  | .lpc e b d => Sys2Proof.Machine.execLpc e b d s
  | .kand e b f a d => Sys2Proof.Machine.execKand e b f a d s
  | .kor e b f a d => Sys2Proof.Machine.execKor e b f a d s
  | .kxor e b f a d => Sys2Proof.Machine.execKxor e b f a d s
  | .kandn e b f a d => Sys2Proof.Machine.execKandn e b f a d s
  | .k2s f a d => Sys2Proof.Machine.execK2s f a d s
  | .s2k f a d => Sys2Proof.Machine.execS2k f a d s
  | .kpopc f a d => Sys2Proof.Machine.execKpopc f a d s
  | .kffs f a d => Sys2Proof.Machine.execKffs f a d s
  | .srd n d => Sys2Proof.Machine.execSrd n d s
  | .crd n sc => Sys2Proof.Machine.execCrd n sc s
  | .cwr n sc => Sys2Proof.Machine.execCwr n sc s
  | .moviV im d => Sys2Proof.Machine.execMoviV im d s
  | .moviS im d => Sys2Proof.Machine.execMoviS im d s
  | .movihS im d => Sys2Proof.Machine.execMovihS im d s
  | .addiS im d => Sys2Proof.Machine.execAddiS im d s
  | .sadd e b f a d => Sys2Proof.Machine.execSadd e b f a d s
  | .ssub e b f a d => Sys2Proof.Machine.execSsub e b f a d s
  | .smul e b f a d => Sys2Proof.Machine.execSmul e b f a d s
  | .sand e b f a d => Sys2Proof.Machine.execSand e b f a d s
  | .sor e b f a d => Sys2Proof.Machine.execSor e b f a d s
  | .sxor e b f a d => Sys2Proof.Machine.execSxor e b f a d s
  | .sshl e b f a d => Sys2Proof.Machine.execSshl e b f a d s
  | .sshr e b f a d => Sys2Proof.Machine.execSshr e b f a d s
  | .seq e b f a d => Sys2Proof.Machine.execSeq e b f a d s
  | .sne e b f a d => Sys2Proof.Machine.execSne e b f a d s
  | .slt e b f a d => Sys2Proof.Machine.execSlt e b f a d s
  | .sltn e b f a d => Sys2Proof.Machine.execSltn e b f a d s
  | .sadd64 e b f a d => Sys2Proof.Machine.execSadd64 e b f a d s
  | .ssub64 e b f a d => Sys2Proof.Machine.execSsub64 e b f a d s
  | .smulw e b f a d => Sys2Proof.Machine.execSmulw e b f a d s
  | .sshl64 e b f a d => Sys2Proof.Machine.execSshl64 e b f a d s
  | .br o => Sys2Proof.Machine.execBr o s
  | .brz o a => Sys2Proof.Machine.execBrz o a s
  | .brnz o a => Sys2Proof.Machine.execBrnz o a s
  | .brneg o a => Sys2Proof.Machine.execBrneg o a s
  | .brk o a => Sys2Proof.Machine.execBrk o a s
  | .brkn o a => Sys2Proof.Machine.execBrkn o a s
  | .brv o a => Sys2Proof.Machine.execBrv o a s
  | .brvz o a => Sys2Proof.Machine.execBrvz o a s
  | .setmeet o a => Sys2Proof.Machine.execSetmeet o a s
  | .jmp o a => Sys2Proof.Machine.execJmp o a s
  | .call o a => Sys2Proof.Machine.execCall o a s
  | .jmpv o a => Sys2Proof.Machine.execJmpv o a s
  | .rstmeet a => Sys2Proof.Machine.execRstmeet a s
  | .exit => Sys2Proof.Machine.execExit s
  | .trap c => Sys2Proof.Machine.execTrap c s
  | .breakI c => Sys2Proof.Machine.execBreakI c s
  | .rtrap => Sys2Proof.Machine.execRtrap s
  | .rep w x y z c => Sys2Proof.Machine.execRep w x y z c s
  | .repack => Sys2Proof.Machine.execRepack s
  | .yield => Sys2Proof.Machine.execYield s
  | .sleep n => Sys2Proof.Machine.execSleep n s
  | .waitf c a => Sys2Proof.Machine.execWaitf c a s
  | .bar e b => Sys2Proof.Machine.execBar e b s
  | .barm e b f a => Sys2Proof.Machine.execBarm e b f a s
  | .arrive e b => Sys2Proof.Machine.execArrive e b s
  | .wait e b => Sys2Proof.Machine.execWait e b s
  | .fenceS p m => Sys2Proof.Machine.execFenceS p m s
  | .fenceP p b a => Sys2Proof.Machine.execFenceP p b a s
  | .fenceA => Sys2Proof.Machine.execFenceA s
  | .zbar e b => Sys2Proof.Machine.execZbar e b s
  | .zbcast e b f a d => Sys2Proof.Machine.execZbcast e b f a d s
  | .zred e b f a d => Sys2Proof.Machine.execZred e b f a d s
  | .zsig e b f a => Sys2Proof.Machine.execZsig e b f a s
  | .cdecl f a d => Sys2Proof.Machine.execCdecl f a d s
  | .crst d => Sys2Proof.Machine.execCrst d s
  | .cqry a d => Sys2Proof.Machine.execCqry a d s
  | .ld sc o q a d z => Sys2Proof.Machine.execLd sc o q a d z s
  | .st sc o q a d z => Sys2Proof.Machine.execSt sc o q a d z s
  | .lds sc o q a d z => Sys2Proof.Machine.execLds sc o q a d z s
  | .sts sc o q a d z => Sys2Proof.Machine.execSts sc o q a d z s
  | .atom32 sc o q a d p => Sys2Proof.Machine.execAtom32 sc o q a d p s
  | .atom64 sc o q a d p => Sys2Proof.Machine.execAtom64 sc o q a d p s
  | .tld q sc t => Sys2Proof.Machine.execTld q sc t s
  | .tst q sc t => Sys2Proof.Machine.execTst q sc t s
  | .trdr sc v t => Sys2Proof.Machine.execTrdr sc v t s
  | .trdc sc v t => Sys2Proof.Machine.execTrdc sc v t s
  | .twrr sc v t => Sys2Proof.Machine.execTwrr sc v t s
  | .twrc sc v t => Sys2Proof.Machine.execTwrc sc v t s
  | .tzero t => Sys2Proof.Machine.execTzero t s
  | .tmov sc t => Sys2Proof.Machine.execTmov sc t s
  | .cpy c k d sc => Sys2Proof.Machine.execCpy c k d sc s
  | .cpymc c k d sc => Sys2Proof.Machine.execCpymc c k d sc s
  | .cpysp c k d sc => Sys2Proof.Machine.execCpysp c k d sc s
  | .cpyg c k d sc => Sys2Proof.Machine.execCpyg c k d sc s
  | .pref c k sc => Sys2Proof.Machine.execPref c k sc s
  | .mma f c b a t => Sys2Proof.Machine.execMma f c b a t s
  | .view b a r t => Sys2Proof.Machine.execView b a r t s
  | .vret d => Sys2Proof.Machine.execVret d s
  | .trace b a d => Sys2Proof.Machine.execTrace b a d s
  | .traces b a d => Sys2Proof.Machine.execTraces b a d s
  | .tret => Sys2Proof.Machine.execTret s
  | .rast b a d => Sys2Proof.Machine.execRast b a d s
  | .snaphash b a d => Sys2Proof.Machine.execSnaphash b a d s
  | .snapfind b a d => Sys2Proof.Machine.execSnapfind b a d s
  | .snapget b a d => Sys2Proof.Machine.execSnapget b a d s
  | .snapdep b a d => Sys2Proof.Machine.execSnapdep b a d s
  | .snaprel b a d => Sys2Proof.Machine.execSnaprel b a d s
  | .tidset b a => Sys2Proof.Machine.execTidset b a s
  | .tidrd a d => Sys2Proof.Machine.execTidrd a d s
  | .wpos a d => Sys2Proof.Machine.execWpos a d s
  | .tdef b a d => Sys2Proof.Machine.execTdef b a d s
  | .tdec b a d => Sys2Proof.Machine.execTdec b a d s
  | .twait b a d => Sys2Proof.Machine.execTwait b a d s
  | .spawn a d => Sys2Proof.Machine.execSpawn a d s
  | .cred b a d => Sys2Proof.Machine.execCred b a d s
  | .cbcast b a d => Sys2Proof.Machine.execCbcast b a d s
  | .lull => Sys2Proof.Machine.execLull s
  | .dump d => Sys2Proof.Machine.execDump d s
  | .dstep a => Sys2Proof.Machine.execDstep a s
  | .dres a => Sys2Proof.Machine.execDres a s
  | .loadFill op => Sys2Proof.Machine.execLoadFill op s
  | .memoryAccessPerform acc ext => Sys2Proof.Machine.execMemoryAccessPerform acc ext s
  | .pageWalkComplete part va => Sys2Proof.Machine.execPageWalkComplete part va s
  | .patrolScrub part space line found => Sys2Proof.Machine.execPatrolScrub part space line found s
  | .compareComplete op => Sys2Proof.Machine.execCompareComplete op s
  | .sfuComplete op => Sys2Proof.Machine.execSfuComplete op s
  | .tldComplete op => Sys2Proof.Machine.execTldComplete op s
  | .mmaStart core => Sys2Proof.Machine.execMmaStart core s
  | .mmaComplete core op => Sys2Proof.Machine.execMmaComplete core op s
  | .rastComplete core => Sys2Proof.Machine.execRastComplete core s
  | .traceAdmit gid => Sys2Proof.Machine.execTraceAdmit gid s
  | .tradeQueueServe cluster => Sys2Proof.Machine.execTradeQueueServe cluster s
  | .rayComplete cluster ray => Sys2Proof.Machine.execRayComplete cluster ray s
  | .traceRecordFill op => Sys2Proof.Machine.execTraceRecordFill op s
  | .viewSlotGrant gid => Sys2Proof.Machine.execViewSlotGrant gid s
  | .viewRayCast cluster => Sys2Proof.Machine.execViewRayCast cluster s
  | .viewComplete cluster slot => Sys2Proof.Machine.execViewComplete cluster slot s
  | .shadingGroupForm core level => Sys2Proof.Machine.execShadingGroupForm core level s
  | .snaphashComplete op => Sys2Proof.Machine.execSnaphashComplete op s
  | .snapfindSearch op => Sys2Proof.Machine.execSnapfindSearch op s
  | .snapgetCopy op => Sys2Proof.Machine.execSnapgetCopy op s
  | .snapdepAllocate op => Sys2Proof.Machine.execSnapdepAllocate op s
  | .snapdepLink op => Sys2Proof.Machine.execSnapdepLink op s
  | .snaprelApply op => Sys2Proof.Machine.execSnaprelApply op s
  | .flitArrive flit => Sys2Proof.Machine.execFlitArrive flit s
  | .copySectorDeliver core chan => Sys2Proof.Machine.execCopySectorDeliver core chan s
  | .copyComplete core chan => Sys2Proof.Machine.execCopyComplete core chan s
  | .twaitLimitExpiry gid => Sys2Proof.Machine.execTwaitLimitExpiry gid s
  | .binTimerExpiry core bin => Sys2Proof.Machine.execBinTimerExpiry core bin s
  | .binGroupForm core bin => Sys2Proof.Machine.execBinGroupForm core bin s
  | .barrierPhaseComplete team n => Sys2Proof.Machine.execBarrierPhaseComplete team n s
  | .repackFire team => Sys2Proof.Machine.execRepackFire team s
  | .zephyrArrivalRecord gid => Sys2Proof.Machine.execZephyrArrivalRecord gid s
  | .zephyrComplete part id => Sys2Proof.Machine.execZephyrComplete part id s
  | .collectiveComplete part id ext => Sys2Proof.Machine.execCollectiveComplete part id ext s
  | .groupRetire gid => Sys2Proof.Machine.execGroupRetire gid s
  | .teamRetire team => Sys2Proof.Machine.execTeamRetire team s
  | .gridEnd grid => Sys2Proof.Machine.execGridEnd grid s
  | .sleepExpiry gid => Sys2Proof.Machine.execSleepExpiry gid s
  | .yieldExpiry gid => Sys2Proof.Machine.execYieldExpiry gid s
  | .handlerEntry gid => Sys2Proof.Machine.execHandlerEntry gid s
  | .pcMatch gid cmp => Sys2Proof.Machine.execPcMatch gid cmp s
  | .packetStart part => Sys2Proof.Machine.execPacketStart part s
  | .packetComplete part queue index => Sys2Proof.Machine.execPacketComplete part queue index s
  | .barrierPacketRound part queue index => Sys2Proof.Machine.execBarrierPacketRound part queue index s
  | .packetCopySector part => Sys2Proof.Machine.execPacketCopySector part s
  | .teamPlace cluster => Sys2Proof.Machine.execTeamPlace cluster s
  | .clusterSteal cluster grid => Sys2Proof.Machine.execClusterSteal cluster grid s
  | .dieSteal part die grid => Sys2Proof.Machine.execDieSteal part die grid s
  | .faultRecordWrite part => Sys2Proof.Machine.execFaultRecordWrite part s
  | .lullWaveStop part => Sys2Proof.Machine.execLullWaveStop part s
  | .haltFlitArrive part cause cause2 stamp => Sys2Proof.Machine.execHaltFlitArrive part cause cause2 stamp s
  | .debugSlotStart part => Sys2Proof.Machine.execDebugSlotStart part s
  | .jobResume part => Sys2Proof.Machine.execJobResume part s
  | .dumpComplete part => Sys2Proof.Machine.execDumpComplete part s
  | .sampleTake core sp => Sys2Proof.Machine.execSampleTake core sp s
  | .timeSliceExpiry part => Sys2Proof.Machine.execTimeSliceExpiry part s
  | .drainComplete part => Sys2Proof.Machine.execDrainComplete part s
  | .drainDeadlineExpiry part => Sys2Proof.Machine.execDrainDeadlineExpiry part s
  | .tlbinvGo part value => Sys2Proof.Machine.execTlbinvGo part value s
  | .tlbinvComplete part => Sys2Proof.Machine.execTlbinvComplete part s
  | .queueEnable part queue => Sys2Proof.Machine.execQueueEnable part queue s
  | .queueReenable part queue => Sys2Proof.Machine.execQueueReenable part queue s
  | .queueDisable part queue => Sys2Proof.Machine.execQueueDisable part queue s
  | .queueDisableDone part queue => Sys2Proof.Machine.execQueueDisableDone part queue s
  | .qdoor part queue value => Sys2Proof.Machine.execQdoor part queue value s
  | .treeCreate part tree value => Sys2Proof.Machine.execTreeCreate part tree value s
  | .treeDiscard part tree => Sys2Proof.Machine.execTreeDiscard part tree s
  | .treeDiscardFree part tree => Sys2Proof.Machine.execTreeDiscardFree part tree s
  | .fqresume part value => Sys2Proof.Machine.execFqresume part value s
  | .preemptRequest part => Sys2Proof.Machine.execPreemptRequest part s
  | .preset part value => Sys2Proof.Machine.execPreset part value s
  | .vfFunctionLevelReset part => Sys2Proof.Machine.execVfFunctionLevelReset part s
  | .partitionResetComplete part => Sys2Proof.Machine.execPartitionResetComplete part s
  | .deviceReset => Sys2Proof.Machine.execDeviceReset s
  | .deviceResetComplete => Sys2Proof.Machine.execDeviceResetComplete s
  | .hostLinkLost => Sys2Proof.Machine.execHostLinkLost s
  | .cxlLinkDown port => Sys2Proof.Machine.execCxlLinkDown port s
  | .peerRequest key kind offset data size => Sys2Proof.Machine.execPeerRequest key kind offset data size s
  | .peerRefusal acc => Sys2Proof.Machine.execPeerRefusal acc s
  | .peerResponseTimeout acc => Sys2Proof.Machine.execPeerResponseTimeout acc s
  | .dbgcmdLull part => Sys2Proof.Machine.execDbgcmdLull part s
  | .dbgcmdDstep part value => Sys2Proof.Machine.execDbgcmdDstep part value s
  | .dbgcmdDres part value => Sys2Proof.Machine.execDbgcmdDres part value s
  | .dbgRegRead part value => Sys2Proof.Machine.execDbgRegRead part value s
  | .dbgRegWrite part value => Sys2Proof.Machine.execDbgRegWrite part value s
  | .dbgRegForceWrite part value => Sys2Proof.Machine.execDbgRegForceWrite part value s
  | .contextLoad part => Sys2Proof.Machine.execContextLoad part s
  | .contextLoadDone part => Sys2Proof.Machine.execContextLoadDone part s
  | .contextUnload part => Sys2Proof.Machine.execContextUnload part s
  | .contextUnloadDone part => Sys2Proof.Machine.execContextUnloadDone part s
  | .craccRead part value => Sys2Proof.Machine.execCraccRead part value s
  | .craccWrite part value => Sys2Proof.Machine.execCraccWrite part value s
  | .stallCounterClear part block value => Sys2Proof.Machine.execStallCounterClear part block value s
  | .barRegisterWrite part offset value => Sys2Proof.Machine.execBarRegisterWrite part offset value s
  | .mcBoot => Sys2Proof.Machine.execMcBoot s
  | .pldmMonitoring part => Sys2Proof.Machine.execPldmMonitoring part s
  | .pldmFirmwareUpdate image version signed => Sys2Proof.Machine.execPldmFirmwareUpdate image version signed s
  | .recoveryImageLoad image version signed => Sys2Proof.Machine.execRecoveryImageLoad image version signed s
  | .getVersion => Sys2Proof.Machine.execGetVersion s
  | .getCapabilities => Sys2Proof.Machine.execGetCapabilities s
  | .negotiateAlgorithms brainpool p384 sha384 => Sys2Proof.Machine.execNegotiateAlgorithms brainpool p384 sha384 s
  | .getDigests => Sys2Proof.Machine.execGetDigests s
  | .getCertificate slot => Sys2Proof.Machine.execGetCertificate slot s
  | .challenge slot nonce => Sys2Proof.Machine.execChallenge slot nonce s
  | .getMeasurements index => Sys2Proof.Machine.execGetMeasurements index s
  | .mcSetPartitionConfig part clusters hbmSize tierSize => Sys2Proof.Machine.execMcSetPartitionConfig part clusters hbmSize tierSize s
  | .mcSetDomainKey part key => Sys2Proof.Machine.execMcSetDomainKey part key s
  | .mcSetPackageId id => Sys2Proof.Machine.execMcSetPackageId id s
  | .mcSetEsnodes part first count => Sys2Proof.Machine.execMcSetEsnodes part first count s
  | .mcDeviceReset => Sys2Proof.Machine.execMcDeviceReset s
  | .mcCrAccess part write core num data => Sys2Proof.Machine.execMcCrAccess part write core num data s
  | .illegalInstruction word => Sys2Proof.Machine.execIllegalInstruction word s
  | .cycleWithNoEligibleGroup core sp => Sys2Proof.Machine.execCycleWithNoEligibleGroup core sp s
  | .participatingPackageUnreachable lost => Sys2Proof.Machine.execParticipatingPackageUnreachable lost s
  | .hostRequestToDeviceMemory part space offset write data size => Sys2Proof.Machine.execHostRequestToDeviceMemory part space offset write data size s
  | .configurationWrite part memEnable => Sys2Proof.Machine.execConfigurationWrite part memEnable s
  | .devicePowerOn => Sys2Proof.Machine.execDevicePowerOn s

end Sys2Proof.Machine
end

