-- ==== Sys2Proof/Machine/Cycle.lean ====
section
/-! DEFINITION. Selection and time: the issue a scheduler partition makes (16 R307, R308), the model's own order of events (log
entry 10), and what one cycle changes (13 R264; 16 R308; 20 R348, R352, R361). `run` is the meaning of an instruction. -/

namespace Sys2Proof.Machine

/-! One issue. -/

/-- What an issue at an address does that its fetch decides: a cause stops or traps it, a page that no TLB holds is walked while it waits,
a word that is no instruction is Illegal-instruction; else `k` goes on with the instruction, its length and its word. -/
def State.onFetch (s : State) (g : Group) (c : Cur) (pc : DWord) (k : State → Instr → Nat → Nat → Out) : Out :=
  let w := s.issuer c.gid g
  match s.fetch w pc with
  | .cause e => .next (({ s with cur := c }.causeFor g c.mask e.code e.va none).modGroup c.gid fun g =>
      if g.stopped.isSome then { g with why := 13 } else g)
  | .miss page => .next ({ s.addWalk (dieOf c.gid) g.part page with cur := c }.waitAt g 13)
  | .illegal len x =>
    let t := { s.fetched w pc len with cur := c }
    if len = 4 then execIllegalInstruction x t else t.illegal len
  | .instr i len x => k (s.fetched w pc len) i len x

/-- A repeat: the target of the REP at the candidate's address, stepped (02 R55). -/
def State.runRepeat (run : Instr → State → Out) (s : State) (g : Group) (c : Cur) (r : Rep) : Out :=
  s.onFetch g c (r.pc + 4) fun s _ len w =>
    match r.target len w r.idx with
    | some t => run t { s with cur := { c with len } }
    | none => .next ({ s with cur := { c with len } }.raise g c.mask 1 0 none 0)

/-- The instruction at the candidate's address. -/
def State.runFetched (run : Instr → State → Out) (s : State) (g : Group) (c : Cur) : Out :=
  s.onFetch g c c.pc fun s i len _ => run i { s with cur := { c with len } }

/-- The repeat in progress of the class of a candidate. -/
def Group.repOf (g : Group) (c : Cls) : Option Rep :=
  match c with
  | .handler => g.handling.bind (·.rep)
  | _ => g.rep

/-- A handler has made all the issues of its budget (18 R323). -/
def State.overBudget (s : State) (g : Group) (c : Cur) : Bool :=
  c.cls == .handler && (match g.handling with
    | some h => decide (((s.part g.part).cr 0x4B).toNat ≤ h.issues)
    | none => false)

/-- The issue of a candidate. -/
def State.runIssue (run : Instr → State → Out) (s0 : State) (c : Cur) : Out :=
  let s := { s0 with waited := false }
  match s.group? c.gid with
  | none => .fault .noIssue
  | some g =>
    if s.overBudget g c then .next ({ s with cur := c }.contextFault g.part (some c.gid) 69 0 c.pc 0 0 0)
    else match (if c.rep then g.repOf c.cls else none) with
      | some r => s.runRepeat run g c r
      | none => s.runFetched run g c

/-- The issue can be made in this clock: it does not wait (16 R307). -/
def wasMade (x : Out) : Bool :=
  match x with
  | .next t => !t.waited
  | _ => false

/-- Candidates that are eligible. -/
def State.eligible (run : Instr → State → Out) (s : State) (cs : List (Nat × Cur)) : List Cur :=
  (sortCands cs).filterMap fun x => if wasMade (s.runIssue run x.2) then some x.2 else none

/-- WAITC of a candidate's group. -/
def State.waitcOf (s : State) (c : Cur) : Nat := ((s.group? c.gid).map (·.waitc)).getD 0

/-- The ordinary class: the greatest WAITC from 256 on, else the first, which is the oldest (16 R308). -/
def State.pickOrdinary (s : State) (cs : List Cur) : Option Cur :=
  cs.foldl (fun (b : Option Cur) c => match b with
    | none => some c
    | some x => if 256 ≤ s.waitcOf c ∧ s.waitcOf x < s.waitcOf c then some c else some x) none

/-- Numbers without repeats. -/
def distinct : List Nat → List Nat
  | [] => []
  | x :: r => if r.contains x then distinct r else x :: distinct r

/-- The issue that a scheduler partition selects in this clock (16 R308). -/
def State.choose (run : Instr → State → Out) (s : State) (sp : Nat) : Option Cur :=
  if s.spBusy sp then none
  else
    let d := s.eligible run (s.debugCands sp)
    let h := s.eligible run (s.handlerCands sp)
    let o := s.eligible run (s.ordinaryCands sp)
    ((d.head?.or h.head?).or (s.pickOrdinary o)).map fun c =>
      { c with
        others := (distinct ((d ++ h ++ o).map (·.gid))).filter (· != c.gid)
        waiters := (o.map (·.gid)).filter fun i => !(c.cls == .ordinary && i == c.gid) }

/-- What the selected issue does: a comparator that matches it stops the scheduler partition in its place (20 R345). -/
def State.makeIssue (run : Instr → State → Out) (s : State) (c : Cur) : Out :=
  match s.comparator c with
  | some n => execPcMatch c.gid n s
  | none =>
    match s.runIssue run c with
    | .next t => .next (t.afterIssue c)
    | x => x

/-! Waits. -/

/-- Candidates of a scheduler partition below the debug slot, but not of the group that issued in this cycle. -/
def State.idleCands (s : State) (sp : Nat) : List Cur :=
  ((s.handlerCands sp ++ s.ordinaryCands sp).map (·.2)).filter fun c =>
    (s.sp sp).issued.map (·.2) != some (slotOf c.gid)

/-- A candidate that waits leaves its group waiting (01 R18), and the walk of a page whose translation it missed under way. -/
def State.noteWait (run : Instr → State → Out) (s : State) (c : Cur) : State :=
  match s.runIssue run c with
  | .next t =>
    if t.waited then
      match t.group? c.gid with
      | some g => { s with fresh := t.fresh, dies := t.dies }.setGroup c.gid g
      | none => s
    else s
  | _ => s

/-- The waits of a scheduler partition. -/
def State.noteWaits (run : Instr → State → Out) (s : State) (sp : Nat) : State :=
  (s.idleCands sp).foldl (fun s c => s.noteWait run c) s

/-- Groups that cease to be eligible are waited for by no YIELD (13 R264). -/
def State.noteYields (run : Instr → State → Out) (s : State) (sp : Nat) : State :=
  if !(s.slotResidents sp).any (fun x => x.2.yield.isSome || ((x.2.handling.map (·.yield.isSome)).getD false)) then s
  else
    let live := ((s.idleCands sp).filter fun c => wasMade (s.runIssue run c)).map (·.gid)
    { s with groups := s.groups.mapVal fun i (g : Group) =>
        if spIdOf i = sp then g.unyield fun x => !live.contains x else g }

/-! A cycle. -/

/-- A step of a scheduler partition ends when it can issue nothing, or when what it issued has been performed (20 R352). -/
def State.endStep (s : State) (sp : Nat) : State :=
  let q := s.sp sp
  if q.step = 0 then s
  else if q.step = 1 then (if s.spBusy sp then s else s.modSp sp fun x => { x with step := 0 })
  else if s.spBusy sp || s.accs.any (fun a => spIdOf a.2.gid == sp && slotOf a.2.gid != 16 && a.2.path == .ls) then s
  else (s.fillHeld fun gid => spIdOf gid == sp && slotOf gid != 16).modSp sp fun x => { x with step := 0 }

/-- WAITC in a clock in which an earlier issue holds the scheduler partition: it rises for the other groups that could issue but for that
(16 R309; log entry 56). -/
def State.heldWaits (run : Instr → State → Out) (s : State) (sp : Nat) : State :=
  ((s.ordinaryCands sp).map (·.2)).foldl (fun t c =>
    if slotOf c.gid ≠ (s.sp sp).holder ∧ wasMade (s.runIssue run c) then t.modGroup c.gid fun g => { g with waitc := g.waitc + 1 } else t) s

/-- The end of a cycle of a scheduler partition: waits, counters and its issue. -/
def State.tickSp (run : Instr → State → Out) (part : Nat) (s : State) (sp : Nat) : State :=
  let opens := (s.sp sp).issued.isSome || !s.spBusy sp
  let s1 := if opens then (s.noteYields run sp).noteWaits run sp else s.heldWaits run sp
  let q := s1.sp sp
  let s2 := if q.issued.isSome then s1.modPart part fun p => p.count1 sp q.elig
    else if q.charged then s1 else s1.chargeIdle part sp
  (s2.endStep sp).modSp sp fun x => { x with issued := none, elig := 0, charged := false }

/-- The counts of a partition: of its job's unfrozen cycles, of a drain and of the time slice (18 R328, R329; 20 R348). -/
def Part.tick (p : Part) : Part :=
  let held := p.stoppedAll || p.wave.isSome
  { p with
    clock := if p.stoppedAll then p.clock else p.clock + 1
    drainCount := if p.preempt = 1 ∧ (!held ∨ p.faulted) then p.drainCount + 1 else p.drainCount
    sliceCount := if p.ctxState = 2 ∧ !held then p.sliceCount + 1 else p.sliceCount }

/-- One cycle passes. -/
def State.tick (run : Instr → State → Out) (s : State) : State :=
  let s1 := s.parts.foldl (fun s x => x.2.spList.foldl (fun s i => s.tickSp run x.1 i) s) s.retryReads
  { s1 with now := s1.now + 1, parts := s1.parts.mapVal fun _ (p : Part) => p.tick }

/-! The model's own order of events (log entry 10). -/

/-- What an event does, as it is tried. -/
abbrev Meaning := State → Out

/-- Events of operations in flight. -/
def State.opEvents (s : State) : List Meaning :=
  s.ops.flatMap fun x => match x.2.kind with
    | .load .. => [execLoadFill x.1]
    | .atom .. => [execLoadFill x.1]
    | .tile .. => [execTldComplete x.1]
    | .writes _ => [execCompareComplete x.1]
    | .flagged .. => [if x.2.cls = .sfu then execSfuComplete x.1 else execCompareComplete x.1]
    | .mma .. => [execMmaComplete (coreOf x.2.gid) x.1]
    | .trace .. => [execTraceRecordFill x.1]
    | .snap 0 .. => [execSnaphashComplete x.1]
    | .snap 1 .. => [execSnapfindSearch x.1]
    | .snap 2 .. => [execSnapgetCopy x.1]
    | .snap 3 .. => [execSnapdepAllocate x.1, execSnapdepLink x.1]
    | .snap .. => [execSnaprelApply x.1]
    | _ => []

/-- Accesses and walks; a part sent to a peer waits for its answer, which is an input, unless its partition has no key. -/
def State.accEvents (s : State) : List Meaning :=
  (s.accs.flatMap fun x =>
    if x.2.loc.space = .peer ∧ x.2.sent.isSome then
      [if (s.part x.2.part).key = 0 then execPeerRefusal x.1 else execPeerResponseTimeout x.1]
    else [execMemoryAccessPerform x.1 []]) ++
  s.dies.flatMap fun x => x.2.walks.map fun w => execPageWalkComplete w.part (BitVec.ofNat 64 w.page)

/-- Events of cores and clusters. -/
def State.unitEvents (s : State) : List Meaning :=
  (s.cores.flatMap fun x =>
    [execMmaStart x.1, execRastComplete x.1] ++
    (x.2.chans.flatMap fun h => if h.2.copies.isEmpty then [] else [execCopyComplete x.1 h.1, execCopySectorDeliver x.1 h.1]) ++
    (x.2.bins.flatMap fun b => [execBinTimerExpiry x.1 b.1, execBinGroupForm x.1 b.1]) ++
    (if x.2.shbins.isEmpty then [] else (upTo 1 3).map fun l => execShadingGroupForm x.1 l)) ++
  s.clusters.flatMap fun x =>
    (x.2.rays.map fun r => execRayComplete x.1 r.1) ++ (x.2.views.map fun v => execViewComplete x.1 v.1) ++
    [execTradeQueueServe x.1, execViewRayCast x.1]

/-- Events of groups, flits and teams. -/
def State.groupEvents (s : State) : List Meaning :=
  (s.flits.map fun x => execFlitArrive x.1) ++
  (s.groups.flatMap fun x =>
    [execGroupRetire x.1, execSleepExpiry x.1, execYieldExpiry x.1, execHandlerEntry x.1, execTwaitLimitExpiry x.1,
     execZephyrArrivalRecord x.1]) ++
  s.teams.flatMap fun x =>
    ((List.range 16).map fun n => execBarrierPhaseComplete x.1 n) ++ [execRepackFire x.1, execTeamRetire x.1]

/-- Events of grids: their ends, placements and steals. -/
def State.gridEvents (s : State) : List Meaning :=
  (s.grids.map fun x => execGridEnd x.1) ++
  s.parts.flatMap fun x =>
    if s.grids.any (fun y => y.2.part == x.1) then
      (x.2.clusters.map fun c => execTeamPlace c) ++
      ((s.grids.filter fun y => y.2.part == x.1).flatMap fun y =>
        (x.2.clusters.map fun c => execClusterSteal c y.1) ++ ((List.range 4).map fun d => execDieSteal x.1 d y.1))
    else []

/-- Events of a partition: a barrier reads its signals when it must, 1,024 cycles after its last round or after a signal
update (16 R298). -/
def State.partEvents (s : State) : List Meaning :=
  s.parts.flatMap fun x =>
    let p := x.1
    [execLullWaveStop p, execPartitionResetComplete p, execJobResume p, execDebugSlotStart p, execDumpComplete p, execContextLoadDone p,
     execContextUnloadDone p, execTlbinvComplete p, execFaultRecordWrite p, execTimeSliceExpiry p, execDrainDeadlineExpiry p] ++
    (x.2.zph.map fun z => execZephyrComplete p z.id) ++
    (x.2.colls.map fun c => execCollectiveComplete p c.id ⟨0, []⟩) ++
    (x.2.pkts.flatMap fun k => execPacketComplete p k.queue k.index ::
      if k.nextRound ≤ x.2.clock then [execBarrierPacketRound p k.queue k.index] else []) ++
    [execPacketCopySector p, execPacketStart p, execDrainComplete p] ++
    (x.2.queues.map fun q => execQueueDisableDone p q.1) ++
    (x.2.discarding.map fun t => execTreeDiscardFree p t)

/-- The events that may happen by themselves, in the order in which the model tries them. -/
def State.events (s : State) : List Meaning :=
  [execMcBoot, execDeviceResetComplete] ++ s.partEvents ++ s.accEvents ++ s.opEvents ++ s.unitEvents ++ s.groupEvents ++ s.gridEvents

/-- The first event that happens. -/
def firstEvent (s : State) : List Meaning → Option State
  | [] => none
  | f :: r => match f s with
    | .next t => some t
    | _ => firstEvent s r

/-- The first scheduler partition with an issue to make, and the issue. -/
def firstIssue (run : Instr → State → Out) (s : State) : List Nat → Option Cur
  | [] => none
  | i :: r => match s.choose run i with
    | some c => some c
    | none => firstIssue run s r

/-- The scheduler partitions that hold a group, ascending. -/
def State.usedSps (s : State) : List Nat := distinct (s.groups.map fun x => spIdOf x.1)

/-- Samples that are due in this cycle. -/
def State.sampleEvents (s : State) : List Meaning :=
  s.parts.flatMap fun x => if x.2.sampling && !x.2.stoppedAll then x.2.spList.map fun i => execSampleTake (i / 4) (i % 4) else []

/-- What happens when nothing is placed on the agenda: an event, else an issue, else a sample, else a cycle passes, in which every store that
lags is performed for every agent (04 R95). -/
def State.onward (run : Instr → State → Out) (s : State) : Out :=
  match firstEvent s s.events with
  | some t => .next t
  | none =>
    match firstIssue run s s.usedSps with
    | some c => s.makeIssue run c
    | none =>
      match firstEvent s s.sampleEvents with
      | some t => .next t
      | none => .next ((s.settle fun _ => true).tick run)

/-! Inputs and what is placed on the agenda. -/

/-- The host or a PCIe agent writes its own memory, unless the link is lost. -/
def State.hostWrite (s : State) (part off : Nat) (data : List Byte) : Out :=
  if s.hostLost then .fault (.notEnabled "host memory")
  else .next (s.store ⟨.host, part, off⟩ data)

/-- A register or tile of a group comes to hold a parity error, which counts; a read of it faults the context (03 R82, R83). -/
def State.parityError (s : State) (gid : Nat) (r : Reg) (lane : Nat) : Out :=
  match s.group? gid with
  | none => .fault (.notEnabled "parity error")
  | some g =>
    if !g.has r || g.bad.contains (r, lane) then .fault (.notEnabled "parity error")
    else .next ((s.setGroup gid { g with bad := (r, lane) :: g.bad }).modPart g.part fun p => { p with softUnc := p.softUnc + 1 })

/-- A memory that may lose bits: HBM (0), the second tier (1), a vault (2) or a team's scratchpad (3). -/
def decaySpace (n : Nat) : Space := if n = 0 then .hbm else if n = 1 then .tier else if n = 2 then .vault else .scratch

/-- An error arises in a 64-byte line. One bit is corrected by the next read and counts then, a second makes it uncorrectable, as any error
of a scratchpad is, which has parity alone; an uncorrectable one counts where it arises (03 R81 to R83). -/
def State.decayLine (s : State) (space owner line : Nat) (one : Bool) : Out :=
  let l : Loc := ⟨decaySpace space, owner, line * 64⟩
  let n := l.cell / 64
  match s.ownerOf l with
  | none => .fault (.notEnabled "memory error")
  | some p =>
    if s.poison.contains n then .next s
    else if one && space ≤ 2 && !s.weak.contains n then .next { s with weak := n :: s.weak }
    else .next ({ s with poison := n :: s.poison, weak := s.weak.erase n }.modPart p fun p => { p with softUnc := p.softUnc + 1 })

/-- A partition's soft-error counters are read through its function or the management port, or cleared (03 R83). -/
def State.readSoft (s : State) (part : Nat) : Out :=
  .next { s with hostOut := (part, toBytes 8 (s.part part).softCorr.toNat ++ toBytes 8 (s.part part).softUnc.toNat) :: s.hostOut }
def State.clearSoft (s : State) (part : Nat) : Out := .next (s.modPart part fun p => { p with softCorr := 0, softUnc := 0 })

/-- The fabric sets domain time on a package of a domain (20 R349, 22 R377). -/
def State.setDomainTime (s : State) (time : DWord) : Out :=
  if s.inDomain then .next { s with dtimeOff := time - s.now } else .fault (.notEnabled "domain time")

/-- A store of an engine on its path: performed in the device with respect to it (04 R94). -/
def lagBase (path : Path) (team : Nat) (src : Nat × Nat) (stamp : Nat) (r : Reach) : Late :=
  { old := 0, path, who := [], uid := 0, team, grid := 0, src, seen := [], reach := r.raise path 2, teams := [], stamp }

/-- Who makes the stores of an event that may lag, and how far its own rules perform them at least: an LS store at its scope where it
releases, everywhere on an SO page; a store of another path in the device with respect to it (04 R94, R98, R99). Stores of a copy and of an
engine's operation carry its number, by which a completion performs them and a reader acquires them. -/
def State.lagOf (s : State) (i : Instr) (r : Reach) : Option Late :=
  let teamOf := fun (gid : Nat) => ((s.group? gid).map (·.team)).getD 0
  match i with
  | .memoryAccessPerform acc _ =>
    match s.accs.get? acc with
    | some a =>
      if a.act = .read ∨ a.loc.space = .peer then none
      else
        let e := lagBase a.path a.team (a.op, 1) s.fresh r
        some { e with
          who := a.tids, uid := a.uid, grid := a.grid
          seen := if a.path = .ls then a.tids.map fun t => ⟨t, a.member, a.okind == .uo, acc⟩ else []
          reach := r.raise a.path (if a.path ≠ .ls then 2 else if a.okind = .so then 4 else if a.rel then a.scope else 0) }
    | none => none
  | .copySectorDeliver core chan =>
    match ((s.core core).chans.getD chan Chan.empty).copies.head? with
    | some x =>
      some { lagBase .cp x.team (x.id, x.pos + min 64 (x.size - x.pos)) s.fresh r with
        uid := x.uid, grid := ((s.teams.get? x.team).map (·.grid)).getD 0 }
    | none => none
  | .packetCopySector part =>
    match (s.part part).pkts.find? fun k => pktType k.words == 3 && k.result == 0 with
    | some k => some (lagBase .cp 0 (k.id, 1) s.fresh r)
    | none => none
  | .collectiveComplete _ _ _ => some (lagBase .co 0 (0, 1) s.fresh r)
  | .snapgetCopy op => (s.ops.get? op).map fun o => lagBase .sn (teamOf o.gid) (op, 1) s.fresh r
  | .snapdepLink op => (s.ops.get? op).map fun o => lagBase .sn (teamOf o.gid) (op, 1) s.fresh r
  | _ => none

/-- An event whose stores lag for some agents (04 R94 to R96): how far they are performed with respect to each path, but no less than
their own rules ask. -/
def State.lag (run : Instr → State → Out) (s : State) (i : Instr) (reach : Reach) : Out :=
  match s.lagOf i reach with
  | none => .fault (.notEnabled "lag")
  | some e =>
    match run i { s with late := { s.late with now := some e } } with
    | .next t => .next { t with late := { t.late with now := none }, fresh := max t.fresh ((t.late.now.map (·.stamp)).getD 0) }
    | x => x

/-- A row of the table that is an event: it has no encoding, and it is no issue of its own. -/
def isEvent (i : Instr) : Bool :=
  match i with
  | .illegalInstruction _ => false
  | _ => (encodeWord i).isNone

/-- The issue that a scheduler partition would make is one of a group's ordinary class, and no comparator stands in its way. -/
def State.wouldIssue (run : Instr → State → Out) (s : State) (gid : Nat) : Option Cur :=
  (s.choose run (spIdOf gid)).filter fun c => c.gid == gid && c.cls == .ordinary

/-- An event placed on the agenda. The rows that are an issue happen when their scheduler partition selects it (16 R308), and a cycle is
charged to a reason when no issue is left in it (20 R361). -/
def State.runEvent (run : Instr → State → Out) (s : State) (i : Instr) : Out :=
  let no : Out := .fault (.notEnabled "issue")
  match i with
  | .traceAdmit gid => match (s.wouldIssue run gid).filter fun c => (s.comparator c).isNone with
    | some c => run i { s with cur := c }
    | none => no
  | .viewSlotGrant gid => match (s.wouldIssue run gid).filter fun c => (s.comparator c).isNone with
    | some c => run i { s with cur := c }
    | none => no
  | .pcMatch gid _ => if (s.wouldIssue run gid).isSome then run i s else no
  | .cycleWithNoEligibleGroup core sp => if (s.choose run (core * 4 + sp)).isSome then no else run i s
  | _ => if isEvent i then run i s else .fault .noIssue

/-- Events whose cycle the rules fix: none of them is put off to a later one (09 R205; 11 R231; 13 R264, R270; 18 R318; 20 R347, R350, R353,
R359). -/
def State.mustNow (s : State) : List Meaning :=
  (s.parts.flatMap fun x =>
    [execLullWaveStop x.1, execJobResume x.1, execDebugSlotStart x.1] ++ x.2.zph.map fun z => execZephyrComplete x.1 z.id) ++
  (s.cores.map fun x => execMmaStart x.1) ++
  (s.clusters.flatMap fun x => x.2.views.map fun v => execViewComplete x.1 v.1) ++
  (s.groups.flatMap fun x => [execHandlerEntry x.1, execSleepExpiry x.1, execYieldExpiry x.1, execTwaitLimitExpiry x.1]) ++ s.sampleEvents

/-- A lower scheduler partition of a core has an issue to make: it goes first (09 R205, 16 R309, 20 R353). -/
def State.lowerFirst (run : Instr → State → Out) (s : State) (core sp : Nat) : Bool :=
  (List.range sp).any fun i => (s.choose run (core * 4 + i)).isSome

/-- What an entry of the agenda does: a scheduler partition without an eligible issue only notes its waits, and a cycle passes only
when no issue is left to make and nothing is left that must happen in it. -/
def State.act (run : Instr → State → Out) (s : State) (a : Agendum) : Out :=
  match a with
  | .event i => s.runEvent run i
  | .issue core sp =>
    match s.choose run (core * 4 + sp) with
    | some c => if s.lowerFirst run core sp then .fault (.notEnabled "issue") else s.makeIssue run c
    | none => .next (s.noteWaits run (core * 4 + sp))
  | .tick =>
    if (firstIssue run s s.usedSps).isSome || (firstEvent s s.mustNow).isSome then .fault (.notEnabled "tick") else .next (s.tick run)
  | .hostMem part off data => s.hostWrite part off data
  | .parity gid r lane => s.parityError gid r lane
  | .decay space owner line one => s.decayLine space owner line one
  | .softRead part => s.readSoft part
  | .softClear part => s.clearSoft part
  | .domainTime time => s.setDomainTime time
  | .resume part time job key => s.resumeArrives part time job key
  | .barRead part off => s.hostBarRead part off
  | .lag i reach => s.lag run i reach
  | .spread stamp path level => .next (s.publish (fun _ e => e.stamp == stamp) [path] level 0)
  | .settle stamp => .next (s.settleStore stamp)
  | .tlbEvict level unit part base => .next (s.evictTlb level unit fun t => t.part == part && t.base == base)

/-- One step: the first entry of the agenda, or what happens by itself. -/
def State.advance (run : Instr → State → Out) (s : State) : Out :=
  match s.agenda with
  | a :: r => { s with agenda := r }.act run a
  | [] => s.onward run

end Sys2Proof.Machine
end

