-- ==== Sys2Proof/Machine/Launch.lean ====
section
/-! DEFINITION. A package on which one group is about to issue one instruction, for `withFetchWord` (log entry 11): partition 0 with
clusters 0 to 3, a context loaded, one 512 MiB page that maps addresses to the same offsets of the HBM share, one grid, one team
and one group in slot 0 of SP0 of core 0. -/

namespace Sys2Proof.Machine

/-- Where the instruction stands. -/
def launchPc : DWord := 0x40000

/-- The bytes of memory placed: the L0 entry of the page tables at offset 0, the L1 leaf at 128 KiB, and the instruction in eight
bytes. -/
def launchMem (m : Store 8) (w : Nat) : Store 8 :=
  Memory.write (Memory.write (Memory.write m ⟨.hbm, 0, 0⟩ (toBytes 8 (2 ^ 21 + 1))) ⟨.hbm, 0, 2 ^ 17⟩ (toBytes 8 0x101F))
    ⟨.hbm, 0, 0x40000⟩ (toBytes 8 w)

/-- The partition that runs it. -/
def launchPart (p : Part) : Part :=
  { (p.setReg 0x100 0).setCtx 2 0 with
    clusters := [0, 1, 2, 3], hbmSize := 2 ^ 20, faulted := false, stoppedAll := false, resetting := false, wave := none }

/-- The translation of that page, which the core's TLB holds. -/
def launchTlb : Tlb := { part := 0, base := 0, size := 2 ^ 29, pte := 0x101F }

/-- A lane about to issue. -/
def launchLane (j : Nat) : Lane := { Lane.none with st := .live, tid := j + 1, orig := BitVec.ofNat 32 j, pc := launchPc }

/-- The group: 32 lanes and every register. -/
def launchGroup (uid team : Nat) : Group :=
  { Group.blank with
    uid, team, width := 32, nv := 128, ns := 64, nt := 16, lanes := (List.range 32).map launchLane
    v := Store.setRange [] 0 ((List.range 32).map (BitVec.ofNat 32)) }

/-- The team and the grid, of one team each. -/
def launchTeam (grid : Nat) : Team :=
  { part := 0, grid, index := 0, core := 0, pair := false, width := 32, nv := 128, ns := 64, nt := 16, scratch := 0,
    prod := some 0, slots := [0], nextGroup := 1, nextIdx := 32, phases := [], arrAt := [], barToks := [], tasks := [], tids := [] }

def launchGrid : Grid :=
  { part := 0, queue := 0, index := 0, packet := [0x0001000100000001, 1, 0, 0, 0, 0, 0, 0], prio := 0, order := 0, ranges := [],
    waits := [], cuts := some [], stopped := none, resident := 1, steals := [] }

/-- The package with the instruction placed, and the issue of its scheduler partition next. -/
def State.launch (s : State) (w : Nat) : State :=
  { (s.setPart 0 (launchPart (s.part 0))) with
    agenda := [.issue 0 0]
    mem := launchMem s.mem w
    grids := s.grids.set (s.fresh + 40) launchGrid
    teams := s.teams.set (s.fresh + 41) (launchTeam (s.fresh + 40))
    groups := s.groups.set 0 (launchGroup (s.fresh + 42) (s.fresh + 41))
    sps := s.sps.set 0 { Sp.reset with busy := 0 }
    cores := s.cores.set 0 { (s.core 0) with bks := [], tlb := launchTlb :: (s.core 0).tlb }
    fresh := s.fresh + 43 }

end Sys2Proof.Machine
end

