-- ==== Sys2Proof/Machine/Step.lean ====
section
/-! DEFINITION. One step of the package, and a package about to run a given instruction. -/

namespace Sys2Proof.Machine

/-- One step: the next entry of the agenda, or the next event, issue or cycle by the model's own order. -/
def step (s : State) : Host.Outcome State Fault Refusal := s.advance exec

/-- The package with an instruction stored where the next step fetches, its bits above nbits zero. -/
def State.withFetchWord (s : State) (nbits w : Nat) : State := s.launch (w % 2 ^ nbits)

end Sys2Proof.Machine
end

