-- ==== Sys2Proof/Safety.lean ====
section
/-! DEFINITION. The terms in which statements speak: when an issue takes place, what it leaves unchanged, and the invariants of a
package that runs safely. -/

namespace Sys2Proof.Machine

/-! When an issue takes place. -/

/-- Operands that let an issue take place (02 R36, R38; 13 R274, R275): every register is allotted and full; a read of s62 finds a
flit; a write of s61 finds fewer than four flits outstanding and a target in the partition; and no register that it reads holds a parity
error (03 R82). -/
structure Operands (s : State) (g : Group) (srcs dests : List Reg) : Prop where
  allotted : ∀ r ∈ srcs ++ dests, g.has r = true
  full : ∀ r ∈ srcs ++ dests, g.isEmpty r = false
  rx : Reg.s 62 ∈ srcs → g.kind ≠ .debug → g.rxq ≠ []
  tx : Reg.s 61 ∈ dests → g.kind ≠ .debug → s.outstanding g.uid < 4 ∧ (s.msgTarget g.part g.msgDst).isSome = true
  sound : g.readsBad s.cur.mask srcs = false

/-- An issue of a group is being made, and its operands let it take place. -/
structure Ready (s : State) (g : Group) (srcs dests : List Reg) : Prop where
  fresh : s.cur.defer = none
  group : s.curGroup? = some g
  operands : Operands s g srcs dests

/-- The group once the issue has claimed its flit: an issue that reads s62 takes the oldest one, and MSGSRC names its sender (13
R275). -/
def Group.claim (g : Group) (srcs : List Reg) : Group :=
  if Reg.s 62 ∈ srcs ∧ g.kind ≠ .debug then
    match g.rxq with
    | x :: r => { g with rxq := r, rx := x.1, msgSrc := x.2 }
    | [] => g
  else g

/-- The registers an SI field reads: 0 to 63 names a scalar, 64 to 127 is an immediate (02 R42). -/
def siRegs (b : BitVec 7) : List Reg := if b.toNat < 64 then [.s b.toNat] else []

/-- The 32-bit value of an SI field: the scalar, or the field less 96, sign-extended (02 R42, 07 R144). -/
def siValue (g : Group) (b : BitVec 7) : Word := if b.toNat < 64 then g.sr b.toNat else b.setWidth 32 - 96

/-- As `siRegs` where a scalar code names a pair (07 R172). -/
def siPair (b : BitVec 7) : List Reg := if b.toNat < 64 then [.s b.toNat, .s (b.toNat + 1)] else []

/-- bv64: a pair, low word first, or the immediate sign-extended to 64 bits (07 R172). -/
def siValue64 (g : Group) (b : BitVec 7) : DWord :=
  if b.toNat < 64 then g.sr (b.toNat + 1) ++ g.sr b.toNat else b.setWidth 64 - 96

/-- A signed number saturated to −2^31 … 2^31 − 1 (07 R147). -/
def saturate (x : Int) : Word := BitVec.ofInt 32 (max (-2 ^ 31) (min (2 ^ 31 - 1) x))

/-- A field of 07 R155: its lowest bit and its highest. -/
def fieldLow (b : Word) : Nat := (b.extractLsb' 0 5).toNat
def fieldHigh (b : Word) : Nat := min (fieldLow b + ((b.extractLsb' 8 5).toNat + 1)) 32 - 1

/-- No lane of a register holds a parity error (03 R82). -/
def Group.sound (g : Group) (r : Reg) : Prop := ∀ x ∈ g.bad, x.1 ≠ r

/-! What an instruction leaves unchanged. -/

/-- Every byte of memory reads as before. -/
def SameMemory (s t : State) : Prop := ∀ cell, Memory.byte t.mem cell = Memory.byte s.mem cell

/-- The registers of a group but for some: vectors, scalars, masks and tiles, and whether each is full; its control registers but for some
(they hold FPEXCEN, FPFLAGS and the trap frame); its convergence registers, its allotment, the message registers and the receive
queue. -/
structure SameRegs (g h : Group) (dests : List Reg) (crs : List Nat) : Prop where
  v : ∀ n j, Reg.v n ∉ dests → j < 64 → h.vr n j = g.vr n j
  s : ∀ n, Reg.s n ∉ dests → h.s.get n = g.s.get n
  k : ∀ n, Reg.k n ∉ dests → h.k.get n = g.k.get n
  t : ∀ n w, Reg.t n ∉ dests → w < 1024 → h.tw n w = g.tw n w
  cr : ∀ n, n ∉ crs → h.cr n = g.cr n
  conv : h.conv = g.conv
  allot : h.kind = g.kind ∧ h.width = g.width ∧ h.nv = g.nv ∧ h.ns = g.ns ∧ h.nt = g.nt
  msgDst : Reg.s 60 ∉ dests → h.msgDst = g.msgDst
  rx : h.rx = g.rx ∧ h.msgSrc = g.msgSrc ∧ h.rxq = g.rxq
  full : ∀ r, r ∉ dests → (r ∈ h.empty ↔ r ∈ g.empty)

/-- Everything outside the groups but the scheduler partitions' own timing: partitions with their BAR, context and exception
registers, cores, clusters, dies, teams, grids, snapshot nodes, the controller, the lines in error, and which stores some agent need not see
yet. -/
structure SameUnits (s t : State) : Prop where
  parts : t.parts = s.parts
  cores : t.cores = s.cores
  clusters : t.clusters = s.clusters
  dies : t.dies = s.dies
  teams : t.teams = s.teams
  grids : t.grids = s.grids
  nodes : t.nodes = s.nodes
  mc : t.mc = s.mc
  now : t.now = s.now
  late : t.late = s.late
  lines : t.poison = s.poison ∧ t.weak = s.weak

/-- No access begins or ends, and no operation or flit but the one that takes the next number. -/
structure SameWork (s t : State) : Prop where
  accs : t.accs = s.accs
  ops : ∀ i, i ≠ s.fresh → t.ops.get? i = s.ops.get? i
  flits : ∀ i, i ≠ s.fresh → t.flits.get? i = s.flits.get? i

/-- The frame of an issue: memory, units, work, other groups; and `h`, the group after, against `g`, the group that the issue read:
every register but its destinations. -/
structure Frame (s t : State) (g h : Group) (dests : List Reg) (crs : List Nat := []) : Prop where
  memory : SameMemory s t
  units : SameUnits s t
  work : SameWork s t
  others : ∀ i, i ≠ s.cur.gid → t.group? i = s.group? i
  group : t.group? s.cur.gid = some h
  regs : SameRegs g h dests crs

/-- An issue answers a next state whose group keeps the frame of its destinations and holds what a property says. -/
def Completes (i : Instr) (s : State) (g : Group) (dests : List Reg) (P : State → Group → Prop) (crs : List Nat := []) :
    Prop :=
  ∃ t h, exec i s = .next t ∧ Frame s t g h dests crs ∧ P t h

/-! Results. -/

/-- A vector result in the lanes of the active set; every other lane keeps its value (01 R16, 07 R144). -/
def VecResult (i : Instr) (s : State) (g : Group) (d : Nat) (f : Nat → Word) : Prop :=
  Completes i s g [.v d] fun _ h => ∀ j, j < 64 → h.vr d j = if maskBit s.cur.mask j then f j else g.vr d j

/-- A vector result that a property fixes in each lane of the active set. -/
def VecSatisfies (i : Instr) (s : State) (g : Group) (d : Nat) (P : Nat → Word → Prop) : Prop :=
  Completes i s g [.v d] fun _ h =>
    ∀ j, j < 64 → if maskBit s.cur.mask j then P j (h.vr d j) else h.vr d j = g.vr d j

/-- What a scalar field leaves (02 R37; 13 R273, R274; 20 R343): a scalar below s60 holds the value; s60 sets MSGDST, bit 31 loading the
group's own address; s61 injects one flit with the value to the target MSGDST held; a debug group's message registers ignore it. -/
def ScalarHolds (s t : State) (g h : Group) (d : Nat) (x : Word) : Prop :=
  (d < 60 → h.s.get d = x) ∧
  (d = 60 → h.msgDst = if g.kind = .debug then g.msgDst
    else if x.getLsbD 31 then s.addrOf g.part s.cur.gid else x &&& 0x00FF033F) ∧
  (d = 61 → g.kind ≠ .debug → ∃ f, t.flits.get? s.fresh = some f ∧ f.payload = x ∧ f.srcAddr = s.addrOf g.part s.cur.gid ∧
    some f.dst = s.msgTarget g.part g.msgDst)

/-- A scalar result (07 R144). -/
def SclResult (i : Instr) (s : State) (g : Group) (d : Nat) (x : Word) : Prop :=
  Completes i s g [.s d] fun t h => ScalarHolds s t g h d x

/-- A result in a pair of scalars, low word first (02 R37). -/
def Scl2Result (i : Instr) (s : State) (g : Group) (d : Nat) (x : DWord) : Prop :=
  Completes i s g [.s d, .s (d + 1)] fun t h =>
    ScalarHolds s t g h d (lo32 x) ∧ ScalarHolds s t g h (d + 1) (hi32 x)

/-- A mask result: bits from the group's width on are 0; k0 is the live mask and stays it (02 R37, 07 R173). -/
def MaskResult (i : Instr) (s : State) (g : Group) (d : Nat) (x : Mask) : Prop :=
  Completes i s g [.k d] fun _ h =>
    d ≠ 0 → ∀ j, j < 64 → (h.k.get d).getLsbD j = (decide (j < g.width) && x.getLsbD j)

/-- A compare is issued: its mask is empty, and an operation will write one word to it from a cycle on (02 R38, 07 R153): the condition in
the lanes of the active set, the old bits in other lanes, 0 from the width on. -/
def CompareIssued (i : Instr) (s : State) (g : Group) (d : Nat) (c : Nat → Bool) : Prop :=
  Completes i s g [.k d] fun t h => h.k.get d = g.k.get d ∧ Reg.k d ∈ h.empty ∧ ∃ o w, t.ops.get? s.fresh = some o ∧
    o.dests = [.k d] ∧ o.gid = s.cur.gid ∧ o.uid = g.uid ∧
    o.due = s.timeOf g.part s.cur.gid + (if g.width = 64 then 5 else 4) ∧
    (o.kind = .writes [⟨.k d, 0, w⟩] ∨ ∃ ex c moved, o.kind = .flagged [⟨.k d, 0, w⟩] ex c moved) ∧
    ∀ j, j < 64 → w.getLsbD j = (decide (j < g.width) && if maskBit s.cur.mask j then c j else maskBit (g.k.get d) j)

/-- A producer of a group completes (01 R18, 02 R38): its registers are full, its operation is gone, and nothing else of the state changes
but what it writes. -/
structure Filled (s t : State) (id : Nat) (o : Op) (g h : Group) (crs : List Nat) : Prop where
  memory : SameMemory s t
  units : SameUnits s t
  accs : t.accs = s.accs
  others : ∀ i, i ≠ o.gid → t.group? i = s.group? i
  group : t.group? o.gid = some h
  regs : SameRegs g h o.dests crs
  full : ∀ r, r ∈ o.dests → r ∉ h.empty
  gone : t.ops.get? id = none
  ops : ∀ i, i ≠ id → t.ops.get? i = s.ops.get? i

/-- An event completes a producer whose group is still there. -/
def Fills (i : Instr) (s : State) (id : Nat) (o : Op) (g : Group) (P : Group → Prop) (crs : List Nat := []) : Prop :=
  ∃ t h, exec i s = .next t ∧ Filled s t id o g h crs ∧ P h

/-- An operation of a group, which may complete. -/
structure Due (s : State) (id : Nat) (o : Op) (g : Group) : Prop where
  op : s.ops.get? id = some o
  group : s.group? o.gid = some g
  same : g.uid = o.uid
  good : o.bad = none
  ready : s.opReady id o = true

/-- The exceptions a list gives a lane. -/
def exceptionsOf (ex : List (Nat × Word)) (j : Nat) : Word := ((ex.find? fun x => x.1 == j).map (·.2)).getD 0

/-- Exceptions of the lanes of a mask are ORed into cr.FPFLAGS (05 R110). -/
def FlagsGather (g h : Group) (m : Mask) (ex : Nat → Word) : Prop :=
  ∀ n, (h.cr 0x11).getLsbD n = ((g.cr 0x11).getLsbD n || (lanesOf m).any fun j => (ex j).getLsbD n)

/-- No lane of the active set raises an exception that cr.FPEXCEN enables; handler code never traps on one (05 R110, 18 R319). -/
def NoTrap (s : State) (g : Group) (ex : Nat → Word) : Prop :=
  s.cur.cls = .ordinary → ∀ j, j < 64 → maskBit s.cur.mask j = true → ∀ n, n < 5 →
    ((g.cr 0x10).getLsbD n && (ex j).getLsbD n) = false

/-- A float result in registers `ds`: word k of a lane's list goes to register k of `ds`; the exceptions gather in cr.FPFLAGS. -/
def FloatResults (i : Instr) (s : State) (g : Group) (ds : List Nat) (f : Nat → List Word × Word) : Prop :=
  NoTrap s g (fun j => (f j).2) → Completes i s g (ds.map .v) (fun _ h =>
    (∀ (k d : Nat), ds[k]? = some d → ∀ j, j < 64 →
      h.vr d j = if maskBit s.cur.mask j then (((f j).1)[k]?).getD 0 else g.vr d j) ∧
    FlagsGather g h s.cur.mask fun j => (f j).2) [0x11]

/-- A rounded result in one register: its bits and its exceptions in each lane. -/
def FloatResult (i : Instr) (s : State) (g : Group) (d : Nat) (f : Nat → Fr) : Prop :=
  FloatResults i s g [d] fun j => ([BitVec.ofNat 32 (f j).bits], (f j).ex)

/-- Two packed elements of 16 bits, with the exceptions of both. -/
def packedPair (f : Nat → Fr) : List Word × Word :=
  ([BitVec.ofNat 32 ((f 1).bits * 65536 + (f 0).bits)], (f 0).ex ||| (f 1).ex)

/-- A binary64 result in an even register and the next, low word first (07 R168). -/
def DoubleResult (i : Instr) (s : State) (g : Group) (d : Nat) (f : Nat → Fr) : Prop :=
  FloatResults i s g [d, d + 1] fun j => ([BitVec.ofNat 32 (f j).bits, BitVec.ofNat 32 ((f j).bits / 2 ^ 32)], (f j).ex)

/-- A special function or a compare of floats is issued: its destination is empty, and an operation holds what each lane of the active
set will receive and raise, from a cycle on; while cr.FPEXCEN enables a trap the lanes do not go on before (05 R110; 07 R153, R163). -/
def FloatIssued (i : Instr) (s : State) (g : Group) (d : Reg) (cls : PClass) (lat : Nat) (ws : List RegWrite) (ex : Nat → Word) : Prop :=
  Completes i s g [d] fun t h => d ∈ h.empty ∧ (∀ n j, j < 64 → h.vr n j = g.vr n j) ∧ (∀ n, h.k.get n = g.k.get n) ∧
    ∃ o, t.ops.get? s.fresh = some o ∧ o.cls = cls ∧ o.dests = [d] ∧ o.gid = s.cur.gid ∧ o.uid = g.uid ∧ o.mask = s.cur.mask ∧
      o.due = s.timeOf g.part s.cur.gid + lat ∧
      ∃ exs, o.kind = .flagged ws exs (s.atCost (costLane g)).cur (s.fpEnabled g == 0) ∧ ∀ j ∈ lanesOf s.cur.mask, exceptionsOf exs j = ex j

/-! Where an issue goes on. -/

/-- An issue that is no repeat sends its lanes to addresses: the lanes of the active set in ordinary code or the debug slot, every other
lane staying where it stands; the handler's own thread in a handler (01 R17; 18 R319). -/
def GoesTo (s : State) (g h : Group) (f : Nat → DWord) : Prop :=
  s.cur.rep = false →
    (s.cur.cls ≠ .handler → ∀ j, j < g.lanes.length →
      (h.lane j).pc = if maskBit s.cur.mask j then f j else (g.lane j).pc) ∧
    (s.cur.cls = .handler → ∀ k, g.handling = some k → ∃ k', h.handling = some k' ∧ k'.pc = f k.lane)

/-- A branch: lanes whose condition holds go to the target, the others to the next instruction. -/
def Branches (i : Instr) (s : State) (g : Group) (target : DWord) (c : Nat → Bool) : Prop :=
  Completes i s g [] fun _ h => GoesTo s g h fun j => if c j then target else s.cur.pc + 4

/-- The group that an effect acts on: it has claimed its flit, and its reads have acquired (13 R275, R276; 23 R385). -/
def Group.taken (g : Group) (q : Need') (m : Mask) : Group :=
  (g.claim (q.srcs.map (·.reg))).reads m q.reads (q.dests ++ q.late) q.own

/-- The issue raises a cause for its whole active set, with what it names as its destination, and holds its scheduler partition for its
clocks: before its effect for the group as it stands, or after its reads. -/
def Raises (i : Instr) (s : State) (g : Group) (cause : Nat) : Prop :=
  ∃ d n h, (h = g ∨ ∃ q, h = g.taken q s.cur.mask) ∧
    exec i s = .next ((s.atCost n).raise h s.cur.mask cause 0 d 0)

/-! Events. -/

/-- The components of a state, by which a statement says what an event may change. -/
inductive Comp where
  | mem | late | poison | groups | teams | grids | sps | cores | clusters | dies | parts | ops | accs | flits | nodes | mc | time
  deriving DecidableEq, Repr

/-- A component is as before, entry by entry. -/
def Same (s t : State) : Comp → Prop
  | .mem => SameMemory s t
  | .late => t.late = s.late
  | .poison => t.poison = s.poison ∧ t.weak = s.weak
  | .groups => ∀ i, t.group? i = s.group? i
  | .teams => ∀ i, t.teams.get? i = s.teams.get? i
  | .grids => ∀ i, t.grids.get? i = s.grids.get? i
  | .sps => ∀ i, t.sp i = s.sp i
  | .cores => ∀ i, t.core i = s.core i
  | .clusters => ∀ i, t.cluster i = s.cluster i
  | .dies => ∀ i, t.die i = s.die i
  | .parts => ∀ i, t.part i = s.part i
  | .ops => ∀ i, t.ops.get? i = s.ops.get? i
  | .accs => ∀ i, t.accs.get? i = s.accs.get? i
  | .flits => ∀ i, t.flits.get? i = s.flits.get? i
  | .nodes => ∀ i, t.nodes.get? i = s.nodes.get? i
  | .mc => t.mc = s.mc
  | .time => t.now = s.now ∧ t.dtimeOff = s.dtimeOff

/-- Every component is as before but those named. -/
def Keeps (s t : State) (may : List Comp) : Prop := ∀ c, c ∉ may → Same s t c

/-- One entry of a table changes, the others stay. -/
def OnlyGroup (s t : State) (i : Nat) : Prop := ∀ k, k ≠ i → t.group? k = s.group? k
def OnlyPart (s t : State) (i : Nat) : Prop := ∀ k, k ≠ i → t.part k = s.part k
def OnlyCore (s t : State) (i : Nat) : Prop := ∀ k, k ≠ i → t.core k = s.core k
def OnlySp (s t : State) (i : Nat) : Prop := ∀ k, k ≠ i → t.sp k = s.sp k
def OnlyCluster (s t : State) (i : Nat) : Prop := ∀ k, k ≠ i → t.cluster k = s.cluster k
def OnlyDie (s t : State) (i : Nat) : Prop := ∀ k, k ≠ i → t.die k = s.die k
def OnlyTeam (s t : State) (i : Nat) : Prop := ∀ k, k ≠ i → t.teams.get? k = s.teams.get? k
def OnlyOp (s t : State) (i : Nat) : Prop := ∀ k, k ≠ i → t.ops.get? k = s.ops.get? k

/-- An event answers a next state that changes only the components named and holds what a property says. -/
def Does (i : Instr) (s : State) (may : List Comp) (P : State → Prop) : Prop :=
  ∃ t, exec i s = .next t ∧ Keeps s t may ∧ P t

/-- An event is not enabled. -/
def Idle (i : Instr) (s : State) (name : String) : Prop := exec i s = .fault (.notEnabled name)

/-- Lanes of a group have been parked by a trap as one sub-warp, behind those that wait (18 R317): they keep their registers, and every
lane its address. -/
structure Trapped (s t : State) (gid : Nat) (g h : Group) (x : Parked) : Prop where
  keeps : Keeps s t [.groups, .sps]
  others : OnlyGroup s t gid
  group : t.group? gid = some h
  regs : SameRegs g h [] []
  parked : h.parked = g.parked ++ [x]
  lanes : ∀ j, j < g.lanes.length →
    (h.lane j).pc = (g.lane j).pc ∧ (h.lane j).parked = (maskBit x.mask j || (g.lane j).parked)
  handling : h.handling = g.handling
  enterAt : g.parked = [] → g.handling = none → h.enterAt = (s.part g.part).clock + 1

/-- The sub-warp that an issue parks (18 R317, R321). -/
def State.subWarp (s : State) (g : Group) (mask : Mask) (cause : Nat) (code : Word) (d : Option Reg) (va : DWord) : Parked :=
  { mask, pc := s.cur.pc, cause, code, info := trapInfo s.cur.len d, va, rep := if s.cur.rep then g.rep.map (·.idx) else none }

/-- A trap has a handler to go to, and starts no lull wave (18 R318, 20 R347). -/
def State.handles (s : State) (part : Nat) : Prop := (s.part part).trapVec ≠ 0 ∧ (s.part part).lullTrap = false

/-- A context is faulted (18 R327): every scheduler partition is frozen, and a KIND 2 record tells the cause, the address and the PC. -/
structure Faulted (s t : State) (part cause : Nat) (va pc : DWord) : Prop where
  faulted : (t.part part).faulted = true
  stopped : (t.part part).stoppedAll = true
  frozen : ∀ i, i ∈ (s.part part).spList → (t.sp i).frozen = true
  groups : ∀ i, (t.group? i).isSome = (s.group? i).isSome
  record : ∃ r, (t.part part).frecs.getLast? = some r ∧ r.kind = 2 ∧ r.cause = cause ∧ r.va = va ∧ r.pc = pc ∧ r.time = s.now

/-- The issue waits at its PC without an effect (01 R18). -/
def Waits (i : Instr) (s : State) (g : Group) : Prop :=
  ∃ t h, exec i s = .next t ∧ t.waited = true ∧ Keeps s t [.groups] ∧ OnlyGroup s t s.cur.gid ∧ t.group? s.cur.gid = some h ∧
    h.lanes = g.lanes ∧ SameRegs g h [] []

/-- An issue whose lanes wait at their instruction (13 R264, R266, R269): its registers keep their values, no lane moves, and the lanes of
the active set hold. -/
def Holds (i : Instr) (s : State) (g : Group) (hold : Hold) (P : State → Group → Prop) : Prop :=
  Completes i s g [] fun t h => P t h ∧ ∀ j, j < g.lanes.length →
    (h.lane j).pc = (g.lane j).pc ∧ (h.lane j).hold = if maskBit s.cur.mask j then some hold else (g.lane j).hold

/-- How the accesses of an issue are made: path, stream, ordering qualifiers, and the lanes whose threads each belongs to (04 R84, R91, R92;
08 R189). -/
structure Way where
  path : Path
  stream : Nat
  acq : Bool
  rel : Bool
  lanes : Nat → List Nat

/-- A part of an access stands for a piece of a lane's address range: its place, its bytes, what it does, how, and at which scope (04 R85,
R91, R92); an MX access belongs to its group alone. -/
def PartOf (s : State) (g : Group) (a : Acc) (op j : Nat) (p : Piece) (w : Way) (act : Act) : Prop :=
  a.op = op ∧ a.uid = g.uid ∧ a.gid = s.cur.gid ∧ a.part = g.part ∧ a.lane = j ∧ a.loc = p.loc ∧ a.len = p.len ∧ a.boff = p.boff ∧
    a.okind = p.okind ∧ a.path = w.path ∧ a.stream = w.stream ∧ a.scope = ((g.cr w.stream).extractLsb' 2 2).toNat + 1 ∧
    a.team = g.team ∧ a.act = act ∧ a.page = p.page ∧ a.walk = p.walk ∧ a.sent = none ∧ a.acq = w.acq ∧ a.rel = w.rel ∧
    a.who = if w.path = .ls then (w.lanes j).map fun k => ((g.lane k).tid, (g.lane k).passes) else []

/-- An issue leaves exactly the parts of its lanes to be performed; nothing is stored yet. -/
structure Accesses (s t : State) (g h : Group) (dests : List Reg) (lanes : List Nat) (ps : Nat → List Piece) (w : Way)
    (act : Nat → Piece → Act) : Prop where
  keeps : Keeps s t [.groups, .sps, .cores, .clusters, .dies, .ops, .accs]
  others : OnlyGroup s t s.cur.gid
  group : t.group? s.cur.gid = some h
  regs : SameRegs g h dests []
  goes : GoesTo s g h fun _ => s.cur.pc + BitVec.ofNat 64 s.cur.len
  /-- TLBs, the L1 data cache and page walks, which show in latency only (03 R66, R77). -/
  core : OnlyCore s t (coreOf s.cur.gid) ∧ ∃ a b, t.core (coreOf s.cur.gid) = { s.core (coreOf s.cur.gid) with tlb := a, l1 := b }
  cluster : OnlyCluster s t (clusterOf s.cur.gid) ∧
    ∃ a, t.cluster (clusterOf s.cur.gid) = { s.cluster (clusterOf s.cur.gid) with tlb := a }
  die : OnlyDie s t (dieOf s.cur.gid)
  ops : ∀ i, i ≠ s.fresh → t.ops.get? i = s.ops.get? i
  kept : ∀ i, i < s.fresh → t.accs.get? i = s.accs.get? i
  made : ∀ j ∈ lanes, ∀ p ∈ ps j, ∃ i a, s.fresh < i ∧ t.accs.get? i = some a ∧ PartOf s g a s.fresh j p w (act j p)
  only : ∀ i a, t.accs.get? i = some a → s.accs.get? i = some a ∨
    ∃ j ∈ lanes, ∃ p ∈ ps j, PartOf s g a s.fresh j p w (act j p)

/-- A load is issued: its destinations are empty and keep their values until the fill, which an operation holds (04 R85). -/
def LoadIssued (i : Instr) (s : State) (g : Group) (dests : List Reg) (lanes : List Nat) (ps : Nat → List Piece) (w : Way)
    (act : Nat → Piece → Act) (kind : OpKind) : Prop :=
  ∃ t h, exec i s = .next t ∧ Accesses s t g h dests lanes ps w act ∧ (∀ r ∈ dests, r ∈ h.empty) ∧
    (∀ n j, j < 64 → h.vr n j = g.vr n j) ∧ (∀ n, h.s.get n = g.s.get n) ∧ (∀ n w, w < 1024 → h.tw n w = g.tw n w) ∧
    ∃ o, t.ops.get? s.fresh = some o ∧ o.cls = .memory ∧ o.dests = dests ∧ o.gid = s.cur.gid ∧ o.uid = g.uid ∧ o.part = g.part ∧
      o.mask = s.cur.mask ∧ o.bad = none ∧ o.kind = kind

/-- A store is issued. -/
def StoreIssued (i : Instr) (s : State) (g : Group) (lanes : List Nat) (ps : Nat → List Piece) (w : Way)
    (act : Nat → Piece → Act) : Prop :=
  ∃ t h, exec i s = .next t ∧ Accesses s t g h [] lanes ps w act ∧ t.ops.get? s.fresh = s.ops.get? s.fresh

/-- A store is performed with respect to a path at a scope, as an agent of a team sees it: team scope is that team's own (04 R93). -/
def Late.performed (e : Late) (p : Path) (n team : Nat) : Prop := n ≤ e.level p ∨ (n = 1 ∧ (p, team) ∈ e.teams)

/-- The stores that lag stay, and those that a test names are then performed with respect to a path at a scope around an agent of a team
(04 R99 to R104). -/
def Publishes (s t : State) (f : Late → Prop) (p : Path) (n team : Nat) : Prop :=
  ∀ c, (t.lags c).length = (s.lags c).length ∧ ∀ (k : Nat) (e : Late), (s.lags c)[k]? = some e → ∃ e', (t.lags c)[k]? = some e' ∧
    e'.old = e.old ∧ e'.stamp = e.stamp ∧ e'.path = e.path ∧ e'.who = e.who ∧ e'.seen = e.seen ∧ (f e → e'.performed p n team)

/-- An access of some threads, numbered below a bound, made the store or returned it (04 R99, R101). -/
def Late.madeBy (e : Late) (tids : List Nat) (bound : Nat) : Prop := ∃ x ∈ e.seen, x.tid ∈ tids ∧ x.stream ≤ 16 ∧ x.acc < bound

/-- A store is among what some tokens release: an access of their threads made or returned it (23 R385); no store on a UO page, which no
release orders (04 R98), is asked for. -/
def Late.releasedBy (e : Late) (ts : List Tok) : Prop := (∀ x ∈ e.seen, x.uo = false) ∧ ∃ k ∈ ts, e.madeBy k.tids k.bound

/-- The address of a lane's access: a pair of registers in flat space, else an offset (04 R85, R86). -/
def laneAddress (g : Group) (sp : BitVec 2) (a j : Nat) : DWord :=
  if sp = 0 then g.vr (a + 1) j ++ g.vr a j else (g.vr a j).setWidth 64
def scalarAddress (g : Group) (sp : BitVec 2) (a : Nat) : DWord :=
  if sp = 0 then g.sr (a + 1) ++ g.sr a else (g.sr a).setWidth 64

/-- The registers of an address. -/
def addressRegs (reg : Nat → Reg) (sp : BitVec 2) (a : Nat) : List Reg := if sp = 0 then [reg a, reg (a + 1)] else [reg a]

/-- Registers from a number on. -/
def regsFrom (reg : Nat → Reg) (d n : Nat) : List Reg := (List.range n).map fun k => reg (d + k)

/-- A run of a list's bytes. -/
def pieceData (bs : List Byte) (p : Piece) : List Byte := (bs.drop p.boff).take p.len

/-- A control word of ZBAR (0), ZBCAST (1) or ZRED (2) is legal (13 R268). -/
def zephyrLegal (fn : Nat) (x : Word) : Prop :=
  x.extractLsb' 10 6 = 0 ∧ x.getLsbD 6 = false ∧ (fn = 2 → x.extractLsb' 8 2 ≠ 3) ∧ (fn ≠ 2 → x.extractLsb' 8 2 = 0) ∧
    (fn ≠ 1 → x.getLsbD 7 = false)

/-! Rays and views that an issue submits (10 R215, R216; 11 R227, R228). -/

/-- The record of a ray that is not traversed (10 R215). -/
def noHit (status : Word) : List Word := [status, 0x7F800000, 0xFFFFFFFF, 0xFFFFFFFF, 0, 0, 0, 0]

/-- A TRACE or TRACES has been made, `g` being the group as it issued it: each good lane of the active set has a ray with an entry for
treelet 0, every other lane its record; the records' registers are empty. -/
structure TraceMade (s t : State) (g : Group) (spawn : Bool) (b a : BitVec 6) (d : BitVec 7) : Prop where
  op : ∃ o left, t.ops.get? s.fresh = some o ∧ o.kind = .trace d.toNat spawn left [] false [] ∧ o.dests = regsFrom .v d.toNat 8 ∧
    o.gid = s.cur.gid ∧ o.uid = g.uid ∧ o.mask = s.cur.mask ∧
    (∀ j, j ∈ left ↔ j ∈ lanesOf s.cur.mask ∧ (s.cutOf g (g.sr a.toNat).toNat).isSome = true ∧
      badRay ((List.range 8).map fun k => g.vr (d.toNat + k) j) = false) ∧
    ∃ new, (t.cluster (clusterOf s.cur.gid)).tq = (s.cluster (clusterOf s.cur.gid)).tq ++ new ∧ new.length = left.length ∧
      ∀ e ∈ new, e.treelet = 0 ∧ e.stack = [⟨0, 1, none⟩] ∧ e.stopped = none
  ops : OnlyOp s t s.fresh
  clusters : OnlyCluster s t (clusterOf s.cur.gid)
  group : ∃ h, t.group? s.cur.gid = some h ∧ SameRegs g h (regsFrom .v d.toNat 8) [] ∧ (∀ r ∈ regsFrom .v d.toNat 8, r ∈ h.empty) ∧
    (GoesTo s g h fun _ => s.cur.pc + BitVec.ofNat 64 s.cur.len) ∧
    ∀ j, j < 64 →
      let bad := badRay ((List.range 8).map fun k => g.vr (d.toNat + k) j)
      let held := maskBit s.cur.mask j = false ∨ ((s.cutOf g (g.sr a.toNat).toNat).isSome = true ∧ bad = false)
      (held → ∀ k, h.vr k j = g.vr k j) ∧
      (¬ held → ∀ k, k < 8 → some (h.vr (d.toNat + k) j) =
        (noHit (if (s.cutOf g (g.sr a.toNat).toNat).isNone then 3 else 4))[k]?)
  ray : ∀ (j : Nat) (c : Cut), lanesOf s.cur.mask = [j] → s.cutOf g (g.sr a.toNat).toNat = some c →
    badRay ((List.range 8).map fun k => g.vr (d.toNat + k) j) = false →
    ∃ n r, (t.cluster (clusterOf s.cur.gid)).rays.get? n = some r ∧ r.op = s.fresh ∧ r.lane = j ∧ r.ofView = false ∧
      r.level = g.level ∧ r.part = g.part ∧ r.team = g.team ∧ r.cut = c ∧
      r.o = [g.vr d.toNat j, g.vr (d.toNat + 1) j, g.vr (d.toNat + 2) j] ∧
      r.d = [g.vr (d.toNat + 3) j, g.vr (d.toNat + 4) j, g.vr (d.toNat + 5) j] ∧ r.tmin = g.vr (d.toNat + 6) j ∧
      r.tbest = g.vr (d.toNat + 7) j ∧ r.best = none ∧ r.pending = 1 ∧ r.status = 0 ∧ r.made = 0 ∧
      r.budget = if g.sr b.toNat = 0 then ((s.part g.part).cr 0x20).toNat else (g.sr b.toNat).toNat

/-- A VIEW has taken a slot of its pool for its camera, with no ray cast yet; its tile and its status are empty. -/
structure ViewMade (s t : State) (g : Group) (b a : BitVec 6) (r : BitVec 3) (d : BitVec 4) : Prop where
  ops : OnlyOp s t s.fresh
  clusters : OnlyCluster s t (clusterOf s.cur.gid)
  group : ∃ h, t.group? s.cur.gid = some h ∧ SameRegs g h [.t d.toNat, .s b.toNat] [] ∧ Reg.t d.toNat ∈ h.empty ∧
    Reg.s b.toNat ∈ h.empty ∧ GoesTo s g h fun _ => s.cur.pc + BitVec.ofNat 64 s.cur.len
  slot : ∃ slot x o, t.ops.get? s.fresh = some o ∧ o.kind = .view slot (clusterOf s.cur.gid) ∧ o.gid = s.cur.gid ∧ o.uid = g.uid ∧
    o.dests = [.t d.toNat, .s b.toNat] ∧ (t.cluster (clusterOf s.cur.gid)).views.get? slot = some x ∧ x.op = s.fresh ∧
    x.gid = s.cur.gid ∧ x.level = g.level + 1 ∧ x.part = g.part ∧ x.team = g.team ∧
    some x.cut = s.cutOf g (g.sr b.toNat).toNat ∧ x.camera = (List.range 10).map (fun k => g.sr (a.toNat + k)) ∧ x.res = r.toNat ∧
    x.tile = d.toNat ∧ x.stat = b.toNat ∧ x.nextPix = 0 ∧ x.pix = [] ∧ x.budget = ((s.part g.part).cr 0x20).toNat

/-- The groups that an issue does not belong to keep their registers, their lanes and their state of execution; they may count a clock of
waiting (16 R308) and no longer wait for the issuing group (13 R264). -/
def OthersKeep (s t : State) (gid : Nat) : Prop :=
  ∀ k g, k ≠ gid → s.group? k = some g → ∃ h, t.group? k = some h ∧ SameRegs g h [] [] ∧ h.lanes = g.lanes ∧ h.parked = g.parked ∧
    h.rep = g.rep ∧ (h.waitc = g.waitc ∨ h.waitc = g.waitc + 1)

/-! A collective that ends, and the checks before an effect. -/

/-- An instance of a collective has ended with a status: each contributing group that is still there holds it, its other registers are
as before, and its waiting lanes go on (13 R280). -/
def Delivered (s t : State) (x : Coll) (status : Word) : Prop :=
  ∀ c ∈ x.contribs, ∀ g, s.group? c.gid = some g → g.uid = c.uid → ∃ h, t.group? c.gid = some h ∧ SameRegs g h [.s c.d] [] ∧
    h.s.get c.d = status ∧ (g.rep = none → ∀ j, j < g.lanes.length → j < 64 →
      if maskBit c.mask j = true ∧ (g.lane j).hold = some (.collective x.id)
      then (h.lane j).pc = (g.lane j).pc + 4 ∧ (h.lane j).hold = none ∧ (h.lane j).age = 0
      else (h.lane j).pc = (g.lane j).pc ∧ (h.lane j).hold = (g.lane j).hold)

/-- What the operands of an instruction decide before any effect, on a group that issues it (02 R36, R38, R59; 01 R18): a register that the
group was not allotted, an empty source with E = 1, another empty register. -/
def Checks (i : Instr) (s : State) (g : Group) (srcs : List (Reg × Bool)) (dests : List Reg) : Prop :=
  ((∃ r ∈ srcs.map Prod.fst ++ dests, g.has r = false) → Raises i s g 3) ∧
  ((∀ r ∈ srcs.map Prod.fst ++ dests, g.has r = true) →
    ((∃ x ∈ srcs, x.2 = true ∧ g.srcEmpty x.1 = true) → Raises i s g 4) ∧
    ((∀ x ∈ srcs, x.2 = true → g.srcEmpty x.1 = false) →
      (∃ r ∈ srcs.map Prod.fst ++ dests, r ≠ Reg.s 62 ∧ g.isEmpty r = true) → Waits i s g))

/-! Invariants. -/

/-- Memory is in its canonical form. -/
def State.memoryOk (s : State) : Bool := Memory.wf s.mem

/-- No context of the package is faulted. -/
def State.unfaulted (s : State) : Bool := s.parts.all fun p => !p.2.faulted

end Sys2Proof.Machine
end

