-- ==== Sys2Proof/Certificates/Slice0/Obligations.lean ====
section
/-! DEFINITION. The statements for the provers. Each part of a statement says in its docstring which rules of spec/ it formalises. -/

namespace Sys2Proof.Parts

open Sys2Proof.Machine

/-- 07 R147 to R151: the instructions of two vectors complete with the value of their table in each lane of the active set. -/
def VectorInteger : Prop :=
  ∀ (s : State) (g : Group) (e f : Bool) (a b d : BitVec 7), Ready s g [.v a.toNat, .v b.toNat] [.v d.toNat] →
    let x := fun j => g.vr a.toNat j
    let y := fun j => g.vr b.toNat j
    VecResult (.iadd e b f a d) s g d.toNat (fun j => x j + y j) ∧
    VecResult (.isub e b f a d) s g d.toNat (fun j => x j - y j) ∧
    VecResult (.iadds e b f a d) s g d.toNat (fun j => saturate ((x j).toInt + (y j).toInt)) ∧
    VecResult (.isubs e b f a d) s g d.toNat (fun j => saturate ((x j).toInt - (y j).toInt)) ∧
    VecResult (.imul e b f a d) s g d.toNat (fun j => x j * y j) ∧
    VecResult (.imulhi e b f a d) s g d.toNat (fun j => hi32 ((x j).signExtend 64 * (y j).signExtend 64)) ∧
    VecResult (.imulhin e b f a d) s g d.toNat (fun j => hi32 ((x j).setWidth 64 * (y j).setWidth 64)) ∧
    (Ready s g [.v a.toNat, .v b.toNat, .v d.toNat] [.v d.toNat] →
      VecResult (.imad e b f a d) s g d.toNat (fun j => x j * y j + g.vr d.toNat j)) ∧
    VecResult (.and e b f a d) s g d.toNat (fun j => x j &&& y j) ∧
    VecResult (.or e b f a d) s g d.toNat (fun j => x j ||| y j) ∧
    VecResult (.xor e b f a d) s g d.toNat (fun j => x j ^^^ y j) ∧
    VecResult (.andn e b f a d) s g d.toNat (fun j => x j &&& ~~~y j) ∧
    VecResult (.min e b f a d) s g d.toNat (fun j => if (x j).toInt ≤ (y j).toInt then x j else y j) ∧
    VecResult (.max e b f a d) s g d.toNat (fun j => if (x j).toInt ≤ (y j).toInt then y j else x j) ∧
    VecResult (.minn e b f a d) s g d.toNat (fun j => if x j ≤ y j then x j else y j) ∧
    VecResult (.maxn e b f a d) s g d.toNat (fun j => if x j ≤ y j then y j else x j)

/-- 02 R43: in the H forms d is the first source as well. -/
def TwoAddressInteger : Prop :=
  ∀ (s : State) (g : Group) (f : Bool) (a d : BitVec 5), Ready s g [.v a.toNat] [.v d.toNat] →
    let x := fun j => g.vr d.toNat j
    let y := fun j => g.vr a.toNat j
    VecResult (.movH a d f) s g d.toNat y ∧
    VecResult (.notH a d f) s g d.toNat (fun j => ~~~y j) ∧
    (Ready s g [.v a.toNat, .v d.toNat] [.v d.toNat] →
    VecResult (.iaddH a d f) s g d.toNat (fun j => x j + y j) ∧
    VecResult (.isubH a d f) s g d.toNat (fun j => x j - y j) ∧
    VecResult (.imulH a d f) s g d.toNat (fun j => x j * y j) ∧
    VecResult (.andH a d f) s g d.toNat (fun j => x j &&& y j) ∧
    VecResult (.orH a d f) s g d.toNat (fun j => x j ||| y j) ∧
    VecResult (.xorH a d f) s g d.toNat (fun j => x j ^^^ y j) ∧
    VecResult (.shlH a d f) s g d.toNat (fun j => x j <<< ((y j).toNat % 32)) ∧
    VecResult (.shrH a d f) s g d.toNat (fun j => x j >>> ((y j).toNat % 32)) ∧
    VecResult (.sarH a d f) s g d.toNat (fun j => (x j).sshiftRight ((y j).toNat % 32)))

/-- 07 R147, R149, R150 with an SI operand, one value for every lane. -/
def VectorImmediate : Prop :=
  ∀ (s : State) (g0 : Group) (e f : Bool) (a b d : BitVec 7), Ready s g0 (.v a.toNat :: siRegs b) [.v d.toNat] →
    let g := g0.claim (siRegs b)
    let x := fun j => g.vr a.toNat j
    let y := siValue g b
    VecResult (.iaddi e b f a d) s g d.toNat (fun j => x j + y) ∧
    VecResult (.isubi e b f a d) s g d.toNat (fun j => x j - y) ∧
    VecResult (.iaddsi e b f a d) s g d.toNat (fun j => saturate ((x j).toInt + y.toInt)) ∧
    VecResult (.isubsi e b f a d) s g d.toNat (fun j => saturate ((x j).toInt - y.toInt)) ∧
    VecResult (.andI e b f a d) s g d.toNat (fun j => x j &&& y) ∧
    VecResult (.orI e b f a d) s g d.toNat (fun j => x j ||| y) ∧
    VecResult (.xorI e b f a d) s g d.toNat (fun j => x j ^^^ y) ∧
    VecResult (.andnI e b f a d) s g d.toNat (fun j => x j &&& ~~~y) ∧
    VecResult (.shl e b f a d) s g d.toNat (fun j => x j <<< (y.toNat % 32)) ∧
    VecResult (.shr e b f a d) s g d.toNat (fun j => x j >>> (y.toNat % 32)) ∧
    VecResult (.sar e b f a d) s g d.toNat (fun j => (x j).sshiftRight (y.toNat % 32)) ∧
    VecResult (.rol e b f a d) s g d.toNat (fun j => (x j).rotateLeft (y.toNat % 32))

/-- 07 R154: counts and the reversal of bits. -/
def BitCounts : Prop :=
  ∀ (s : State) (g : Group) (f : Bool) (a d : BitVec 7), Ready s g [.v a.toNat] [.v d.toNat] →
    let x := fun j => g.vr a.toNat j
    VecResult (.popc f a d) s g d.toNat (fun j => BitVec.ofNat 32 ((List.range 32).countP fun i => (x j).getLsbD i)) ∧
    VecSatisfies (.clz f a d) s g d.toNat (fun j r =>
      if x j = 0 then r = 32 else r.toNat < 32 ∧ (x j).getLsbD (31 - r.toNat) = true ∧
        ∀ i, 31 - r.toNat < i → (x j).getLsbD i = false) ∧
    VecSatisfies (.brev f a d) s g d.toNat (fun j r => ∀ i, i < 32 → r.getLsbD (31 - i) = (x j).getLsbD i) ∧
    VecSatisfies (.ctz f a d) s g d.toNat (fun j r =>
      if x j = 0 then r = 32 else r.toNat < 32 ∧ (x j).getLsbD r.toNat = true ∧ ∀ i, i < r.toNat → (x j).getLsbD i = false)

/-- 07 R155: fields and byte shuffles, bit by bit and byte by byte. -/
def BitFields : Prop :=
  ∀ (s : State) (g0 : Group) (e f : Bool) (a b d : BitVec 7), Ready s g0 (.v a.toNat :: siRegs b) [.v d.toNat] →
    let g := g0.claim (siRegs b)
    let x := fun j => g.vr a.toNat j
    let o := fun j => g.vr d.toNat j
    let y := siValue g b
    let pos := fieldLow y
    let hi := fieldHigh y
    VecSatisfies (.bfxn e b f a d) s g d.toNat (fun j r => ∀ i, i < 32 →
      r.getLsbD i = (decide (pos + i ≤ hi) && (x j).getLsbD (pos + i))) ∧
    VecSatisfies (.bfxs e b f a d) s g d.toNat (fun j r => ∀ i, i < 32 →
      r.getLsbD i = (x j).getLsbD (min (pos + i) hi)) ∧
    (Ready s g0 (.v a.toNat :: .v d.toNat :: siRegs b) [.v d.toNat] →
    VecSatisfies (.bfi e b f a d) s g d.toNat (fun j r => ∀ i, i < 32 →
      r.getLsbD i = if pos ≤ i ∧ i ≤ hi then (x j).getLsbD (i - pos) else (o j).getLsbD i) ∧
    VecSatisfies (.bshuf e b f a d) s g d.toNat (fun j r => ∀ k, k < 4 →
      r.extractLsb' (8 * k) 8 = if y.getLsbD (8 + k) then 0
        else (if y.getLsbD (12 + k) then o j else x j).extractLsb' (8 * (y.extractLsb' (2 * k) 2).toNat) 8))

/-- 07 R156 and 02 R45: selection by a mask, and MOVI.V. -/
def SelectAndMove : Prop :=
  (∀ (s : State) (g : Group) (e : Bool) (b a d : BitVec 7) (k : BitVec 3),
    Ready s g [.v a.toNat, .v b.toNat, .k k.toNat] [.v d.toNat] →
    VecResult (.sel e b k a d) s g d.toNat
      (fun j => if (g.kr k.toNat).getLsbD j then g.vr a.toNat j else g.vr b.toNat j)) ∧
  (∀ (s : State) (g : Group) (im : BitVec 18) (d : BitVec 7), Ready s g [] [.v d.toNat] →
    VecResult (.moviV im d) s g d.toNat (fun _ => im.signExtend 32))

/-- 07 R152, R153: an integer compare is issued as a producer of its mask, with the condition of its table in each lane. -/
def CompareIssue : Prop :=
  (∀ (s : State) (g : Group) (e f : Bool) (a b : BitVec 7) (d : BitVec 4),
    Ready s g [.v a.toNat, .v b.toNat] [.k d.toNat] →
    let x := fun j => g.vr a.toNat j
    let y := fun j => g.vr b.toNat j
    CompareIssued (.icmpEq e b f a d) s g d.toNat (fun j => decide (x j = y j)) ∧
    CompareIssued (.icmpNe e b f a d) s g d.toNat (fun j => decide (x j ≠ y j)) ∧
    CompareIssued (.icmpLt e b f a d) s g d.toNat (fun j => decide ((x j).toInt < (y j).toInt)) ∧
    CompareIssued (.icmpLe e b f a d) s g d.toNat (fun j => decide ((x j).toInt ≤ (y j).toInt)) ∧
    CompareIssued (.icmpLtn e b f a d) s g d.toNat (fun j => decide (x j < y j)) ∧
    CompareIssued (.icmpLen e b f a d) s g d.toNat (fun j => decide (x j ≤ y j)) ∧
    CompareIssued (.icmpTst e b f a d) s g d.toNat (fun j => decide (x j &&& y j ≠ 0)) ∧
    CompareIssued (.icmpTstn e b f a d) s g d.toNat (fun j => decide (x j &&& y j = 0))) ∧
  (∀ (s : State) (g0 : Group) (e f : Bool) (a b : BitVec 7) (d : BitVec 4),
    Ready s g0 (.v a.toNat :: siRegs b) [.k d.toNat] →
    let g := g0.claim (siRegs b)
    let x := fun j => g.vr a.toNat j
    let y := siValue g b
    CompareIssued (.icmpEqI e b f a d) s g d.toNat (fun j => decide (x j = y)) ∧
    CompareIssued (.icmpNeI e b f a d) s g d.toNat (fun j => decide (x j ≠ y)) ∧
    CompareIssued (.icmpLtI e b f a d) s g d.toNat (fun j => decide ((x j).toInt < y.toInt)) ∧
    CompareIssued (.icmpLeI e b f a d) s g d.toNat (fun j => decide ((x j).toInt ≤ y.toInt)))

/-- 07 R153: at completion a compare writes its mask and marks it full; a compare of floats adds its exceptions to cr.FPFLAGS (05 R110). -/
def CompareCompletion : Prop :=
  ∀ (s : State) (id : Nat) (o : Op) (g : Group) (d : Nat) (w : DWord), Due s id o g → o.cls = .compare →
    o.dests = [.k d] → d ≠ 0 →
    (o.kind = .writes [⟨.k d, 0, w⟩] → Fills (.compareComplete id) s id o g fun h => h.k.get d = w) ∧
    (∀ (ex : List (Nat × Word)) (c : Cur), o.kind = .flagged [⟨.k d, 0, w⟩] ex c true → o.mask ≠ 0 →
      Fills (.compareComplete id) s id o g
        (fun h => h.k.get d = w ∧ FlagsGather g h o.mask (exceptionsOf ex)) [0x11])

/-- 07 R170, R171: scalar arithmetic and compares, once for the group, whatever the active set. -/
def ScalarArithmetic : Prop :=
  ∀ (s : State) (g0 : Group) (e f : Bool) (b : BitVec 7) (a d : BitVec 6), Ready s g0 (.s a.toNat :: siRegs b) [.s d.toNat] →
    let g := g0.claim (.s a.toNat :: siRegs b)
    let x := g.sr a.toNat
    let y := siValue g b
    SclResult (.sadd e b f a d) s g d.toNat (x + y) ∧
    SclResult (.ssub e b f a d) s g d.toNat (x - y) ∧
    SclResult (.smul e b f a d) s g d.toNat (x * y) ∧
    SclResult (.sand e b f a d) s g d.toNat (x &&& y) ∧
    SclResult (.sor e b f a d) s g d.toNat (x ||| y) ∧
    SclResult (.sxor e b f a d) s g d.toNat (x ^^^ y) ∧
    SclResult (.sshl e b f a d) s g d.toNat (x <<< (y.toNat % 32)) ∧
    SclResult (.sshr e b f a d) s g d.toNat (x >>> (y.toNat % 32)) ∧
    SclResult (.seq e b f a d) s g d.toNat (if x = y then 1 else 0) ∧
    SclResult (.sne e b f a d) s g d.toNat (if x ≠ y then 1 else 0) ∧
    SclResult (.slt e b f a d) s g d.toNat (if x.toInt < y.toInt then 1 else 0) ∧
    SclResult (.sltn e b f a d) s g d.toNat (if x < y then 1 else 0)

/-- 02 R45: the immediates of the I format, into scalars. -/
def ScalarImmediate : Prop :=
  ∀ (s : State) (g : Group) (im : BitVec 18) (d : BitVec 6),
    (Ready s g [] [.s d.toNat] → SclResult (.moviS im d) s g d.toNat (im.signExtend 32)) ∧
    (Ready s g [.s d.toNat] [.s d.toNat] →
      SclResult (.movihS im d) s g d.toNat (im ++ (g.sr d.toNat).setWidth 14) ∧
      SclResult (.addiS im d) s g d.toNat (g.sr d.toNat + im.signExtend 32))

/-- 07 R172: arithmetic of pairs, low word first. -/
def PairArithmetic : Prop :=
  ∀ (s : State) (g0 : Group) (e f : Bool) (b : BitVec 7) (a d : BitVec 5),
    Ready s g0 (.s (2 * a.toNat) :: .s (2 * a.toNat + 1) :: siPair b) [.s (2 * d.toNat), .s (2 * d.toNat + 1)] →
    let g := g0.claim (.s (2 * a.toNat) :: .s (2 * a.toNat + 1) :: siPair b)
    let x : DWord := g.sr (2 * a.toNat + 1) ++ g.sr (2 * a.toNat)
    let y := siValue64 g b
    Scl2Result (.sadd64 e b f a d) s g (2 * d.toNat) (x + y) ∧
    Scl2Result (.ssub64 e b f a d) s g (2 * d.toNat) (x - y) ∧
    Scl2Result (.smulw e b f a d) s g (2 * d.toNat) (x * y) ∧
    Scl2Result (.sshl64 e b f a d) s g (2 * d.toNat) (x <<< (y.toNat % 64))

/-- 07 R173, R174: mask arithmetic, and moves between masks and scalars. Bits from the width on are written 0; k0 reads as the live
mask. -/
def MaskArithmetic : Prop :=
  (∀ (s : State) (g : Group) (e f : Bool) (a b d : BitVec 4), Ready s g [.k a.toNat, .k b.toNat] [.k d.toNat] →
    let x := g.kr a.toNat
    let y := g.kr b.toNat
    MaskResult (.kand e b f a d) s g d.toNat (x &&& y) ∧
    MaskResult (.kor e b f a d) s g d.toNat (x ||| y) ∧
    MaskResult (.kxor e b f a d) s g d.toNat (x ^^^ y) ∧
    MaskResult (.kandn e b f a d) s g d.toNat (x &&& ~~~y)) ∧
  (∀ (s : State) (g : Group) (f : Bool) (a : BitVec 4) (d : BitVec 5),
    Ready s g [.k a.toNat] [.s (2 * d.toNat), .s (2 * d.toNat + 1)] →
    Scl2Result (.k2s f a d) s g (2 * d.toNat) (g.kr a.toNat)) ∧
  (∀ (s : State) (g0 : Group) (f : Bool) (a : BitVec 5) (d : BitVec 4),
    Ready s g0 [.s (2 * a.toNat), .s (2 * a.toNat + 1)] [.k d.toNat] →
    let g := g0.claim [.s (2 * a.toNat), .s (2 * a.toNat + 1)]
    MaskResult (.s2k f a d) s g d.toNat (g.sr (2 * a.toNat + 1) ++ g.sr (2 * a.toNat))) ∧
  (∀ (s : State) (g : Group) (f : Bool) (a : BitVec 4) (d : BitVec 6), Ready s g [.k a.toNat] [.s d.toNat] →
    let x := g.kr a.toNat
    SclResult (.kpopc f a d) s g d.toNat (BitVec.ofNat 32 ((List.range 64).countP fun i => x.getLsbD i)) ∧
    Completes (.kffs f a d) s g [.s d.toNat] fun t h => ∃ r : Word, ScalarHolds s t g h d.toNat r ∧
      if x = 0 then r = 0xFFFFFFFF else x.getLsbD r.toNat = true ∧ ∀ i, i < r.toNat → x.getLsbD i = false)

/-- 07 R158 to R160: F32 arithmetic of two vectors, rounded once to nearest even, with the exceptions it raises. -/
def FloatArithmetic : Prop :=
  ∀ (s : State) (g : Group) (e f : Bool) (a b d : BitVec 7), Ready s g [.v a.toNat, .v b.toNat] [.v d.toNat] →
    let x := fun j => f32.val (g.vr a.toNat j).toNat
    let y := fun j => f32.val (g.vr b.toNat j).toNat
    let o := fun j => f32.val (g.vr d.toNat j).toNat
    FloatResult (.fadd e b f a d) s g d.toNat (fun j => f32.addV .rne (x j) (y j)) ∧
    FloatResult (.fsub e b f a d) s g d.toNat (fun j => f32.addV .rne (x j) (y j).neg) ∧
    FloatResult (.fmin e b f a d) s g d.toNat (fun j => f32.minmax false (g.vr a.toNat j).toNat (g.vr b.toNat j).toNat) ∧
    FloatResult (.fmax e b f a d) s g d.toNat (fun j => f32.minmax true (g.vr a.toNat j).toNat (g.vr b.toNat j).toNat) ∧
    FloatResult (.fmul e b f a d) s g d.toNat (fun j => f32.mulV (x j) (y j)) ∧
    (Ready s g [.v a.toNat, .v b.toNat, .v d.toNat] [.v d.toNat] →
      FloatResult (.ffma e b f a d) s g d.toNat (fun j => f32.fmaV (x j) (y j) (o j)) ∧
      FloatResult (.ffms e b f a d) s g d.toNat (fun j => f32.fmaV (x j) (y j) (o j).neg) ∧
      FloatResult (.ffnma e b f a d) s g d.toNat (fun j => f32.fmaV (x j).neg (y j) (o j)))

/-- 07 R158 to R160 with a scalar b, one value for every lane. -/
def FloatScalarOperand : Prop :=
  ∀ (s : State) (g0 : Group) (e f : Bool) (b : BitVec 6) (a d : BitVec 7), Ready s g0 [.v a.toNat, .s b.toNat] [.v d.toNat] →
    let g := g0.claim [.s b.toNat]
    let w := (g.sr b.toNat).toNat
    let x := fun j => f32.val (g.vr a.toNat j).toNat
    let y := f32.val w
    let o := fun j => f32.val (g.vr d.toNat j).toNat
    FloatResult (.faddS e b f a d) s g d.toNat (fun j => f32.addV .rne (x j) y) ∧
    FloatResult (.fsubS e b f a d) s g d.toNat (fun j => f32.addV .rne (x j) y.neg) ∧
    FloatResult (.fminS e b f a d) s g d.toNat (fun j => f32.minmax false (g.vr a.toNat j).toNat w) ∧
    FloatResult (.fmaxS e b f a d) s g d.toNat (fun j => f32.minmax true (g.vr a.toNat j).toNat w) ∧
    FloatResult (.fmulS e b f a d) s g d.toNat (fun j => f32.mulV (x j) y) ∧
    (Ready s g0 [.v a.toNat, .s b.toNat, .v d.toNat] [.v d.toNat] →
      FloatResult (.ffmaS e b f a d) s g d.toNat (fun j => f32.fmaV (x j) y (o j)) ∧
      FloatResult (.ffmsS e b f a d) s g d.toNat (fun j => f32.fmaV (x j) y (o j).neg) ∧
      FloatResult (.ffnmaS e b f a d) s g d.toNat (fun j => f32.fmaV (x j).neg y (o j)))

/-- 02 R43 and 07 R162: the H forms of F32 arithmetic, and the one-operand forms: FABS and FNEG change bit 31 alone and raise nothing;
FFLOOR and FCEIL round to an integral value and raise at most Invalid-operation. -/
def FloatTwoAddress : Prop :=
  (∀ (s : State) (g : Group) (f : Bool) (a d : BitVec 5), Ready s g [.v a.toNat, .v d.toNat] [.v d.toNat] →
    let x := fun j => f32.val (g.vr d.toNat j).toNat
    let y := fun j => f32.val (g.vr a.toNat j).toNat
    FloatResult (.faddH a d f) s g d.toNat (fun j => f32.addV .rne (x j) (y j)) ∧
    FloatResult (.fsubH a d f) s g d.toNat (fun j => f32.addV .rne (x j) (y j).neg) ∧
    FloatResult (.fmulH a d f) s g d.toNat (fun j => f32.mulV (x j) (y j)) ∧
    FloatResult (.fmaxH a d f) s g d.toNat (fun j => f32.minmax true (g.vr d.toNat j).toNat (g.vr a.toNat j).toNat) ∧
    FloatResult (.fminH a d f) s g d.toNat (fun j => f32.minmax false (g.vr d.toNat j).toNat (g.vr a.toNat j).toNat)) ∧
  (∀ (s : State) (g : Group) (f : Bool) (a d : BitVec 7), Ready s g [.v a.toNat] [.v d.toNat] →
    let x := fun j => g.vr a.toNat j
    FloatResults (.fabs f a d) s g [d.toNat] (fun j => ([(0 : BitVec 1) ++ (x j).setWidth 31], 0)) ∧
    FloatResults (.fneg f a d) s g [d.toNat] (fun j => ([(~~~(x j).extractLsb' 31 1) ++ (x j).setWidth 31], 0)) ∧
    FloatResults (.ffloor f a d) s g [d.toNat]
      (fun j => ([BitVec.ofNat 32 (f32.integral .rdn (x j).toNat).bits], (f32.integral .rdn (x j).toNat).ex &&& 1)) ∧
    FloatResults (.fceil f a d) s g [d.toNat]
      (fun j => ([BitVec.ofNat 32 (f32.integral .rup (x j).toNat).bits], (f32.integral .rup (x j).toNat).ex &&& 1)))

/-- 07 R167: two packed elements, each by the rules of its own format; element 0 lies in bits 15:0. -/
def PackedArithmetic : Prop :=
  ∀ (s : State) (g : Group) (e f : Bool) (a b d : BitVec 7), Ready s g [.v a.toNat, .v b.toNat] [.v d.toNat] →
    let el := fun (r : BitVec 7) (j k : Nat) => ((g.vr r.toNat j).extractLsb' (16 * k) 16).toNat
    let R := fun (i : Instr) (h : Nat → Nat → Nat → Fr) =>
      FloatResults i s g [d.toNat] fun j => packedPair fun k => h (el a j k) (el b j k) (el d j k)
    R (.hadd2 e b f a d) (fun x y _ => f16.addV .rne (f16.val x) (f16.val y)) ∧
    R (.hmul2 e b f a d) (fun x y _ => f16.mulV (f16.val x) (f16.val y)) ∧
    (Ready s g [.v a.toNat, .v b.toNat, .v d.toNat] [.v d.toNat] →
      R (.hfma2 e b f a d) (fun x y o => f16.fmaV (f16.val x) (f16.val y) (f16.val o)) ∧
      R (.bfma2 e b f a d) (fun x y o => bf16.fmaV (bf16.val x) (bf16.val y) (bf16.val o))) ∧
    R (.hmax2 e b f a d) (fun x y _ => f16.minmax true x y) ∧
    R (.badd2 e b f a d) (fun x y _ => bf16.addV .rne (bf16.val x) (bf16.val y)) ∧
    R (.bmul2 e b f a d) (fun x y _ => bf16.mulV (bf16.val x) (bf16.val y)) ∧
    R (.bmax2 e b f a d) (fun x y _ => bf16.minmax true x y)

/-- 07 R168: binary64 in pairs of vectors that the fields name by their even register. -/
def DoubleArithmetic : Prop :=
  ∀ (s : State) (g : Group) (e f : Bool) (a b d : BitVec 6),
    Ready s g [.v (2 * a.toNat), .v (2 * a.toNat + 1), .v (2 * b.toNat), .v (2 * b.toNat + 1)]
      [.v (2 * d.toNat), .v (2 * d.toNat + 1)] →
    let w := fun (r : BitVec 6) (j : Nat) => (g.vr (2 * r.toNat + 1) j ++ g.vr (2 * r.toNat) j).toNat
    let x := fun j => f64.val (w a j)
    let y := fun j => f64.val (w b j)
    DoubleResult (.dadd e b f a d) s g (2 * d.toNat) (fun j => f64.addV .rne (x j) (y j)) ∧
    DoubleResult (.dmul e b f a d) s g (2 * d.toNat) (fun j => f64.mulV (x j) (y j)) ∧
    DoubleResult (.dmin e b f a d) s g (2 * d.toNat) (fun j => f64.minmax false (w a j) (w b j)) ∧
    (Ready s g [.v (2 * a.toNat), .v (2 * a.toNat + 1), .v (2 * b.toNat), .v (2 * b.toNat + 1), .v (2 * d.toNat), .v (2 * d.toNat + 1)]
        [.v (2 * d.toNat), .v (2 * d.toNat + 1)] →
      DoubleResult (.dfma e b f a d) s g (2 * d.toNat) (fun j => f64.fmaV (x j) (y j) (f64.val (w d j))))

/-- 07 R153, R161: FCMP is issued as a producer of its mask; −0 and +0 compare equal and a NaN makes every condition but UNO false. -/
def FloatCompareIssue : Prop :=
  ∀ (s : State) (g : Group) (e f : Bool) (a b : BitVec 7) (d : BitVec 4), Ready s g [.v a.toNat, .v b.toNat] [.k d.toNat] →
    let x := fun j => f32.val (g.vr a.toNat j).toNat
    let y := fun j => f32.val (g.vr b.toNat j).toNat
    let nan := fun j => (x j).isNan || (y j).isNan
    let snan := fun j => (x j).isSnan || (y j).isSnan
    let R := fun (i : Instr) (c : Nat → Bool) (nv : Nat → Bool) => ∃ w : DWord,
      FloatIssued i s g (.k d.toNat) .compare (if g.width = 64 then 5 else 4) [⟨.k d.toNat, 0, w⟩] (fun j => if nv j then 1 else 0) ∧
      ∀ j, j < 64 → w.getLsbD j = (decide (j < g.width) && if maskBit s.cur.mask j then c j else maskBit (g.k.get d.toNat) j)
    R (.fcmpEq e b f a d) (fun j => !nan j && cmpV (x j) (y j) == .eq) snan ∧
    R (.fcmpLt e b f a d) (fun j => !nan j && cmpV (x j) (y j) == .lt) nan ∧
    R (.fcmpLe e b f a d) (fun j => !nan j && cmpV (x j) (y j) != .gt) nan ∧
    R (.fcmpUno e b f a d) nan snan

/-- 07 R163: a special function is issued as a producer with its latency where the pipe is free; RCP, RSQ and SQRT give the correctly
rounded result. (What EX2, LG2, SIN, COS and TANH give is a free value within a bound, log entry 21.) -/
def SpecialFunctionIssue : Prop :=
  ∀ (s : State) (g : Group) (f : Bool) (a d : BitVec 7), Ready s g [.v a.toNat] [.v d.toNat] →
    (s.cur.cls = .debug ∨ (s.sp (spIdOf s.cur.gid)).sfuBusy ≤ (s.part g.part).clock) →
    let x := fun j => g.vr a.toNat j
    let R := fun (i : Instr) (lat : Nat) (r : Nat → Fr) =>
      FloatIssued i s g (.v d.toNat) .sfu (if g.width = 64 then lat + 4 else lat)
        ((lanesOf s.cur.mask).map fun j => ⟨.v d.toNat, j, BitVec.ofNat 64 (r j).bits⟩) (fun j => (r j).ex)
    R (.rcp f a d) 12 (fun j => sfuRcp (x j)) ∧
    R (.rsq f a d) 12 (fun j => f32.rsqrtV (f32.val (x j).toNat)) ∧
    R (.ex2 f a d) 10 (fun j => sfuEx2 (x j)) ∧
    R (.lg2 f a d) 10 (fun j => sfuLg2 (x j)) ∧
    R (.sin f a d) 18 (fun j => sfuSin (x j)) ∧
    R (.cos f a d) 18 (fun j => sfuCos (x j)) ∧
    R (.sqrt f a d) 16 (fun j => sfuSqrt (x j)) ∧
    R (.tanh f a d) 18 (fun j => sfuTanh (x j)) ∧
    (∀ j b m e, f32.val (x j).toNat = .fin b m e → sfuRcp (x j) = f32.divV (.fin false 1 0) (.fin b m e))

/-- 07 R163, 05 R110: at completion a special function fills the lanes of its active set that have not exited since (08 R175), and its
exceptions gather in cr.FPFLAGS. -/
def SpecialFunctionCompletion : Prop :=
  ∀ (s : State) (id : Nat) (o : Op) (g : Group) (d : Nat) (r : Nat → Fr) (ex : List (Nat × Word)) (c : Cur),
    Due s id o g → o.cls = .sfu → o.dests = [.v d] → o.mask ≠ 0 →
    o.kind = .flagged ((lanesOf o.mask).map fun j => ⟨.v d, j, BitVec.ofNat 64 (r j).bits⟩) ex c true →
    Fills (.sfuComplete id) s id o g (fun h =>
      (∀ j, j < 64 → h.vr d j = if maskBit o.mask j = true ∧ (g.lane j).st ≠ .exited then BitVec.ofNat 32 (r j).bits else g.vr d j) ∧
      FlagsGather g h o.mask (exceptionsOf ex)) [0x11]

/-- 05 R110, 18 R316: where one exception is enabled, the lanes that raise it park with its cause and keep their destination; the other
lanes complete, and cr.FPFLAGS gathers theirs. -/
def FloatTraps : Prop :=
  ∀ (s : State) (g : Group) (e f : Bool) (a b d : BitVec 7) (n : Nat), Ready s g [.v a.toNat, .v b.toNat] [.v d.toNat] →
    s.cur.cls = .ordinary → s.handles g.part → n < 5 → g.cr 0x10 &&& 31 = (1 : Word) <<< n → s.cur.rep = false →
    let r := fun j => f32.addV .rne (f32.val (g.vr a.toNat j).toNat) (f32.val (g.vr b.toNat j).toNat)
    let bad := fun j => maskBit s.cur.mask j && (r j).ex.getLsbD n
    (∃ j, j < 64 ∧ bad j = true) → (∀ j, j < 64 → maskBit s.cur.mask j = true → j < g.lanes.length) →
    Does (.fadd e b f a d) s [.groups, .sps] fun t => OnlyGroup s t s.cur.gid ∧ ∃ h x, t.group? s.cur.gid = some h ∧
      SameRegs g h [.v d.toNat] [0x11] ∧ h.parked = g.parked ++ [x] ∧ x.pc = s.cur.pc ∧ x.cause = 17 + n ∧ x.va = 0 ∧
      (∀ j, j < 64 → maskBit x.mask j = bad j) ∧
      (∀ j, j < 64 → h.vr d.toNat j =
        if maskBit s.cur.mask j && !bad j then BitVec.ofNat 32 (r j).bits else g.vr d.toNat j) ∧
      (∀ k, (h.cr 0x11).getLsbD k = ((g.cr 0x11).getLsbD k ||
        (lanesOf s.cur.mask).any fun j => !bad j && (r j).ex.getLsbD k)) ∧
      ∀ j, j < g.lanes.length → j < 64 →
        (h.lane j).pc = (if maskBit s.cur.mask j && !bad j then s.cur.pc + BitVec.ofNat 64 s.cur.len else (g.lane j).pc) ∧
        (h.lane j).parked = (bad j || (g.lane j).parked)

/-- 05 R111, R112: CVT in each lane, by the conversion code 8 × source + destination and the rounding field; F64 takes a pair. -/
def Convert : Prop :=
  ∀ (s : State) (g : Group) (b : BitVec 7) (f : Bool) (a d : BitVec 7) (r : BitVec 2),
    let src := b.toNat / 8
    let dst := b.toNat % 8
    Ready s g (if src = 5 then [.v a.toNat, .v (a.toNat + 1)] else [.v a.toNat])
      (if dst = 5 then [.v d.toNat, .v (d.toNat + 1)] else [.v d.toNat]) →
    let x := fun j => if src = 5 then (g.vr (a.toNat + 1) j ++ g.vr a.toNat j).toNat else (g.vr a.toNat j).toNat
    if dst = 5 then DoubleResult (.cvt b f a d r) s g d.toNat (fun j => cvtLane src dst (rmOf r.toNat) (x j))
    else FloatResult (.cvt b f a d r) s g d.toNat (fun j => cvtLane src dst (rmOf r.toNat) (x j))

/-- 05 R122: NARROW with a valid entry of its element width and a scale of its own writes or reads packed elements; a NaN or infinity
raises what the element write raises. -/
def Narrow : Prop :=
  (∀ (s : State) (g : Group) (b : BitVec 6) (f : Bool) (a : BitVec 5) (d : BitVec 7), s.cur.cls ≠ .debug →
    Ready s g [.v (4 * a.toNat), .v (4 * a.toNat + 1), .v (4 * a.toNat + 2), .v (4 * a.toNat + 3)] [.v d.toNat] →
    let t := s.tidOf g b.toNat
    t.valid = true → t.fmt ∈ [1, 2, 4] → t.scale ≠ 2 →
    let w := fun j k => narrowWrite t.fmt t.flatScale (g.vr (4 * a.toNat + k) j)
    FloatResults (.pack8 b f a d) s g [d.toNat] (fun j =>
      ([BitVec.ofNat 32 ((w j 0).1 + 2 ^ 8 * ((w j 1).1 + 2 ^ 8 * ((w j 2).1 + 2 ^ 8 * (w j 3).1)))],
        (w j 0).2 ||| (w j 1).2 ||| (w j 2).2 ||| (w j 3).2))) ∧
  (∀ (s : State) (g : Group) (b : BitVec 6) (f : Bool) (a : BitVec 7) (d : BitVec 5), s.cur.cls ≠ .debug →
    Ready s g [.v a.toNat] [.v (4 * d.toNat), .v (4 * d.toNat + 1), .v (4 * d.toNat + 2), .v (4 * d.toNat + 3)] →
    let t := s.tidOf g b.toNat
    t.valid = true → t.fmt ∈ [1, 2, 4] → t.scale ≠ 2 →
    FloatResults (.unpk8 b f a d) s g [4 * d.toNat, 4 * d.toNat + 1, 4 * d.toNat + 2, 4 * d.toNat + 3] (unpackLane 4 8 a.toNat t g)) ∧
  (∀ (s : State) (g : Group) (b : BitVec 6) (f : Bool) (a : BitVec 4) (d : BitVec 7), s.cur.cls ≠ .debug →
    Ready s g ((List.range 8).map fun k => .v (8 * a.toNat + k)) [.v d.toNat] →
    let t := s.tidOf g b.toNat
    t.valid = true → t.fmt = 3 → t.scale ≠ 2 →
    FloatResults (.pack4 b f a d) s g [d.toNat] (packLane 8 4 (8 * a.toNat) t g)) ∧
  (∀ (s : State) (g : Group) (b : BitVec 6) (f : Bool) (a : BitVec 7) (d : BitVec 4), s.cur.cls ≠ .debug →
    Ready s g [.v a.toNat] ((List.range 8).map fun k => .v (8 * d.toNat + k)) →
    let t := s.tidOf g b.toNat
    t.valid = true → t.fmt = 3 → t.scale ≠ 2 →
    FloatResults (.unpk4 b f a d) s g ((List.range 8).map fun k => 8 * d.toNat + k) (unpackLane 8 4 a.toNat t g))

/-- 08 R176, R178, R182: shuffles and broadcasts read a register of the lane they name: its value where it lies below the width and is
live, whether or not it takes part, else 0; sources are read before any lane is written. No lane of the register holds a parity error: one
that does meets 03 R82 (log entry 74). -/
def CrossLaneReads : Prop :=
  ∀ (s : State) (g0 : Group) (e f : Bool) (a b : BitVec 7), 
    let g := g0.claim (siRegs b)
    let y := siValue g b
    let from' := fun k : Word => if k.toNat < g.width ∧ (g.lane k.toNat).st = .live then g.vr a.toNat k.toNat else 0
    (∀ d : BitVec 7, Ready s g0 (.v a.toNat :: .v d.toNat :: siRegs b) [.v d.toNat] → g0.sound (.v a.toNat) → g0.sound (.v d.toNat) →
      VecResult (.shfl e b f a d) s g d.toNat (fun j => from' (g.vr d.toNat j + y))) ∧
    (∀ d : BitVec 7, Ready s g0 (.v a.toNat :: siRegs b) [.v d.toNat] → g0.sound (.v a.toNat) →
      VecResult (.shflx e b f a d) s g d.toNat (fun j => from' (BitVec.ofNat 32 j ^^^ y)) ∧
      VecResult (.shflu e b f a d) s g d.toNat (fun j => from' (BitVec.ofNat 32 j - y)) ∧
      VecResult (.shfld e b f a d) s g d.toNat (fun j => from' (BitVec.ofNat 32 j + y)) ∧
      VecResult (.bcast e b f a d) s g d.toNat (fun _ => from' y)) ∧
    (∀ d : BitVec 6, Ready s g0 (.v a.toNat :: siRegs b) [.s d.toNat] → g0.sound (.v a.toNat) →
      SclResult (.rdlane e b f a d) s g d.toNat (from' y))

/-- 08 R179 to R181: a ballot of the active set, and reductions by the fixed tree over the active set, whose exceptions gather in
cr.FPFLAGS where none of them is enabled. -/
def BallotAndReductions : Prop :=
  (∀ (s : State) (g : Group) (f : Bool) (a : BitVec 7) (d : BitVec 4), Ready s g [.v a.toNat] [.k d.toNat] → d ≠ 0 →
    Completes (.ballot f a d) s g [.k d.toNat] fun _ h => ∀ j, j < 64 →
      (h.k.get d.toNat).getLsbD j = (decide (j < g.width) && maskBit s.cur.mask j && decide (g.vr a.toNat j ≠ 0))) ∧
  (∀ (s : State) (g : Group) (f : Bool) (a : BitVec 7) (d : BitVec 6), Ready s g [.v a.toNat] [.s d.toNat] →
    let R := fun (i : Instr) (c : Word → Word → Word × Word) =>
      let r := (reduceTree c 6 (g.leaves a.toNat s.cur.mask)).getD (0, 0)
      (s.cur.cls = .ordinary → ∀ n, n < 5 → ((g.cr 0x10).getLsbD n && r.2.getLsbD n) = false) →
      Completes i s g [.s d.toNat] (fun t h => ScalarHolds s t g h d.toNat r.1 ∧ h.cr 0x11 = g.cr 0x11 ||| r.2) [0x11]
    R (.vredAdd f a d) (fun x y => (x + y, 0)) ∧
    R (.vredFadd f a d) (fun x y => let r := f32.addV .rne (f32.val x.toNat) (f32.val y.toNat); (BitVec.ofNat 32 r.bits, r.ex)) ∧
    R (.vredFmax f a d) (fun x y => let r := f32.minmax true x.toNat y.toNat; (BitVec.ofNat 32 r.bits, r.ex)))

/-- 08 R183: RDX and WRX name a register by a base and a scalar; an index at or beyond the allotment is Register-bound before any
effect. -/
def IndirectRegisters : Prop :=
  ∀ (s : State) (g0 : Group) (e f : Bool) (b : BitVec 6) (a d : BitVec 7),
    let g := g0.claim [.s b.toNat]
    (Ready s g0 [.s b.toNat] [.v d.toNat] →
      let n := a.toNat + (g.sr b.toNat).toNat
      (g.nv ≤ n → Raises (.rdx e b f a d) s g0 3) ∧
      (n < g.nv → g.isEmpty (.v n) = false → g0.readsBad s.cur.mask [.v n] = false → VecResult (.rdx e b f a d) s g d.toNat (fun j => g.vr n j))) ∧
    (Ready s g0 [.v a.toNat, .s b.toNat] [] →
      let n := d.toNat + (g.sr b.toNat).toNat
      (g.nv ≤ n → Raises (.wrx e b f a d) s g0 3) ∧
      (n < g.nv → g.isEmpty (.v n) = false → VecResult (.wrx e b f a d) s g n (fun j => g.vr a.toNat j)))

/-- 08 R184: in trap-handler code LRD, LMEET and LPC read another lane, 0 where it is not a live one, and LWR writes one register of one
live lane; elsewhere they are Illegal-instruction. -/
def HandlerLaneAccess : Prop :=
  ∀ (s : State) (g0 : Group) (e f : Bool) (b : BitVec 6), 
    let g := g0.claim [.s b.toNat]
    let k := (g.sr b.toNat).toNat
    let live := k < min 64 g.width ∧ (g.lane k).st = .live
    (s.cur.cls = .handler →
      (∀ (a : BitVec 7) (d : BitVec 6), Ready s g0 [.v a.toNat, .s b.toNat] [.s d.toNat] → g0.sound (.v a.toNat) →
        SclResult (.lrd e b f a d) s g d.toNat (if k < g.width ∧ (g.lane k).st = .live then g.vr a.toNat k else 0)) ∧
      (∀ (a : BitVec 6) (d : BitVec 7), Ready s g0 [.s a.toNat, .s b.toNat] [.v d.toNat] →
        let g' := g0.claim [.s a.toNat, .s b.toNat]
        let k := (g'.sr b.toNat).toNat
        Completes (.lwr e b f a d) s g' [.v d.toNat] fun _ h => ∀ j, j < 64 →
          h.vr d.toNat j = if k < min 64 g'.width ∧ (g'.lane k).st = .live ∧ j = k then g'.sr a.toNat else g'.vr d.toNat j) ∧
      (∀ d : BitVec 5, Ready s g0 [.s b.toNat] [.s (2 * d.toNat), .s (2 * d.toNat + 1)] →
        Scl2Result (.lmeet e b d) s g (2 * d.toNat) (if live then (g.lane k).meet else 0) ∧
        Scl2Result (.lpc e b d) s g (2 * d.toNat) (if live then (g.lane k).pc else 0))) ∧
    (s.cur.cls ≠ .handler → s.cur.defer = none → s.curGroup? = some g0 →
      (∀ (a : BitVec 7) (d : BitVec 6), Raises (.lrd e b f a d) s g0 1) ∧
      (∀ (a : BitVec 6) (d : BitVec 7), Raises (.lwr e b f a d) s g0 1) ∧
      (∀ d : BitVec 5, Raises (.lmeet e b d) s g0 1 ∧ Raises (.lpc e b d) s g0 1))

/-- 08 R186 to R188: tiles by lane and whole tiles. Lanes 32 to 63 read 0 and write nothing; an index of 32 or more is Register-bound. -/
def Tiles : Prop :=
  (∀ (s : State) (g0 : Group) (c : BitVec 6) (v : BitVec 7) (t : BitVec 4),
    let g := g0.claim [.s c.toNat]
    let i := (g.sr c.toNat).toNat
    (Ready s g0 [.t t.toNat, .s c.toNat] [.v v.toNat] →
      (i < 32 →
        VecResult (.trdr c v t) s g v.toNat (fun j => if j < 32 then g.tw t.toNat (32 * i + j) else 0) ∧
        VecResult (.trdc c v t) s g v.toNat (fun j => if j < 32 then g.tw t.toNat (32 * j + i) else 0)) ∧
      (32 ≤ i → Raises (.trdr c v t) s g0 3 ∧ Raises (.trdc c v t) s g0 3)) ∧
    (Ready s g0 [.v v.toNat, .s c.toNat] [.t t.toNat] →
      (i < 32 →
        Completes (.twrr c v t) s g [.t t.toNat] (fun _ h => ∀ w, w < 1024 → h.tw t.toNat w =
          if w / 32 = i ∧ maskBit s.cur.mask (w % 32) then g.vr v.toNat (w % 32) else g.tw t.toNat w) ∧
        Completes (.twrc c v t) s g [.t t.toNat] (fun _ h => ∀ w, w < 1024 → h.tw t.toNat w =
          if w % 32 = i ∧ maskBit s.cur.mask (w / 32) then g.vr v.toNat (w / 32) else g.tw t.toNat w)) ∧
      (32 ≤ i → Raises (.twrr c v t) s g0 3 ∧ Raises (.twrc c v t) s g0 3))) ∧
  (∀ (s : State) (g : Group) (t : BitVec 4), Ready s g [] [.t t.toNat] →
    Completes (.tzero t) s g [.t t.toNat] fun _ h => ∀ w, w < 1024 → h.tw t.toNat w = 0) ∧
  (∀ (s : State) (g0 : Group) (c : BitVec 6) (t : BitVec 4), Ready s g0 [.s c.toNat] [.t t.toNat] →
    let g := g0.claim [.s c.toNat]
    let k := (g.sr c.toNat).toNat
    (g.nt ≤ k → Raises (.tmov c t) s g0 3) ∧
    (k < g.nt → g.isEmpty (.t k) = false → g0.readsBad s.cur.mask [.t k] = false →
      Completes (.tmov c t) s g [.t t.toNat] fun _ h => ∀ w, w < 1024 → h.tw t.toNat w = g.tw k w))

/-- 02 R40, 08 R192: SRD reads LANE and ORIGLANE in each lane, and every scalar special register once for the group; CLOCKLO latches the
high word that CLOCKHI returns. -/
def SpecialRegisters : Prop :=
  ∀ (s : State) (g : Group),
    (∀ d : BitVec 7, Ready s g [] [.v d.toNat] →
      VecResult (.srd 0 d) s g d.toNat (fun j => BitVec.ofNat 32 j) ∧
      VecResult (.srd 1 d) s g d.toNat (fun j => (g.lane j).orig)) ∧
    (∀ d : BitVec 7, d.toNat < 64 → Ready s g [] [.s d.toNat] → ∀ (tm : Team) (gr : Grid), g.kind ≠ .debug →
      s.teams.get? g.team = some tm → s.grids.get? tm.grid = some gr →
      let X := pktBits gr.packet 32 16
      let Y := pktBits gr.packet 48 16
      let Z := pktBits gr.packet 64 16
      let R := fun (n : BitVec 10) (x : Nat) => SclResult (.srd n d) s g d.toNat (BitVec.ofNat 32 x)
      R 2 g.width ∧ R 3 (g.sr 2).toNat ∧
      R 4 (tm.index % X) ∧ R 5 (tm.index / X % Y) ∧ R 6 (tm.index / X / Y) ∧ R 7 X ∧ R 8 Y ∧ R 9 Z ∧ R 10 g.level ∧
      R 14 (spOf s.cur.gid) ∧ R 15 ((s.part g.part).relCluster (clusterOf s.cur.gid)) ∧
      R 16 (s.part g.part).clusters.length ∧
      R 13 (dieOf s.cur.gid * 256 + quadOfCluster (clusterOf s.cur.gid) % 4 * 64 + clusterOf s.cur.gid % 12 * 4 + coreOf s.cur.gid % 4) ∧
      (Completes (.srd 11 d) s g [.s d.toNat] fun t h => ScalarHolds s t g h d.toNat (lo32 s.now) ∧ h.clockHi = some (hi32 s.now)) ∧
      (∀ x, g.clockHi = some x → SclResult (.srd 12 d) s g d.toNat x) ∧
      (g.clockHi = none → SclResult (.srd 12 d) s g d.toNat (hi32 s.now)))

/-- 02 R39, 08 R193: CRD reads and CWR writes a control register where its class allows it, once earlier flag-raising instructions have
completed; elsewhere the cause is Privilege. -/
def ControlRegisters : Prop :=
  ∀ (s : State) (g0 : Group) (n : BitVec 12) (c : BitVec 6),
    ((n.toNat = 0x10 ∨ n.toNat = 0x11) → s.flagsOpen s.cur.gid g0.uid = false) →
    (Ready s g0 [] [.s c.toNat] →
      ((crClass n.toNat = 2 ∧ s.cur.cls ≠ .debug) → Raises (.crd n c) s g0 2) ∧
      ((crClass n.toNat ≠ 2 ∨ s.cur.cls = .debug) →
        SclResult (.crd n c) s g0 c.toNat (s.crRead (coreOf s.cur.gid) g0 n.toNat))) ∧
    (Ready s g0 [.s c.toNat] [] →
      let g := g0.claim [.s c.toNat]
      let x := g.sr c.toNat
      ((crClass n.toNat = 1 ∨ (crClass n.toNat = 2 ∧ s.cur.cls ≠ .debug)) → Raises (.cwr n c) s g0 2) ∧
      ((crClass n.toNat = 0 ∨ (crClass n.toNat = 2 ∧ s.cur.cls = .debug)) →
        (crOfGroup n.toNat = true → Completes (.cwr n c) s g [] (fun _ h =>
          h.cr n.toNat = (g.cr n.toNat &&& ~~~(crWritable n.toNat)) ||| (x &&& crWritable n.toNat)) [n.toNat]) ∧
        (crOfGroup n.toNat = false → ∃ t h, exec (.cwr n c) s = .next t ∧ SameMemory s t ∧ t.group? s.cur.gid = some h ∧
          SameRegs g h [] [] ∧
          t.crRead (coreOf s.cur.gid) h n.toNat = crNext n.toNat (s.crRead (coreOf s.cur.gid) g n.toNat) x ∧
          ∀ m, m ≠ n.toNat → t.crRead (coreOf s.cur.gid) h m = s.crRead (coreOf s.cur.gid) g m)))

/-- 13 R260: branches send each lane of the active set to the target or to the next instruction. -/
def BranchTargets : Prop :=
  ∀ (s : State) (g : Group) (o : BitVec 16), 
    let target := s.cur.pc + 2 * o.signExtend 64
    (Ready s g [] [] → Branches (.br o) s g target (fun _ => true)) ∧
    (∀ a : BitVec 6, Ready s g [.s a.toNat] [] →
      let g' := g.claim [.s a.toNat]
      let x := g'.sr a.toNat
      Branches (.brz o a) s g' target (fun _ => decide (x = 0)) ∧
      Branches (.brnz o a) s g' target (fun _ => decide (x ≠ 0)) ∧
      Branches (.brneg o a) s g' target (fun _ => decide (x.toInt < 0))) ∧
    (∀ a : BitVec 4, Ready s g [.k a.toNat] [] →
      Branches (.brk o a) s g target (fun j => maskBit (g.kr a.toNat) j) ∧
      Branches (.brkn o a) s g target (fun j => !maskBit (g.kr a.toNat) j)) ∧
    (∀ a : BitVec 7, Ready s g [.v a.toNat] [] →
      Branches (.brv o a) s g target (fun j => decide (g.vr a.toNat j ≠ 0)) ∧
      Branches (.brvz o a) s g target (fun j => decide (g.vr a.toNat j = 0)))

/-- 13 R261, R262: jumps and calls, whose targets are even, and the meeting register. -/
def JumpsAndMeetings : Prop :=
  ∀ (s : State) (g : Group) (o : BitVec 16),
    let off := 2 * o.signExtend 64
    let even := fun x : DWord => x &&& ~~~(1 : DWord)
    (∀ a : BitVec 5, Ready s g [.s (2 * a.toNat), .s (2 * a.toNat + 1)] [] →
      let g' := g.claim [.s (2 * a.toNat), .s (2 * a.toNat + 1)]
      Completes (.jmp o a) s g' [] fun _ h =>
        GoesTo s g' h fun _ => even ((g'.sr (2 * a.toNat + 1) ++ g'.sr (2 * a.toNat)) + off)) ∧
    (∀ a : BitVec 5, 2 * a.toNat + 1 < 60 → Ready s g [] [.s (2 * a.toNat), .s (2 * a.toNat + 1)] →
      Completes (.call o a) s g [.s (2 * a.toNat), .s (2 * a.toNat + 1)] fun _ h =>
        GoesTo s g h (fun _ => s.cur.pc + off) ∧
        h.sr (2 * a.toNat + 1) ++ h.sr (2 * a.toNat) = s.cur.pc + 4) ∧
    (∀ a : BitVec 6, Ready s g [.v (2 * a.toNat), .v (2 * a.toNat + 1)] [] →
      (Completes (.jmpv o a) s g [] fun _ h =>
        GoesTo s g h fun j => even ((g.vr (2 * a.toNat + 1) j ++ g.vr (2 * a.toNat) j) + off)) ∧
      (Completes (.rstmeet a) s g [] fun _ h =>
        GoesTo s g h (fun _ => s.cur.pc + BitVec.ofNat 64 s.cur.len) ∧
        ∀ j, j < g.lanes.length → (h.lane j).meet =
          if maskBit s.cur.mask j then g.vr (2 * a.toNat + 1) j ++ g.vr (2 * a.toNat) j else (g.lane j).meet)) ∧
    (∀ a : BitVec 6, Ready s g [] [.v (2 * a.toNat), .v (2 * a.toNat + 1)] →
      Completes (.setmeet o a) s g [.v (2 * a.toNat), .v (2 * a.toNat + 1)] fun _ h =>
        GoesTo s g h (fun _ => s.cur.pc + BitVec.ofNat 64 s.cur.len) ∧
        (∀ j, j < 64 → maskBit s.cur.mask j = true →
          h.vr (2 * a.toNat + 1) j ++ h.vr (2 * a.toNat) j = (g.lane j).meet) ∧
        ∀ j, j < g.lanes.length → (h.lane j).meet = if maskBit s.cur.mask j then s.cur.pc + off else (g.lane j).meet)

/-- 18 R317: an H cause in ordinary code parks the lanes that raise it; they keep their registers and addresses, and the other lanes run on. -/
def TrapTaking : Prop :=
  ∀ (s : State) (g : Group) (mask : Mask) (cause : Nat) (code : Word) (d : Option Reg) (va : DWord),
    s.cur.cls = .ordinary → s.cur.defer = none → s.curGroup? = some g → s.handles g.part →
    ∃ h, Trapped s (s.raise g mask cause code d va) s.cur.gid g h (s.subWarp g mask cause code d va)

/-- 18 R322: TRAP and BREAK in ordinary code; with a resident debug handler BREAK advances and starts the lull wave (20 R347, R349). -/
def SoftwareTraps : Prop :=
  ∀ (s : State) (g : Group) (c : BitVec 16), Ready s g [] [] →
    (s.cur.cls ≠ .ordinary → Raises (.trap c) s g 1 ∧ Raises (.breakI c) s g 1) ∧
    (s.cur.cls = .ordinary → s.handles g.part → ∃ t h, exec (.trap c) s = .next t ∧
      Trapped s t s.cur.gid g h (s.subWarp g s.cur.mask 5 (c.setWidth 32) none 0)) ∧
    (s.cur.cls = .ordinary → s.handles g.part → (s.part g.part).resident = false → ∃ t h, exec (.breakI c) s = .next t ∧
      Trapped s t s.cur.gid g h (s.subWarp g s.cur.mask 6 (c.setWidth 32) none 0)) ∧
    (s.cur.cls = .ordinary → (s.part g.part).resident = true → Does (.breakI c) s [.groups, .sps, .parts] fun t =>
      ∃ h, t.group? s.cur.gid = some h ∧ OnlyGroup s t s.cur.gid ∧ OnlyPart s t g.part ∧ SameRegs g h [] [] ∧
        GoesTo s g h (fun _ => s.cur.pc + BitVec.ofNat 64 s.cur.len) ∧ (t.sp (spIdOf s.cur.gid)).frozen = true ∧
        ((s.part g.part).wave = none → (s.part g.part).stoppedAll = false →
          (t.part g.part).wave = some { time := s.now.toNat, die := dieOf s.cur.gid } ∧
          (t.part g.part).cr 0x80 = BitVec.ofNat 32
            (2 ^ 31 + s.mc.pkgId.toNat * 2 ^ 20 + coreOf s.cur.gid * 1024 + spOf s.cur.gid * 256 + 97) ∧
          (t.part g.part).cr 0x81 = BitVec.ofNat 32 (c.toNat * 65536)))

/-- 18 R318, R320, R327; 20 R343: a cause without a handler, and a cause in a handler, fault the context; a cause in the debug slot ends its
run, whose registers stay, with a NOTICE record. -/
def ContextFaults : Prop :=
  (∀ (s : State) (part cause : Nat) (gid : Option Nat) (va pc : DWord) (ch en : Nat) (code : DWord) (w : Word),
    (s.part part).faulted = false → Faulted s (s.contextFault part gid cause va pc ch en code w) part cause va pc) ∧
  (∀ (s : State) (g : Group) (mask : Mask) (cause : Nat) (code : Word) (d : Option Reg) (va : DWord),
    s.curGroup? = some g → s.cur.defer = none → (s.part g.part).faulted = false →
    (s.cur.cls = .ordinary → (s.part g.part).trapVec = 0 →
      Faulted s (s.raise g mask cause code d va) g.part cause va s.cur.pc) ∧
    (s.cur.cls = .handler → Faulted s (s.raise g mask cause code d va) g.part 68 va s.cur.pc) ∧
    (s.cur.cls = .debug →
      let t := s.raise g mask cause code d va
      (∃ h, t.group? s.cur.gid = some h ∧ SameRegs g h [] [] ∧ ∀ j, j < g.lanes.length → (h.lane j).st = .exited) ∧
      (t.part g.part).dbgRun = none ∧ (t.part g.part).faulted = false ∧
      ∃ r, (t.part g.part).frecs.getLast? = some r ∧ r.kind = 3 ∧ r.cause = 68 ∧ r.pc = s.cur.pc))

/-- 18 R318, R321: entering the handler loads the frame of the oldest parked sub-warp, elects its lowest lane and starts at cr.TRAPVEC; the
running lanes keep their registers and addresses. -/
def HandlerEntry : Prop :=
  ∀ (s : State) (gid : Nat) (g : Group) (x : Parked) (r : List Parked), s.group? gid = some g → g.handling = none → g.parked = x :: r →
    (s.part g.part).trapVec ≠ 0 → g.enterAt ≤ (s.part g.part).clock → (s.part g.part).faulted = false →
    (s.sp (spIdOf gid)).frozen = false →
    Does (.handlerEntry gid) s [.groups] fun t => OnlyGroup s t gid ∧ ∃ h k, t.group? gid = some h ∧
      SameRegs g h [] [0x42, 0x43, 0x44, 0x45, 0x46, 0x47, 0x48, 0x49, 0x4A] ∧ h.lanes = g.lanes ∧ h.parked = r ∧
      h.handling = some k ∧ k.pc = (s.part g.part).trapVec ∧ k.rep = none ∧ k.issues = 0 ∧
      (∀ j, j < 64 → maskBit x.mask j = true → (∀ i, i < j → maskBit x.mask i = false) → k.lane = j) ∧
      h.cr64 0x42 = x.mask ∧ h.cr64 0x44 = x.pc ∧
      h.cr 0x46 = BitVec.ofNat 32 (x.code.toNat % 65536 * 65536 + x.cause) ∧
      h.cr 0x47 = (match x.rep with | some i => BitVec.ofNat 32 (2 ^ 31 + i) | none => 0) ∧
      h.cr 0x48 = x.info ∧ h.cr64 0x49 = x.va

/-- 18 R322: RTRAP resumes the lanes of cr.TRAPMASK at cr.TRAPLOC with age 0 and the repeat of cr.TRAPREP, and ends the handler; outside a
handler it is Illegal-instruction. -/
def ReturnFromTrap : Prop :=
  ∀ (s : State) (g : Group), Ready s g [] [] →
    (s.cur.cls ≠ .handler → Raises .rtrap s g 1) ∧
    (s.cur.cls = .handler → Does .rtrap s [.groups, .sps] fun t => OnlyGroup s t s.cur.gid ∧ ∃ h, t.group? s.cur.gid = some h ∧
      SameRegs g h [] [] ∧ h.handling = none ∧ h.parked = g.parked ∧ h.enterAt = (s.part g.part).clock + 1 ∧
      ∀ j, j < g.lanes.length →
        if maskBit (g.cr64 0x42) j then
          (h.lane j).pc = g.cr64 0x44 &&& ~~~(1 : DWord) ∧ (h.lane j).parked = false ∧ (h.lane j).age = 0 ∧
          (h.lane j).resume = if (g.cr 0x47).getLsbD 31 then some ((g.cr 0x47).toNat % 64) else none
        else (h.lane j).pc = (g.lane j).pc ∧ (h.lane j).parked = (g.lane j).parked)

/-- 02 R54 to R56: a REP whose repeats are all legal begins its sequence at its own address with the lowest lane's index; one that a repeat
forbids raises that cause before any repeat. Fetching the target leaves what a fetch leaves: translations in TLBs, and errors it found
corrected (03 R77, R81); a page that no TLB holds is walked first. A stepped destination that would be s62 or s63 counts as
Illegal-instruction by the model's choice (log entry 65). -/
def RepeatBegins : Prop :=
  ∀ (s : State) (g : Group) (w : BitVec 2) (x y z : Bool) (c : BitVec 6), Ready s g [] [] → s.cur.rep = false →
    let r : Rep := { pc := s.cur.pc, mask := s.cur.mask, idx := 0, count := c.toNat + 1, tlen := 0, stride := 2 ^ w.toNat,
                     stepD := z, stepA := y, stepB := x }
    let i := (g.lane ((lanesOf s.cur.mask).head?.getD 0)).resume.getD 0
    let first := fun j => maskBit s.cur.mask j && decide ((g.lane j).resume.getD 0 = i)
    let target := (s.atCost 1).fetch (s.issuer s.cur.gid g) (s.cur.pc + 4)
    let Begins := fun P => Does (.rep w x y z c) s [.groups, .sps, .cores, .clusters, .dies, .parts, .poison] fun t =>
      OnlyGroup s t s.cur.gid ∧ ∃ h, t.group? s.cur.gid = some h ∧ SameRegs g h [] [] ∧ P h
    (∀ len u, target = .illegal len u → Raises (.rep w x y z c) s g 1) ∧
    (∀ e, target = .cause e →
      exec (.rep w x y z c) s = .next ((s.atCost 1).causeFor (g.taken {} s.cur.mask) s.cur.mask e.code e.va none)) ∧
    (∀ page, target = .miss page → Does (.rep w x y z c) s [.groups, .dies] fun t => t.waited = true ∧ OnlyGroup s t s.cur.gid ∧
      OnlyDie s t (dieOf s.cur.gid) ∧ ⟨g.part, page⟩ ∈ (t.die (dieOf s.cur.gid)).walks ∧
      ∃ h, t.group? s.cur.gid = some h ∧ h.lanes = g.lanes ∧ SameRegs g h [] []) ∧
    (∀ t len word, target = .instr t len word →
      (∀ k, r.refusal g len word = some k → Raises (.rep w x y z c) s g k) ∧
      (r.refusal g len word = none →
        (s.cur.cls ≠ .handler → Begins fun h =>
          (i < r.count → (∃ m, h.rep = some { r with mask := m, idx := i, tlen := len } ∧
              ∀ j, j < g.lanes.length → j < 64 → maskBit m j = first j) ∧
            ∀ j, j < g.lanes.length → (h.lane j).pc = (g.lane j).pc) ∧
          (r.count ≤ i → ∀ j, j < g.lanes.length → j < 64 →
            (h.lane j).pc = if first j then s.cur.pc + 4 + BitVec.ofNat 64 len else (g.lane j).pc)) ∧
        (s.cur.cls = .handler → ∀ k, g.handling = some k → Begins fun h =>
          ∃ k', h.handling = some k' ∧ k'.rep = some { r with tlen := len } ∧ k'.pc = s.cur.pc)))

/-- 13 R264: SLEEP, YIELD, WAITF and REPACK, and the ends of SLEEP and YIELD. -/
def Scheduling : Prop :=
  (∀ (s : State) (g : Group) (n : BitVec 16), Ready s g [] [] →
    let now := s.timeOf g.part s.cur.gid
    let on := fun h => GoesTo s g h fun _ => s.cur.pc + BitVec.ofNat 64 s.cur.len
    (Completes (.sleep n) s g [] fun _ h => on h ∧
      (s.cur.cls ≠ .handler → h.sleep = if n = 0 then g.sleep else now + 1 + n.toNat) ∧
      (s.cur.cls = .handler → ∀ k, g.handling = some k → ∃ k', h.handling = some k' ∧
        k'.start = if n = 0 then k.start else max k.start (now + 1 + n.toNat))) ∧
    (Completes .yield s g [] fun _ h => on h ∧
      (s.cur.cls ≠ .handler → h.yield = some (now + 64, s.cur.others)) ∧
      (s.cur.cls = .handler → ∀ k, g.handling = some k → ∃ k', h.handling = some k' ∧
        k'.yield = some (now + 64, s.cur.others))) ∧
    (s.cur.cls ≠ .ordinary → Raises .repack s g 1) ∧
    (s.cur.cls = .ordinary → (g.kind = .closestHit ∨ g.kind = .viewShade) → Raises .repack s g 32) ∧
    (s.cur.cls = .ordinary → g.kind ≠ .closestHit → g.kind ≠ .viewShade → Holds .repack s g .repack fun _ _ => True) ∧
    (∀ (c : BitVec 2) (a : BitVec 7),
      let r := if c = 0 then Reg.v a.toNat else if c = 1 then Reg.s a.toNat else if c = 2 then Reg.k a.toNat else Reg.t a.toNat
      let empty := r ≠ .s 60 ∧ if r = .s 62 then g.kind ≠ .debug ∧ g.rxq = [] else g.isEmpty r = true
      (g.has r = false → Raises (.waitf c a) s g 3) ∧
      (g.has r = true → empty → Waits (.waitf c a) s g) ∧
      (g.has r = true → ¬ empty → Completes (.waitf c a) s g [] fun _ h => on h))) ∧
  (∀ (s : State) (gid : Nat) (g : Group), s.group? gid = some g →
    ((s.part g.part).stoppedAll = false ∨ slotOf gid = 16) →
    (g.sleep ≠ 0 → g.sleep ≤ s.timeOf g.part gid → Does (.sleepExpiry gid) s [.groups] fun t =>
      OnlyGroup s t gid ∧ t.group? gid = some { g with sleep := 0 }) ∧
    (∀ lim xs, g.yield = some (lim, xs) → (xs = [] ∨ lim ≤ s.timeOf g.part gid) → Does (.yieldExpiry gid) s [.groups] fun t =>
      OnlyGroup s t gid ∧ ∃ h, t.group? gid = some h ∧ h.yield = none ∧ h.lanes = g.lanes ∧ SameRegs g h [] []))

/-- 04 R85 to R89, 08 R189, R191: a load, an atomic or a tile load whose lanes all resolve leaves its parts to be performed and its
destination empty. -/
def LoadIssue : Prop :=
  (∀ (s : State) (g : Group) (sp o : BitVec 2) (q : BitVec 4) (a d : BitVec 7) (z : BitVec 3) (ps : Nat → List Piece),
    Ready s g (addressRegs .v sp a.toNat) (regsFrom .v d.toNat (sizeRegs z)) →
    (∀ j ∈ lanesOf s.cur.mask,
      s.resolveAcc g sp .load (laneAddress g sp a.toNat j) (sizeBytes z) (o != 0) none = .ok (ps j)) →
    LoadIssued (.ld sp o q a d z) s g (regsFrom .v d.toNat (sizeRegs z)) (lanesOf s.cur.mask) ps
      ⟨.ls, q.toNat, o == 1, false, fun j => [j]⟩ (fun _ _ => .read) (.load false (z == 1 || z == 3) (sizeBytes z) d.toNat [])) ∧
  (∀ (s : State) (g0 : Group) (sp o : BitVec 2) (q : BitVec 4) (a d : BitVec 7) (z : BitVec 3) (ps : List Piece),
    Ready s g0 (addressRegs .s sp a.toNat) (regsFrom .s d.toNat (sizeRegs z)) →
    let g := g0.claim (addressRegs .s sp a.toNat)
    s.resolveAcc g sp .load (scalarAddress g sp a.toNat) (sizeBytes z) (o != 0) none = .ok ps →
    LoadIssued (.lds sp o q a d z) s g (regsFrom .s d.toNat (sizeRegs z)) [0] (fun _ => ps)
      ⟨.ls, q.toNat, o == 1, false, fun _ => lanesOf s.cur.mask⟩ (fun _ _ => .read) (.load true (z == 1 || z == 3) (sizeBytes z) d.toNat [])) ∧
  (∀ (s : State) (g : Group) (sp o : BitVec 2) (q : BitVec 4) (a d : BitVec 7) (p : BitVec 3) (ps : Nat → List Piece),
    Ready s g (addressRegs .v sp a.toNat ++ regsFrom .v d.toNat (if p = 7 then 2 else 1)) [.v d.toNat] →
    (∀ j ∈ lanesOf s.cur.mask,
      s.resolveAcc g sp .atomic (laneAddress g sp a.toNat j) 4 (o != 0) (some (p.toNat, 4)) = .ok (ps j)) →
    LoadIssued (.atom32 sp o q a d p) s g [.v d.toNat] (lanesOf s.cur.mask) ps
      ⟨.ls, q.toNat, o.getLsbD 0, o.getLsbD 1, fun j => [j]⟩ (fun j _ => .atomic p.toNat 4 ((g.vr d.toNat j).setWidth 64) ((g.vr (d.toNat + 1) j).setWidth 64)) (.atom 4 d.toNat [])) ∧
  (∀ (s : State) (g : Group) (sp o : BitVec 2) (q : BitVec 4) (a d : BitVec 7) (p : BitVec 3) (ps : Nat → List Piece),
    Ready s g (addressRegs .v sp a.toNat ++ regsFrom .v d.toNat (if p = 7 then 4 else 2)) [.v d.toNat, .v (d.toNat + 1)] →
    (∀ j ∈ lanesOf s.cur.mask,
      s.resolveAcc g sp .atomic (laneAddress g sp a.toNat j) 8 (o != 0) (some (p.toNat, 8)) = .ok (ps j)) →
    LoadIssued (.atom64 sp o q a d p) s g [.v d.toNat, .v (d.toNat + 1)] (lanesOf s.cur.mask) ps
      ⟨.ls, q.toNat, o.getLsbD 0, o.getLsbD 1, fun j => [j]⟩ (fun j _ => .atomic p.toNat 8 (g.vr (d.toNat + 1) j ++ g.vr d.toNat j) (g.vr (d.toNat + 3) j ++ g.vr (d.toNat + 2) j))
      (.atom 8 d.toNat [])) ∧
  (∀ (s : State) (g0 : Group) (q : BitVec 4) (sc : BitVec 5) (t : BitVec 4) (ps : Nat → List Piece),
    Ready s g0 (regsFrom .s (2 * sc.toNat) 3) [.t t.toNat] →
    let g := g0.claim (regsFrom .s (2 * sc.toNat) 3)
    (∀ i : Nat, i < 32 → s.resolveFlat (s.issuer s.cur.gid g) .load
      (scalarAddress g 0 (2 * sc.toNat) + BitVec.ofInt 64 (i * (g.sr (2 * sc.toNat + 2)).toInt)) 128 = .ok (ps i)) →
    LoadIssued (.tld q sc t) s g [.t t.toNat] (List.range 32) ps ⟨.mx, q.toNat, false, false, fun _ => []⟩ (fun _ _ => .read) (.tile t.toNat []))

/-- 04 R85 to R88, 08 R189, R190: a store whose lanes all resolve leaves its parts, with their bytes, to be performed: no byte of memory
changes at the issue. A lane that faults keeps the whole issue from any effect. -/
def StoreIssue : Prop :=
  (∀ (s : State) (g : Group) (sp o : BitVec 2) (q : BitVec 4) (a d : BitVec 7) (z : BitVec 3),
    Ready s g (addressRegs .v sp a.toNat ++ regsFrom .v d.toNat (sizeRegs z)) [] →
    let r : Resolved := (lanesOf s.cur.mask).map fun j =>
      (j, s.resolveAcc g sp .store (laneAddress g sp a.toNat j) (sizeBytes z) (o != 0) none)
    (faultsOf r ≠ [] → exec (.st sp o q a d z) s = .next ((s.atCost (costLane g)).memFault
      (g.taken { srcs := addrSrcsV sp a ++ srcVs d.toNat (sizeRegs z) false } s.cur.mask) (faultsOf r) none)) ∧
    (∀ ps : Nat → List Piece, (∀ x ∈ r, x.2 = .ok (ps x.1)) →
      StoreIssued (.st sp o q a d z) s g (lanesOf s.cur.mask) ps
        ⟨.ls, q.toNat, false, o == 2, fun j => [j]⟩ (fun j p => .write (pieceData (regBytes (sizeBytes z) fun k => g.vr (d.toNat + k) j) p)))) ∧
  (∀ (s : State) (g0 : Group) (sp o : BitVec 2) (q : BitVec 4) (a d : BitVec 7) (z : BitVec 3) (ps : List Piece),
    Ready s g0 (addressRegs .s sp a.toNat ++ regsFrom .s d.toNat (sizeRegs z)) [] →
    let g := g0.claim (addressRegs .s sp a.toNat ++ regsFrom .s d.toNat (sizeRegs z))
    s.resolveAcc g sp .store (scalarAddress g sp a.toNat) (sizeBytes z) (o != 0) none = .ok ps →
    StoreIssued (.sts sp o q a d z) s g [0] (fun _ => ps)
      ⟨.ls, q.toNat, false, o == 2, fun _ => lanesOf s.cur.mask⟩ (fun _ p => .write (pieceData (regBytes (sizeBytes z) fun k => g.sr (d.toNat + k)) p))) ∧
  (∀ (s : State) (g0 : Group) (q : BitVec 4) (sc : BitVec 5) (t : BitVec 4) (ps : Nat → List Piece),
    Ready s g0 (.t t.toNat :: regsFrom .s (2 * sc.toNat) 3) [] →
    let g := g0.claim (regsFrom .s (2 * sc.toNat) 3)
    (∀ i : Nat, i < 32 → s.resolveFlat (s.issuer s.cur.gid g) .store
      (scalarAddress g 0 (2 * sc.toNat) + BitVec.ofInt 64 (i * (g.sr (2 * sc.toNat + 2)).toInt)) 128 = .ok (ps i)) →
    StoreIssued (.tst q sc t) s g (List.range 32) ps ⟨.mx, q.toNat, false, false, fun _ => []⟩
      (fun i p => .write (pieceData (regBytes 128 fun k => g.tw t.toNat (32 * i + k)) p))) ∧
  (∀ (s : State) (g : Group) (fs : List (Nat × Cause)) (d : Option Reg) (j : Nat) (c : Cause),
    fs.find? (fun x => x.2.code != 13) = some (j, c) → (∀ x ∈ fs, x.2.code ≠ 64 ∧ x.2.code ≠ 67 ∧ x.2.code ≠ 71) →
    ∃ m : Mask, (∀ i, i < 64 → maskBit m i = (fs.any fun x => x.1 == i)) ∧ s.memFault g fs d = s.raise g m c.code 0 d c.va) ∧
  (∀ (s : State) (g : Group) (fs : List (Nat × Cause)) (d : Option Reg) (j : Nat) (c : Cause),
    fs.find? (fun x => x.2.code == 67) = some (j, c) → (∀ x ∈ fs, x.2.code ≠ 64) → s.cur.cls = .ordinary →
    s.memFault g fs d = (s.setGroup s.cur.gid g).contextFault g.part (some s.cur.gid) 67 c.va s.cur.pc 0 0 0) ∧
  (∀ (s : State) (g : Group) (fs : List (Nat × Cause)) (d : Option Reg) (j : Nat) (c : Cause), fs.head? = some (j, c) →
    (∀ x ∈ fs, x.2.code = 13) → s.memFault g fs d = s.lazyStop g c.va)

/-- 04 R101 to R103: a fence waits while an access or an operation it names is open, and then goes on; the stores it names are performed at
its scope with respect to its path, and later accesses of its threads in its streams follow it; it has no other effect. -/
def Fences : Prop :=
  ∀ (s : State) (g : Group), Ready s g [] [] →
    let F := fun (i : Instr) (open' : Bool) (after : Nat → Bool) (streams : BitVec 16) (P : Late → Late → Prop) =>
      (open' = true → Waits i s g) ∧
      (open' = false → ∃ (t : State) (h : Group), exec i s = .next t ∧ Frame s { t with late := s.late } g h [] ∧
        GoesTo s g h (fun _ => s.cur.pc + BitVec.ofNat 64 s.cur.len) ∧
        (∀ j, j < g.lanes.length → (h.lane j).sync.all =
          if after j then (g.lane j).sync.all ||| streams else (g.lane j).sync.all) ∧
        ∀ c, (t.lags c).length = (s.lags c).length ∧ ∀ (k : Nat) (e : Late), (s.lags c)[k]? = some e → ∃ e', (t.lags c)[k]? = some e' ∧ e'.old = e.old ∧
          e'.path = e.path ∧ e'.who = e.who ∧ e'.stamp = e.stamp ∧ e'.seen = e.seen ∧ P e e')
    let mine := (lanesOf s.cur.mask).map fun j => (g.lane j).tid
    let every := fun j => decide (j < g.width) && decide (j < 64)
    let made := fun (e : Late) (m : BitVec 16) =>
      ∃ x ∈ e.seen, x.tid ∈ mine ∧ (x.stream = 16 ∨ m.getLsbD x.stream = true) ∧ x.acc < s.fresh
    (∀ (p : BitVec 2) (m : BitVec 16), F (.fenceS p m) (s.accs.any fun x => x.2.path == .ls &&
      (m.getLsbD x.2.stream || x.2.okind == .so) && x.2.who.any fun w => mine.contains w.1) (maskBit s.cur.mask) m fun e e' =>
        (made e m → e'.performed .ls (p.toNat + 1) g.team) ∧ ∀ r, r ≠ .ls → e'.level r = e.level r) ∧
    (∀ (p : BitVec 2) (b a : BitVec 3), F (.fenceP p b a) (s.pathOpen s.cur.gid g mine a.toNat)
      (fun j => decide (b = 0) && (if a = 0 then maskBit s.cur.mask j else every j)) allStreams fun e e' =>
        ((if a = 0 then made e allStreams else e.path = Path.ofNum a.toNat ∧ e.uid = g.uid) →
          e'.performed (Path.ofNum b.toNat) (p.toNat + 1) g.team) ∧
        ∀ r, r ≠ Path.ofNum b.toNat → e'.level r = e.level r) ∧
    F .fenceA (s.accs.any (fun x => x.2.uid == g.uid) ||
      (List.range 6).any fun p => s.pathOpen s.cur.gid g (g.lanes.map (·.tid)) p) every allStreams fun e e' =>
        e.uid = g.uid → ∀ r, 4 ≤ e'.level r

/-- 04 R87, R89, R94 to R96, R99: performing a part gives its bytes to its operation, or changes exactly its own bytes, for every agent unless
the stores of the event lag, and an atomic does both at once; a compare that fails writes nothing. A release first performs at its
scope the stores that its threads' earlier accesses in its stream made or returned; what a read returns its threads see from then on, and
an acquire performs it at its scope. -/
def AccessPerformed : Prop :=
  ∀ (s : State) (i : Nat) (a : Acc), s.accs.get? i = some a → a.walk = none → a.loc.space ≠ .peer →
    ((s.part a.part).stoppedAll = false ∨ slotOf a.gid = 16) → s.unordered i a = true →
    (a.loc.space = .host → s.hostLost = false) → (a.loc.space = .tier → s.cxlDown = []) →
    ∃ u t, s.performStep i a [] = some u ∧ exec (.memoryAccessPerform i []) s = .next t ∧
      ((∀ x ∈ s.groups, ∀ l ∈ x.2.lanes, ∀ n m b, l.hold ≠ some (.barm n m b)) → t = u) ∧
      u.accs.get? i = none ∧ (∀ k, k ≠ i → u.accs.get? k = s.accs.get? k) ∧
      Keeps s u [.mem, .late, .poison, .accs, .ops, .parts] ∧ (s.weak = [] → ∀ k, u.part k = s.part k) ∧
      OnlyOp s u a.op ∧
      (s.late.now = none → ∀ c, s.lags c = [] → u.lags c = []) ∧
      (∀ o, s.ops.get? a.op = some o → ∃ o', u.ops.get? a.op = some o' ∧ o'.dests = o.dests ∧
        (a.act = .read → o'.bad = if s.poisoned a.loc then some (o.bad.getD a.va) else o.bad) ∧
        (a.act = .read → ∀ sc sx n d data, o.kind = .load sc sx n d data → ∃ data', o'.kind = .load sc sx n d data' ∧
          ∀ k, data'.get k = if a.lane * 32 + a.boff ≤ k ∧ k < a.lane * 32 + a.boff + a.len
            then ((s.viewBytes (a.viewer []) a.loc a.len)[k - (a.lane * 32 + a.boff)]?).getD 0 else data.get k)) ∧
      (a.path = .ls → a.rel = true → a.okind ≠ .so → ∀ c, ∀ e ∈ s.lags c,
        (∃ x ∈ e.seen, x.tid ∈ a.tids ∧ (x.stream = 16 ∨ x.stream = a.stream) ∧ a.stream < 16 ∧ x.uo = false ∧ x.acc < i) →
        u.lags c ≠ [] → ∃ e' ∈ u.lags c, e'.stamp = e.stamp ∧ e'.old = e.old ∧ e'.performed .ls a.scope a.team) ∧
      (a.path = .ls → a.act = .read → ∀ c, a.at c = true → ∀ e ∈ s.lags c,
        e.stamp < s.horizon (a.viewer []) (upTo a.loc.cell a.len) → ∃ e' ∈ u.lags c, e'.stamp = e.stamp ∧ e'.old = e.old ∧
          (∀ t ∈ a.tids, ⟨t, a.member, a.okind == .uo, i⟩ ∈ e'.seen) ∧
          (a.acq = true → a.okind ≠ .so → e.path = .ls → (∀ t ∈ a.tids, t ∉ e.who) → e'.performed .ls a.scope a.team)) ∧
      (a.act = .read → SameMemory s u) ∧
      (∀ bs, a.act = .write bs → ∀ cell, Memory.byte u.mem cell =
        if a.loc.cell ≤ cell ∧ cell < a.loc.cell + bs.length then (bs[cell - a.loc.cell]?).getD 0 else Memory.byte s.mem cell) ∧
      (∀ bs, a.act = .write bs → ∀ cell, a.loc.cell ≤ cell → cell < a.loc.cell + bs.length →
        (s.late.now = none → u.lags cell = []) ∧
        (∀ e, s.late.now = some e → ∃ e' r, u.lags cell = e' :: r ∧ e'.old = Memory.byte s.mem cell ∧ e'.path = e.path ∧ e'.who = e.who)) ∧
      (∀ op x nv, a.act = .atomic op 4 x nv → a.len = 4 → op < 8 →
        let old := Memory.byte s.mem (a.loc.cell + 3) ++ Memory.byte s.mem (a.loc.cell + 2) ++
          Memory.byte s.mem (a.loc.cell + 1) ++ Memory.byte s.mem a.loc.cell
        let b := x.setWidth 32
        let new : Word := match op with
          | 0 => old + b
          | 1 => if old.toInt ≤ b.toInt then old else b
          | 2 => if old.toInt ≤ b.toInt then b else old
          | 3 => old &&& b
          | 4 => old ||| b
          | 5 => old ^^^ b
          | 6 => b
          | _ => if old.setWidth 64 = x then nv.setWidth 32 else old
        ∀ cell, Memory.byte u.mem cell = if a.loc.cell ≤ cell ∧ cell < a.loc.cell + 4
          then new.extractLsb' (8 * (cell - a.loc.cell)) 8 else Memory.byte s.mem cell)

/-- 03 R79; 04 R93 to R96: what an access reads is what its bytes held before the stores from some place on, one place for the whole access;
it sees every store that it must see, and, unless it takes an older copy, every store that is performed for it. A thread must see a store
that an access of it in the stream made or returned, and may see its own; an agent of the package sees a store performed at device scope
with respect to its path, or at its team's. How a store comes to lag is the model's choice (log entry 4). -/
def StoresSeen : Prop :=
  (∀ (s : State) (v : Viewer) (l : Loc) (n : Nat), ∃ N,
    (∀ i, i < n → (s.viewBytes v l n)[i]? = some (byteBefore N (s.lags (l.cell + i)) (Memory.byte s.mem (l.cell + i)))) ∧
    (∀ i, i < n → ∀ e ∈ s.lags (l.cell + i), (e.must v = true ∨ (e.open v = true ∧ v.upTo = none)) → e.stamp < N) ∧
    (N ≠ 0 → ∃ i, i < n ∧ ∃ e ∈ s.lags (l.cell + i), (e.must v = true ∨ e.open v = true) ∧ N = e.stamp + 1)) ∧
  (∀ (N : Nat) (es : List Late) (b : Byte), ((∀ e ∈ es, e.stamp < N) → byteBefore N es b = b) ∧
    (∀ e, es.getLast? = some e → byteBefore 0 es b = e.old)) ∧
  (∀ (e : Late) (v : Viewer),
    (v.path = .ls → ∀ x ∈ e.seen, x.tid ∈ v.who → (v.so = true ∨ x.stream = 16 ∨ x.stream = v.stream) → e.must v = true) ∧
    (v.path = .ls → (∃ t ∈ v.who, t ∈ e.who) → e.open v = true) ∧
    (v.far = 2 → e.performed v.path 2 v.team → e.open v = true) ∧
    (v.far = 2 → e.team = v.team → e.performed v.path 1 v.team → e.open v = true) ∧
    (v.far = 2 → e.level v.path = 0 → (∀ q ∈ e.teams, q ≠ (v.path, v.team)) → e.among v.saw = false →
      (∀ t ∈ v.who, t ∉ e.who ∧ ∀ x ∈ e.seen, x.tid ≠ t) → e.must v = false ∧ e.open v = false))

/-- 04 R85, R86, R89; 08 R189: a fill writes the bytes that came, extended as the size says, and marks the registers full; poisoned data
faults the context instead (03 R81); a lane that has exited keeps no values (08 R175). -/
def LoadFills : Prop :=
  (∀ (s : State) (id : Nat) (o : Op) (g : Group) (sx : Bool) (d : Nat) (z : BitVec 3) (data : Store 8), Due s id o g →
    let n := sizeBytes z
    let gets := fun j => maskBit o.mask j = true ∧ (g.lane j).st ≠ .exited
    let word := fun (at' : Nat) (k : Nat) =>
      let b := fun i => data.get (at' + 4 * k + i)
      if n = 1 then (if sx then (b 0).signExtend 32 else (b 0).setWidth 32)
      else if n = 2 then (if sx then (b 1 ++ b 0).signExtend 32 else (b 1 ++ b 0).setWidth 32)
      else b 3 ++ b 2 ++ b 1 ++ b 0
    (o.kind = .load false sx n d data → o.dests = regsFrom .v d (sizeRegs z) → Fills (.loadFill id) s id o g fun h =>
      ∀ k, k < sizeRegs z → ∀ j, j < 64 → h.vr (d + k) j = if gets j then word (j * 32) k else g.vr (d + k) j) ∧
    (o.kind = .load true sx n d data → o.dests = regsFrom .s d (sizeRegs z) → d + sizeRegs z ≤ 60 →
      Fills (.loadFill id) s id o g fun h => ∀ k, k < sizeRegs z → h.s.get (d + k) = word 0 k)) ∧
  (∀ (s : State) (id : Nat) (o : Op) (g : Group) (d : Nat) (data : Store 8), Due s id o g →
    let gets := fun j => maskBit o.mask j = true ∧ (g.lane j).st ≠ .exited
    let word := fun (i : Nat) => data.get (i + 3) ++ data.get (i + 2) ++ data.get (i + 1) ++ data.get i
    (o.kind = .atom 4 d data → o.dests = [.v d] → Fills (.loadFill id) s id o g fun h =>
      ∀ j, j < 64 → h.vr d j = if gets j then word (j * 32) else g.vr d j) ∧
    (o.kind = .atom 8 d data → o.dests = [.v d, .v (d + 1)] → Fills (.loadFill id) s id o g fun h =>
      ∀ j, j < 64 → (h.vr d j = if gets j then word (j * 32) else g.vr d j) ∧
        h.vr (d + 1) j = if gets j then word (j * 32 + 4) else g.vr (d + 1) j) ∧
    (o.kind = .tile d data → o.dests = [.t d] → Fills (.tldComplete id) s id o g fun h =>
      ∀ w, w < 1024 → h.tw d w = word (4 * w))) ∧
  (∀ (s : State) (id : Nat) (o : Op) (va : DWord), s.ops.get? id = some o → s.opReady id o = true → o.bad = some va →
    (s.part o.part).faulted = false →
    (∀ sc sx n d data, o.kind = .load sc sx n d data → ∃ t, exec (.loadFill id) s = .next t ∧ Faulted s t o.part 64 va o.pc) ∧
    (∀ d data, o.kind = .tile d data → ∃ t, exec (.tldComplete id) s = .next t ∧ Faulted s t o.part 64 va o.pc))

/-- 03 R77, R81, R83: the end of a page walk answers the parts of its die that wait for the page and fills the die's TLB with a leaf; the
scrubber corrects and counts what it finds and marks an uncorrectable line. -/
def WalksAndScrub : Prop :=
  (∀ (s : State) (p die : Nat) (va : DWord), s.walkDie p va.toNat = some die → (s.part p).stoppedAll = false →
    Does (.pageWalkComplete p va) s [.accs, .dies, .cores, .clusters] fun t => OnlyDie s t die ∧
      (∀ i, t.accs.get? i = (s.accs.get? i).map fun a =>
        if a.part = p ∧ a.walk = some va.toNat ∧ dieOf a.gid = die then { a with walk := none } else a) ∧
      (t.die die).walks = (s.die die).walks.filter (fun w => w != ⟨p, va.toNat⟩) ∧
      (∀ e size, s.walk p va = .ok (e, size) → pteLz e = false →
        (t.die die).tlb = tlbPush 16384 ⟨p, va.toNat / size * size, size, e⟩ (s.die die).tlb) ∧
      (∀ c, s.walk p va = .error c → (t.die die).tlb = (s.die die).tlb) ∧
      (∀ c, ∃ a, t.core c = { s.core c with tlb := a }) ∧ ∀ c, ∃ a, t.cluster c = { s.cluster c with tlb := a }) ∧
  (∀ (s : State) (p line space o : Nat) (l : Loc),
    ((space = 0 ∧ line * 64 + 64 ≤ (s.part p).hbmSize ∧ l = ⟨.hbm, p, line * 64⟩) ∨
      (space = 1 ∧ (s.part p).vaultLoc (line * 64) 64 = some l)) → s.ownerOf l = some o →
    let corrects := fun found => Does (.patrolScrub p space line found) s [.parts, .poison] fun t => OnlyPart s t o ∧
      t.part o = { s.part o with softCorr := (s.part o).softCorr + 1 } ∧ t.poison = s.poison ∧ t.weak = s.weak.erase (l.cell / 64)
    (l.cell / 64 ∉ s.weak → Does (.patrolScrub p space line 0) s [] fun _ => True) ∧
    (l.cell / 64 ∈ s.weak → corrects 0) ∧
    corrects 1 ∧
    (s.poisoned l = false → Does (.patrolScrub p space line 2) s [.parts, .poison] fun t => OnlyPart s t p ∧
      t.part p = { s.part p with softUnc := (s.part p).softUnc + 1 } ∧ t.poison = (l.cell / 64) :: s.poison ∧ t.weak = s.weak))

/-- 13 R265, R266: BAR, ARRIVE and WAIT by the lanes of the active set, with the causes that forbid them. -/
def TeamBarriers : Prop :=
  ∀ (s : State) (g0 : Group) (tm : Team) (e : Bool) (b : BitVec 7), Ready s g0 (siRegs b) [] →
    s.teams.get? g0.team = some tm → s.cur.rep = false →
    let g := g0.claim (siRegs b)
    let n := (siValue g b).toNat
    let p := tm.phases.getD n 0
    let shading := g0.kind = .closestHit ∨ g0.kind = .viewShade
    let marked := fun j => (g.lane j).marks.get? n = some p
    let next := s.cur.pc + BitVec.ofNat 64 s.cur.len
    let at' := fun (i : Instr) =>
      (s.cur.cls ≠ .ordinary → Raises i s g0 1) ∧ (s.cur.cls = .ordinary → shading → Raises i s g0 32) ∧
      (s.cur.cls = .ordinary → ¬ shading → 16 ≤ n → Raises i s g0 33)
    let arrives := fun (i : Instr) (stay : Bool) => s.cur.cls = .ordinary → ¬ shading → n < 16 →
      Does i s [.groups, .sps, .teams] fun t => OnlyGroup s t s.cur.gid ∧ OnlyTeam s t g.team ∧
        (∃ tm' ks, t.teams.get? g.team = some tm' ∧ tm'.phases = tm.phases ∧ tm'.barToks = tm.barToks ++ ks ∧
          ∀ j, j < g.lanes.length → j < 64 → maskBit s.cur.mask j = true → ¬ marked j → ∃ k, ks = [(n, k)]) ∧
        ∃ h, t.group? s.cur.gid = some h ∧ SameRegs g h [] [] ∧ ∀ j, j < g.lanes.length → j < 64 →
          if maskBit s.cur.mask j = false then
            (h.lane j).pc = (g.lane j).pc ∧ (h.lane j).hold = (g.lane j).hold ∧ (h.lane j).marks = (g.lane j).marks
          else if (g.lane j).marks.get? n = some p then
            (h.lane j).pc = (g.lane j).pc ∧ (h.lane j).hold = some (.again n p) ∧ (h.lane j).marks = (g.lane j).marks
          else (h.lane j).marks = (g.lane j).marks.set n p ∧
            (if stay then (h.lane j).pc = (g.lane j).pc ∧ (h.lane j).hold = some (.bar n p)
              else (h.lane j).pc = next ∧ (h.lane j).hold = none)
    at' (.bar e b) ∧ at' (.arrive e b) ∧ at' (.wait e b) ∧ arrives (.bar e b) true ∧ arrives (.arrive e b) false ∧
    (s.cur.cls = .ordinary → ¬ shading → n < 16 → Completes (.wait e b) s g [] fun _ h =>
      ∀ j, j < g.lanes.length → j < 64 →
        if maskBit s.cur.mask j = false then (h.lane j).pc = (g.lane j).pc ∧ (h.lane j).hold = (g.lane j).hold
        else if (g.lane j).marks.get? n = some p then (h.lane j).pc = (g.lane j).pc ∧ (h.lane j).hold = some (.wait n p)
        else (h.lane j).pc = next ∧ (h.lane j).hold = (g.lane j).hold)

/-- 13 R267, 04 R104: the lanes of a BARM wait for the lanes of their mask, and go on together once their accesses are performed; the
stores these made or returned are then performed at team scope. -/
def LaneBarriers : Prop :=
  ∀ (s : State) (g0 : Group) (e f : Bool) (b : BitVec 7) (a : BitVec 4), Ready s g0 (.k a.toNat :: siRegs b) [] →
    let g := g0.claim (siRegs b)
    let n := (siValue g b).toNat
    let m := g.kr a.toNat &&& g.liveMask
    let shading := g0.kind = .closestHit ∨ g0.kind = .viewShade
    (s.cur.cls ≠ .ordinary → Raises (.barm e b f a) s g0 1) ∧
    (s.cur.cls = .ordinary → shading → Raises (.barm e b f a) s g0 32) ∧
    (s.cur.cls = .ordinary → ¬ shading → 16 ≤ n → Raises (.barm e b f a) s g0 33) ∧
    (s.cur.cls = .ordinary → ¬ shading → n < 16 → g.rep = none → (∀ l ∈ g.lanes, ∀ x y, l.hold ≠ some (.barm n x y)) →
      s.cur.mask &&& ~~~m = 0 → s.cur.mask ≠ 0 →
      ((∃ j, j < 64 ∧ maskBit m j = true ∧ maskBit s.cur.mask j = false) → Holds (.barm e b f a) s g (.barm n m s.fresh) fun _ _ => True) ∧
      (m = s.cur.mask →
        (∀ x ∈ s.accs, x.2.path = .ls → ∀ w ∈ x.2.who, ∀ j, maskBit m j = true → w.1 ≠ (g.lane j).tid) →
        ∃ t h, exec (.barm e b f a) s = .next t ∧ Frame s { t with late := s.late } g h [] ∧
          Publishes s t (fun x => x.madeBy (g.tidsOf m) s.fresh) .ls 1 g.team ∧ ∀ j, j < g.lanes.length → j < 64 →
            if maskBit m j then (h.lane j).pc = (g.lane j).pc + 4 ∧ (h.lane j).hold = none ∧ (h.lane j).age = 0
            else (h.lane j).pc = (g.lane j).pc ∧ (h.lane j).hold = (g.lane j).hold))

/-- 13 R266, 04 R104: a phase completes in a cycle after its last arrival, with every group of the team arrived and the arrivals' accesses
performed: the waiting lanes go on with age 0, the phase number rises, and the stores that the arrivals release are performed at team
scope. -/
def BarrierPhases : Prop :=
  ∀ (s : State) (team n : Nat) (tm : Team), s.teams.get? team = some tm →
    let p := tm.phases.getD n 0
    let mine := tm.barToks.filter fun x => x.1 == n
    let inTeam := fun x : Nat × Group => x.2.team = team ∧ x.2.kind = .ordinary
    mine ≠ [] → (∀ x ∈ mine, s.tokDone x.2 = true) → (∃ x ∈ s.groups, inTeam x) →
    (∀ x ∈ s.groups, inTeam x → ∀ l ∈ x.2.lanes, l.st = .live → l.marks.get? n = some p) →
    tm.arrAt.getD n 0 < (s.part tm.part).clock → (s.part tm.part).stoppedAll = false → s.groups.wf = true →
    Does (.barrierPhaseComplete team n) s [.groups, .teams, .late] fun t => OnlyTeam s t team ∧
      Publishes s t (fun e => ∃ x ∈ mine, e.madeBy x.2.tids x.2.bound) .ls 1 team ∧
      (∃ tm', t.teams.get? team = some tm' ∧ tm'.phases = tm.phases.set n (p + 1) ∧
        tm'.barToks = tm.barToks.filter fun x => x.1 != n) ∧
      ∀ i g, s.group? i = some g →
        (¬ inTeam (i, g) → t.group? i = some g) ∧
        (inTeam (i, g) → g.rep = none → ∃ h, t.group? i = some h ∧ SameRegs g h [] [] ∧ ∀ j, j < g.lanes.length → j < 64 →
          if (g.lane j).hold = some (.bar n p) ∨ (g.lane j).hold = some (.wait n p) then
            (h.lane j).pc = (g.lane j).pc + 4 ∧ (h.lane j).hold = none ∧ (h.lane j).age = 0
          else (h.lane j).pc = (g.lane j).pc ∧
            (h.lane j).hold = if (g.lane j).hold = some (.again n p) then none else (g.lane j).hold)

/-- 13 R268, R269: a Zephyr operation with a legal control word makes its lanes wait, and the group keeps what it read; any other control
word is Zephyr-range. -/
def ZephyrIssue : Prop :=
  ∀ (s : State) (g0 : Group) (e f : Bool),
    let at' := fun (i : Instr) (fn : Nat) (srcs dests : List Reg) (bv val : Group → Word) (d : Nat) => Ready s g0 srcs dests →
      let g := g0.claim srcs
      let x := bv g
      (s.cur.cls ≠ .ordinary → Raises i s g0 1) ∧
      (s.cur.cls = .ordinary → ¬ zephyrLegal fn x → Raises i s g0 34) ∧
      (s.cur.cls = .ordinary → zephyrLegal fn x → Holds i s g (.zephyr fn (x.extractLsb' 0 6).toNat) fun _ h =>
        ∃ z ∈ h.zwaits, z.id = (x.extractLsb' 0 6).toNat ∧ z.fn = fn ∧ z.bv = x ∧ z.val = val g ∧ z.d = d)
    (∀ b : BitVec 7, at' (.zbar e b) 0 (siRegs b) [] (fun g => siValue g b) (fun _ => 0) 0) ∧
    (∀ (b : BitVec 7) (a d : BitVec 6), at' (.zbcast e b f a d) 1 (.s a.toNat :: siRegs b) [.s d.toNat]
      (fun g => siValue g b) (fun g => g.sr a.toNat) d.toNat) ∧
    (∀ b a d : BitVec 6, at' (.zred e b f a d) 2 [.s a.toNat, .s b.toNat] [.s d.toNat]
      (fun g => g.sr b.toNat) (fun g => g.sr a.toNat) d.toNat)

/-- 13 R269: arrivals open a phase, join it or park with Sync-mismatch; the last one fixes the cycle of completion, in which every
participant receives the value and goes on. An arrival releases at device scope (R270). -/
def ZephyrPhases : Prop :=
  (∀ (s : State) (gid : Nat) (g : Group) (z : ZWait), s.group? gid = some g → s.zReady g = some z →
    (s.part g.part).stoppedAll = false →
    let p := s.part g.part
    let count := (z.bv.extractLsb' 16 16).toNat + 1
    let op := (z.bv.extractLsb' 8 2).toNat
    let a : ZArr := { gid, uid := g.uid, val := z.val, root := z.bv.getLsbD 7, die := dieOf gid, d := z.d }
    let delay := fun xs : List ZArr => if xs.all (fun x => x.die == dieOf gid) then (if z.fn = 2 then 64 else 32) else if z.fn = 2 then 160 else 96
    let due := fun xs : List ZArr => if xs.length = count then some (p.clock + delay xs) else none
    let releases := fun (t : State) => Publishes s t (·.releasedBy [z.tok]) .ls 2 g.team
    (p.zph.find? (fun y => y.id == z.id && y.due.isNone) = none →
      Does (.zephyrArrivalRecord gid) s [.groups, .parts, .late] fun t => OnlyGroup s t gid ∧ OnlyPart s t g.part ∧ releases t ∧
        (t.part g.part).zph = p.zph ++ [{ id := z.id, fn := z.fn, count, op, arrs := [a], due := due [a] }]) ∧
    (∀ y, p.zph.find? (fun y => y.id == z.id && y.due.isNone) = some y →
      (y.fn = z.fn → y.count = count → y.op = op → (a.root = true → y.arrs.any (·.root) = false) →
        Does (.zephyrArrivalRecord gid) s [.groups, .parts, .late] fun t => OnlyGroup s t gid ∧ OnlyPart s t g.part ∧ releases t ∧
          { y with arrs := y.arrs ++ [a], due := due (y.arrs ++ [a]) } ∈ (t.part g.part).zph ∧
          (t.part g.part).zph.length = p.zph.length) ∧
      ((y.fn ≠ z.fn ∨ y.count ≠ count ∨ y.op ≠ op ∨ (a.root = true ∧ y.arrs.any (·.root) = true)) → s.handles g.part →
        ∀ pc, (∀ j ∈ lanesOf (g.zLanes z.fn z.id), (g.lane j).pc = pc ∧ (g.lane j).parked = false) →
        ∃ t h x, exec (.zephyrArrivalRecord gid) s = .next t ∧ x.mask = g.zLanes z.fn z.id ∧ x.pc = pc ∧ x.cause = 35 ∧
          releases t ∧ Trapped { s with late := t.late } t gid g h x))) ∧
  (∀ (s : State) (part id : Nat) (z : ZPhase), (s.part part).stoppedAll = false →
    (s.part part).zph.find? (fun y => y.id == id && (match y.due with | some t => decide (t ≤ (s.part part).clock) | none => false))
      = some z → (z.arrs.map (·.gid)).Nodup →
    Does (.zephyrComplete part id) s [.groups, .parts] fun t => OnlyPart s t part ∧ (t.part part).zph = (s.part part).zph.erase z ∧
      ∀ a ∈ z.arrs, ∀ g, s.group? a.gid = some g → g.uid = a.uid → ∃ h, t.group? a.gid = some h ∧
        SameRegs g h (if z.fn = 0 then [] else [.s a.d]) [] ∧
        (z.fn ≠ 0 → a.d < 60 →
          (z.fn = 1 → h.s.get a.d = ((z.arrs.find? (·.root)).map (·.val)).getD 0) ∧
          (z.fn = 2 → z.op = 0 → h.s.get a.d = z.arrs.foldl (fun x y => x + y.val) 0) ∧
          (z.fn = 2 → z.op = 1 → (∃ b ∈ z.arrs, h.s.get a.d = b.val) ∧ ∀ b ∈ z.arrs, b.val.toInt ≤ (h.s.get a.d).toInt) ∧
          (z.fn = 2 → h.s.get a.d = z.value)) ∧
        (g.rep = none → ∀ j, j < g.lanes.length → j < 64 →
          if (g.lane j).hold = some (.zephyr z.fn z.id) then
            (h.lane j).pc = (g.lane j).pc + 4 ∧ (h.lane j).hold = none ∧ (h.lane j).age = 0
          else (h.lane j).pc = (g.lane j).pc ∧ (h.lane j).hold = (g.lane j).hold))

/-- 13 R274, R275: a flit that arrives is discarded where no group holds the slot, queued, or claimed by the read that waits for it;
what its sender released is then performed at device scope (R276). -/
def FlitArrival : Prop :=
  ∀ (s : State) (i : Nat) (f : Flit), s.flits.get? i = some f → (s.part f.part).stoppedAll = false →
    f.due ≤ (s.part f.part).clock → s.tokDone f.tok = true → s.flitBefore i f = false →
    let releases := fun (t : State) => Publishes s t (·.releasedBy [f.tok]) .ls 2 0
    (s.group? f.dst = none → Does (.flitArrive i) s [.flits, .late] fun t => t.flits.get? i = none ∧ releases t) ∧
    (∀ g, s.group? f.dst = some g →
      (s.oldestRead f.dst g.uid = none → g.rxq.length < 16 → Does (.flitArrive i) s [.flits, .groups, .late] fun t =>
        t.flits.get? i = none ∧ releases t ∧ OnlyGroup s t f.dst ∧
        t.group? f.dst = some { g.modLanes (fun _ l => l.snapFollows f.tok.saw) with rxq := g.rxq ++ [(f.payload, f.srcAddr)] }) ∧
      (s.oldestRead f.dst g.uid = none → 16 ≤ g.rxq.length → Idle (.flitArrive i) s "FLIT_ARRIVE") ∧
      (∀ (id : Nat) (o : Op) (e c : Bool) (b : BitVec 7) (a d : BitVec 6) (cur : Cur) (g0 : Group), s.ops.get? id = some o →
        s.oldestRead f.dst g.uid = some (id, o) → d.toNat < 60 → o.gid = f.dst → o.uid = g.uid → o.dests = [.s d.toNat] →
        o.kind = .message (.sadd e b c a d) cur (some g0) none →
        let g1 := { g0 with rx := f.payload, msgSrc := f.srcAddr }
        Does (.flitArrive i) s [.flits, .groups, .ops, .late] fun t => releases t ∧ t.flits.get? i = none ∧ t.ops.get? id = none ∧ OnlyGroup s t f.dst ∧
          ∃ h, t.group? f.dst = some h ∧ h.s.get d.toNat = g1.sr a.toNat + siValue g1 b ∧ h.msgSrc = f.srcAddr ∧
            Reg.s d.toNat ∉ h.empty ∧ h.rxq = g.rxq ∧ h.cr 0x11 = g.cr 0x11))

/-- 13 R271, 20 R349, R351: LULL and ZSIG start the job's lull wave, or ZSIG in the debug slot requests pre-emption. -/
def SoftwareSignals : Prop :=
  ∀ (s : State) (g0 : Group) (e f : Bool) (b : BitVec 7) (a : BitVec 6),
    let on := fun (t : State) (g : Group) => OnlyGroup s t s.cur.gid ∧ OnlyPart s t g.part ∧ ∃ h, t.group? s.cur.gid = some h ∧
      SameRegs g h [] [] ∧ GoesTo s g h fun _ => s.cur.pc + BitVec.ofNat 64 s.cur.len
    let wave := fun (i : Instr) (g : Group) (code : Nat) => s.cur.cls ≠ .debug → Does i s [.groups, .sps, .parts] fun t =>
      on t g ∧ (t.sp (spIdOf s.cur.gid)).frozen = true ∧
      ((s.part g.part).wave = none → (s.part g.part).stoppedAll = false →
        (t.part g.part).wave = some { time := s.now.toNat, die := dieOf s.cur.gid } ∧
        (t.part g.part).cr 0x80 = BitVec.ofNat 32
          (2 ^ 31 + s.mc.pkgId.toNat * 2 ^ 20 + coreOf s.cur.gid * 1024 + spOf s.cur.gid * 256 + 98) ∧
        (t.part g.part).cr 0x81 = BitVec.ofNat 32 (code * 65536) ∧
        (t.part g.part).cr 0x82 = lo32 s.dtime ∧ (t.part g.part).cr 0x83 = hi32 s.dtime)
    (Ready s g0 [] [] → wave .lull g0 0 ∧ (s.cur.cls = .debug → Does .lull s [.groups, .sps] fun t => on t g0)) ∧
    (Ready s g0 (.s a.toNat :: siRegs b) [] →
      let g := g0.claim (.s a.toNat :: siRegs b)
      let x := siValue g b
      (x = 0 → wave (.zsig e b f a) g ((g.sr a.toNat).toNat % 65536)) ∧
      (x = 0 → s.cur.cls = .debug → Does (.zsig e b f a) s [.groups, .sps] fun t => on t g) ∧
      (x = 1 → s.cur.cls ≠ .debug → Raises (.zsig e b f a) s g0 2) ∧
      (x = 1 → s.cur.cls = .debug → (s.part g.part).preempt = 0 → (s.part g.part).ctxState = 2 → (s.part g.part).cr 0x50 ≠ 0 →
        Does (.zsig e b f a) s [.groups, .sps, .parts] fun t => on t g ∧ (t.part g.part).preempt = 1) ∧
      (x ≠ 0 → x ≠ 1 → Raises (.zsig e b f a) s g0 34))

/-- 09 R195, R200: declaring, resetting and reading a convergence register; waiting signers of a register that is reset go on. -/
def ConvergenceRegisters : Prop :=
  (∀ (s : State) (g : Group) (f : Bool) (a : BitVec 4) (d : BitVec 3), Ready s g [.k a.toNat] [] →
    let m := g.kr a.toNat &&& g.liveMask
    (s.cur.cls ≠ .ordinary → Raises (.cdecl f a d) s g 1) ∧
    (s.cur.cls = .ordinary → (g.convOf d.toNat).signed ≠ 0 → Raises (.cdecl f a d) s g 30) ∧
    (s.cur.cls = .ordinary → (g.convOf d.toNat).signed = 0 → m = 0 → Raises (.cdecl f a d) s g 29) ∧
    (s.cur.cls = .ordinary → (g.convOf d.toNat).signed = 0 → m ≠ 0 → Does (.cdecl f a d) s [.groups, .sps] fun t =>
      OnlyGroup s t s.cur.gid ∧ ∃ h, t.group? s.cur.gid = some h ∧ SameRegs { g with conv := h.conv } h [] [] ∧
        GoesTo s g h (fun _ => s.cur.pc + BitVec.ofNat 64 s.cur.len) ∧
        h.convOf d.toNat = { members := m, signed := 0, word := 0, declared := true } ∧
        ∀ i, i ≠ d.toNat → h.convOf i = g.convOf i)) ∧
  (∀ (s : State) (g : Group) (d : BitVec 3), Ready s g [] [] → s.cur.cls ≠ .handler → s.cur.rep = false → g.rep = none →
    Does (.crst d) s [.groups, .sps] fun t => OnlyGroup s t s.cur.gid ∧ ∃ h, t.group? s.cur.gid = some h ∧
      SameRegs { g with conv := h.conv } h [] [] ∧ (h.convOf d.toNat).declared = false ∧
      (∀ i, i ≠ d.toNat → h.convOf i = g.convOf i) ∧
      ∀ j, j < g.lanes.length → j < 64 → (h.lane j).pc =
        if maskBit s.cur.mask j then s.cur.pc + BitVec.ofNat 64 s.cur.len
        else if (g.lane j).hold = some (.sign d.toNat) then (g.lane j).pc + 4 else (g.lane j).pc) ∧
  (∀ (s : State) (g : Group) (d : BitVec 3), Ready s g [] [] → s.cur.cls = .handler → g.rep = none →
    Does (.crst d) s [.groups, .sps] fun t => OnlyGroup s t s.cur.gid ∧ ∃ h, t.group? s.cur.gid = some h ∧
      SameRegs { g with conv := h.conv } h [] [] ∧ (h.convOf d.toNat).declared = false ∧
      (∀ i, i ≠ d.toNat → h.convOf i = g.convOf i) ∧ GoesTo s g h (fun _ => s.cur.pc + BitVec.ofNat 64 s.cur.len) ∧
      ∀ j, j < g.lanes.length → j < 64 → (h.lane j).pc =
        if (g.lane j).hold = some (.sign d.toNat) then (g.lane j).pc + 4 else (g.lane j).pc) ∧
  (∀ (s : State) (g : Group) (a : BitVec 3) (d : BitVec 6), Ready s g [] [.s d.toNat] →
    let c := g.convOf a.toNat
    let count := fun m : Mask => (List.range 64).countP (maskBit m)
    SclResult (.cqry a d) s g d.toNat
      (if c.declared then BitVec.ofNat 32 (2 ^ 31 + count c.members * 65536 + count c.signed * 256) else 0))

/-- 09 R197 to R202: an MMA signs its register; the issue that completes the signers, or whose signers an EXIT has made all the members,
captures the fragments, empties the accumulator's tiles and releases the signers; what forbids it raises its cause before any effect.
While the last issue waits SIGNED is unchanged by the model's choice (log entry 66). -/
def MatrixIssue : Prop :=
  ∀ (s : State) (g : Group) (f : BitVec 4) (c : BitVec 3) (b a : BitVec 7) (t : BitVec 4), Ready s g [] [] → s.cur.cls = .ordinary → s.cur.mask ≠ 0 →
    let i : Instr := .mma f c b a t
    let x := g.convOf c.toNat
    let m := s.cur.mask
    let word := BitVec.ofNat 32 ((encodeWord i).getD 0)
    let tiles := if g.width = 64 then [t.toNat, t.toNat + 1] else [t.toNat]
    let all := (regsFrom .v a.toNat 8 ++ regsFrom .v b.toNat 8 ++ tiles.map Reg.t).all g.has
    let y := { x with word, signed := x.signed ||| m }
    let bad := m &&& (~~~x.members ||| x.signed)
    let forced := x.signed = x.members ∧ m &&& ~~~x.signed = 0
    (all = false → Raises i s g 3) ∧
    (all = true → (g.width = 16 ∨ (g.width = 64 ∧ t.toNat % 2 = 1)) → Raises i s g 28) ∧
    (all = true → g.width ≠ 16 → (g.width = 64 → t.toNat % 2 = 0) →
      (x.declared = false → Raises i s g 29) ∧
      (x.declared = true → ¬ forced → bad ≠ 0 →
        exec i s = .next ((s.atCost 1).raise (g.taken {} m) bad 29 0 (some (.t t.toNat)) 0)) ∧
      (x.declared = true → (bad = 0 ∨ forced) →
        (x.signed ≠ 0 → word ≠ x.word → Raises i s g 31) ∧
        ((x.signed = 0 ∨ word = x.word) →
          (mmaSelect (s.tidOf g f.toNat) (s.tidOf g (f.toNat + 16)) = none → ¬ forced → Raises i s g 22) ∧
          (mmaSelect (s.tidOf g f.toNat) (s.tidOf g (f.toNat + 16)) = none → forced → s.handles g.part →
            Does i s [.groups, .sps] fun u => OnlyGroup s u s.cur.gid ∧ ∃ h, u.group? s.cur.gid = some h ∧
              SameRegs { g with conv := h.conv } h [] [] ∧ h.convOf c.toNat = { x with signed := 0 } ∧
              ∀ j, j < g.lanes.length → j < 64 → maskBit m j = true → (h.lane j).parked = true) ∧
          ∀ fmt sA sB, mmaSelect (s.tidOf g f.toNat) (s.tidOf g (f.toNat + 16)) = some (fmt, sA, sB) →
            (y.signed ≠ x.members → Does i s [.groups, .sps] fun u => OnlyGroup s u s.cur.gid ∧ ∃ h, u.group? s.cur.gid = some h ∧
              SameRegs { g with conv := h.conv } h [] [] ∧ h.convOf c.toNat = y ∧ ∀ j, j < g.lanes.length →
                (h.lane j).pc = (g.lane j).pc ∧ (h.lane j).hold = if maskBit m j then some (.sign c.toNat) else (g.lane j).hold) ∧
            (y.signed = x.members → s.mmaReady g b.toNat a.toNat t.toNat = false → Waits i s g) ∧
            (y.signed = x.members → s.mmaReady g b.toNat a.toNat t.toNat = true →
              Does i s [.groups, .sps, .ops, .cores] fun u => OnlyGroup s u s.cur.gid ∧ OnlyOp s u s.fresh ∧
                OnlyCore s u (coreOf s.cur.gid) ∧
                (∃ ahead behind, (s.core (coreOf s.cur.gid)).mq = ahead ++ behind ∧
                  (u.core (coreOf s.cur.gid)).mq = ahead ++ s.fresh :: behind ∧
                  (∀ k ∈ behind.head?, ∃ p, u.ops.get? k = some p ∧ p.due = s.timeOf g.part s.cur.gid + 1 ∧
                    spIdOf s.cur.gid < spIdOf p.gid) ∧
                  ∀ k ∈ ahead, ∀ p, u.ops.get? k = some p → p.due ≠ s.timeOf g.part s.cur.gid + 1 ∨ spIdOf p.gid ≤ spIdOf s.cur.gid) ∧
                (∃ o A B, u.ops.get? s.fresh = some o ∧ o.kind = .mma fmt sA sB A B t.toNat (g.width == 64) false ∧
                  o.cls = .matrix ∧ o.due = s.timeOf g.part s.cur.gid + 1 ∧ o.dests = tiles.map Reg.t ∧ o.gid = s.cur.gid ∧ o.uid = g.uid ∧
                  (∀ j k, j < g.width → k < 8 → (A[j]?.bind fun r => r[k]?) =
                    some (if maskBit x.members j then g.vr (a.toNat + k) j else 0)) ∧
                  (∀ j k, j < 32 → k < 8 → (B[j]?.bind fun r => r[k]?) =
                    some (if maskBit x.members j then g.vr (b.toNat + k) j else 0)) ∧ A.length = g.width ∧ B.length = 32) ∧
                ∃ h, u.group? s.cur.gid = some h ∧ SameRegs { g with conv := h.conv } h (tiles.map Reg.t) [] ∧
                  (∀ k w, w < 1024 → h.tw k w = g.tw k w) ∧ (∀ k ∈ tiles, Reg.t k ∈ h.empty) ∧
                  h.convOf c.toNat = { x with word, signed := 0 } ∧
                  (s.cur.rep = false → g.rep = none → ∀ j, j < g.lanes.length → j < 64 → (h.lane j).pc =
                    if maskBit m j = true ∨ (g.lane j).hold = some (.sign c.toNat) then (g.lane j).pc + 4 else (g.lane j).pc)))))

/-- 09 R201, R204 to R206: the matrix unit starts an operation in order, with its clocks; the accumulator holds the sums; a tile is full
when its last operation completes. Integer formats add exact products modulo 2^32. -/
def MatrixExecution : Prop :=
  (∀ (s : State) (core id : Nat) (o : Op) (fmt : Nat) (sA sB : Word) (A B : List (List Word)) (t : Nat) (wide : Bool) (g : Group),
    s.mmaNext core [] (s.core core).mq = some (id, o) → o.kind = .mma fmt sA sB A B t wide false →
    (s.core core).mfree ≤ (s.part o.part).clock → o.due ≤ (s.part o.part).clock → (s.part o.part).stoppedAll = false →
    s.group? o.gid = some g → g.uid = o.uid → (∀ k ∈ accTiles g t, Reg.t k ∈ o.dests) → B.length = 32 →
    let n := (if fmt = 7 then 8 else 4) * (if wide then 2 else 1)
    Does (.mmaStart core) s [.groups, .ops, .cores] fun u => OnlyGroup s u o.gid ∧ OnlyOp s u id ∧ OnlyCore s u core ∧
      u.ops.get? id = some { o with kind := .mma fmt sA sB A B t wide true, due := (s.part o.part).clock + n - 1 + 6 } ∧
      (u.core core).mq = (s.core core).mq.erase id ∧ (u.core core).mrun = (s.core core).mrun ++ [id] ∧
      (u.core core).mfree = (s.part o.part).clock + n ∧
      ∃ h, u.group? o.gid = some h ∧ h.empty = g.empty ∧ h.lanes = g.lanes ∧ (∀ k j, h.vr k j = g.vr k j) ∧
        ∀ (r c : Nat), c < 32 → ∀ row col, A[r]? = some row → B[c]? = some col →
          h.t.get (t * 1024 + r * 32 + c) = mmaElem fmt sA sB row col (g.t.get (t * 1024 + r * 32 + c))) ∧
  (∀ (s : State) (core id : Nat) (o : Op) (fmt : Nat) (sA sB : Word) (A B : List (List Word)) (t : Nat) (wide : Bool) (g : Group),
    s.ops.get? id = some o → o.kind = .mma fmt sA sB A B t wide true → s.opReady id o = true → coreOf o.gid = core →
    s.group? o.gid = some g → g.uid = o.uid →
    Does (.mmaComplete core id) s [.groups, .ops, .cores] fun u => OnlyGroup s u o.gid ∧ OnlyOp s u id ∧ OnlyCore s u core ∧
      u.ops.get? id = none ∧ (u.core core).mrun = (s.core core).mrun.erase id ∧
      ∃ h, u.group? o.gid = some h ∧ SameRegs g h o.dests [] ∧ (∀ k w, w < 1024 → h.tw k w = g.tw k w) ∧
        ∀ k, Reg.t k ∈ o.dests →
          if { s with ops := s.ops.erase id }.mmaOn o.gid o.uid k then (Reg.t k ∈ h.empty ↔ Reg.t k ∈ g.empty)
          else Reg.t k ∉ h.empty) ∧
  (∀ (sA sB d : Word) (row col : List Word), row.length = 8 → col.length = 8 →
    let byte := fun (ws : List Word) (k : Nat) => ((ws[k / 4]?).getD 0).extractLsb' (8 * (k % 4)) 8
    let nibble := fun (ws : List Word) (k : Nat) => ((ws[k / 8]?).getD 0).extractLsb' (4 * (k % 8)) 4
    mmaElem 1 sA sB row col d = (List.range 32).foldl (fun x k => x + (byte row k).signExtend 32 * (byte col k).signExtend 32) d ∧
    mmaElem 2 sA sB row col d = (List.range 32).foldl (fun x k => x + (byte row k).setWidth 32 * (byte col k).setWidth 32) d ∧
    mmaElem 3 sA sB row col d =
      (List.range 64).foldl (fun x k => x + (nibble row k).signExtend 32 * (nibble col k).signExtend 32) d)

/-- 16 R304 to R306: SPAWN puts one thread for each lane of the active set into the bin of its entry address, or waits for room. -/
def SpawnIntoBins : Prop :=
  ∀ (s : State) (g0 : Group) (a : BitVec 5) (d : BitVec 7), a.toNat < 30 →
    Ready s g0 [.v d.toNat, .s (2 * a.toNat), .s (2 * a.toNat + 1)] [] →
    let g := g0.claim [.v d.toNat, .s (2 * a.toNat), .s (2 * a.toNat + 1)]
    let e := (g.sr (2 * a.toNat + 1) ++ g.sr (2 * a.toNat)) &&& ~~~(1 : DWord)
    let core := coreOf s.cur.gid
    let c := s.core core
    let holds := fun b => match c.bins.get? b with
      | some x => x.team = g.team ∧ x.entry = e
      | none => False
    (s.cur.cls ≠ .ordinary → Raises (.spawn a d) s g0 1) ∧
    (∀ b, s.cur.cls = .ordinary → c.queuedFor g.team e = false → b < 16 →
      (holds b ∨ ((∀ k, k < 16 → ¬ holds k) ∧ c.bins.get? b = none)) →
      (∀ k, k < b → ¬ holds k ∧ (¬ holds b → c.bins.get? k ≠ none)) →
      let old := ((c.bins.get? b).map (·.threads)).getD []
      (old.length + (lanesOf s.cur.mask).length ≤ 128 → Does (.spawn a d) s [.groups, .sps, .cores] fun t =>
        OnlyGroup s t s.cur.gid ∧ OnlyCore s t core ∧
        (∃ h, t.group? s.cur.gid = some h ∧ SameRegs g h [] [] ∧
          GoesTo s g h fun _ => s.cur.pc + BitVec.ofNat 64 s.cur.len) ∧
        (∀ k, k ≠ b → (t.core core).bins.get? k = c.bins.get? k) ∧
        ∃ x new, (t.core core).bins.get? b = some x ∧ x.team = g.team ∧ x.entry = e ∧ x.threads = old ++ new ∧
          new.map (·.arg) = (lanesOf s.cur.mask).map (fun j => g.vr d.toNat j) ∧
          ∀ y ∈ new, y.arrived = (s.part g.part).clock) ∧
      (128 < old.length + (lanesOf s.cur.mask).length → Waits (.spawn a d) s g0)) ∧
    (s.cur.cls = .ordinary → (c.queuedFor g.team e = true ∨ ∀ k, k < 16 → ¬ holds k ∧ c.bins.get? k ≠ none) → Waits (.spawn a d) s g0)

/-- 01 R25, R30, R31; 16 R305: a bin's timer, and the group a bin forms: one live lane for each of its oldest threads, with the kernel's
scalars, fresh numbers and every other register zero; what placed its threads has released to its team. -/
def BinGroups : Prop :=
  ∀ (s : State) (core bin : Nat) (x : Bin) (tm : Team), (s.core core).bins.get? bin = some x → s.teams.get? x.team = some tm →
    (s.part tm.part).stoppedAll = false →
    (∀ y, x.threads.head? = some y → x.expired = false → y.arrived + max 1 ((s.part tm.part).cr 0x18).toNat ≤ (s.part tm.part).clock →
      Does (.binTimerExpiry core bin) s [.cores] fun t => OnlyCore s t core ∧
        t.core core = { s.core core with bins := (s.core core).bins.set bin { x with expired := true } }) ∧
    (∀ gid, s.freeSlot tm core = some gid → (x.expired = true ∨ tm.width ≤ x.threads.length) →
      (s.core core).binFirst bin x tm.width = true → (∀ y ∈ x.threads.take tm.width, y.tok.all s.tokDone = true) →
      Does (.binGroupForm core bin) s [.groups, .teams, .cores, .late] fun t => OnlyGroup s t gid ∧ OnlyTeam s t x.team ∧ OnlyCore s t core ∧
        Publishes s t (·.releasedBy ((x.threads.take tm.width).flatMap (·.tok))) .ls 1 x.team ∧
        Publishes s t (·.releasedBy ((x.threads.take tm.width).flatMap (·.tok))) .mx 1 x.team ∧
        let n := min tm.width x.threads.length
        let arg := ((s.grids.get? tm.grid).map Grid.arg).getD 0
        t.teams.get? x.team = some { tm with nextGroup := tm.nextGroup + 1, nextIdx := tm.nextIdx + BitVec.ofNat 32 n } ∧
        ((s.core core).placements = [] → (t.core core).bins.get? bin =
          if x.threads.length ≤ tm.width then none else some { x with threads := x.threads.drop tm.width, expired := false }) ∧
        ∃ h, t.group? gid = some h ∧ h.team = x.team ∧ h.part = tm.part ∧ h.kind = .ordinary ∧ h.level = 0 ∧
          h.width = tm.width ∧ h.nv = tm.nv ∧ h.ns = tm.ns ∧ h.nt = tm.nt ∧ h.lanes.length = tm.width ∧ h.empty = [] ∧
          (∀ j, j < tm.width → if j < n
            then (h.lane j).st = .live ∧ (h.lane j).pc = x.entry ∧ (h.lane j).orig = tm.nextIdx + BitVec.ofNat 32 j ∧
              (h.lane j).age = 0 ∧ (h.lane j).meet = 0
            else (h.lane j).st = .never) ∧
          (∀ j y, j < 64 → j < n → x.threads[j]? = some y → h.vr 0 j = y.arg) ∧
          (∀ k j, k ≠ 0 → j < 64 → tm.width ≤ 64 → h.vr k j = 0) ∧
          h.sr 0 = lo32 arg ∧ h.sr 1 = hi32 arg ∧ h.sr 2 = tm.nextGroup ∧ h.sr 3 = BitVec.ofNat 32 tm.index ∧
          (∀ k, 4 ≤ k → h.s.get k = 0) ∧ (∀ k, h.k.get k = 0) ∧ (∀ k w, w < 1024 → h.tw k w = 0))

/-- 06 R137 to R140: TDEF defines an entry or a landing, TDEC takes from its counter, and a counter that reaches 0 makes the entry READY, or
ERROR with a code recorded. -/
def TaskCounters : Prop :=
  ∀ (s : State) (g0 : Group) (tm : Team) (b a d : BitVec 6), s.teams.get? g0.team = some tm →
    (Ready s g0 [.s d.toNat, .s a.toNat, .s b.toNat] [] → s.cur.cls = .ordinary →
      let g := g0.claim [.s d.toNat, .s a.toNat, .s b.toNat]
      let w := g.sr d.toNat
      let n := w.toNat % 64
      let land := w.getLsbD 6
      let key := (g.sr b.toNat).toNat / 65536
      let len := (g.sr b.toNat).toNat % 65536
      let off := (g.sr a.toNat).toNat
      let limit := if tm.pair then 2 * tm.scratch else tm.scratch
      let ok := (tm.taskCore n).isSome = true ∧ w.extractLsb' 7 9 = 0 ∧ (tm.task n).st ≠ 1 ∧
        (land = true → off % 64 = 0 ∧ len ≠ 0 ∧ tm.landingWith (coreOf s.cur.gid) key = false)
      (¬ ok → Raises (.tdef b a d) s g0 26) ∧
      (ok → land = true → limit < off + 64 * len → Raises (.tdef b a d) s g0 8) ∧
      (ok → (land = true → off + 64 * len ≤ limit) → Does (.tdef b a d) s [.groups, .sps, .teams, .cores] fun t =>
        OnlyGroup s t s.cur.gid ∧ OnlyTeam s t g.team ∧ (∃ h, t.group? s.cur.gid = some h ∧ SameRegs g h [] [] ∧
          GoesTo s g h fun _ => s.cur.pc + BitVec.ofNat 64 s.cur.len) ∧
        ∃ tm' x, t.teams.get? g.team = some tm' ∧ tm'.tids = tm.tids ∧ tm'.task n = x ∧ (∀ k, k ≠ n → tm'.task k = tm.task k) ∧
          x.ctr = w.toNat / 65536 ∧ x.st = (if w.toNat / 65536 = 0 then 2 else 1) ∧ x.code = 0 ∧
          x.land = (if land then some (off, key, len * 64) else none) ∧
          (land = false → x.entry = g.sr a.toNat ∧ x.arg = g.sr b.toNat))) ∧
    (Ready s g0 [.s a.toNat, .s b.toNat] [.s d.toNat] → s.cur.cls = .ordinary →
      let g := g0.claim [.s a.toNat, .s b.toNat]
      let n := (g.sr a.toNat).toNat
      let k := (g.sr b.toNat).toNat
      let x := tm.task n
      (((tm.taskCore n).isNone = true ∨ 65536 ≤ k) → Raises (.tdec b a d) s g0 26) ∧
      ((tm.taskCore n).isSome = true → k < 65536 → Does (.tdec b a d) s [.groups, .sps, .teams, .cores, .flits] fun t =>
        OnlyGroup s t s.cur.gid ∧ OnlyTeam s t g.team ∧ (∃ h, t.group? s.cur.gid = some h ∧ SameRegs g h [.s d.toNat] [] ∧
          ScalarHolds s t g h d.toNat
            (if x.st = 0 then 0xFFFFFFFF else if x.st = 1 then BitVec.ofNat 32 (x.ctr - k) else 0)) ∧
        ∃ tm', t.teams.get? g.team = some tm' ∧ (∀ i, i ≠ n → tm'.task i = tm.task i) ∧ (x.st ≠ 1 → tm'.task n = x) ∧
          (x.st = 1 → (tm'.task n).ctr = x.ctr - k ∧ (tm'.task n).code = x.code ∧
            (tm'.task n).st = if k < x.ctr then 1 else if x.code = 0 then 2 else 3)))

/-- 06 R141: TWAIT ends with the entry's status, or waits for it or for its limit; READY and ERROR acquire for the whole group what the
transition released, for LS and MX accesses. At the limit CODE is the first code recorded so far. -/
def TaskWaits : Prop :=
  (∀ (s : State) (g0 : Group) (tm : Team) (b a d : BitVec 6), s.teams.get? g0.team = some tm →
    Ready s g0 [.s a.toNat, .s b.toNat] [.s d.toNat] → s.cur.cls = .ordinary →
    let g := g0.claim [.s a.toNat, .s b.toNat]
    let x := tm.task (g.sr a.toNat).toNat
    ((tm.taskCore (g.sr a.toNat).toNat).isNone = true → Raises (.twait b a d) s g0 26) ∧
    ((tm.taskCore (g.sr a.toNat).toNat).isSome = true →
      (x.st = 0 → SclResult (.twait b a d) s g d.toNat 2) ∧
      (2 ≤ x.st → x.toks.all s.tokDone = true → ∃ t h, exec (.twait b a d) s = .next t ∧
        Frame s { t with late := s.late } g h [.s d.toNat] ∧
        ScalarHolds s t g h d.toNat (if x.st = 3 then BitVec.ofNat 32 (x.code * 256 + 3) else 0) ∧
        Publishes s t (·.releasedBy x.toks) .ls 1 g.team ∧ Publishes s t (·.releasedBy x.toks) .mx 1 g.team ∧
        ∀ j, j < g.lanes.length → (h.lane j).sync.acq = allStreams) ∧
      (2 ≤ x.st → x.toks.all s.tokDone = false → Waits (.twait b a d) s g0) ∧
      (x.st = 1 → (∀ p l, g.twait ≠ some (p, l, true)) → Waits (.twait b a d) s g0) ∧
      (x.st = 1 → ∀ p l, g.twait = some (p, l, true) →
        SclResult (.twait b a d) s g d.toNat (BitVec.ofNat 32 (x.code % 256 * 256 + 1))))) ∧
  (∀ (s : State) (gid : Nat) (g : Group) (pc : DWord) (lim : Nat), s.group? gid = some g → g.twait = some (pc, lim, false) →
    lim ≠ 0 → lim ≤ (s.part g.part).clock → (s.part g.part).stoppedAll = false →
    Does (.twaitLimitExpiry gid) s [.groups] fun t => OnlyGroup s t gid ∧
      t.group? gid = some { g with twait := some (pc, lim, true) })

/-- 05 R120, R121: TIDSET loads entries of a table into the team's window, all or none; TIDRD reads one word of an entry. -/
def TensorWindow : Prop :=
  (∀ (s : State) (g0 : Group) (tm : Team) (b : BitVec 6) (a : BitVec 5),
    Ready s g0 [.s (2 * a.toNat), .s (2 * a.toNat + 1), .s b.toNat] [] → s.teams.get? g0.team = some tm →
    let g := g0.claim [.s (2 * a.toNat), .s (2 * a.toNat + 1), .s b.toNat]
    let x := g.sr b.toNat
    let base := g.sr (2 * a.toNat + 1) ++ g.sr (2 * a.toNat)
    let tab := if base = 0 then (s.part g.part).reg 0x108 &&& ~~~(63 : DWord) else base
    let wfirst := (x.extractLsb' 8 6).toNat
    let tfirst := (x.extractLsb' 0 8).toNat
    let n := (x.extractLsb' 16 6).toNat + 1
    let ok := x.extractLsb' 22 10 = 0 ∧ x.extractLsb' 14 2 = 0 ∧ wfirst + n ≤ 64 ∧ tfirst + n ≤ 256 ∧ tab.toNat % 64 = 0
    (s.cur.cls = .debug → Raises (.tidset b a) s g0 1) ∧
    (s.cur.cls ≠ .debug → ¬ ok → Raises (.tidset b a) s g0 22) ∧
    let entries := s.resolveEntries (s.issuer s.cur.gid g) .load (tab + BitVec.ofNat 64 (64 * tfirst)) n
    (s.cur.cls ≠ .debug → ok → ∀ c, entries = .error c →
      exec (.tidset b a) s = .next ((s.atCost 1).memFault g0 ((lanesOf s.cur.mask).map fun j => (j, c)) none)) ∧
    (s.cur.cls ≠ .debug → ok → ∀ ps, entries = .ok ps → (∃ p ∈ ps, p.walk.isSome = true) →
      Does (.tidset b a) s [.groups, .cores, .clusters, .dies] fun t => t.waited = true ∧ OnlyGroup s t s.cur.gid ∧
        ∃ h, t.group? s.cur.gid = some h ∧ h.lanes = g0.lanes ∧ SameRegs g0 h [] []) ∧
    (s.cur.cls ≠ .debug → ok → ∀ ps, entries = .ok ps → (∀ p ∈ ps, p.walk = none) → s.accs = [] → ps.find? s.pieceBad = none →
      let reader := (g0.taken { srcs := srcSs (2 * a.toNat) 2 false ++ [srcS b false] } s.cur.mask).syncOf (lanesOf s.cur.mask)
      let bs := ps.flatMap fun p => s.pieceBytes
        { path := .ls, team := g.team, who := (lanesOf s.cur.mask).map fun j => (g.lane j).tid, stream := 0, so := p.okind == .so
          saw := reader.saw, upTo := none, far := 2 } p
      let bad := (List.range n).any fun i =>
        (entryOf ((bs.drop (64 * i)).take 64)).valid && (entryOf ((bs.drop (64 * i)).take 64)).malformed
      (bad = true → Raises (.tidset b a) s g0 22) ∧
      (bad = false → Does (.tidset b a) s [.groups, .sps, .teams, .late, .cores, .clusters, .dies, .parts, .poison] fun t => OnlyGroup s t s.cur.gid ∧ OnlyTeam s t g.team ∧
        (∃ h, t.group? s.cur.gid = some h ∧ SameRegs g h [] [] ∧ GoesTo s g h fun _ => s.cur.pc + BitVec.ofNat 64 s.cur.len) ∧
        ∃ w, t.teams.get? g.team = some { tm with tids := w } ∧
          ∀ i, w.get i = if 64 * wfirst ≤ i ∧ i < 64 * wfirst + bs.length then (bs[i - 64 * wfirst]?).getD 0 else tm.tids.get i))) ∧
  (∀ (s : State) (g0 : Group) (a d : BitVec 6), Ready s g0 [.s a.toNat] [.s d.toNat] →
    let g := g0.claim [.s a.toNat]
    let x := g.sr a.toNat
    let w := (s.tidOf g (x.toNat % 64)).word (x.toNat / 128 % 8)
    (s.cur.cls = .debug → Raises (.tidrd a d) s g0 1) ∧
    (s.cur.cls ≠ .debug → x.extractLsb' 10 22 ≠ 0 → Raises (.tidrd a d) s g0 22) ∧
    (s.cur.cls ≠ .debug → x.extractLsb' 10 22 = 0 →
      SclResult (.tidrd a d) s g d.toNat (if x.getLsbD 6 then hi32 w else lo32 w)))

/-- 06 R123, R124, R127, R135: a COPY of any form by the producer group, whose descriptors are in order, joins its channel behind at most
seven others; WPOS reports the oldest. -/
def CopyIssue : Prop :=
  (∀ (s : State) (g : Group) (ch : BitVec 3) (k d a : BitVec 6), s.cur.cls = .ordinary → k.toNat < 60 → d.toNat ≤ 56 → a.toNat ≤ 56 →
    let four := fun r : Nat => [g.sr r, g.sr (r + 1), g.sr (r + 2), g.sr (r + 3)]
    let core := coreOf s.cur.gid
    let c := (s.core core).chans.getD ch.toNat { copies := [], counts := [], last := [], sent := 0 }
    let tw := g.sr k.toNat
    let C := fun (i : Instr) (form : Nat) (dd : List Word) (srcs : List Reg) => Ready s g srcs [] →
      let sd := four a.toNat
      let src := s.tidOf g ((g.sr a.toNat).toNat % 64)
      let dst := if form = 4 then src else s.tidOf g ((g.sr d.toNat).toNat % 64)
      let idx := s.tidOf g ((g.sr (a.toNat + 1)).toNat % 64)
      let owns := fun r => ((s.part g.part).linCluster r).isSome
      let shading := g.kind = .closestHit ∨ g.kind = .viewShade
      (shading → Raises i s g 32) ∧ (¬ shading → s.producer g = false → Raises i s g 23) ∧
      (¬ shading → s.producer g = true → ∀ e, copyCheck form dst src idx dd sd owns = .error e → Raises i s g e) ∧
      (¬ shading → s.producer g = true → ∀ size tm, copyCheck form dst src idx dd sd owns = .ok size →
        s.teams.get? g.team = some tm →
        let tokenOk := tw.extractLsb' 6 25 = 0 ∧
          (tw.getLsbD 31 = false → (tm.taskCore (tw.toNat % 64)).isSome = true ∧ (tm.task (tw.toNat % 64)).st = 1)
        (¬ tokenOk → Raises i s g 26) ∧ (tokenOk → 8 ≤ c.copies.length → Waits i s g) ∧
        (tokenOk → c.copies.length < 8 → Does i s [.groups, .sps, .cores] fun t => OnlyGroup s t s.cur.gid ∧ OnlyCore s t core ∧
          (∃ h, t.group? s.cur.gid = some h ∧ SameRegs g h [] [] ∧ GoesTo s g h fun _ => s.cur.pc + BitVec.ofNat 64 s.cur.len) ∧
          (∀ n, n ≠ ch.toNat → (t.core core).chans.get? n = (s.core core).chans.get? n) ∧
          ∃ c' x, (t.core core).chans.get? ch.toNat = some c' ∧ c'.copies = c.copies ++ [x] ∧ x.form = form ∧ x.dst = dst ∧
            x.src = src ∧ x.idx = idx ∧ x.dd = dd ∧ x.sd = sd ∧ x.size = size ∧ x.pos = 0 ∧ x.err = 0 ∧ x.team = g.team ∧
            x.task = (if tw.getLsbD 31 then none else some (tw.toNat % 64)) ∧ x.seq = c.counts.getD g.team 0 + 1 ∧
            c'.counts.get? g.team = some x.seq))
    let two := regsFrom Reg.s d.toNat 4 ++ regsFrom Reg.s a.toNat 4 ++ [.s k.toNat]
    C (.cpy ch k d a) 0 (four d.toNat) two ∧ C (.cpymc ch k d a) 1 (four d.toNat) two ∧
    C (.cpysp ch k d a) 2 (four d.toNat) two ∧ C (.cpyg ch k d a) 3 (four d.toNat) two ∧
    C (.pref ch k a) 4 [] (regsFrom Reg.s a.toNat 4 ++ [.s k.toNat])) ∧
  (∀ (s : State) (g0 : Group) (a d : BitVec 6), Ready s g0 [.s a.toNat] [.s d.toNat] → s.cur.cls = .ordinary →
    let g := g0.claim [.s a.toNat]
    let n := (g.sr a.toNat).toNat
    let c := (s.core (coreOf s.cur.gid)).chans.getD n { copies := [], counts := [], last := [], sent := 0 }
    (8 ≤ n → Raises (.wpos a d) s g0 24) ∧
    (n < 8 → SclResult (.wpos a d) s g d.toNat (match c.copies.find? (fun q => q.team == g.team), c.last.get? g.team with
      | some q, _ => BitVec.ofNat 32 (q.seq % 256 * 2 ^ 24 + q.pos % 2 ^ 24)
      | none, some l => BitVec.ofNat 32 (l.1 % 256 * 2 ^ 24 + l.2.1 % 2 ^ 24)
      | none, none => 0)))

/-- 06 R123, R126, R129, R134, R139, R142: a sector of a plain copy moves up to 64 bytes of the image; a copy at its end decrements its task,
with its code, once its writes are performed at COMPSCOPE; a fault of a sector stops the copy there. -/
def CopyProgress : Prop :=
  ∀ (s : State) (core chan : Nat) (c : Chan) (x : Copy) (r : List Copy), (s.core core).chans.get? chan = some c → c.copies = x :: r →
    let part := (s.copyIssuer x).part
    let p := s.part part
    p.stoppedAll = false → x.stopped = none →
    (x.pos < x.size → c.sent ≠ p.clock + 1 → ((s.core core).sectors.1 = p.clock → (s.core core).sectors.2 < 4) → s.hostLost = false →
      (∀ bss bad ls, x.form ≠ 1 → x.form ≠ 4 → s.copySector x x.pieces = .ok (bss, bad) → s.copyDest x x.pieces = .ok ls →
        Does (.copySectorDeliver core chan) s [.mem, .late, .poison, .cores, .parts] fun t => OnlyCore s t core ∧
          (∃ c', (t.core core).chans.get? chan = some c' ∧ c'.sent = p.clock + 1 ∧
            c'.copies = { x with pos := x.pos + min 64 (x.size - x.pos), err := if bad ∧ x.err = 0 then 3 else x.err } :: r) ∧
          t.mem = ((ls.zip bss).foldl (fun (u : State) y => u.writePieces part y.1 y.2) s).mem) ∧
      (x.form = 4 → x.core = core → Does (.copySectorDeliver core chan) s [.cores, .parts, .poison] fun t => OnlyCore s t core ∧
        ∃ c', (t.core core).chans.get? chan = some c' ∧
          c'.copies = { x with pos := x.pos + min 64 (x.size - x.pos) } :: r) ∧
      (∀ e, x.form ≠ 1 → x.form ≠ 4 → s.copySector x x.pieces = .error e → e.code = 13 →
        Does (.copySectorDeliver core chan) s [.cores, .parts] fun t => OnlyCore s t core ∧ OnlyPart s t part ∧
          (∃ c', (t.core core).chans.get? chan = some c' ∧ c'.copies = { x with stopped := some p.nextId } :: r) ∧
          ∃ rec, (t.part part).frecs.getLast? = some rec ∧ rec.kind = 0 ∧ rec.cause = 13 ∧ rec.va = e.va ∧ rec.id = p.nextId ∧
            rec.engine = 1 ∧ rec.chan = chan)) ∧
    (x.size ≤ x.pos → x.targets = [] →
      Does (.copyComplete core chan) s [.late, .cores, .teams] fun t =>
        Publishes s t (fun e => e.path = .cp ∧ e.src.1 = x.id) .ls (x.dst.scope + 2) x.team ∧
        Publishes s t (fun e => e.path = .cp ∧ e.src.1 = x.id) .mx (x.dst.scope + 2) x.team ∧
        (x.task = none → OnlyCore s t core ∧ (∀ i, t.teams.get? i = s.teams.get? i) ∧
          ∃ c', (t.core core).chans.get? chan = some c' ∧ c'.copies = r ∧ c'.last.get? x.team = some (x.seq, x.pos, x.id)) ∧
        (∀ n tm, x.task = some n → s.teams.get? x.team = some tm → (tm.task n).st = 1 → 1 < (tm.task n).ctr →
          ∃ tm' y, t.teams.get? x.team = some tm' ∧ tm'.task n = y ∧ y.st = 1 ∧ y.ctr = (tm.task n).ctr - 1 ∧
            y.code = if (tm.task n).code = 0 then x.err else (tm.task n).code))

/-- 10 R215, R216; 11 R235: TRACE and TRACES submit a ray for each good lane and write the records of the others; without room they wait;
TRACE_ADMIT is the issue that obtains its entries. -/
def TraceIssue : Prop :=
  (∀ (s : State) (g0 : Group) (b a : BitVec 6) (d : BitVec 7),
    Ready s g0 (regsFrom .v d.toNat 8 ++ [.s a.toNat, .s b.toNat]) [] → s.cur.cls = .ordinary →
    let g := g0.claim (regsFrom .v d.toNat 8 ++ [.s a.toNat, .s b.toNat])
    let free := s.waitsBefore s.cur.gid g0 false = false ∧
      (lanesOf s.cur.mask).length ≤ s.raysFree g0.part (clusterOf s.cur.gid) g0.level
    let T := fun (i : Instr) (spawn : Bool) =>
      (¬ free → Waits i s g0) ∧
      (free → Does i s [.groups, .sps, .ops, .clusters] fun t => OnlyGroup s t s.cur.gid ∧ TraceMade s t g spawn b a d)
    T (.trace b a d) false ∧ T (.traces b a d) true) ∧
  (∀ (s : State) (gid : Nat) (c : Cur) (g0 : Group) (b a : BitVec 6) (d : BitVec 7) (spawn : Bool),
    s.blockedIssue gid false = some (c, if spawn then .traces b a d else .trace b a d) →
    let u := { s with cur := c, waited := false }
    let srcs := regsFrom Reg.v d.toNat 8 ++ [.s a.toNat, .s b.toNat]
    Ready u g0 srcs [] → u.waitsBefore gid g0 false = false →
    (lanesOf c.mask).length ≤ u.raysFree g0.part (clusterOf gid) g0.level →
    Does (.traceAdmit gid) s [.groups, .sps, .ops, .clusters] fun t => t.cur = Cur.idle ∧ OthersKeep s t gid ∧
      OnlySp s t (spIdOf gid) ∧ TraceMade u t (g0.claim srcs) spawn b a d)

/-- 10 R213 to R216, R218: serving a trade queue, the end of a ray, and the records of a TRACE. -/
def RaysAndRecords : Prop :=
  (∀ (s : State) (cl : Nat) (e : TqEnt) (r : Ray), (s.cluster cl).tq = [e] → e.stopped = none →
    (s.cluster cl).rays.get? e.ray = some r → (s.part r.part).stoppedAll = false → s.hostLost = false → s.weak = [] →
    (s.cluster cl).visitFree ≤ (s.part r.part).clock →
    (r.status ≠ 0 → Does (.tradeQueueServe cl) s [.clusters] fun t => OnlyCluster s t cl ∧ (t.cluster cl).tq = [] ∧
      (t.cluster cl).rays.get? e.ray = some { r with pending := r.pending - 1 } ∧
      (t.cluster cl).visitFree = (s.part r.part).clock) ∧
    (r.status = 0 → r.budget = 0 → ∀ tl m, e.stack = [⟨tl, m, none⟩] → m ≠ 0 →
      Does (.tradeQueueServe cl) s [.clusters] fun t => OnlyCluster s t cl ∧ (t.cluster cl).tq = [] ∧
        (t.cluster cl).rays.get? e.ray = some { r with status := 1, pending := r.pending - 1 }) ∧
    (r.status = 0 → ∀ v, serveRay s (serveFuel r.budget e.stack.length)
        { ray := r, queued := [], stack := e.stack, stop := none, room := 16383, visits := 0, reads := [] } = v →
      let new := v.queued.map fun x => TqEnt.start e.ray x (s.part r.part).clock
      let after := fun (t : State) (old : List TqEnt) => OnlyCluster s t cl ∧ (t.cluster cl).tq = old ++ new ∧
        (t.cluster cl).visitFree = (s.part r.part).clock + (v.visits + 7) / 8
      (v.stop = none → Does (.tradeQueueServe cl) s [.clusters] fun t => after t [] ∧
        (t.cluster cl).rays.get? e.ray = some { v.ray with pending := v.ray.pending + v.queued.length - 1 }) ∧
      (∀ x, v.stop = some x → x.code = 13 → Does (.tradeQueueServe cl) s [.clusters, .parts] fun t =>
        after t [{ e with stack := v.stack, stopped := some (s.nextRec r.part) }] ∧
        (t.cluster cl).rays.get? e.ray = some { v.ray with pending := v.ray.pending + v.queued.length } ∧
        OnlyPart s t r.part) ∧
      (∀ x, v.stop = some x → x.code ≠ 13 → x.fatal = false → Does (.tradeQueueServe cl) s [.clusters, .parts] fun t =>
        after t [] ∧ (t.cluster cl).rays.get? e.ray =
          some { v.ray with pending := v.ray.pending + v.queued.length - 1, status := 5, best := none } ∧
        OnlyPart s t r.part ∧ ∃ k, (t.part r.part).frecs = (s.part r.part).frecs ++ [k] ∧ k.kind = 1 ∧ k.cause = x.code ∧
          k.va = x.va ∧ k.engine = 3))) ∧
  (∀ (s : State) (cl n : Nat) (r : Ray) (o : Op) (d : Nat) (left shading : List Nat) (shaded : Bool) (rays : List Nat) (g : Group),
    (s.cluster cl).rays.get? n = some r → r.pending = 0 → r.done = false → r.ofView = false → (s.part r.part).stoppedAll = false →
    s.ops.get? r.op = some o → o.kind = .trace d false left shading shaded rays → o.dests = regsFrom .v d 8 →
    s.group? o.gid = some g → g.uid = o.uid → (g.lane r.lane).st ≠ .exited → r.lane < 64 →
    Does (.rayComplete cl n) s [.groups, .ops, .clusters] fun t => OnlyGroup s t o.gid ∧ OnlyOp s t r.op ∧ OnlyCluster s t cl ∧
      (t.cluster cl).rays.get? n = none ∧
      t.ops.get? r.op = some { o with kind := .trace d false (left.erase r.lane) shading shaded rays } ∧
      ∃ h, t.group? o.gid = some h ∧ SameRegs g h o.dests [] ∧ h.lanes = g.lanes ∧ (∀ x, x ∈ h.empty ↔ x ∈ g.empty) ∧
        (∀ k, k < 8 → some (h.vr (d + k) r.lane) = (r.record r.status)[k]?) ∧
        ∀ k j, j < 64 → j ≠ r.lane → h.vr k j = g.vr k j) ∧
  (∀ (s : State) (cl n : Nat) (r : Ray) (v : ViewSlot),
    (s.cluster cl).rays.get? n = some r → r.pending = 0 → r.done = false → r.ofView = true → (s.part r.part).stoppedAll = false →
    (s.cluster cl).views.get? r.op = some v → (r.status = 5 ∨ r.best = none ∨ Cut.shade r.cut = 0) →
    Does (.rayComplete cl n) s [.clusters] fun t => OnlyCluster s t cl ∧ (t.cluster cl).rays.get? n = none ∧
      ∃ v', (t.cluster cl).views.get? r.op = some v' ∧ v'.lastAt = (s.part v.part).clock ∧
        v'.status = (if r.status = 5 ∨ v.status = 5 then 5 else if r.status = 1 ∨ v.status = 1 then 1 else 0) ∧
        v'.pix.get? r.lane = some (if r.status = 5 ∨ r.best = none then Cut.miss r.cut else r.tbest)) ∧
  (∀ (r : Ray) (st : Nat), r.record st = match r.best with
    | none => [BitVec.ofNat 32 st, 0x7F800000, 0xFFFFFFFF, 0xFFFFFFFF, 0, 0, BitVec.ofNat 32 r.made, 0]
    | some (inst, prim, u, v, front) => [BitVec.ofNat 32 st, r.tbest, BitVec.ofNat 32 inst, BitVec.ofNat 32 prim, u, v,
        BitVec.ofNat 32 r.made, if front then 1 else 0]) ∧
  (∀ (s : State) (id : Nat) (o : Op) (g : Group) (d : Nat) (spawn shaded : Bool) (rays : List Nat),
    s.ops.get? id = some o → o.kind = .trace d spawn [] [] shaded rays → s.group? o.gid = some g → g.uid = o.uid →
    (s.part o.part).stoppedAll = false → o.dests = regsFrom .v d 8 →
    Does (.traceRecordFill id) s [.groups, .ops, .clusters] fun t => OnlyGroup s t o.gid ∧ OnlyOp s t id ∧ t.ops.get? id = none ∧
      OnlyCluster s t (clusterOf o.gid) ∧ (∀ n ∈ rays, (t.cluster (clusterOf o.gid)).rays.get? n = none) ∧
      ∃ h, t.group? o.gid = some h ∧ SameRegs g h o.dests [] ∧ (∀ r ∈ o.dests, r ∉ h.empty) ∧ (∀ k j, h.vr k j = g.vr k j) ∧
        h.lanes = g.lanes ∧
        h.acquires = if shaded then ⟨regsFrom .v d 8, none, BitVec.allOnes 64⟩ :: g.acquires else g.acquires)

/-- 10 R220 to R222: RAST queues its samples and its token on the core's rasteriser, which completes issues in order. -/
def Rasteriser : Prop :=
  (∀ (s : State) (g : Group) (b a : BitVec 6) (d : BitVec 7), a.toNat ≤ 49 → b.toNat < 60 →
    Ready s g (regsFrom .s a.toNat 11 ++ [.s b.toNat]) (regsFrom .v d.toNat 4) → s.cur.cls = .ordinary →
    let r := rastResult ((List.range 11).map fun k => g.sr (a.toNat + k)) (g.sr b.toNat) (lanesOf s.cur.mask)
    let core := coreOf s.cur.gid
    let first := max ((s.part g.part).clock + 1) (s.core core).rfree
    let dests := regsFrom Reg.v d.toNat 4 ++ [.s b.toNat]
    Does (.rast b a d) s [.groups, .sps, .ops, .cores] fun t => OnlyGroup s t s.cur.gid ∧ OnlyOp s t s.fresh ∧ OnlyCore s t core ∧
      (t.core core).rq = (s.core core).rq ++ [s.fresh] ∧ (t.core core).rfree = first + r.2.2 ∧
      (∃ h, t.group? s.cur.gid = some h ∧ SameRegs g h dests [] ∧ (∀ k j, j < 64 → h.vr k j = g.vr k j) ∧
        (∀ k, h.s.get k = g.s.get k) ∧ (∀ x ∈ dests, x ∈ h.empty) ∧
        GoesTo s g h fun _ => s.cur.pc + BitVec.ofNat 64 s.cur.len) ∧
      ∃ o ws, t.ops.get? s.fresh = some o ∧ o.kind = .rast ws ∧ o.dests = dests ∧ o.gid = s.cur.gid ∧ o.uid = g.uid ∧
        ws = (r.1.flatMap fun x => writesOf .v d.toNat x.1 x.2) ++ [⟨.s b.toNat, 0, r.2.1.setWidth 64⟩]) ∧
  (∀ (ws : List Word) (token : Word) (lanes : List Nat), walkOf ws = none →
    rastResult ws token lanes = (lanes.map (fun j => (j, [0xFFFFFFFF, 0, 0, 0x7F800000])), 0, 0)) ∧
  (∀ (s : State) (core id : Nat) (q : List Nat) (o : Op) (g : Group) (ws : List RegWrite), (s.core core).rq = id :: q → Due s id o g →
    o.kind = .rast ws → (∀ w ∈ ws, w.lane < 64) →
    Does (.rastComplete core) s [.groups, .ops, .cores] fun t => OnlyGroup s t o.gid ∧ OnlyOp s t id ∧ OnlyCore s t core ∧
      t.ops.get? id = none ∧ (t.core core).rq = q ∧ ∃ h, t.group? o.gid = some h ∧ SameRegs g h o.dests [] ∧
        (∀ r ∈ o.dests, r ∉ h.empty) ∧ (∀ n j, h.vr n j = (s.applyWrites o ws g).vr n j) ∧
        ∀ n, h.s.get n = (s.applyWrites o ws g).s.get n)

/-- 11 R225 to R231, R235: VIEW answers its status at once, takes a slot or waits for one, which VIEW_SLOT_GRANT gives; its rays are cast in
order, one a clock, after older TRACEs that wait; at the last value the tile and the status fill. -/
def Views : Prop :=
  (∀ (s : State) (g : Group) (b a : BitVec 6) (r : BitVec 3) (t : BitVec 4), a.toNat ≤ 50 → b.toNat < 60 →
    Ready s g (regsFrom .s a.toNat 10 ++ [.s b.toNat]) [.t t.toNat, .s b.toNat] → s.cur.cls = .ordinary →
    let i : Instr := .view b a r t
    let ws := (List.range 10).map fun k => g.sr (a.toNat + k)
    let cl := clusterOf s.cur.gid
    let deep := (s.part g.part).viewV ≤ g.level
    let cut := s.cutOf g (g.sr b.toNat).toNat
    let now := fun status : Word => Completes i s g [.t t.toNat, .s b.toNat] fun _ h =>
      h.s.get b.toNat = status ∧ (∀ w, w < 1024 → h.tw t.toNat w = 0) ∧ GoesTo s g h fun _ => s.cur.pc + BitVec.ofNat 64 s.cur.len
    let free := s.waitsBefore s.cur.gid g true = false ∧ (s.cluster cl).viewsOf (g.level + 1) < (s.part g.part).viewPool
    (deep → now 2) ∧ (¬ deep → cut = none → now 3) ∧ (¬ deep → cut.isSome = true → cameraBad ws = true → now 4) ∧
    (¬ deep → cut.isSome = true → cameraBad ws = false → ¬ free → Waits i s g) ∧
    (¬ deep → cut.isSome = true → cameraBad ws = false → free → Does i s [.groups, .sps, .ops, .clusters] fun u =>
      OnlyGroup s u s.cur.gid ∧ ViewMade s u g b a r t)) ∧
  (∀ (s : State) (gid : Nat) (c : Cur) (g : Group) (b a : BitVec 6) (r : BitVec 3) (d : BitVec 4),
    s.blockedIssue gid true = some (c, .view b a r d) → a.toNat ≤ 50 → b.toNat < 60 →
    let u := { s with cur := c, waited := false }
    Ready u g (regsFrom .s a.toNat 10 ++ [.s b.toNat]) [.t d.toNat, .s b.toNat] → g.level < (s.part g.part).viewV →
    (u.cutOf g (g.sr b.toNat).toNat).isSome = true → cameraBad ((List.range 10).map fun k => g.sr (a.toNat + k)) = false →
    u.waitsBefore gid g true = false → (s.cluster (clusterOf gid)).viewsOf (g.level + 1) < (s.part g.part).viewPool →
    Does (.viewSlotGrant gid) s [.groups, .sps, .ops, .clusters] fun t => t.cur = Cur.idle ∧ OthersKeep s t gid ∧
      OnlySp s t (spIdOf gid) ∧ ViewMade u t g b a r d) ∧
  (∀ (s : State) (cl p n : Nat) (v : ViewSlot), s.partOfCluster cl = some p → (s.part p).stoppedAll = false →
    castNext (fun v => decide (0 < s.raysFree p cl v.level) && !s.traceBefore cl v) (s.cluster cl).views = some (n, v) →
    (s.cluster cl).castAt ≠ (s.part p).clock + 1 →
    Does (.viewRayCast cl) s [.clusters] fun t => OnlyCluster s t cl ∧ (t.cluster cl).castAt = (s.part p).clock + 1 ∧
      (t.cluster cl).views.get? n = some { v with nextPix := v.nextPix + 1, asked := s.fresh } ∧
      ∃ k ray, (t.cluster cl).rays.get? k = some ray ∧ ray.ofView = true ∧ ray.op = n ∧ ray.lane = v.nextPix ∧ ray.level = v.level ∧
        ray.team = v.team ∧ ray.cut = v.cut ∧ ray.status = 0 ∧ ray.pending = 1 ∧
        ray.o = v.camera.take 3 ∧ ray.d = (cameraOf v.camera).dir (2 ^ (v.res + 1)) v.nextPix ∧
        ray.tmin = (v.camera[8]?).getD 0 ∧ ray.tbest = (v.camera[9]?).getD 0 ∧ ray.budget = v.budget ∧
        (t.cluster cl).tq = (s.cluster cl).tq ++ [TqEnt.start k 0 (s.part p).clock]) ∧
  (∀ (s : State) (cl slot : Nat) (v : ViewSlot) (o : Op) (g : Group), (s.cluster cl).views.get? slot = some v →
    s.ops.get? v.op = some o → s.group? o.gid = some g → g.uid = o.uid → o.dests = [.t v.tile, .s v.stat] → v.stat < 60 →
    (s.part v.part).stoppedAll = false → v.lastAt < (s.part v.part).clock → v.res ≤ 4 →
    v.pix.length = 4 ^ (v.res + 1) → (v.pix.map (·.1)).Nodup → (∀ x ∈ v.pix, x.1 < 4 ^ (v.res + 1)) →
    Does (.viewComplete cl slot) s [.groups, .ops, .clusters] fun t => OnlyGroup s t o.gid ∧ OnlyOp s t v.op ∧ OnlyCluster s t cl ∧
      t.ops.get? v.op = none ∧ (t.cluster cl).views.get? slot = none ∧
      ∃ h, t.group? o.gid = some h ∧ SameRegs g h o.dests [] ∧ Reg.t v.tile ∉ h.empty ∧ Reg.s v.stat ∉ h.empty ∧
        h.s.get v.stat = BitVec.ofNat 32 v.status ∧
        h.acquires = (if v.shaded then ⟨[.s v.stat], none, BitVec.allOnes 64⟩ :: g.acquires else g.acquires) ∧
        ∀ y x, y < 32 → x < 32 → h.tw v.tile (32 * y + x) =
          if y < 2 ^ (v.res + 1) ∧ x < 2 ^ (v.res + 1) then (v.pix.get? (y * 2 ^ (v.res + 1) + x)).getD 0 else 0)

/-- 10 R217; 11 R229, R236: a shading bin forms a group of up to 32 of its oldest threads in the level's slot. -/
def ShadingGroups : Prop :=
  ∀ (s : State) (core level p : Nat) (b : ShBin), s.partOfCluster (core / 4) = some p → 1 ≤ level →
    let index := fun t => ((s.teams.get? t).map (·.index)).getD 0
    let ready := (s.core core).shbins.filter fun x => x.level == level && (decide (32 ≤ x.threads.length) ||
      decide (x.oldest + (s.part p).binTimer ≤ (s.part p).clock))
    bestBin index ready = some b → s.groups.get? (shadeSlot core level) = none → (s.part p).stoppedAll = false →
    Does (.shadingGroupForm core level) s [.groups, .cores] fun t => OnlyGroup s t (gidOf core (level - 1) 15) ∧ OnlyCore s t core ∧
      ∃ h, t.group? (gidOf core (level - 1) 15) = some h ∧ h.kind = (if b.view then .viewShade else .closestHit) ∧ h.width = 32 ∧
        h.nv = 64 ∧ h.ns = 64 ∧ h.nt = 2 ∧ h.level = b.level ∧ h.team = b.team ∧ h.part = p ∧ h.lanes.length = 32 ∧
        (∀ j, j < 32 → if j < b.threads.length then (h.lane j).st = .live ∧ (h.lane j).pc = b.entry ∧
            (h.lane j).orig = BitVec.ofNat 32 j ∧ (h.lane j).shade = (b.threads[j]?).map (·.shade)
          else (h.lane j).st = .never) ∧
        (∀ j x k, j < 32 → b.threads[j]? = some x → k < x.regs.length → some (h.vr k j) = x.regs[k]?) ∧
        h.sr 2 = 0 ∧ (b.view = false → h.sr 3 = BitVec.ofNat 32 (index b.team) ∧ h.sr 4 = 0) ∧
        (b.view = true → h.sr 4 = lo32 b.mat ∧ h.sr 5 = hi32 b.mat)

/-- 01 R32; 08 R175; 10 R218; 11 R230; 20 R343: EXIT, TRET and VRET end the lanes of the active set, which keep no register values; a shading
thread first waits for its accesses and releases them at device scope. -/
def ThreadEnds : Prop :=
  ∀ (s : State) (g : Group), s.cur.defer = none → s.curGroup? = some g →
    let shading := g.kind = .closestHit ∨ g.kind = .viewShade
    let mine := g.tidsOf s.cur.mask
    let isOpen := s.lsOpen mine allStreams
    let quiet := (∀ x ∈ s.groups, ∀ l ∈ x.2.lanes, ∀ n m k, l.hold ≠ some (.barm n m k)) ∧ g.conv = []
    let ends := fun (t : State) => OnlyGroup s t s.cur.gid ∧ OnlyTeam s t g.team ∧ ∃ h, t.group? s.cur.gid = some h ∧
      SameRegs g { h with v := g.v } [] [] ∧ (∀ n j, j < 64 → h.vr n j = if maskBit s.cur.mask j then 0 else g.vr n j) ∧
      ∀ j, j < g.lanes.length →
        if maskBit s.cur.mask j then (h.lane j).st = .exited ∧ (h.lane j).pc = 0 ∧ (h.lane j).meet = 0
        else (h.lane j).st = (g.lane j).st ∧ (h.lane j).pc = (g.lane j).pc
    let released := fun (t : State) => Publishes s t (fun e => e.madeBy mine s.fresh) .ls 2 g.team
    (s.cur.cls = .handler → Raises .exit s g 1) ∧
    (s.cur.cls = .debug → Does .exit s [.groups, .parts] fun t => OnlyGroup s t s.cur.gid ∧
      OnlyPart s t g.part ∧ t.part g.part = { s.part g.part with dbgRun := none } ∧ ∃ h, t.group? s.cur.gid = some h ∧
        SameRegs g h [] [] ∧ ∀ j, j < g.lanes.length → (h.lane j).st = .exited) ∧
    (s.cur.cls = .ordinary → ¬ shading → quiet → Does .exit s [.groups, .sps, .teams] ends) ∧
    (s.cur.cls = .ordinary → shading → isOpen = true → Waits .exit s g) ∧
    (s.cur.cls = .ordinary → shading → isOpen = false → quiet →
      Does .exit s [.groups, .sps, .teams, .ops, .clusters, .late] fun t => ends t ∧ released t) ∧
    ((s.cur.cls ≠ .ordinary ∨ g.kind ≠ .closestHit) → Raises .tret s g 1) ∧
    (s.cur.cls = .ordinary → g.kind = .closestHit → (isOpen = true → Waits .tret s g) ∧
      (isOpen = false → quiet → Does .tret s [.groups, .sps, .teams, .ops, .late] fun t => ends t ∧ released t ∧
        ∀ j op k o d sp left shading shaded rays, lanesOf s.cur.mask = [j] → (g.lane j).shade = some (op, k) →
          s.ops.get? op = some o → o.kind = .trace d sp left shading shaded rays →
          t.ops.get? op = some { o with kind := .trace d sp left (shading.erase k) shaded rays })) ∧
    (∀ d : BitVec 7, g.has (.v d.toNat) = true → g.isEmpty (.v d.toNat) = false → g.readsBad s.cur.mask [.v d.toNat] = false →
      ((s.cur.cls ≠ .ordinary ∨ g.kind ≠ .viewShade) → Raises (.vret d) s g 1) ∧
      (s.cur.cls = .ordinary → g.kind = .viewShade → (isOpen = true → Waits (.vret d) s g) ∧
        (isOpen = false → quiet → Does (.vret d) s [.groups, .sps, .teams, .clusters, .late] fun t => ends t ∧ released t ∧
          ∀ j cl slot k v, lanesOf s.cur.mask = [j] → (g.lane j).shade = some (cl * 64 + slot, k) → slot < 64 →
            (s.cluster cl).views.get? slot = some v → ∃ v', (t.cluster cl).views.get? slot = some v' ∧
              v'.pix.get? k = some (g.vr d.toNat j))))

/-- 01 R32, R33: a group without live lanes, a team without groups and work, and a grid without teams and accesses
end; the grid's stores are then performed for every agent. -/
def Retirement : Prop :=
  (∀ (s : State) (gid : Nat) (g : Group), s.group? gid = some g → g.kind ≠ .debug → (∀ l ∈ g.lanes, l.st ≠ .live) →
    s.producing gid g.uid = false → (s.part g.part).stoppedAll = false →
    Does (.groupRetire gid) s [.groups] fun t => OnlyGroup s t gid ∧ t.group? gid = none) ∧
  (∀ (s : State) (team : Nat) (tm : Team), s.teams.get? team = some tm → (s.part tm.part).stoppedAll = false →
    (∀ x ∈ s.groups, x.2.team = team → x.2.kind = .debug) → (∀ x ∈ s.cores, x.2.holdsTeam team = false) →
    (∀ x ∈ tm.tasks, x.2.unready = false) →
    Does (.teamRetire team) s [.teams, .cores, .mem, .late, .grids] fun t => OnlyTeam s t team ∧ t.teams.get? team = none ∧
      (∀ off, off < 2 ^ 64 → Memory.byte t.mem (Loc.cell ⟨.scratch, team, off⟩) = 0) ∧
      (∀ l : Loc, l.off < 2 ^ 64 → l.owner < 2 ^ 64 → team < 2 ^ 64 → (l.space ≠ .scratch ∨ l.owner ≠ team) →
        Memory.byte t.mem l.cell = Memory.byte s.mem l.cell) ∧
      (∀ x, s.grids.get? tm.grid = some x → t.grids.get? tm.grid = some { x with resident := x.resident - 1 })) ∧
  (∀ (s : State) (grid : Nat) (x : Grid), s.grids.get? grid = some x → (s.part x.part).stoppedAll = false →
    (∀ r ∈ x.ranges, r.2.2 = 0) → x.steals = [] → x.resident = 0 → (∀ a ∈ s.accs, a.2.grid ≠ grid) →
    (s.part x.part).pkts.find? (fun k => k.grid == grid) = none →
    Does (.gridEnd grid) s [.late, .grids] fun t => t.grids.get? grid = none ∧ (∀ i, i ≠ grid → t.grids.get? i = s.grids.get? i) ∧
      ∀ c (k : Nat) (e : Late), (s.lags c)[k]? = some e → ∃ e', (t.lags c)[k]? = some e' ∧ e'.old = e.old ∧
        (e.grid = grid → ∀ p, 4 ≤ e'.level p))

/-- 01 R26 to R28: a REPACK fires when every live thread of the team waits at one, and regroups them by address and team-thread index. -/
def RepackFires : Prop :=
  ∀ (s : State) (team : Nat) (tm : Team), s.teams.get? team = some tm → (s.part tm.part).stoppedAll = false →
    let gs := ((s.teamGroups team).filter fun x => x.2.liveMask != 0).foldr insertByNum []
    let ts := gs.flatMap fun x => x.2.atRepack x.1
    let fs := freshGroups tm.width ts
    let slots := (tm.slots.filter fun i => gs.any fun x => x.1 == i) ++ tm.slots.filter fun i => (s.groups.get? i).isNone
    ts ≠ [] → (∀ x ∈ ts, x.th.hold = some .repack ∧ x.th.parked = false) → (∀ x ∈ gs, s.pendingRegs x.1 x.2.uid = false) →
    (∀ x ∈ gs, ∀ n, Reg.t n ∉ x.2.empty) → fs.length ≤ slots.length → slots.Nodup → tm.width ≤ 64 → (∀ x ∈ gs, x.2.v.wf = true) →
    Does (.repackFire team) s [.groups, .teams] fun t => OnlyTeam s t team ∧
      (∃ tm', t.teams.get? team = some tm' ∧ tm'.nextGroup = BitVec.ofNat 32 fs.length) ∧
      ∀ k slot xs, slots[k]? = some slot → fs[k]? = some xs → ∃ h, t.group? slot = some h ∧ h.gnum = BitVec.ofNat 32 k ∧
        h.sr 2 = BitVec.ofNat 32 k ∧ h.width = tm.width ∧ h.empty = [] ∧ h.team = team ∧
        (∀ n, n < 16 → n ≠ 2 → h.s.get n = ((xs.head?.map (oldGroup gs)).getD Group.blank).s.get n) ∧
        (∀ n, 16 ≤ n → h.s.get n = 0) ∧
        (∀ n j x, xs[j]? = some x → x.lane < 64 → h.vr n j = (oldGroup gs x).vr n x.lane) ∧
        ∀ j x, xs[j]? = some x → (h.lane j).tid = x.th.tid ∧ (h.lane j).orig = x.th.orig ∧ (h.lane j).hold = none ∧
          (h.lane j).age = 0 ∧ (h.lane j).marks = x.th.marks ∧ (h.lane j).meet = x.th.meet ∧
          (∀ g, s.group? x.gid = some g → g.rep = none → (gs.find? fun y => y.1 == x.gid) = some (x.gid, g) →
            (h.lane j).pc = x.th.pc + 4)

/-- 12 R247, R256: a snapshot instruction reads its scalars, empties its results, and leaves its work to an operation on the SN path, which
reaches the store after its group's earlier ones and those that its lanes' waits have followed. -/
def SnapshotIssue : Prop :=
  let issued := fun (i : Instr) (s : State) (g0 : Group) (srcs : List Nat) (sub d results : Nat) =>
    Ready s g0 (srcs.map .s) (regsFrom .s d results) →
    let g := g0.claim (srcs.map .s)
    (s.cur.cls ≠ .ordinary → Raises i s g0 1) ∧
    (s.cur.cls = .ordinary → Completes i s g (regsFrom .s d results) fun t h =>
      (∀ n, h.s.get n = g.s.get n) ∧ (∀ r ∈ regsFrom Reg.s d results, r ∈ h.empty) ∧
      (GoesTo s g h fun _ => s.cur.pc + BitVec.ofNat 64 s.cur.len) ∧
      ∃ o, t.ops.get? s.fresh = some o ∧ o.cls = .snapshot ∧ o.dests = regsFrom .s d results ∧ o.gid = s.cur.gid ∧ o.uid = g.uid ∧
        o.part = g.part ∧ ∃ after, o.kind = .snap sub d (srcs.map g.sr) (.start after) none ∧ (∀ x ∈ after, s.unarrived x = true) ∧
          (∀ x ∈ s.ops, x.2.uid = g.uid → s.unarrived x.1 = true → x.1 ∈ after) ∧
          (g.acquires = [] → ∀ j x, maskBit s.cur.mask j = true → (x, 0) ∈ (g.lane j).sync.saw → s.unarrived x = true → x ∈ after))
  ∀ (s : State) (g0 : Group) (a d e : BitVec 5) (b c : BitVec 6),
    let A := 2 * a.toNat
    let D := 2 * d.toNat
    let E := 2 * e.toNat
    (A < 60 → D ≤ 56 → issued (.snaphash b a d) s g0 [A, A + 1, b.toNat, D, D + 1] 0 D 3) ∧
    (A < 60 → D < 60 → issued (.snapfind b a d) s g0 [A, A + 1, b.toNat] 1 D 2) ∧
    (E < 60 → D < 60 → issued (.snapget e b d) s g0 [b.toNat, E, E + 1] 2 D 2) ∧
    (A ≤ 56 → E < 60 → D < 60 → issued (.snapdep e a d) s g0 [A, A + 1, A + 2, A + 3, E, E + 1] 3 D 2) ∧
    (D < 60 → issued (.snaprel c b d) s g0 [b.toNat, c.toNat] 4 D 2)

/-- 12 R246, R248, R249, R259: SNAPHASH advances the key over n tokens from a start value or a valid tree's seed. -/
def SnapshotHash : Prop :=
  ∀ (s : State) (id d : Nat) (o : Op) (g : Group) (lo hi b klo khi : Word) (after : List Nat),
    s.ops.get? id = some o → s.group? o.gid = some g → g.uid = o.uid → (s.part o.part).stoppedAll = false →
    o.kind = .snap 0 d [lo, hi, b, klo, khi] (.start after) none → o.dests = regsFrom .s d 3 → d ≤ 56 → s.hostLost = false → s.weak = [] →
    let p := s.part o.part
    let bad := b.getLsbD 30 = true ∨ b.extractLsb' 16 8 ≠ 0 ∨ lo.extractLsb' 0 2 ≠ 0
    let tree := (b.extractLsb' 24 6).toNat
    let noTree := b.getLsbD 31 = true ∧ (p.reg (0x808 + 16 * tree)).getLsbD 31 = false
    let n := (b.extractLsb' 0 16).toNat
    let seed := if b.getLsbD 31 then p.reg (0x800 + 16 * tree) else khi ++ klo
    let status := fun x : Word => Fills (.snaphashComplete id) s id o g fun h => h.s.get (d + 2) = x
    (bad → status 0x08000000) ∧ (¬ bad → noTree → status 0x03000000) ∧
    (¬ bad → ¬ noTree → ∀ c, s.readTokens (s.snapIssuer o) (hi ++ lo) n = .error c → c.code ≠ 13 → c.fatal = false → status 0x0A000000) ∧
    (¬ bad → ¬ noTree → ∀ c, s.readTokens (s.snapIssuer o) (hi ++ lo) n = .error c → c.code = 13 →
      Does (.snaphashComplete id) s [.ops, .parts] fun t => OnlyOp s t id ∧ OnlyPart s t o.part ∧
        t.ops.get? id = some { o with kind := .snap 0 d [lo, hi, b, klo, khi] (.start after) (some p.nextId) } ∧
        ∃ r, (t.part o.part).frecs = p.frecs ++ [r] ∧ r.id = p.nextId ∧ r.kind = 0 ∧ r.cause = 13 ∧ r.va = c.va ∧ r.engine = 5) ∧
    (¬ bad → ¬ noTree → ∀ ws, s.readTokens (s.snapIssuer o) (hi ++ lo) n = .ok ws →
      let key := ws.foldl (fun (k : DWord) (w : Word) => k * 0x9E3779B97F4A7C15 + w.setWidth 64 + 1) seed
      Fills (.snaphashComplete id) s id o g fun h => h.s.get d = lo32 key ∧ h.s.get (d + 1) = hi32 key ∧ h.s.get (d + 2) = 0)

/-- 12 R242: a tree is created with the lowest free node as its root, is discarded, and its nodes become free once no operation is on
it. -/
def PrefixTrees : Prop :=
  ∀ (s : State) (part tree : Nat), tree < 64 → s.hostLost = false → s.devResetting = false → s.mc.recovery = false →
    (s.part part).memEnable = true →
    let p := s.part part
    let word := p.reg (0x808 + 16 * tree)
    let seed := p.reg (0x800 + 16 * tree)
    (∀ value : BitVec 64, word.getLsbD 31 = false → value.getLsbD 31 = true → p.discarding.contains tree = false →
      let log := (value.extractLsb' 0 4).toNat
      let bad := log < 4 ∨ 12 < log ∨ 2 ^ p.slotLog < 4 * 2 ^ log
      (bad ∨ s.freeNode part = none → Does (.treeCreate part tree value) s [] fun _ => True) ∧
      (∀ k, ¬ bad → s.freeNode part = some k → k < 2 ^ 20 → Does (.treeCreate part tree value) s [.nodes, .parts] fun t =>
        OnlyPart s t part ∧
        t.part part = p.setReg (0x808 + 16 * tree) ((value &&& 0x4000000F) ||| BitVec.ofNat 64 (2 ^ 31 + k * 2 ^ 32)) ∧
        (∃ n, t.node part k = n ∧ n.st = 3 ∧ n.tree = tree ∧ n.parent = k ∧ n.key = seed ∧ n.hash2 = ~~~seed ∧ n.depth = 0 ∧
          n.snapSize = 0 ∧ n.refcnt = 0 ∧ n.nchild = 0 ∧ n.gen = (s.node part k).gen) ∧
        ∀ i, i ≠ p.nodeFirst + k → t.nodes.get? i = s.nodes.get? i)) ∧
    (word.getLsbD 31 = true → Does (.treeDiscard part tree) s [.parts] fun t => OnlyPart s t part ∧
      t.part part = { p.setReg (0x808 + 16 * tree) (word &&& 0x7FFFFFFF) with discarding := p.discarding ++ [tree] }) ∧
    (p.discarding.contains tree = true → s.treeBusy part tree = false → s.nodes.wf = true →
      Does (.treeDiscardFree part tree) s [.nodes, .parts] fun t => OnlyPart s t part ∧
        t.part part = { p with discarding := p.discarding.filter (· != tree) } ∧
        ∀ k, k < p.nodeCount → t.node part k =
          if (s.node part k).st ≠ 0 ∧ (s.node part k).tree = tree
          then { s.node part k with st := 0, gen := ((s.node part k).gen + 1) % 4096 } else s.node part k)

/-- 12 R243, R245, R248, R250, R251: SNAPFIND goes from the root to the first child of each block that confirms, pins the node at which it
stops, and answers its handle and depth; rejected candidates are counted. -/
def SnapshotFind : Prop :=
  ∀ (s : State) (id d : Nat) (o : Op) (g : Group) (lo hi b : Word) (after : List Nat),
    s.ops.get? id = some o → s.group? o.gid = some g → g.uid = o.uid → s.snapArrives o (.start after) none = true →
    o.kind = .snap 1 d [lo, hi, b] (.start after) none → o.dests = regsFrom .s d 2 → d ≤ 58 → s.hostLost = false → s.weak = [] →
    let p := s.part o.part
    let tree := (b.extractLsb' 24 6).toNat
    let bad := b.extractLsb' 30 2 ≠ 0 ∨ lo.extractLsb' 0 2 ≠ 0
    let word := p.reg (0x808 + 16 * tree)
    let G := 2 ^ (word.extractLsb' 0 4).toNat
    let blocks := (b.extractLsb' 0 24).toNat / G
    let status := fun x : Word => Fills (.snapfindSearch id) s id o g fun h => h.s.get (d + 1) = x
    (bad → status 0x08000000) ∧ (¬ bad → word.getLsbD 31 = false → status 0x03000000) ∧
    (¬ bad → word.getLsbD 31 = true → ∀ (x : Nat → Nat) (ws : Nat → List Word) (pre post : Nat → List Nat) (depth : Nat),
      x 0 = (word.extractLsb' 32 20).toNat → depth ≤ blocks →
      (∀ i : Nat, i ≤ depth → i < blocks → s.readTokens (s.snapIssuer o) ((hi ++ lo) + BitVec.ofNat 64 (4 * G * i)) G = .ok (ws i)) →
      let children := fun i : Nat => s.candidates o.part tree (x i) (keyOver (s.node o.part (x i)).key (ws i))
      let confirm := fun (i k : Nat) =>
        s.confirms o.part k (word.getLsbD 30) G (ws i) (hash2Over (s.node o.part (x i)).hash2 (ws i))
      (∀ i : Nat, i < depth → children i = pre i ++ x (i + 1) :: post i ∧ confirm i (x (i + 1)) = .ok true) →
      (depth < blocks → children depth = pre depth) → (depth = blocks → pre depth = []) →
      (∀ i : Nat, i ≤ depth → ∀ k ∈ pre i, confirm i k = .ok false) →
      let y := x depth
      let n := s.node o.part y
      let rejected := ((List.range (depth + 1)).map fun i => (pre i).length).sum
      let count := min (2 ^ 32 - 1) ((p.cr 0x28).toNat + rejected)
      (n.refcnt = 2 ^ 24 - 1 → Does (.snapfindSearch id) s [.groups, .ops, .parts] fun t => OnlyGroup s t o.gid ∧ OnlyOp s t id ∧
        OnlyPart s t o.part ∧ t.part o.part = p.setCr 0x28 (BitVec.ofNat 32 count) ∧
        ∃ h, t.group? o.gid = some h ∧ SameRegs g h o.dests [] ∧ h.s.get (d + 1) = 0x09000000 ∧ ∀ r ∈ o.dests, r ∉ h.empty) ∧
      (n.refcnt ≠ 2 ^ 24 - 1 → Does (.snapfindSearch id) s [.groups, .ops, .parts, .nodes] fun t => OnlyGroup s t o.gid ∧
        OnlyOp s t id ∧ OnlyPart s t o.part ∧ t.part o.part = p.setCr 0x28 (BitVec.ofNat 32 count) ∧ t.ops.get? id = none ∧
        t.node o.part y = { n with refcnt := n.refcnt + 1, stamp := s.now.toNat } ∧
        (∀ k, k ≠ p.nodeFirst + y → t.nodes.get? k = s.nodes.get? k) ∧
        ∃ h, t.group? o.gid = some h ∧ SameRegs g h o.dests [] ∧ (∀ r ∈ o.dests, r ∉ h.empty) ∧
          h.s.get d = BitVec.ofNat 32 (n.gen % 4096 * 2 ^ 20 + y) ∧ h.s.get (d + 1) = BitVec.ofNat 32 (depth % 2 ^ 24)))

/-- 12 R245, R248, R252, R254, R257, R259: SNAPGET pins a node and copies its snapshot in steps of 64 bytes, stopping where it stands at a
Page-lazy fault; SNAPREL takes a pin from one. -/
def SnapshotGetAndRelease : Prop :=
  let pinned := fun (s : State) (o : Op) (k : Nat) =>
    s.setNode o.part k { s.node o.part k with refcnt := (s.node o.part k).refcnt + 1 }
  let goes := fun (s u : State) (id d : Nat) (o : Op) (g : Group) (args : List Word) (k : Nat) (dest : List (List Piece)) (done : Nat) =>
    let n := u.node o.part k
    let blocks := n.snapSize / 64
    let w := u.snapIssuer o
    let nodes := fun (t : State) (x : Node) => t.node o.part k = x ∧
      ∀ i, i ≠ (s.part o.part).nodeFirst + k → t.nodes.get? i = s.nodes.get? i
    (∀ c ps, u.resolveDest w (arg64 args 1) (blocks - dest.length) dest = .error (c, ps) →
      (c.code = 13 → Does (.snapgetCopy id) s [.ops, .parts, .nodes] fun t => OnlyOp s t id ∧ OnlyPart s t o.part ∧ nodes t n ∧
        t.ops.get? id = some { o with kind := .snap 2 d args (.getting k ps done) (some (s.nextRec o.part)) } ∧
        ∃ r, (t.part o.part).frecs = (s.part o.part).frecs ++ [r] ∧ r.kind = 0 ∧ r.cause = 13 ∧ r.va = c.va ∧ r.engine = 5) ∧
      (c.code ≠ 13 → c.fatal = false → Does (.snapgetCopy id) s [.groups, .ops, .nodes] fun t => OnlyGroup s t o.gid ∧ OnlyOp s t id ∧
        t.ops.get? id = none ∧ nodes t { n with refcnt := n.refcnt - 1 } ∧
        ∃ h, t.group? o.gid = some h ∧ SameRegs g h o.dests [] ∧ (∀ r ∈ o.dests, r ∉ h.empty) ∧ h.s.get (d + 1) = 0x0A000000)) ∧
    (∀ ps bs, u.resolveDest w (arg64 args 1) (blocks - dest.length) dest = .ok ps → done < blocks →
      u.readSlot o.part (n.snapBase + 64 * done) 64 = .ok bs →
      (done + 1 < blocks → Does (.snapgetCopy id) s [.ops, .mem, .late, .poison, .nodes] fun t => OnlyOp s t id ∧ nodes t n ∧
        t.ops.get? id = some { o with kind := .snap 2 d args (.getting k ps (done + 1)) none } ∧
        t.mem = (u.writePieces o.part ((ps[done]?).getD []) bs).mem) ∧
      (done + 1 = blocks → Does (.snapgetCopy id) s [.groups, .ops, .mem, .late, .poison, .nodes] fun t => OnlyGroup s t o.gid ∧
        OnlyOp s t id ∧ t.ops.get? id = none ∧ nodes t { n with refcnt := n.refcnt - 1, stamp := s.now.toNat } ∧
        t.mem = (u.writePieces o.part ((ps[done]?).getD []) bs).mem ∧
        ∃ h, t.group? o.gid = some h ∧ SameRegs g h o.dests [] ∧ (∀ r ∈ o.dests, r ∉ h.empty) ∧
          h.s.get d = BitVec.ofNat 32 n.snapSize ∧ h.s.get (d + 1) = 0 ∧
          h.acquires = ⟨[.s d, .s (d + 1)], some id, BitVec.allOnes 64⟩ :: g.acquires)) ∧
    (blocks = 0 → Does (.snapgetCopy id) s [.groups, .ops, .nodes] fun t => OnlyGroup s t o.gid ∧ OnlyOp s t id ∧
      t.ops.get? id = none ∧ nodes t { n with refcnt := n.refcnt - 1, stamp := s.now.toNat } ∧
      ∃ h, t.group? o.gid = some h ∧ SameRegs g h o.dests [] ∧ (∀ r ∈ o.dests, r ∉ h.empty) ∧
        h.s.get d = BitVec.ofNat 32 n.snapSize ∧ h.s.get (d + 1) = 0)
  (∀ (s : State) (id d : Nat) (o : Op) (g : Group) (handle lo hi : Word) (after : List Nat),
    s.ops.get? id = some o → s.group? o.gid = some g → g.uid = o.uid → s.snapArrives o (.start after) none = true →
    o.kind = .snap 2 d [handle, lo, hi] (.start after) none → o.dests = regsFrom .s d 2 → d ≤ 58 →
    let k := (handle.extractLsb' 0 20).toNat
    let n := s.node o.part k
    let bad := lo.extractLsb' 0 6 ≠ 0
    let stale := (s.part o.part).nodeCount ≤ k ∨ n.st = 0 ∨ n.st = 1 ∨ n.gen % 4096 ≠ (handle.extractLsb' 20 12).toNat
    let status := fun x : Word => Fills (.snapgetCopy id) s id o g fun h => h.s.get (d + 1) = x
    (bad → status 0x08000000) ∧ (¬ bad → stale → status 0x02000000) ∧
    (¬ bad → ¬ stale → n.refcnt = 2 ^ 24 - 1 → status 0x09000000) ∧
    (¬ bad → ¬ stale → n.refcnt ≠ 2 ^ 24 - 1 → n.snapBase + n.snapSize ≤ (s.part o.part).hbmSize →
      goes s (pinned s o k) id d o g [handle, lo, hi] k [] 0)) ∧
  (∀ (s : State) (id d k done : Nat) (o : Op) (g : Group) (args : List Word) (dest : List (List Piece)),
    s.ops.get? id = some o → s.group? o.gid = some g → g.uid = o.uid → (s.part o.part).stoppedAll = false →
    o.kind = .snap 2 d args (.getting k dest done) none → o.dests = regsFrom .s d 2 → d ≤ 58 →
    goes s s id d o g args k dest done) ∧
  (∀ (s : State) (id d : Nat) (o : Op) (g : Group) (handle touch : Word) (after : List Nat),
    s.ops.get? id = some o → s.group? o.gid = some g → g.uid = o.uid → s.snapArrives o (.start after) none = true →
    o.kind = .snap 4 d [handle, touch] (.start after) none → o.dests = regsFrom .s d 2 → d ≤ 58 →
    let k := (handle.extractLsb' 0 20).toNat
    let n := s.node o.part k
    let bad := touch.extractLsb' 1 31 ≠ 0
    let stale := (s.part o.part).nodeCount ≤ k ∨ n.st = 0 ∨ n.st = 1 ∨ n.gen % 4096 ≠ (handle.extractLsb' 20 12).toNat
    let status := fun x : Word => Fills (.snaprelApply id) s id o g fun h => h.s.get (d + 1) = x
    (bad → status 0x08000000) ∧ (¬ bad → stale → status 0x02000000) ∧ (¬ bad → ¬ stale → n.refcnt = 0 → status 0x06000000) ∧
    (¬ bad → ¬ stale → n.refcnt ≠ 0 → Does (.snaprelApply id) s [.groups, .ops, .nodes] fun t => OnlyGroup s t o.gid ∧
      OnlyOp s t id ∧ t.ops.get? id = none ∧
      t.node o.part k = { n with refcnt := n.refcnt - 1, stamp := if touch.getLsbD 0 then s.now.toNat else n.stamp } ∧
      (∀ i, i ≠ (s.part o.part).nodeFirst + k → t.nodes.get? i = s.nodes.get? i) ∧
      ∃ h, t.group? o.gid = some h ∧ SameRegs g h o.dests [] ∧ (∀ r ∈ o.dests, r ∉ h.empty) ∧
        h.s.get d = BitVec.ofNat 32 (n.refcnt - 1) ∧ h.s.get (d + 1) = 0))

/-- 12 R245, R246, R248, R253, R255, R259: SNAPDEP takes the lowest free node, copies tokens and snapshot into its slot in steps of 64 bytes,
and links it, or finds the child that already stands. -/
def SnapshotDeposit : Prop :=
  (∀ (s : State) (id d : Nat) (o : Op) (g : Group) (handle size slo shi tlo thi : Word) (after : List Nat),
    let args := [handle, size, slo, shi, tlo, thi]
    s.ops.get? id = some o → s.group? o.gid = some g → g.uid = o.uid → s.snapArrives o (.start after) none = true →
    o.kind = .snap 3 d args (.start after) none → o.dests = regsFrom .s d 2 → d ≤ 58 →
    let p := s.part o.part
    let k := (handle.extractLsb' 0 20).toNat
    let n := s.node o.part k
    let G := 2 ^ ((p.reg (0x808 + 16 * n.tree)).extractLsb' 0 4).toNat
    let area := 64 * ((4 * G + 63) / 64)
    let bad := size.extractLsb' 0 6 ≠ 0 ∨ slo.extractLsb' 0 6 ≠ 0 ∨ tlo.extractLsb' 0 2 ≠ 0
    let stale := p.nodeCount ≤ k ∨ n.st = 0 ∨ n.st = 1 ∨ n.gen % 4096 ≠ (handle.extractLsb' 20 12).toNat
    let status := fun x : Word => Fills (.snapdepAllocate id) s id o g fun h => h.s.get (d + 1) = x
    (bad → status 0x08000000) ∧ (¬ bad → stale → status 0x02000000) ∧
    (¬ bad → ¬ stale → n.depth = 2 ^ 24 - 1 → status 0x07000000) ∧
    (¬ bad → ¬ stale → n.depth ≠ 2 ^ 24 - 1 → 2 ^ p.slotLog - area < size.toNat → status 0x05000000) ∧
    (¬ bad → ¬ stale → n.depth ≠ 2 ^ 24 - 1 → size.toNat ≤ 2 ^ p.slotLog - area →
      (s.esFree o.part = 0 → s.freeNode o.part = none → s.evictable o.part = none → status 0x04000000) ∧
      (∀ c, s.esFree o.part ≠ 0 → s.freeNode o.part = some c → (p.cr 0x29).extractLsb' 0 21 = 0 →
        Does (.snapdepAllocate id) s [.ops, .nodes] fun t => OnlyOp s t id ∧
          t.ops.get? id = some { o with kind := .snap 3 d args (.copying c 0) none } ∧
          t.node o.part c = { s.node o.part c with
            st := 1, tree := n.tree, parent := k, key := n.key, hash2 := n.hash2, depth := n.depth + 1, refcnt := 0, nchild := 0,
            tokBase := p.arenaBase + c * 2 ^ p.slotLog, snapBase := p.arenaBase + c * 2 ^ p.slotLog + area, snapSize := size.toNat } ∧
          ∀ i, i ≠ p.nodeFirst + c → t.nodes.get? i = s.nodes.get? i))) ∧
  (∀ (s : State) (part k : Nat), s.evictable part = some k → (∃ n, (k, n) ∈ s.usedNodes part ∧ n.st = 2 ∧ n.refcnt = 0 ∧ n.nchild = 0 ∧
    ∀ x ∈ s.usedNodes part, x.2.st = 2 → x.2.refcnt = 0 → x.2.nchild = 0 → n.stamp ≤ x.2.stamp) ∧
    ((s.node part k).parent ≠ k →
      (s.evict part k).node part k = { s.node part k with st := 0, gen := ((s.node part k).gen + 1) % 4096 } ∧
      (s.evict part k).node part (s.node part k).parent =
        { s.node part (s.node part k).parent with nchild := (s.node part (s.node part k).parent).nchild - 1 })) ∧
  (∀ (s : State) (id d c done : Nat) (o : Op) (g : Group) (handle size slo shi tlo thi : Word),
    let args := [handle, size, slo, shi, tlo, thi]
    s.ops.get? id = some o → s.group? o.gid = some g → g.uid = o.uid → (s.part o.part).stoppedAll = false →
    o.kind = .snap 3 d args (.copying c done) none → o.dests = regsFrom .s d 2 → d ≤ 58 → s.hostLost = false → s.weak = [] →
    let p := s.part o.part
    let n := s.node o.part c
    let G := 2 ^ ((p.reg (0x808 + 16 * n.tree)).extractLsb' 0 4).toNat
    let va := if done < 4 * G then (thi ++ tlo) + BitVec.ofNat 64 done else (shi ++ slo) + BitVec.ofNat 64 (done - 4 * G)
    let off := if done < 4 * G then n.tokBase + done else n.snapBase + (done - 4 * G)
    (done < 4 * G + size.toNat →
      (∀ bs, s.readFlat (s.snapIssuer o) .load va 64 = .ok bs → off + 64 ≤ p.hbmSize →
        let ws := (List.range 16).map fun i => BitVec.ofNat 32 (ofBytes ((bs.drop (4 * i)).take 4))
        let hashed := fun (m k : DWord) => ws.foldl (fun (k : DWord) (w : Word) => k * m + w.setWidth 64 + 1) k
        Does (.snapdepLink id) s [.ops, .mem, .late, .poison, .nodes] fun t => OnlyOp s t id ∧
          t.ops.get? id = some { o with kind := .snap 3 d args (.copying c (done + 64)) none } ∧
          t.mem = Memory.write s.mem ⟨.hbm, o.part, off⟩ bs ∧
          t.node o.part c = (if done < 4 * G then { n with key := hashed 0x9E3779B97F4A7C15 n.key, hash2 := hashed 0xA24BAED4963EE407 n.hash2 }
            else n) ∧
          ∀ i, i ≠ p.nodeFirst + c → t.nodes.get? i = s.nodes.get? i) ∧
      (∀ e, s.readFlat (s.snapIssuer o) .load va 64 = .error e → e.code = 13 → Does (.snapdepLink id) s [.ops, .parts] fun t =>
        OnlyOp s t id ∧ OnlyPart s t o.part ∧
        t.ops.get? id = some { o with kind := .snap 3 d args (.copying c done) (some (s.nextRec o.part)) } ∧
        ∃ r, (t.part o.part).frecs = p.frecs ++ [r] ∧ r.kind = 0 ∧ r.cause = 13 ∧ r.va = e.va ∧ r.engine = 5) ∧
      (∀ e, s.readFlat (s.snapIssuer o) .load va 64 = .error e → e.code ≠ 13 → e.fatal = false →
        Does (.snapdepLink id) s [.groups, .ops, .nodes] fun t => OnlyGroup s t o.gid ∧ OnlyOp s t id ∧ t.ops.get? id = none ∧
          t.node o.part c = { n with st := 0, gen := (n.gen + 1) % 4096 } ∧
          (∀ i, i ≠ p.nodeFirst + c → t.nodes.get? i = s.nodes.get? i) ∧
          ∃ h, t.group? o.gid = some h ∧ SameRegs g h o.dests [] ∧ (∀ r ∈ o.dests, r ∉ h.empty) ∧ h.s.get (d + 1) = 0x0A000000)) ∧
    (4 * G + size.toNat ≤ done →
      let par := s.node o.part n.parent
      let fast := (p.reg (0x808 + 16 * n.tree)).getLsbD 30
      let ends := fun (t : State) (handle status : Word) => OnlyGroup s t o.gid ∧ OnlyOp s t id ∧ t.ops.get? id = none ∧
        OnlyPart s t o.part ∧ ∃ h, t.group? o.gid = some h ∧ SameRegs g h o.dests [] ∧ (∀ r ∈ o.dests, r ∉ h.empty) ∧
          h.s.get d = handle ∧ h.s.get (d + 1) = status
      (s.candidates o.part n.tree n.parent n.key = [] → (fast = true ∨ ∃ bs, s.readSlot o.part n.tokBase (4 * G) = .ok bs) →
        n.parent ≠ c → n.refcnt = 0 → Does (.snapdepLink id) s [.groups, .ops, .nodes, .parts] fun t =>
          ends t (BitVec.ofNat 32 (n.gen % 4096 * 2 ^ 20 + c)) (BitVec.ofNat 32 (n.depth % 2 ^ 24)) ∧ t.part o.part = p.setCr 0x28 (p.cr 0x28) ∧
          t.node o.part c = { n with st := 2, refcnt := 1, stamp := s.now.toNat } ∧
          t.node o.part n.parent = { par with nchild := par.nchild + 1 } ∧
          ∀ i, i ≠ p.nodeFirst + c → i ≠ p.nodeFirst + n.parent → t.nodes.get? i = s.nodes.get? i) ∧
      (∀ pre e post bs, s.candidates o.part n.tree n.parent n.key = pre ++ e :: post →
        (fast = true ∨ s.readSlot o.part n.tokBase (4 * G) = .ok bs) →
        s.confirms o.part e fast G (wordsOf G (if fast then [] else bs)) n.hash2 = .ok true →
        (∀ k ∈ pre, s.confirms o.part k fast G (wordsOf G (if fast then [] else bs)) n.hash2 = .ok false) →
        e ≠ c → (s.node o.part e).refcnt ≠ 2 ^ 24 - 1 → Does (.snapdepLink id) s [.groups, .ops, .nodes, .parts] fun t =>
          ends t (BitVec.ofNat 32 ((s.node o.part e).gen % 4096 * 2 ^ 20 + e))
            (BitVec.ofNat 32 (2 ^ 24 + (s.node o.part e).depth % 2 ^ 24)) ∧
          t.part o.part = p.setCr 0x28 (BitVec.ofNat 32 (min (2 ^ 32 - 1) ((p.cr 0x28).toNat + pre.length))) ∧
          t.node o.part c = { n with st := 0, gen := (n.gen + 1) % 4096 } ∧
          t.node o.part e = { s.node o.part e with refcnt := (s.node o.part e).refcnt + 1, stamp := s.now.toNat } ∧
          ∀ i, i ≠ p.nodeFirst + c → i ≠ p.nodeFirst + e → t.nodes.get? i = s.nodes.get? i)))

/-- 13 R277 to R280: CRED and CBCAST answer a bad argument or an ID that is not configured at once; else the group joins the oldest
instance with room that it has not contributed to, or begins one, and its lanes wait. -/
def CollectiveIssue : Prop :=
  ∀ (s : State) (g0 : Group) (cast : Bool) (b d : BitVec 6) (a : BitVec 5),
    let A := 2 * a.toNat
    let srcs := regsFrom Reg.s A 4 ++ [.s b.toNat]
    let i : Instr := if cast then .cbcast b a d else .cred b a d
    A ≤ 56 → d.toNat < 60 → Ready s g0 srcs [.s d.toNat] →
    let g := g0.claim srcs
    let w := g.sr b.toNat
    let id := (w.extractLsb' 0 6).toNat
    let p := s.part g.part
    let bad := w.extractLsb' 6 3 ≠ 0 ∨ (cast = true ∧ w.extractLsb' 10 2 ≠ 0) ∨ (cast = false ∧ w.getLsbD 9 = true) ∨
      (g.sr A).extractLsb' 0 2 ≠ 0 ∨ (g.sr (A + 2)).extractLsb' 0 2 ≠ 0
    let takes := fun x : Coll => x.id = id ∧ x.contribs.length < (x.cfg.extractLsb' 0 16).toNat + 1 ∧ ∀ c ∈ x.contribs, c.uid ≠ g.uid
    let mine : CContrib := {
      gid := s.cur.gid, uid := g.uid, src := g.sr (A + 1) ++ g.sr A, dst := g.sr (A + 3) ++ g.sr (A + 2),
      count := (w.extractLsb' 12 20).toNat + 1, op := if cast then 4 else (w.extractLsb' 10 2).toNat,
      root := cast && w.getLsbD 9, d := d.toNat, mask := s.cur.mask, key := s.fresh }
    let joins := fun colls : List Coll => Does i s [.groups, .sps, .parts] fun t => OnlyGroup s t s.cur.gid ∧ OnlyPart s t g.part ∧
      t.part g.part = { p with colls } ∧ ∃ h, t.group? s.cur.gid = some h ∧ SameRegs g h [] [] ∧ ∀ j, j < g.lanes.length → j < 64 →
        (h.lane j).pc = (g.lane j).pc ∧
        (h.lane j).hold = if maskBit s.cur.mask j then some (.collective id) else (g.lane j).hold
    (s.cur.cls ≠ .ordinary → Raises i s g0 1) ∧
    (s.cur.cls = .ordinary → bad → SclResult i s g d.toNat 4) ∧
    (s.cur.cls = .ordinary → ¬ bad → (∀ x ∈ p.colls, ¬ takes x) → (p.reg (0x600 + 8 * id)).getLsbD 63 = false →
      SclResult i s g d.toNat 5) ∧
    (s.cur.cls = .ordinary → ¬ bad → (∀ x ∈ p.colls, ¬ takes x) → (p.reg (0x600 + 8 * id)).getLsbD 63 = true →
      joins (p.colls ++ [{ id, cfg := p.reg (0x600 + 8 * id), contribs := [mine], stopped := none, lost := false }])) ∧
    (∀ (pre post : List Coll) (x : Coll), s.cur.cls = .ordinary → ¬ bad → p.colls = pre ++ x :: post → (∀ y ∈ pre, ¬ takes y) →
      takes x → joins (pre ++ { x with contribs := x.contribs ++ [mine] } :: post))

/-- 13 R279, R280; 18 R336: the oldest instance of an ID combines its sources, stores the result to every destination and sends the package's
part to the others, or ends with the status of what hinders it, here or elsewhere. -/
def CollectiveCompletion : Prop :=
  (∀ (s : State) (part id status : Nat) (ext : List (Nat × List Word)) (x : Coll),
    let p := s.part part
    let i : Instr := .collectiveComplete part id ⟨status, ext⟩
    (p.colls.find? fun y => y.id == id) = some x → p.stoppedAll = false → x.stopped = none → status ≤ 2 →
    (x.cfg.extractLsb' 16 10 = 0 → status = 0) → (x.contribs.map (·.gid)).Nodup → (∀ c ∈ x.contribs, c.d < 60) →
    let ends := fun (may : List Comp) (status : Word) (P : State → Prop) => Does i s ([.groups, .parts] ++ may) fun t =>
      Delivered s t x status ∧ (∀ k, k ∉ x.contribs.map (·.gid) → t.group? k = s.group? k) ∧ OnlyPart s t part ∧
      t.part part = { p with colls := p.colls.erase x } ∧ P t
    let sent := fun (t : State) (status : DWord) (ws : List Word) => t.fabricOut =
      if x.cfg.extractLsb' 16 10 = 0 then s.fabricOut
      else (part, 2, (x.cfg.extractLsb' 32 16).setWidth 64 :: status :: ws.map (·.setWidth 64)) :: s.fabricOut
    let isFull := x.contribs.length = (x.cfg.extractLsb' 0 16).toNat + 1
    let full := isFull ∧ ext.length = (x.cfg.extractLsb' 16 10).toNat ∧
      (ext.map (·.1)).Nodup ∧ ∀ y ∈ ext, y.1 ≠ s.mc.pkgId.toNat ∧ y.1 < 1024
    (x.lost = true → ¬ isFull → ends [] 3 fun _ => True) ∧
    (x.lost = true → isFull → ends [.mem, .late, .poison] 3 fun _ => True) ∧
    (x.lost = false → full → (status = 1 ∨ collMismatch x.contribs ext = true) → ends [] 1 fun t => sent t 1 []) ∧
    (x.lost = false → full → status ≠ 1 → collMismatch x.contribs ext = false → s.hostLost = false → s.weak = [] →
      (∀ c e, s.collSources part x.contribs = .error (c, e) → e.code ≠ 13 → e.fatal = false →
        ends [.late] 2 fun t => t.late.cells = s.late.cells ∧ sent t 2 []) ∧
      (∀ c e, s.collSources part x.contribs = .error (c, e) → e.code = 13 →
        Does i s [.parts] fun t => OnlyPart s t part ∧
          (t.part part).colls = p.colls.map (fun y => if y = x then { y with stopped := some p.nextId } else y) ∧
          ∃ r, (t.part part).frecs = p.frecs ++ [r] ∧ r.id = p.nextId ∧ r.kind = 0 ∧ r.cause = 13 ∧ r.va = e.va ∧ r.engine = 6) ∧
      (∀ cs pss, s.collSources part x.contribs = .ok cs → s.collDests part x.contribs = .ok pss →
        let words := collResult s.mc.pkgId.toNat cs ext
        (status = 0 → ends [.mem, .late, .poison] 0 fun t => sent t 0 (collPart cs) ∧
          t.mem = ((x.contribs.zip pss).foldl (fun (u : State) y =>
            (u.writesFor y.1.key).writePieces part y.2 (words.flatMap fun w => toBytes 4 w.toNat)) s).mem) ∧
        (status = 2 → ends [.mem, .late, .poison] 2 fun t => sent t 0 (collPart cs))))) ∧
  (∀ (pkg : Nat) (c e : CContrib) (us vs : List Word), c.op ≤ 3 → e.op = c.op → us.length = vs.length → dieOf c.gid = dieOf e.gid →
    dieOf c.gid < 4 → c.gid < e.gid → collResult pkg [(e, vs), (c, us)] [] = us.zipWith (collCombine c.op) vs) ∧
  (∀ (pkg : Nat) (c e : CContrib) (us vs : List Word), c.op = 4 → e.op = 4 → c.root = true → e.root = false →
    collResult pkg [(e, vs), (c, us)] [] = us) ∧
  (∀ u v : Word, collCombine 0 u v = u + v ∧ collCombine 1 u v = fadd u v ∧ collCombine 2 u v = (if u.slt v then v else u) ∧
    collCombine 3 u v = fmax u v) ∧
  (∀ (c e : CContrib) (r : List CContrib), (c.count ≠ e.count ∨ c.op ≠ e.op) → collMismatch (c :: e :: r) [] = true)

/-- 13 R280, 18 R336: when a package can no longer be reached, the instances in which it takes part end with LINK; those of a frozen job are
marked, to end after the resume. -/
def PackageUnreachable : Prop :=
  ∀ (s : State) (pkg part : Nat) (takes : List (Nat × Nat)) (p : Part), pkg ≠ s.mc.pkgId.toNat → pkg < 1024 → s.parts = [(part, p)] →
    (∀ x ∈ p.colls, x.lost = false) →
    let loses := fun x : Coll => x.cfg.extractLsb' 16 10 != 0 && takes.contains (part, x.id)
    let hit := p.colls.filter loses
    ((hit.flatMap fun x => x.contribs.map (·.gid)).Nodup) → (∀ x ∈ hit, ∀ c ∈ x.contribs, c.d < 60) →
    (p.stoppedAll = false →
      Does (.participatingPackageUnreachable ⟨pkg, takes⟩) s [.groups, .parts, .mem, .late, .poison] fun t =>
        (∀ x ∈ hit, Delivered s t x 3) ∧ OnlyPart s t part ∧
        t.part part = { p with colls := p.colls.filter fun x => !loses x } ∧
        ((∀ x ∈ hit, x.contribs.length ≠ (x.cfg.extractLsb' 0 16).toNat + 1) → SameMemory s t ∧ t.late = s.late)) ∧
    (p.stoppedAll = true → Does (.participatingPackageUnreachable ⟨pkg, takes⟩) s [.parts] fun t => OnlyPart s t part ∧
      t.part part = { p with colls := p.colls.map fun x => if loses x then { x with lost := true } else x })

/-- 01 R21, R25; 05 R119; 16 R302: a cluster places the lowest team of its range on a core that can hold it, with its window loaded and its
groups formed as at launch. -/
def TeamPlacement : Prop :=
  (∀ (s : State) (cluster part grid core : Nat) (x : Grid) (ents : List (List Byte)) (pages : List Nat),
    s.partOfCluster cluster = some part →
    let p := s.part part
    p.ctxState = 2 → p.preempt ≠ 1 → p.preempt ≠ 2 → p.stoppedAll = false → p.faulted = false → p.resetting = false →
    (s.cluster cluster).nextPlace ≤ p.clock →
    s.nextPlacement p.viewV p.clock cluster (s.gridList part) = some (grid, x, core) → s.grids.get? grid = some x →
    s.readTable part (p.reg 0x108 &&& ~~~63) 64 64 = { st := s, ents, pages, stop := none } →
    ents.length = 64 → (∀ e ∈ ents, e.length = 64) →
    let slots := s.allotSlots p.viewV core x.pair x.groups []
    slots.length = x.groups → slots.Nodup → x.width ≤ 64 →
    let w := x.width
    let first := (x.range cluster).1
    let arg := (x.packet[3]?).getD 0
    Does (.teamPlace cluster) s [.groups, .teams, .grids, .clusters] fun t => OnlyTeam s t s.fresh ∧ OnlyCluster s t cluster ∧
      t.cluster cluster = { s.cluster cluster with nextPlace := p.clock + 4 } ∧
      (∀ k, k ∉ slots → t.group? k = s.group? k) ∧
      (∃ x', t.grids.get? grid = some x' ∧ x'.resident = x.resident + 1 ∧ (∀ c, c ≠ cluster → x'.runs c = x.runs c) ∧
        ∀ i, (∃ r ∈ x'.runs cluster, r.1 ≤ i ∧ i < r.1 + r.2) ↔ i ≠ first ∧ ∃ r ∈ x.runs cluster, r.1 ≤ i ∧ i < r.1 + r.2) ∧
      (∃ tm, t.teams.get? s.fresh = some tm ∧ tm.part = part ∧ tm.grid = grid ∧ tm.index = first ∧ tm.core = core ∧
        tm.slots = slots ∧ tm.width = w ∧ tm.nextGroup = BitVec.ofNat 32 x.groups ∧ tm.nextIdx = BitVec.ofNat 32 (x.groups * w) ∧
        tm.phases = [] ∧ tm.tasks = [] ∧
        ∀ n k e, n < 64 → k < 64 → ents[n]? = some e → (entryOf e).malformed = false → some (tm.tids.get (64 * n + k)) = e[k]?) ∧
      ∀ k gid, slots[k]? = some gid → ∃ h, t.group? gid = some h ∧ h.team = s.fresh ∧ h.part = part ∧ h.kind = .ordinary ∧
        h.level = 0 ∧ h.width = w ∧ h.nv = x.nv ∧ h.ns = x.ns ∧ h.nt = x.nt ∧ h.gnum = BitVec.ofNat 32 k ∧ h.lanes.length = w ∧
        h.empty = [] ∧
        (∀ j, j < w → (h.lane j).st = .live ∧ (h.lane j).pc = (x.packet[2]?).getD 0 ∧
          (h.lane j).orig = BitVec.ofNat 32 (k * w + j) ∧ (h.lane j).age = 0 ∧ (h.lane j).meet = 0 ∧
          h.vr 0 j = BitVec.ofNat 32 (k * w + j)) ∧
        (∀ n j, n ≠ 0 → j < 64 → h.vr n j = 0) ∧ h.sr 0 = lo32 arg ∧ h.sr 1 = hi32 arg ∧ h.sr 2 = BitVec.ofNat 32 k ∧
        h.sr 3 = BitVec.ofNat 32 first ∧ (∀ n, 4 ≤ n → h.s.get n = 0) ∧ (∀ n, h.k.get n = 0) ∧
        ∀ n i, i < 1024 → h.tw n i = 0) ∧
  (∀ (s : State) (v cluster core : Nat) (x : Grid), s.pickCore v cluster x = some core →
    let mine := fun c => if x.pair then c = cluster * 4 ∨ c = cluster * 4 + 2 else cluster * 4 ≤ c ∧ c < cluster * 4 + 4
    mine core ∧ s.coreHolds v core x = true ∧ ∀ c, mine c → s.coreHolds v c x = true →
      s.loadOf core x.pair ≤ s.loadOf c x.pair ∧ (s.loadOf c x.pair = s.loadOf core x.pair → core ≤ c)) ∧
  (∀ (v : Nat) (x : Grid), x.pair = false →
    (x.fits v = true ↔ (∀ k, k < 4 → (x.groups + 3 - k) / 4 ≤ (if k < v then 15 else 16) ∧
        (x.groups + 3 - k) / 4 * (x.nv * x.width * 4) ≤ (if k < v then 120 else 128) * 1024) ∧
      x.groups * x.nt ≤ 128 - 2 * v ∧ x.scratch ≤ 384 * 1024 ∧ x.groups ≤ 64))

/-- 16 R303: a cluster, and a die, with no team left of a grid takes the upper half of the richest range, which arrives 64, or 256,
cycles later. -/
def Steals : Prop :=
  ∀ (s : State) (grid : Nat) (x : Grid), s.grids.get? grid = some x →
    let p := s.part x.part
    let others := fun (t : State) => ∀ k, k ≠ grid → t.grids.get? k = s.grids.get? k
    let moved := fun (t : State) (die : Bool) (victim thief due f n : Nat) => others t ∧
      let k := (n + 1) / 2
      ∃ x', t.grids.get? grid = some x' ∧ x'.steals = x.steals ++ [{ die, cluster := thief, due, first := f + (n - k), count := k }] ∧
        x'.runs victim = (if n - k = 0 then [] else [(f, n - k)]) ∧ ∀ c, c ≠ victim → x'.runs c = x.runs c
    let landed := fun (t : State) (y : Steal) => others t ∧
      ∃ x', t.grids.get? grid = some x' ∧ x'.steals = x.steals.erase y ∧
        x'.runs y.cluster = x.runs y.cluster ++ (if y.count = 0 then [] else [(y.first, y.count)]) ∧
        ∀ c, c ≠ y.cluster → x'.runs c = x.runs c
    p.placing = true →
    (∀ cluster, cluster ∈ p.clusters →
      (∀ y, x.steals = [y] → y.die = false → y.cluster = cluster → y.due ≤ p.clock →
        Does (.clusterSteal cluster grid) s [.grids] fun t => landed t y) ∧
      (∀ victim f n, x.steals = [] → x.left cluster = 0 → (s.pickCore p.viewV cluster x).isSome = true → victim ∈ p.clusters →
        dieOfCluster victim = dieOfCluster cluster → x.runs victim = [(f, n)] →
        (∀ c ∈ p.clusters, dieOfCluster c = dieOfCluster cluster → c ≠ victim → x.left c ≤ n ∧ (x.left c = n → victim < c)) →
        p.clusters.Pairwise (· < ·) →
        Does (.clusterSteal cluster grid) s [.grids] fun t => moved t false victim cluster (p.clock + 64) f n)) ∧
    (∀ die y, x.steals = [y] → y.die = true → y.cluster ∈ p.clusters → dieOfCluster y.cluster = die → y.due ≤ p.clock →
      Does (.dieSteal x.part die grid) s [.grids] fun t => landed t y) ∧
    (∀ die thief victim other f n, x.steals = [] → p.clusters = [thief, victim] → dieOfCluster thief = die → dieOfCluster victim = other →
      other ≠ die → die < 4 → other < 4 → x.left thief = 0 → x.runs victim = [(f, n)] → (s.pickCore p.viewV thief x).isSome = true →
      Does (.dieSteal x.part die grid) s [.grids] fun t => moved t true victim thief (p.clock + 256) f n)

/-- 16 R302, R303: TEAM_PLACE, CLUSTER_STEAL and DIE_STEAL complete: a cluster that holds nothing places the team of the one grid of its
partition where an empty core could hold it and the window can be read; teams under way arrive at their thief; and a cluster, or a die,
without teams robs the one cluster that has some. -/
def DistributorsComplete : Prop :=
  (∀ (s : State) (cluster part grid f n : Nat) (x : Grid), s.partOfCluster cluster = some part → (s.part part).placing = true →
    (s.cluster cluster).nextPlace ≤ (s.part part).clock → s.grids = [(grid, x)] → x.part = part → x.runs cluster = [(f, n)] →
    x.cuts.isSome = true → x.stopped = none → s.groups = [] → s.teams = [] → x.fits (s.part part).viewV = true →
    s.hostLost = false → s.weak = [] →
    (∀ i, i < 64 → ∃ bs, s.readFlat (engineOf part) .load ((s.part part).tidTable + BitVec.ofNat 64 (64 * i)) 64 = .ok bs) →
    ∃ t tm, exec (.teamPlace cluster) s = .next t ∧ t.teams.get? s.fresh = some tm ∧ tm.part = part ∧ tm.grid = grid ∧ tm.index = f ∧
      tm.core = cluster * 4 ∧ tm.width = x.width ∧ tm.scratch = x.scratch ∧
      (t.cluster cluster).nextPlace = (s.part part).clock + 4) ∧
  (∀ (s : State) (cluster grid : Nat) (x : Grid) (y : Steal), s.grids.get? grid = some x → (s.part x.part).placing = true →
    cluster ∈ (s.part x.part).clusters → y ∈ x.steals → y.die = false → y.cluster = cluster → y.due ≤ (s.part x.part).clock →
    ∃ t x' z, exec (.clusterSteal cluster grid) s = .next t ∧ t.grids.get? grid = some x' ∧ z ∈ x.steals ∧ z.cluster = cluster ∧
      x'.steals = x.steals.erase z ∧ x'.left cluster = x.left cluster + z.count) ∧
  (∀ (s : State) (die grid : Nat) (x : Grid) (y : Steal), s.grids.get? grid = some x → (s.part x.part).placing = true →
    y ∈ x.steals → y.die = true → y.cluster ∈ (s.part x.part).clusters → dieOfCluster y.cluster = die → y.due ≤ (s.part x.part).clock →
    ∃ t x' z, exec (.dieSteal x.part die grid) s = .next t ∧ t.grids.get? grid = some x' ∧ z ∈ x.steals ∧ dieOfCluster z.cluster = die ∧
      x'.steals = x.steals.erase z ∧ x'.left z.cluster = x.left z.cluster + z.count) ∧
  (∀ (s : State) (cluster victim grid f n : Nat) (x : Grid), s.grids.get? grid = some x → (s.part x.part).placing = true →
    cluster ∈ (s.part x.part).clusters → victim ∈ (s.part x.part).clusters → dieOfCluster victim = dieOfCluster cluster →
    x.ranges = [(victim, f, n)] → n ≠ 0 → victim ≠ cluster → x.steals = [] → s.groups = [] → s.teams = [] →
    x.fits (s.part x.part).viewV = true →
    ∃ t x', exec (.clusterSteal cluster grid) s = .next t ∧ t.grids.get? grid = some x' ∧
      x'.steals = [⟨false, cluster, (s.part x.part).clock + 64, f + (n - (n + 1) / 2), (n + 1) / 2⟩]) ∧
  (∀ (s : State) (thief victim grid f n : Nat) (x : Grid), s.grids.get? grid = some x → (s.part x.part).placing = true →
    (s.part x.part).clusters = [thief, victim] → dieOfCluster thief ≠ dieOfCluster victim → dieOfCluster victim < 4 →
    x.ranges = [(victim, f, n)] → n ≠ 0 → x.steals = [] → s.groups = [] → s.teams = [] → x.fits (s.part x.part).viewV = true →
    ∃ t x', exec (.dieSteal x.part (dieOfCluster thief) grid) s = .next t ∧ t.grids.get? grid = some x' ∧
      x'.steals = [⟨true, thief, (s.part x.part).clock + 256, f + (n - (n + 1) / 2), (n + 1) / 2⟩])

/-- 16 R290 to R292, R388; 22 R373: ENABLE, its loss, and a doorbell, for each of which the queue's descriptor receives READ, CODE and
STATE. -/
def QueueControl : Prop :=
  ∀ (s : State) (part q : Nat), q < 64 → s.hostLost = false → s.devResetting = false → s.mc.recovery = false →
    (s.part part).memEnable = true → s.weak = [] →
    let p := s.part part
    let x := p.queue q
    let ctl := p.reg (0x1000 + 16 * q)
    let desc := ctl &&& ~~~(63 : DWord)
    let becomes := fun (i : Instr) (y : Queue) (bar : Store 64) =>
      let new := { p with bar, queues := p.queues.set q y }
      let w := s.writeFlat (engineOf part) (desc + 16) (toBytes 8 y.read ++ toBytes 8 (y.code % 256 * 256 + y.st % 4))
      (∀ u, w = .ok u → Does i s [.mem, .late, .poison, .parts] fun t => OnlyPart s t part ∧ t.part part = new ∧ t.mem = u.mem) ∧
      (∀ e, w = .error e → e.fatal = false → Does i s [.parts] fun t => OnlyPart s t part ∧ ∃ r : FRec, r.cause = e.code ∧
        r.kind = (if e.code = 13 then 0 else 1) ∧ r.va = e.va ∧ r.engine = 8 ∧ r.id = p.nextId ∧ r.time = s.now ∧
        t.part part = { new with
          frecs := p.frecs ++ [r], nextId := p.nextId + 1
          resumable := if e.code = 13 then p.resumable ++ [p.nextId] else p.resumable
          ppWaits := if e.code = 13 then p.ppWaits ++ [(p.nextId, .desc q)] else p.ppWaits })
    let read := fun (i : Instr) (again : Bool) (bar : Store 64) => ∀ bs : List Byte, s.readFlat (engineOf part) .load desc 32 = .ok bs →
      let word := fun k : Nat => BitVec.ofNat 64 (ofBytes ((bs.drop (8 * k)).take 8))
      let r := (word 2).toNat
      let log := ((word 1).extractLsb' 0 5).toNat
      let bad := (word 1).extractLsb' 10 54 ≠ 0 ∨ (word 1).extractLsb' 5 3 ≠ 0 ∨ log < 4 ∨ 16 < log ∨ canonical (word 0) = false ∨
        (word 0).toNat % (64 * 2 ^ log) ≠ 0
      (bad → becomes i { x with st := 2, code := 1, read := r } bar) ∧
      (¬ bad → p.pktsOf q = [] → (again = true → x.write ≤ r) →
        becomes i { x with
          st := 1, ring := word 0, log2n := log, prio := ((word 1).extractLsb' 8 2).toNat, read := r, write := r, next := r, done := [],
          slot := none, disabling := false } bar)
    (ctl.getLsbD 0 = false → p.ctxState ≠ 2 → Does (.queueEnable part q) s [] fun _ => True) ∧
    (ctl.getLsbD 0 = false → p.ctxState = 2 → read (.queueEnable part q) false (p.bar.set (0x1000 + 16 * q) (ctl ||| 1))) ∧
    (ctl.getLsbD 0 = true → x.st = 2 → p.ctxState = 2 → read (.queueReenable part q) true p.bar) ∧
    (ctl.getLsbD 0 = true → Does (.queueDisable part q) s [.parts] fun t => OnlyPart s t part ∧ t.part part =
      { p with
        bar := p.bar.set (0x1000 + 16 * q) (ctl &&& ~~~(1 : DWord))
        queues := p.queues.set q { x with disabling := true, stopped := none, slot := none } }) ∧
    (x.disabling = true → p.pktsOf q = [] → becomes (.queueDisableDone part q) { x with st := 0, disabling := false } p.bar) ∧
    (∀ w : BitVec 64,
      (x.st = 0 ∨ w.toNat ≤ x.write → Does (.qdoor part q w) s [] fun _ => True) ∧
      (x.st ≠ 0 → x.write < w.toNat → 2 ^ x.log2n < w.toNat - x.read → becomes (.qdoor part q w) { x with st := 2, code := 7 } p.bar) ∧
      (x.st ≠ 0 → x.write < w.toNat → w.toNat - x.read ≤ 2 ^ x.log2n →
        (x.st ≠ 1 ∨ x.disabling = true ∨ x.stopped.isSome = true ∨ x.slot.isSome = true →
          Does (.qdoor part q w) s [.parts] fun t => OnlyPart s t part ∧
            t.part part = { p with queues := p.queues.set q { x with write := w.toNat } }) ∧
        (∀ bs, x.st = 1 → x.disabling = false → x.stopped = none → x.slot = none → x.next < w.toNat →
          s.readFlat (engineOf part) .load (x.ring + BitVec.ofNat 64 (64 * (x.next % 2 ^ x.log2n))) 64 = .ok bs →
          Does (.qdoor part q w) s [.parts] fun t => OnlyPart s t part ∧ ∃ y, t.part part = { p with queues := p.queues.set q y } ∧
            y = { x with write := w.toNat, slot := y.slot } ∧ ∃ ws, y.slot = some ws ∧ ws.length = 8 ∧
              ∀ k : Nat, k < 8 → ws[k]? = some (BitVec.ofNat 64 (ofBytes ((bs.drop (8 * k)).take 8))))))

/-- 16 R293 to R297, R302; 11 R223: the processor starts the next packet of the queue it picks, with an acquire at its scope; an invalid one
aborts its queue and gives its signal code 1, and a KERNEL brings its grid, with its teams shared out over the clusters. -/
def PacketStarts : Prop :=
  (∀ (s : State) (part q : Nat) (ws : List DWord),
    let p := s.part part
    let x := p.queue q
    p.placing = true → s.hostLost = false → p.nextStart ≤ p.clock → p.pickQueue = some q → x.slot = some ws →
    let starts := fun (may : List Comp) (result grid : Nat) (P : State → Prop) => Does (.packetStart part) s may fun t =>
      OnlyPart s t part ∧
      (t.part part) = { p with
        pkts := p.pkts ++ [{
          queue := q, index := x.next, words := ws, result, slots := [], abort := none, pos := 0, nextRound := p.clock, stopped := none,
          grid, id := s.fresh }]
        nextStart := p.clock + 8, served := p.served.set x.prio q
        queues := p.queues.set q { x with next := x.next + 1, slot := none } } ∧ P t
    let acquired := fun (t : State) => (pktBits ws 5 2 = 0 → t.late = s.late) ∧
      ∀ path, Publishes s t (fun e => pktBits ws 5 2 ≠ 0 ∧ 2 ≤ e.reach.ls) path 2 0
    (pktOk ws = false → ∀ u, s.writeFlat (engineOf part) (p.descVa q + 16) (toBytes 8 x.read ++ toBytes 8 (256 + 2)) = .ok u →
      let aborted := { p with queues := (p.queues.set q { x with slot := none }).set q { x with st := 2, code := 1, slot := none } }
      let roused := { aborted with pkts := p.pkts.map fun k => { k with nextRound := min k.nextRound p.clock } }
      let gives := fun (part' : Part) (mem : Store 8) => Does (.packetStart part) s [.mem, .late, .poison, .parts] fun t =>
        OnlyPart s t part ∧ t.part part = part' ∧ t.mem = mem
      ((sigOk (pktSig ws) = false ∨ ws = []) → gives aborted u.mem) ∧ (ws ≠ [] → pktSig ws = 0 → gives roused u.mem) ∧
      (∀ v, sigOk (pktSig ws) = true → pktSig ws ≠ 0 → u.update64 part (pktSig ws) (fun v => signalNext v (some 1)) = .ok v →
        gives roused v.mem)) ∧
    (pktOk ws = true → x.write ≤ x.next + 1 → pktType ws ≠ 1 → starts [.parts, .late] 0 0 acquired) ∧
    (pktOk ws = true → x.write ≤ x.next + 1 → pktType ws = 1 → p.tooLarge ws = true → starts [.parts, .late] 5 0 acquired) ∧
    (∀ (ents : List (List Byte)) (pages : List Nat), pktOk ws = true → x.write ≤ x.next + 1 → pktType ws = 1 → p.tooLarge ws = false →
      pktBits ws 5 2 = 0 →
      s.readTable part (p.reg 0x110) 32 256 = { st := s, ents, pages, stop := none } →
      starts [.parts, .grids] 0 s.fresh fun t => (∀ i, i ≠ s.fresh → t.grids.get? i = s.grids.get? i) ∧
        ∃ y, t.grids.get? s.fresh = some y ∧ y.part = part ∧ y.queue = q ∧ y.index = x.next ∧ y.packet = ws ∧ y.prio = x.prio ∧
          y.ranges = p.splitTeams (pktBits ws 32 16 * pktBits ws 48 16 * pktBits ws 64 16) ∧ y.resident = 0 ∧ y.steals = [] ∧
          y.stopped = none ∧ ∃ cuts, y.cuts = some cuts ∧ cuts.length = ents.length ∧
            ∀ (n k : Nat) (e : List Byte), k < 4 → ents[n]? = some e →
              (cuts[n]?.bind fun row => row[k]?) = some (BitVec.ofNat 64 (ofBytes ((e.drop (8 * k)).take 8))))) ∧
  (∀ (p : Part) (n die : Nat), die < 4 → (∀ c ∈ p.clusters, dieOfCluster c = die) → ∀ i c, p.clusters[i]? = some c →
    let C := p.clusters.length
    (p.splitTeams n)[i]? = some (c, i * (n / C) + min i (n % C), n / C + if i < n % C then 1 else 0)) ∧
  (∀ (p : Part) (q : Nat), p.pickQueue = some q → p.queues.wf = true → p.startable q (p.queue q) = true ∧
    ∀ r, (p.queues.get? r).isSome = true → p.startable r (p.queue r) = true → (p.queue r).prio ≤ (p.queue q).prio ∧
      ((p.queue r).prio = (p.queue q).prio → let last := p.served.getD (p.queue q).prio 63
        (last < q → last < r → q ≤ r) ∧ (q ≤ last → r ≤ last ∧ q ≤ r))) ∧
  (∀ ws : List DWord, pktBits ws 9 7 ≠ 0 ∨ pktType ws = 0 ∨ 4 < pktType ws → pktOk ws = false) ∧
  (∀ a v sig : DWord, ∀ h : Word, h.extractLsb' 9 7 = 0 → h.extractLsb' 18 14 = 0 → h.extractLsb' 0 4 = 4 →
    (pktOk [h.setWidth 64, a, v, 0, 0, 0, 0, sig] = true ↔
      h.getLsbD 17 = false ∧ canonical a = true ∧ a.toNat % 64 = 0 ∧ canonical sig = true ∧ sig.toNat % 64 = 0))

/-- 16 R293, R295, R300, R388: a completion updates the packet's signal, that of a COPY after its writes have been released, and READ goes past
every completed packet it stands at. -/
def PacketCompletion : Prop :=
  (∀ v : DWord, signalNext v none = (if v = 0 then -1 else if v.getLsbD 63 then v else v - 1)) ∧
  (∀ (v : DWord) (c : Nat), c < 2 ^ 16 → signalNext v (some c) = if v.getLsbD 63 then v else BitVec.ofInt 64 (-(1 + c))) ∧
  (∀ (s : State) (part : Nat) (k : Pkt), s.hostLost = false →
    let p := s.part part
    let x := p.queue k.queue
    (p.pkts.find? fun y => y.queue == k.queue && y.index == k.index) = some k → k.stopped = none → k.result ≠ 0 →
    (p.stoppedAll = false ∨ pktType k.words = 4) → x.done = [] →
    let code := if k.result = 1000 then none else some (k.result - 1)
    let i : Instr := .packetComplete part k.queue k.index
    let read := if k.index = x.read then x.read + 1 else x.read
    let y := if k.index = x.read then { x with read := x.read + 1 } else { x with done := [k.index] }
    let desc := fun u : State => u.writeFlat (engineOf part) (p.descVa k.queue + 16)
      (toBytes 8 read ++ toBytes 8 (x.code % 256 * 256 + x.st % 4))
    let tried := (s.pktRelease k).signalTry part (pktSig k.words) code
    (∀ u v, tried = .ok u → desc u = .ok v → Does i s [.mem, .late, .poison, .parts] fun t => OnlyPart s t part ∧
      (t.part part).pkts = (p.pkts.erase k).map (fun y => { y with nextRound := min y.nextRound p.clock }) ∧
      (t.part part).queue k.queue = y ∧ t.mem = v.mem) ∧
    (∀ e, tried = .error e → e.code = 13 → Does i s [.parts] fun t => OnlyPart s t part ∧
      (t.part part).pkts = p.pkts.map (fun y => if y = k then { y with stopped := some p.nextId } else y) ∧
      ∃ r, (t.part part).frecs = p.frecs ++ [r] ∧ r.kind = 0 ∧ r.cause = 13 ∧ r.va = e.va ∧ r.engine = 8 ∧ r.id = p.nextId) ∧
    (∀ e v, tried = .error e → e.code ≠ 13 → e.fatal = false → desc s = .ok v →
      Does i s [.mem, .late, .poison, .parts] fun t => OnlyPart s t part ∧ (t.part part).pkts = p.pkts.erase k ∧
        (t.part part).queue k.queue = y ∧ t.mem = v.mem ∧
        ∃ r, (t.part part).frecs = p.frecs ++ [r] ∧ r.kind = 1 ∧ r.cause = e.code ∧ r.va = e.va ∧ r.engine = 8)) ∧
  (∀ (s : State) (k : Pkt), pktType k.words = 3 → ∀ path,
    Publishes s (s.pktRelease k) (fun e => e.src.1 = k.id) path (max 2 (pktBits k.words 7 2 + 1)) 0) ∧
  (∀ (r : Nat) (n m : Nat), n < m → advanceRead (n + 1) r ((List.range m).map (r + ·)) =
    (r + n + 1, (List.range (m - n - 1)).map (r + n + 1 + ·)))

/-- 16 R298, R299: a BARRIER's round satisfies every awaited signal that reads 0, completes when none is left, and aborts on the lowest
that reads negative. -/
def BarrierPackets : Prop :=
  ∀ (s : State) (part : Nat) (k : Pkt), s.hostLost = false →
    let p := s.part part
    let x := p.queue k.queue
    (p.pkts.find? fun y => y.queue == k.queue && y.index == k.index) = some k → pktType k.words = 2 → k.result = 0 → k.stopped = none →
    p.placing = true → x.st ≠ 3 → k.slots = [] → k.abort = none → s.weak = [] →
    let a := fun i : Nat => (k.words[i]?).getD 0
    ∀ v : Nat → DWord, (∀ i : Nat, 1 ≤ i → i ≤ 5 → a i ≠ 0 →
      ∃ bs, s.readFlat (engineOf part) .load (a i) 8 = .ok bs ∧ BitVec.ofNat 64 (ofBytes bs) = v i) →
    let sat := (upTo 1 5).filter fun i => a i != 0 && v i == 0
    ((∀ i : Nat, 1 ≤ i → i ≤ 5 → a i ≠ 0 → (v i).getLsbD 63 = false) →
      Does (.barrierPacketRound part k.queue k.index) s [.parts] fun t => OnlyPart s t part ∧
        t.part part = { p with pkts := p.pkts.map fun y =>
          if y = k then { y with
            slots := sat, nextRound := p.clock + 1024
            result := if ∀ i ∈ upTo 1 5, a i = 0 ∨ v i = 0 then 1000 else 0 } else y }) ∧
    (∀ i : Nat, 1 ≤ i → i ≤ 5 → a i ≠ 0 → (v i).getLsbD 63 = true → (∀ j : Nat, 1 ≤ j → j < i → a j ≠ 0 → (v j).getLsbD 63 = false) →
      pktSig k.words = 0 →
      let code := min 255 (-(v i).toInt - 1).toNat
      ∀ u, s.writeFlat (engineOf part) (p.descVa k.queue + 16) (toBytes 8 x.read ++ toBytes 8 (code % 256 * 256 + 2)) = .ok u →
      Does (.barrierPacketRound part k.queue k.index) s [.mem, .late, .poison, .parts] fun t => OnlyPart s t part ∧ t.mem = u.mem ∧
        t.part part = { p with pkts := p.pkts.erase k, queues := p.queues.set k.queue { x with st := 2, code } })

/-- 16 R300, R301: a COPY moves its next 64 bytes, and a SIGNAL changes its target and completes. -/
def CopyAndSignalPackets : Prop :=
  (∀ (s : State) (part : Nat) (k : Pkt) (bs : List Byte), s.hostLost = false → s.weak = [] →
    let p := s.part part
    (p.pkts.find? fun y => pktType y.words == 3 && y.result == 0) = some k → p.stoppedAll = false → k.stopped = none →
    let src := (k.words[1]?).getD 0 + BitVec.ofNat 64 k.pos
    let dst := (k.words[2]?).getD 0 + BitVec.ofNat 64 k.pos
    let i : Instr := .packetCopySector part
    let changed := fun (t : State) (y : Pkt) => OnlyPart s t part ∧ (t.part part).pkts = p.pkts.map fun z => if z = k then y else z
    (∀ u, s.readFlat (engineOn part .cp) .load src 64 = .ok bs → s.writeFlat (engineOn part .cp) dst bs = .ok u →
      Does i s [.mem, .late, .poison, .parts] fun t => t.mem = u.mem ∧
        changed t { k with pos := k.pos + 64, result := if k.pos + 64 = pktBits k.words 32 32 then 1000 else 0 }) ∧
    (∀ e, s.readFlat (engineOn part .cp) .load src 64 = .error e → e.code = 13 →
      Does i s [.parts] fun t => changed t { k with stopped := some p.nextId } ∧
        ∃ r, (t.part part).frecs = p.frecs ++ [r] ∧ r.kind = 0 ∧ r.cause = 13 ∧ r.va = e.va ∧ r.engine = 2 ∧ r.id = p.nextId) ∧
    (∀ e, s.readFlat (engineOn part .cp) .load src 64 = .error e → e.code ≠ 13 → e.fatal = false →
      Does i s [.parts] fun t => changed t { k with result := 4 } ∧
        ∃ r, (t.part part).frecs = p.frecs ++ [r] ∧ r.kind = 1 ∧ r.cause = e.code ∧ r.va = e.va ∧ r.engine = 2 ∧ r.code = 66)) ∧
  (∀ (s : State) (part : Nat) (k : Pkt) (u : State), s.hostLost = false →
    let p := s.part part
    let x := p.queue k.queue
    (p.pkts.find? fun y => y.queue == k.queue && y.index == k.index) = some k → (p.pkts.filter (· == k)).length = 1 →
    k.stopped = none → pktType k.words = 4 → k.result = 0 → pktSig k.words = 0 → x.done = [] → k.index = x.read →
    let value := (k.words[2]?).getD 0
    s.update64 part ((k.words[1]?).getD 0) (fun old => if pktBits k.words 16 2 = 0 then value else old + value) = .ok u →
    ∀ w, u.writeFlat (engineOf part) (p.descVa k.queue + 16) (toBytes 8 (x.read + 1) ++ toBytes 8 (x.code % 256 * 256 + x.st % 4)) = .ok w →
    Does (.packetComplete part k.queue k.index) s [.mem, .late, .poison, .parts] fun t => OnlyPart s t part ∧
      (t.part part).pkts.length = p.pkts.length - 1 ∧ (t.part part).queue k.queue = { x with read := x.read + 1 } ∧ t.mem = w.mem)

/-- 20 R347 to R349, R353: the stop spreads over the package 32 and 96 cycles after its event; a halt flit of the same job and domain
key and the host's LULL stop a job, the first stop writes the cause, and a stop that starts here sends its cause, its time and its job to the
other packages. -/
def LullWaves : Prop :=
  ∀ (s : State) (part : Nat),
    let p := s.part part
    let now := s.now.toNat
    let stopsAll := fun t : State => (t.part part).stoppedAll = true ∧ (t.part part).wave = none ∧ (t.part part).stopAt = now ∧
      (∀ i, (t.sp i).frozen = ((s.sp i).frozen || p.spList.contains i)) ∧ t.irqs = (part, 1) :: s.irqs
    let first := fun (t : State) (cause cause2 : Word) (time : DWord) => (t.part part).cr 0x80 = cause ∧ (t.part part).cr 0x81 = cause2 ∧
      (t.part part).cr 0x82 = lo32 time ∧ (t.part part).cr 0x83 = hi32 time
    p.stoppedAll = false →
    (∀ w, p.wave = some w →
      (w.time + 96 ≤ now → Does (.lullWaveStop part) s [.sps, .parts] fun t => OnlyPart s t part ∧ stopsAll t) ∧
      (w.time + 32 ≤ now → now < w.time + 96 →
        let near := fun i => i ∈ p.spList ∧ dieOfCluster (i / 16) = w.die
        (∃ i, near i ∧ (s.sp i).frozen = false) → (∃ i, i ∈ p.spList ∧ ¬ near i ∧ (s.sp i).frozen = false) →
        Does (.lullWaveStop part) s [.sps] fun t =>
          ∀ i, (near i → (t.sp i).frozen = true) ∧ (¬ near i → t.sp i = s.sp i))) ∧
    (∀ (cause cause2 : BitVec 32) (time job key : BitVec 64),
      let ours := p.domainBit = true ∧ p.ctxState = 2 ∧ s.devResetting = false ∧ p.resetting = false ∧ p.reg 0x390 = job ∧
        p.key = key ∧ key ≠ 0
      (ours → p.wave = none → Does (.haltFlitArrive part cause cause2 ⟨time, job, key⟩) s [.sps, .parts] fun t => OnlyPart s t part ∧
        stopsAll t ∧ first t (cause ||| 0xC0000000) (cause2 &&& 0xFFFF0000) time ∧
        (t.part part).dbgStart = some ((p.spList.head?).getD 0, 0, 0)) ∧
      (¬ ours ∨ p.wave ≠ none → exec (.haltFlitArrive part cause cause2 ⟨time, job, key⟩) s = .next s)) ∧
    (s.hostOpen part = true → p.ctxState = 2 → p.wave = none → s.mc.pkgId.toNat < 1024 →
      let time := if s.parts.any (fun x => x.2.key != 0) then s.now + s.dtimeOff else s.now
      let cause := BitVec.ofNat 32 (2 ^ 31 + s.mc.pkgId.toNat * 2 ^ 20 + 98)
      Does (.dbgcmdLull part) s [.parts] fun t => OnlyPart s t part ∧ (t.part part).wave = some { time := now, die := 4 } ∧
        first t cause 512 time ∧
        t.fabricOut = if p.domainBit then (part, 0, [cause.setWidth 64, 512, time, p.reg 0x390, p.key]) :: s.fabricOut
          else s.fabricOut) ∧
    (s.hostOpen part = true → p.ctxState ≠ 2 → Does (.dbgcmdLull part) s [] fun _ => True)

/-- 20 R343 to R345, R350: a comparator stops in place of an issue, and the debug slot starts with the job's identity and the cause. -/
def ComparatorsAndDebugSlot : Prop :=
  (∀ (s : State) (gid cmp : Nat) (g : Group) (c : Cur), s.group? gid = some g → ordinaryCand gid g = some c → c.gid = gid →
    (s.sp (spIdOf gid)).frozen = false → (s.sp (spIdOf gid)).step = 0 → c.cls = .ordinary → c.rep = false → g.passOnce ≠ some c.pc →
    (∀ l ∈ g.lanes, l.resume = none) →
    let bk := fun n => (s.core (coreOf gid)).bks.get n
    let queue := ((s.teams.get? g.team).bind fun t => s.grids.get? t.grid).map (·.queue)
    let hits := fun n : Nat => (bk (0x70 + n)).getLsbD 31 = true ∧ ((bk (0x61 + 2 * n) ++ bk (0x60 + 2 * n)) &&& ~~~1) = c.pc ∧
      ((bk (0x70 + n)).getLsbD 30 = true ∨ queue = some ((bk (0x70 + n)).extractLsb' 24 6).toNat) ∧
      (bk (0x70 + n)).getLsbD (16 + spOf gid) = true ∧ (bk (0x70 + n)).getLsbD (slotOf gid) = true
    cmp < 8 → hits cmp → (∀ n, n < cmp → ¬ hits n) → (s.part g.part).stoppedAll = false → (s.part g.part).wave = none →
    s.mc.pkgId.toNat < 1024 → coreOf gid < 1024 →
    Does (.pcMatch gid cmp) s [.groups, .sps, .parts] fun t => OnlyGroup s t gid ∧ OnlySp s t (spIdOf gid) ∧ OnlyPart s t g.part ∧
      t.group? gid = some { g with passOnce := some c.pc, matched := true } ∧ (t.sp (spIdOf gid)).frozen = true ∧
      (t.part g.part).wave = some { time := s.now.toNat, die := dieOf gid } ∧
      (t.part g.part).cr 0x80 = BitVec.ofNat 32 (2 ^ 31 + s.mc.pkgId.toNat * 2 ^ 20 + coreOf gid * 1024 + spOf gid * 256 + 96) ∧
      (t.part g.part).cr 0x81 = BitVec.ofNat 32 (cmp * 65536)) ∧
  (∀ (s : State) (part sp : Nat) (addr : Word) (pc : DWord),
    let p := s.part part
    p.dbgStart = some (sp, addr, pc) → p.stoppedAll = true → p.resident = true → p.resetting = false → p.dbgRun = none →
    p.stopAt < s.now.toNat →
    let gid := sp * 17 + 16
    let job := p.reg 0x390
    Does (.debugSlotStart part) s [.groups, .parts] fun t => OnlyGroup s t gid ∧ OnlyPart s t part ∧
      t.part part = { p with dbgStart := none, dbgRun := some gid } ∧
      ∃ h, t.group? gid = some h ∧ h.kind = .debug ∧ h.part = part ∧ h.width = 16 ∧ h.nv = 32 ∧ h.ns = 64 ∧ h.nt = 0 ∧
        h.lanes.length = 16 ∧ (h.lane 0).st = .live ∧ (h.lane 0).pc = (p.reg 0x380 &&& ~~~1) ∧
        (∀ j, 1 ≤ j → j < 16 → (h.lane j).st = .never) ∧ h.empty = [] ∧ (∀ n j, j < 64 → h.vr n j = 0) ∧
        h.sr 0 = lo32 job ∧ h.sr 1 = hi32 job ∧ h.sr 2 = p.cr 0x80 ∧ h.sr 3 = addr ∧ h.sr 4 = lo32 pc ∧ h.sr 5 = hi32 pc ∧
        ∀ n, 6 ≤ n → h.s.get n = 0)

/-- 20 R351 to R353: DSTEP lets one frozen scheduler partition make an issue, DRES asks for the resume at a domain time and ends the debug
slot's run, and the job goes on when that time has come: handlers that were to be entered are entered a cycle later (18 R318). -/
def StepsAndResumes : Prop :=
  let stepped := fun (s t : State) (part : Nat) (a : Word) =>
    let sp := (a.extractLsb' 0 12).toNat
    let ok := a.extractLsb' 12 20 = 0 ∧ sp ∈ (s.part part).spList ∧ (s.sp sp).frozen = true ∧ (s.part part).faulted = false ∧
      (s.sp sp).step = 0
    (ok → (t.sp sp).step = 1 ∧ (t.sp sp).frozen = true) ∧ (¬ ok → ∀ i, (t.sp i).step = (s.sp i).step)
  let unheld := fun (s : State) (a : Word) => ∀ x ∈ s.ops, spIdOf x.2.gid ≠ (a.extractLsb' 0 12).toNat
  let asked := fun (s t : State) (part : Nat) (time : DWord) =>
    (t.part part).resumeAt = (if (s.part part).stoppedAll = true ∧ (s.part part).faulted = false ∧ (s.part part).resetting = false
      then some time else (s.part part).resumeAt) ∧
    t.fabricOut = if (s.part part).domainBit then (part, 1, [time, (s.part part).reg 0x390, (s.part part).key]) :: s.fabricOut
      else s.fabricOut
  (∀ (s : State) (g : Group) (a : BitVec 6), Ready s g [.s a.toNat] [] →
    (s.cur.cls ≠ .debug → Raises (.dstep a) s g 1) ∧
    (s.cur.cls = .debug → g.kind = .debug → unheld s (g.sr a.toNat) → Does (.dstep a) s [.groups, .sps] fun t =>
      OnlyGroup s t s.cur.gid ∧ stepped s t g.part (g.sr a.toNat) ∧ ∃ h, t.group? s.cur.gid = some h ∧ SameRegs g h [] [] ∧
        GoesTo s g h fun _ => s.cur.pc + BitVec.ofNat 64 s.cur.len)) ∧
  (∀ (s : State) (g : Group) (a : BitVec 5), a.toNat < 30 → Ready s g [.s (2 * a.toNat), .s (2 * a.toNat + 1)] [] →
    (s.cur.cls ≠ .debug → Raises (.dres a) s g 1) ∧
    (s.cur.cls = .debug → g.kind = .debug → Does (.dres a) s [.groups, .sps, .parts] fun t => OnlyGroup s t s.cur.gid ∧
      OnlyPart s t g.part ∧ (∃ h, t.group? s.cur.gid = some h ∧ SameRegs g h [] [] ∧ ∀ l ∈ h.lanes, l.st = .exited) ∧
      (t.part g.part).dbgRun = none ∧
      asked s t g.part (g.sr (2 * a.toNat + 1) ++ g.sr (2 * a.toNat)))) ∧
  (∀ (s : State) (part : Nat) (value : BitVec 62), s.hostOpen part = true →
    (unheld s (value.setWidth 32) → Does (.dbgcmdDstep part value) s [.sps] fun t => stepped s t part (value.setWidth 32)) ∧
    Does (.dbgcmdDres part value) s [.parts] fun t => OnlyPart s t part ∧ asked s t part (value.setWidth 64)) ∧
  (∀ (s : State) (part : Nat) (time : DWord),
    let p := s.part part
    let dtime := if s.parts.any (fun x => x.2.key != 0) then s.now + s.dtimeOff else s.now
    p.resumeAt = some time → p.stoppedAll = true → p.faulted = false → p.resetting = false → p.dbgRun = none →
    (∀ i ∈ p.spList, (s.sp i).step = 0) → time.toNat ≤ dtime.toNat → s.ops = [] → p.heldResumes = [] →
    Does (.jobResume part) s [.groups, .sps, .parts] fun t => OnlyPart s t part ∧
      (t.part part).stoppedAll = false ∧ (t.part part).wave = none ∧ (t.part part).resumeAt = none ∧ (t.part part).dbgStart = none ∧
      (t.part part).cr 0x81 = (if time ≠ 0 ∧ time.toNat < dtime.toNat then p.cr 0x81 ||| 256 else p.cr 0x81) ∧
      (∀ i, (t.sp i).frozen = ((s.sp i).frozen && !p.spList.contains i)) ∧
      ∀ i g, s.group? i = some g → t.group? i = some (if g.part = part
        then { g with matched := false, enterAt := if g.parked = [] then g.enterAt else p.clock + 1 } else g))

/-- 20 R354, R355, R357: DUMP asks for a dump: a header in state 1, the sections that fit, a header in state 2 or 3, or nothing where the
buffer is not usable. It writes one after the other, and its register receives the result with the last; a write that faults ends it with
4. -/
def Dumps : Prop :=
  let header := fun (p : Part) (state required written nsp nsec : Nat) => toBytes 4 0x44435A46 ++ toBytes 2 1 ++ toBytes 2 state ++
    toBytes 8 (p.reg 0x390).toNat ++ toBytes 4 (p.cr 0x80).toNat ++ toBytes 4 (p.cr 0x81).toNat ++ toBytes 4 (p.cr 0x82).toNat ++
    toBytes 4 (p.cr 0x83).toNat ++ toBytes 8 required ++ toBytes 8 written ++ toBytes 4 nsp ++ toBytes 4 nsec ++ toBytes 8 0
  (∀ (s : State) (g : Group) (d : BitVec 6), d.toNat < 60 → Ready s g [] [.s d.toNat] →
    (s.cur.cls ≠ .debug → Raises (.dump d) s g 1) ∧
    (s.cur.cls = .debug →
      let p := s.part g.part
      let base := (p.cr 0x85 ++ p.cr 0x84) &&& ~~~(63 : DWord)
      let len := (p.cr 0x86).toNat / 64 * 64
      let some' := fun i => i ∈ p.spList ∧ (s.sp i).frozen = true ∧ ∃ x ∈ s.groups, x.1 / 17 = i ∧ x.1 % 17 ≠ 16
      Does (.dump d) s [.groups, .sps, .parts] fun t => OnlyGroup s t s.cur.gid ∧ OnlyPart s t g.part ∧
        (∃ h, t.group? s.cur.gid = some h ∧ SameRegs g h [] [] ∧ GoesTo s g h fun _ => s.cur.pc + BitVec.ofNat 64 s.cur.len) ∧
        ∃ x, t.part g.part = { p with dump := some x } ∧ x.d = d.toNat ∧
          (canonical base = false ∨ len = 0 → x.result = 5 ∧ x.writes = []) ∧
          (canonical base = true → len ≠ 0 → x.base = base ∧ (x.result = 2 ∨ x.result = 3) ∧
            (∀ w ∈ x.writes, w.1 + w.2.length ≤ len) ∧
            (∃ required written nsp nsec, x.writes.head? = some (0, header p 1 required 64 nsp 0) ∧
              x.writes.getLast? = some (0, header p x.result required written nsp nsec) ∧ written ≤ len ∧ 64 ≤ written ∧
              (x.result = 2 ↔ written = required) ∧ (nsp = 0 ↔ ∀ i, ¬ some' i)) ∧
            ((∀ i, ¬ some' i) → x.result = 2 ∧ x.writes = [(0, header p 1 64 64 0 0), (0, header p 2 64 64 0 0)])))) ∧
  (∀ (s : State) (part gid : Nat) (g : Group) (x : DumpRun),
    let p := s.part part
    p.dump = some x → p.dbgRun = some gid → s.group? gid = some g → g.part = part →
    let ends := fun (may : List Comp) (y : Word) (P : State → Prop) => Does (.dumpComplete part) s ([.groups, .parts] ++ may) fun t =>
      OnlyGroup s t gid ∧ OnlyPart s t part ∧ (t.part part).dump = none ∧ t.group? gid = some { g with s := g.s.set x.d y } ∧ P t
    (x.writes = [] → ends [] (BitVec.ofNat 32 x.result) fun t => t.part part = { p with dump := none }) ∧
    (∀ w rest, x.writes = w :: rest → match s.writeFlat (s.issuer gid g) (x.base + BitVec.ofNat 64 w.1) w.2 with
      | .ok u =>
        (rest = [] → ends [.mem, .late, .poison] (BitVec.ofNat 32 x.result) fun t => t.mem = u.mem ∧
          t.part part = { p with dump := none }) ∧
        (rest ≠ [] → Does (.dumpComplete part) s [.parts, .mem, .late, .poison] fun t => OnlyPart s t part ∧ t.mem = u.mem ∧
          t.part part = { p with dump := some { x with writes := rest } })
      | .error e => ends [] 4 fun t => (t.part part).cr 0x81 = ((p.cr 0x81 &&& 0xFFFFFF00) ||| 1) ∧
          ∃ r, (t.part part).frecs = p.frecs ++ [r] ∧ r.kind = 3 ∧ r.cause = e.code ∧ r.va = e.va))

/-- 20 R358: the host reads and writes a register of a group of a frozen scheduler partition; one with a scoreboard entry is busy unless
forced. -/
def DebugRegisterAccess : Prop :=
  ∀ (s : State) (part : Nat) (value : BitVec 64), s.hostOpen part = true → value.getLsbD 63 = true →
    let p := s.part part
    let gid := ((value.extractLsb' 48 10).toNat * 4 + (value.extractLsb' 46 2).toNat) * 17 + (value.extractLsb' 42 4).toNat
    let kind := (value.extractLsb' 58 3).toNat
    let lane := (value.extractLsb' 36 6).toNat
    let n := (value.extractLsb' 22 14).toNat
    let kept := value &&& 0x7FFFFFFFFFC00000
    let write := value.getLsbD 62
    let force := value.getLsbD 61
    let i : Instr := if write then (if force then .dbgRegForceWrite part value else .dbgRegWrite part value) else .dbgRegRead part value
    let status := fun (may : List Comp) (x : DWord) (P : State → Prop) => Does i s ([.parts] ++ may) fun t => OnlyPart s t part ∧
      (t.part part).reg 0x3A0 = kept ∧ (t.part part).reg 0x3B0 = x ∧ P t
    let here := gid / 17 ∈ p.spList ∧ (s.sp (gid / 17)).frozen = true
    let data := p.reg 0x3A8
    (s.group? gid = none ∨ ¬ here → status [] 3 fun _ => True) ∧
    (∀ g, s.group? gid = some g → here →
      let inLane := lane < g.width
      let has := (kind = 0 ∧ n < g.nv ∧ inLane) ∨ (kind = 1 ∧ g.has (.s n) = true) ∨ (kind = 2 ∧ n < 16) ∨ (kind = 3 ∧ n / 1024 < g.nt) ∨
        ((kind = 4 ∨ kind = 5) ∧ inLane) ∨ (kind = 6 ∧ crListed n = true)
      (¬ has → status [] 2 fun _ => True) ∧
      (has → write = false → status [] 0 fun t => (t.part part).reg 0x3A8 =
        if kind = 0 then (g.vr n lane).setWidth 64
        else if kind = 1 then (if n = 62 then BitVec.ofNat 32 g.rxq.length else g.sr n).setWidth 64
        else if kind = 2 then g.kr n else if kind = 3 then (g.tw (n / 1024) (n % 1024)).setWidth 64
        else if kind = 4 then (g.lane lane).meet else if kind = 5 then (g.lane lane).pc
        else (s.crRead (coreOf gid) g n).setWidth 64) ∧
      (has → write = true →
        let reg := if kind = 0 then Reg.v n else if kind = 1 then .s n else if kind = 2 then .k n else .t (n / 1024)
        let busy := kind < 4 ∧ ∃ x ∈ s.ops, x.2.gid = gid ∧ x.2.uid = g.uid ∧ reg ∈ x.2.dests
        (busy → force = false → status [] 1 fun _ => True) ∧
        ((force = true ∨ ¬ busy) → (kind = 1 → n < 60) → kind < 4 → status [.groups, .ops] 0 fun t => OnlyGroup s t gid ∧
          (∀ k, (t.ops.get? k).map (fun o => { o with dests := [] }) = (s.ops.get? k).map fun o => { o with dests := [] }) ∧
          (force = true → ∀ x ∈ t.ops, x.2.gid = gid → x.2.uid = g.uid → reg ∉ x.2.dests) ∧
          ∃ h, t.group? gid = some h ∧ SameRegs g h [reg] [] ∧ h.lanes = g.lanes ∧ (force = true → reg ∉ h.empty) ∧
            (kind = 0 → h.vr n lane = lo32 data ∧ ∀ j, j < 64 → j ≠ lane → h.vr n j = g.vr n j) ∧
            (kind = 1 → h.s.get n = lo32 data) ∧
            (kind = 2 → n ≠ 0 → h.k.get n = data) ∧
            (kind = 3 → h.tw (n / 1024) (n % 1024) = lo32 data ∧
              ∀ w, w < 1024 → w ≠ n % 1024 → h.tw (n / 1024) w = g.tw (n / 1024) w)) ∧
        (kind = 4 ∨ kind = 5 → lane < g.lanes.length → status [.groups] 0 fun t => OnlyGroup s t gid ∧ ∃ h, t.group? gid = some h ∧ SameRegs g h [] [] ∧
          (kind = 4 → (h.lane lane).meet = data ∧ (h.lane lane).pc = (g.lane lane).pc) ∧
          (kind = 5 → (h.lane lane).pc = (data &&& ~~~1) ∧ (h.lane lane).meet = (g.lane lane).meet) ∧
          ∀ j, j ≠ lane → j < g.lanes.length → (h.lane j).pc = (g.lane j).pc ∧ (h.lane j).meet = (g.lane j).meet) ∧
        (kind = 6 → crOfGroup n = true → status [.groups] 0 fun t => OnlyGroup s t gid ∧ ∃ h, t.group? gid = some h ∧
          SameRegs g h [] [n] ∧ h.lanes = g.lanes ∧ h.cr n = crNext n (g.cr n) (lo32 data))))

/-- 18 R324 to R326; 20 R348: the oldest waiting record is written to the ring as eight words; a resume lets the work of a restartable
record go on, or is held back by a freeze but for the debug slot's. -/
def FaultQueue : Prop :=
  (∀ (s : State) (part : Nat) (r : FRec) (rest : List FRec),
    let p := s.part part
    let b := p.reg 0x300
    let log := if 4 ≤ (b.extractLsb' 1 4).toNat ∧ (b.extractLsb' 1 4).toNat ≤ 12 then (b.extractLsb' 1 4).toNat else 4
    let write := (p.reg 0x308).toNat
    let off := (b.extractLsb' 12 52).toNat * 4096 + 64 * (write % 2 ^ log)
    let l : Loc := { space := if b.getLsbD 0 then .host else .hbm, owner := part, off }
    p.frecs = r :: rest → (b.extractLsb' 12 52 ≠ 0 ∨ b.extractLsb' 1 4 ≠ 0) → write - (p.reg 0x310).toNat < 2 ^ log →
    (b.getLsbD 0 = true → s.hostLost = false) → (b.getLsbD 0 = false → off + 64 ≤ p.hbmSize) →
    Does (.faultRecordWrite part) s [.mem, .late, .poison, .parts] fun t => OnlyPart s t part ∧
      t.part part = { p with bar := p.bar.set 0x308 (p.reg 0x308 + 1), frecs := rest } ∧ t.irqs = (part, 0) :: s.irqs ∧
      t.mem = Memory.write s.mem l (toBytes 8 (r.id % 2 ^ 32 * 2 ^ 32 + r.kind % 256 * 65536 + r.cause % 256) ++ toBytes 8 r.va.toNat ++
        toBytes 8 r.pc.toNat ++ toBytes 8 (r.chan % 16 * 2 ^ 36 + r.engine % 16 * 2 ^ 32 + r.whereW.toNat) ++ toBytes 8 r.code.toNat ++
        toBytes 8 r.time.toNat ++ toBytes 8 0 ++ toBytes 8 0)) ∧
  (∀ (s : State) (part : Nat) (value : BitVec 64), s.hostOpen part = true →
    let p := s.part part
    let id := (value.extractLsb' 0 32).toNat
    let waits := p.frecs.any fun r => r.id == id
    let debug := ∃ x ∈ s.groups, x.2.kind = .debug ∧ x.2.part = part ∧ x.2.stopped = some id
    (p.resumable.contains id = false ∨ waits = true → Does (.fqresume part value) s [] fun _ => True) ∧
    (p.resumable.contains id = true → waits = false → p.stoppedAll = true → ¬ debug →
      Does (.fqresume part value) s [.parts] fun t => OnlyPart s t part ∧
      t.part part = { p with heldResumes := p.heldResumes ++ [id], resumable := p.resumable.filter (· != id) }) ∧
    (p.resumable.contains id = true → waits = false → (p.stoppedAll = false ∨ debug) → (∀ x ∈ p.queues, x.2.stopped ≠ some id) →
      (∀ x ∈ s.grids, x.2.stopped ≠ some id) → (∀ x ∈ p.ppWaits, x.1 ≠ id) →
      Does (.fqresume part value) s [.groups, .ops, .grids, .cores, .clusters, .parts] fun t => OnlyPart s t part ∧
        (t.part part).resumable = p.resumable.filter (· != id) ∧
        (t.part part).pkts = p.pkts.map (fun k => { k with stopped := if k.stopped = some id then none else k.stopped }) ∧
        (t.part part).colls = p.colls.map (fun x => { x with stopped := if x.stopped = some id then none else x.stopped }) ∧
        (∀ i g, s.group? i = some g → ∃ h, t.group? i = some h ∧ SameRegs g h [] [] ∧ h.lanes = g.lanes ∧
          h.stopped = if g.part = part ∧ g.stopped = some id then none else g.stopped) ∧
        (∀ i o sub d args st x, s.ops.get? i = some o → o.kind = .snap sub d args st x →
          t.ops.get? i = some { o with kind := .snap sub d args st (if o.part = part ∧ x = some id then none else x) }) ∧
        ∀ c i h, c / 4 ∈ p.clusters → (s.core c).chans.get? i = some h → ∃ h', (t.core c).chans.get? i = some h' ∧
          h'.copies = h.copies.map fun y => { y with stopped := if y.stopped = some id then none else y.stopped }))

/-- 18 R331, R335; 22 R376, R378: a peer's refusal is Share-range and its silence LINK-LOST at the requester; lost links stop the queues in
host memory and give each partition with a share on the port, the shares being interleaved over the ports present, its notice. -/
def LinksAndPeers : Prop :=
  (∀ (s : State) (i : Nat) (a : Acc), s.accs.get? i = some a → a.loc.space = .peer → (s.part a.part).faulted = false →
    let time := if a.gid % 17 = 16 then s.now.toNat else (s.part a.part).clock
    ((s.part a.part).stoppedAll = false ∨ a.gid % 17 = 16) → ∀ sent, a.sent = some sent →
      (∃ t, exec (.peerRefusal i) s = .next t ∧ Faulted s t a.part 67 a.va a.pc ∧ t.accs.get? i = none) ∧
      (sent + 4000000 ≤ time →
        ∃ t, exec (.peerResponseTimeout i) s = .next t ∧ Faulted s t a.part 71 a.va a.pc ∧ t.accs.get? i = none)) ∧
  (∀ (s : State) (part : Nat) (p : Part), s.hostLost = false → s.devResetting = false → s.parts = [(part, p)] →
    (p.queues = [] → Does .hostLinkLost s [] fun t => t.hostLost = true ∧ t.cxlDown = s.cxlDown) ∧
    (∀ q x, p.queues = [(q, x)] → (x.st = 1 ∨ x.st = 2) → ({ s with hostLost := true }.queueInHost part q x = true ∨ p.pktsOf q = []) →
      let new := { p with queues := p.queues.set q { x with st := 3, code := 5 } }
      let w := { s with hostLost := true }.writeFlat (engineOf part) ((p.reg (0x1000 + 16 * q) &&& ~~~(63 : DWord)) + 16)
        (toBytes 8 x.read ++ toBytes 8 (5 * 256 + 3))
      (∀ u, w = .ok u → Does .hostLinkLost s [.mem, .late, .poison, .parts] fun t => t.hostLost = true ∧ OnlyPart s t part ∧
        t.part part = new ∧ t.mem = u.mem) ∧
      (∀ e, w = .error e → e.fatal = false → Does .hostLinkLost s [.parts] fun t => t.hostLost = true ∧ OnlyPart s t part ∧
        (t.part part).queues = new.queues ∧ ∃ r : FRec, (t.part part).frecs = p.frecs ++ [r] ∧ r.cause = e.code ∧
          r.kind = (if e.code = 13 then 0 else 1) ∧ r.engine = 8)) ∧
    (∀ q x, p.queues = [(q, x)] → (x.st = 1 ∨ x.st = 2) → { s with hostLost := true }.queueInHost part q x = false → p.pktsOf q ≠ [] →
      Does .hostLinkLost s [] fun t => t.hostLost = true)) ∧
  (∀ (s : State) (port n : Nat), s.cxlPorts[n]? = some port → (∀ m, m < n → s.cxlPorts[m]? ≠ some port) →
    s.cxlDown.contains port = false → s.parts.wf = true →
    Does (.cxlLinkDown port) s [.parts] fun t => t.cxlDown = port :: s.cxlDown ∧ ∀ i p, s.parts.get? i = some p →
      (p.tierSize ≤ n * 4096 → t.part i = p) ∧
      (n * 4096 < p.tierSize → ∃ r, r.id = p.nextId ∧ r.kind = 3 ∧ r.cause = 71 ∧ r.engine = 7 ∧ r.va = 0 ∧ r.time = s.now ∧
        t.part i = { p with frecs := p.frecs ++ [r], nextId := p.nextId + 1 }))

/-- 20 R348; 22 R369, R375, R378: the host and peer packages reach device memory within a partition's shares; a peer names the partition by
its domain key. A read that meets poison returns no data and faults the context, or is a notice where none is loaded (03 R81). -/
def OutsideRequests : Prop :=
  let clean := fun (s : State) (l : Loc) (size : Nat) => ∀ x ∈ lineRuns l size, s.poison.contains (x.1.cell / 64) = false
  (∀ (s : State) (part off size : Nat) (data : List (BitVec 8)), s.hostOpen part = true → data.length = size →
    let p := s.part part
    let l : Loc := ⟨.hbm, part, off⟩
    let w : Instr := .hostRequestToDeviceMemory part 0 off true data size
    let r : Instr := .hostRequestToDeviceMemory part 0 off false [] size
    (off + size ≤ p.hbmSize → (Does w s [.mem, .late, .poison] fun t => t.mem = Memory.write s.mem l data) ∧
      (clean s l size → s.weak = [] →
        Does r s [] fun t => t.hostOut = (part, s.readRun { Viewer.all with far := 4 } 32 l size) :: s.hostOut) ∧
      (¬ clean s l size →
        (p.ctxState ≠ 2 → Does r s [.parts] fun t => OnlyPart s t part ∧ t.hostOut = (part, []) :: s.hostOut ∧
          ∃ n, (t.part part).frecs = p.frecs ++ [n] ∧ n.kind = 3 ∧ n.cause = 64) ∧
        (p.ctxState = 2 → p.faulted = false → ∃ t, exec r s = .next t ∧ t.hostOut = (part, []) :: s.hostOut ∧ Faulted s t part 64 0 0))) ∧
    (p.hbmSize < off + size → (Does w s [] fun _ => True) ∧ Does r s [] fun t => t.hostOut = s.hostOut)) ∧
  (∀ (s : State) (key : BitVec 64) (kind part size : Nat) (off : BitVec 46) (data : List (BitVec 8)),
    let i : Instr := .peerRequest key kind off data size
    let refused := Does i s [] fun t => t.fabricOut = (0, 4, []) :: s.fabricOut
    let o := (off.extractLsb' 0 44).toNat
    let l : Loc := ⟨.hbm, part, o⟩
    let answered := fun (t : State) (bs : List Byte) => t.fabricOut = (part, 3, dwordsOf bs ((bs.length + 7) / 8)) :: s.fabricOut
    let old := s.readRun (if 2 ≤ kind then Viewer.all else { Viewer.all with far := 3 }) 16 l size
    let x := BitVec.ofNat 64 (ofBytes (data.take size))
    let y := BitVec.ofNat 64 (ofBytes (data.drop size))
    let v := BitVec.ofNat 64 (ofBytes old)
    (s.devResetting = true → refused) ∧ (key = 0 → refused) ∧ ((∀ p ∈ s.parts, p.2.key ≠ key) → refused) ∧
    (s.devResetting = false → key ≠ 0 → (s.parts.find? fun p => p.2.key == key) = some (part, s.part part) →
      off.extractLsb' 44 2 = 0 →
      ((s.part part).hbmSize < o + size → refused) ∧
      (o + size ≤ (s.part part).hbmSize →
        (kind = 1 → data.length = size → Does i s [.mem, .late, .poison] fun t => t.mem = Memory.write s.mem l data ∧ answered t []) ∧
        (clean s l size → s.weak = [] →
          (kind = 0 → Does i s [] fun t => answered t old) ∧
          (kind = 9 → (size = 4 ∨ size = 8) → v ≠ x → Does i s [] fun t => answered t old) ∧
          (2 ≤ kind → kind ≤ 9 → (size = 4 ∨ size = 8) → (kind = 9 → v = x) → Does i s [.mem, .late, .poison] fun t =>
            t.mem = Memory.write s.mem l (toBytes size (atomNew (kind - 2) size v x y).toNat) ∧ answered t old)) ∧
        (¬ clean s l size → kind ≠ 1 → kind ≤ 9 → (2 ≤ kind → size = 4 ∨ size = 8) → (s.part part).ctxState = 2 →
          (s.part part).faulted = false → ∃ t, exec i s = .next t ∧ Faulted s t part 64 0 0 ∧ ((s.part part).pkts = [] → t.mem = s.mem) ∧
            (part, 5, []) ∈ t.fabricOut))))

/-- 16 R292; 18 R328 to R330: a request, or the end of a time slice, begins a drain; a drain ends with the save area written; a deadline of
0 or one that passes forces the reset. No limit ends in a freeze but for a faulted context's (23 R387). -/
def Preemption : Prop :=
  ∀ (s : State) (part : Nat),
    let p := s.part part
    let drains := fun t : State => OnlyPart s t part ∧ t.part part = { p with bar := p.bar.set 0x348 1, drainCount := 0 }
    let forced := fun t : State => OnlyPart s t part ∧ (t.part part).preempt = 3 ∧
      (∀ i ∈ (t.part part).resumable, p.nextId ≤ i) ∧
      (t.part part).heldResumes = [] ∧ (t.part part).pkts = [] ∧ (t.part part).clusters = p.clusters ∧
      (∀ q, q < 64 → (t.part part).enabled q = false ∧ ((t.part part).queue q).st = 0) ∧
      (∃ r, (t.part part).frecs.getLast? = some r ∧ r.kind = 3 ∧ r.cause = 70 ∧ r.time = s.now) ∧
      (p.faulted = false → (∀ i g, s.group? i = some g → t.group? i = if g.part = part ∧ slotOf i ≠ 16 then none else some g) ∧
        (∀ i x, s.teams.get? i = some x → t.teams.get? i = if x.part = part then none else some x) ∧
        (∀ i x, s.grids.get? i = some x → t.grids.get? i = if x.part = part then none else some x) ∧
        (∀ c, c / 4 ∈ p.clusters → ∀ b, (t.core c).bins.get? b = none ∧ (t.core c).chans.get? b = none)) ∧
      (p.faulted = true → ∀ i, t.group? i = s.group? i)
    let slice := ((p.reg 0x340).extractLsb' 32 32).toNat * 1024
    let base := ((p.reg 0x350).extractLsb' 12 52).toNat * 4096
    let tables := s.groups.wf = true ∧ s.teams.wf = true ∧ s.grids.wf = true
    let all := [Comp.mem, .late, .poison, .groups, .teams, .grids, .ops, .accs, .flits, .cores, .clusters, .parts, .nodes]
    (s.hostOpen part = true → (p.preempt ≠ 0 ∨ p.ctxState ≠ 2) → Does (.preemptRequest part) s [] fun _ => True) ∧
    (s.hostOpen part = true → p.preempt = 0 → p.ctxState = 2 →
      (p.cr 0x50 ≠ 0 → Does (.preemptRequest part) s [.parts] drains) ∧
      (p.cr 0x50 = 0 → tables → Does (.preemptRequest part) s all forced)) ∧
    (slice ≠ 0 → slice ≤ p.sliceCount → p.ctxState = 2 → p.preempt = 0 → p.stoppedAll = false → p.cr 0x50 ≠ 0 →
      Does (.timeSliceExpiry part) s [.parts] drains) ∧
    (p.preempt = 1 → (p.cr 0x50).toNat ≤ p.drainCount → (p.stoppedAll = false ∨ p.faulted = true) → tables → Does (.drainDeadlineExpiry part) s all forced) ∧
    (p.preempt = 1 → p.stoppedAll = false → p.drainCount < (p.cr 0x50).toNat → (∀ x ∈ s.teams, x.2.part ≠ part) → (∀ k ∈ p.pkts, pktType k.words < 3) →
      Does (.drainComplete part) s [.mem, .late, .parts] fun t => OnlyPart s t part ∧ t.part part = { p with bar := p.bar.set 0x348 2 } ∧
        (base + 8 ≤ p.hbmSize → Memory.read t.mem ⟨.hbm, part, base⟩ 8 = toBytes 8 1) ∧
        ∀ cell, cell < Loc.cell ⟨.hbm, part, base⟩ ∨ Loc.cell ⟨.hbm, part, p.hbmSize⟩ ≤ cell →
          Memory.byte t.mem cell = Memory.byte s.mem cell)

/-- 18 R332, R333: a partition reset stops the partition, and ends with its work, registers and vaults as after device reset; what the
management controller set for it stays. -/
def PartitionReset : Prop :=
  ∀ (s : State) (part : Nat),
    let p := s.part part
    let begins := fun t : State => OnlyPart s t part ∧
      t.part part = { p with
        bar := p.bar.set 0x360 2, resetting := true, stoppedAll := true, wave := none, resumeAt := none, dbgStart := none,
        dbgRun := none, dump := none } ∧
      (∀ i, i ∈ p.spList → (t.sp i).frozen = true) ∧ (∀ i, i ∉ p.spList → t.sp i = s.sp i) ∧
      ∀ i g, s.group? i = some g → t.group? i = if g.part = part ∧ slotOf i = 16 then none else some g
    s.groups.wf = true →
    (s.hostOpen part = true → (∀ v : BitVec 32, v.getLsbD 0 = true → Does (.preset part v) s [.groups, .sps, .parts] begins) ∧
      ∀ v : BitVec 32, v.getLsbD 0 = false → Does (.preset part v) s [] fun _ => True) ∧
    (s.hostLost = false → s.devResetting = false → s.mc.recovery = false → part < 48 →
      Does (.vfFunctionLevelReset part) s [.groups, .sps, .parts] begins) ∧
    (p.resetting = true → s.devResetting = false → s.teams.wf = true → s.sps.wf = true →
      Does (.partitionResetComplete part) s
        [.mem, .late, .poison, .groups, .teams, .grids, .sps, .cores, .clusters, .dies, .parts, .ops, .accs, .flits, .nodes] fun t =>
        OnlyPart s t part ∧ (∀ c, (∀ x ∈ (t.core c).tlb, x.part ≠ part) ∧ (∀ x ∈ (t.cluster c).tlb, x.part ≠ part) ∧
          ∀ x ∈ (t.die c).tlb, x.part ≠ part) ∧
        t.part part = { Part.reset with
          clusters := p.clusters, hbmSize := p.hbmSize, tierSize := p.tierSize, key := p.key, memEnable := p.memEnable
          bar := Store.set [] 0x400 (p.reg 0x400), softCorr := p.softCorr, softUnc := p.softUnc, lossNoted := p.lossNoted } ∧
        (∀ i g, s.group? i = some g → t.group? i = if g.part = part then none else some g) ∧
        (∀ i x, s.teams.get? i = some x → t.teams.get? i = if x.part = part then none else some x) ∧
        (∀ i, t.sp i = if i / 16 ∈ p.clusters then Sp.reset else s.sp i) ∧
        (∀ c off, c ∈ p.clusters → c < 2 ^ 64 → off < 2 ^ 64 → Memory.byte t.mem (Loc.cell ⟨.vault, c, off⟩) = 0) ∧
        (p.pkts = [] → p.queues = [] → ∀ owner off, owner < 2 ^ 64 → off < 2 ^ 64 →
          Memory.byte t.mem (Loc.cell ⟨.hbm, owner, off⟩) = Memory.byte s.mem (Loc.cell ⟨.hbm, owner, off⟩)))

/-- 08 R192; 12 R240, R244; 18 R334, R335; 22 R381: a device reset stops every partition and, once the controller has booted, leaves the
device as after reset; power-on keeps only what the controller holds. -/
def DeviceReset : Prop :=
  (∀ (s : State), s.parts.wf = true → s.groups.wf = true →
    (∀ i : Instr, (i = .deviceReset ∧ s.devResetting = false) ∨ i = .mcDeviceReset →
    Does i s [.groups, .sps, .parts, .mc] fun t => t.devResetting = true ∧ t.mc = { s.mc with booting := true } ∧
      (∀ k p, s.parts.get? k = some p → (t.part k).resetting = true ∧ (t.part k).stoppedAll = true ∧ (t.part k).reg 0x360 = 2) ∧
      ∀ k g, s.group? k = some g → (s.parts.get? g.part).isSome = true → t.group? k = if slotOf k = 16 then none else some g)) ∧
  (∀ (s : State), s.devResetting = true → s.mc.booting = false → s.mc.recovery = false → s.parts.wf = true → s.groups.wf = true →
    ∃ t, exec .deviceResetComplete s = .next t ∧ t.devResetting = false ∧ t.now = 0 ∧ t.dtimeOff = s.dtimeOff + s.now ∧ t.hostLost = false ∧ t.cxlDown = [] ∧
      t.nodes = [] ∧ t.cores = [] ∧ t.clusters = [] ∧ t.sps = [] ∧ t.dies = [] ∧ t.flits = [] ∧ t.mc = s.mc ∧
      (∀ k g, s.group? k = some g → (s.parts.get? g.part).isSome = true → t.group? k = none) ∧
      (∀ c off, c < 192 → off < 2 ^ 64 → Memory.byte t.mem (Loc.cell ⟨.vault, c, off⟩) = 0) ∧
      ∀ k p, s.parts.get? k = some p → t.part k = { Part.reset with
        clusters := p.clusters, hbmSize := p.hbmSize, tierSize := p.tierSize, key := p.key, memEnable := p.memEnable
        bar := Store.set [] 0x400 (p.reg 0x400), softCorr := p.softCorr, softUnc := p.softUnc }) ∧
  (∀ (s : State), let good := s.mc.flash.2.2 = true ∧ s.mc.counter.toNat ≤ s.mc.flash.2.1.toNat
    ∃ t, exec .devicePowerOn s = .next t ∧
      t = { State.reset with agenda := s.agenda, fresh := s.fresh, mc := t.mc, devResetting := t.devResetting, cxlPorts := s.cxlPorts } ∧
      t.mc.flash = s.mc.flash ∧ t.mc.pkgId = s.mc.pkgId ∧ t.mc.ram = none ∧ t.mc.booting = false ∧
      (good → t.mc.recovery = false ∧ t.devResetting = false ∧ t.mc.running = (s.mc.flash.1, s.mc.flash.2.1) ∧
        t.mc.counter = s.mc.flash.2.1) ∧
      (¬ good → t.mc.recovery = true ∧ t.devResetting = true ∧ t.mc.counter = s.mc.counter))

/-- 00 R12; 03 R78; 22 R369 to R371, R374: the host's plain registers, memory-enable, TLB invalidation, and the window to control
registers. -/
def HostRegisters : Prop :=
  let on := fun b : DWord => b.extractLsb' 12 52 ≠ 0 ∨ b.extractLsb' 1 4 ≠ 0
  (∀ (s : State) (part : Nat) (v : BitVec 64), s.hostOpen part = true →
    let p := s.part part
    let writes := fun (off : Nat) (mask : DWord) => Does (.barRegisterWrite part off v) s [.parts] fun t => OnlyPart s t part ∧
      t.part part = { p with bar := p.bar.set off ((p.reg off &&& ~~~mask) ||| (v &&& mask)) }
    let ignored := fun off : Nat => Does (.barRegisterWrite part off v) s [.parts] fun t => ∀ i, t.part i = s.part i
    (∀ x ∈ [(0x148, 0xFFFFFFFF), (0x350, 0xFFFFFFFFFFFFF000), (0x380, 0xFFFFFFFFFFFFFFFE), (0x388, 7), (0x390, -1), (0x3A8, (-1 : DWord))], writes x.1 x.2) ∧
    (∀ x ∈ [(0x100, 0x00FFFFFFFFFE0000), (0x108, 0xFFFFFFFFFFFFFFC0), (0x110, (0xFFFFFFFFFFFFE000 : DWord))],
      (p.ctxState = 0 → writes x.1 x.2) ∧ (p.ctxState ≠ 0 → ignored x.1)) ∧
    (∀ n, n < 64 → writes (0x600 + 8 * n) 0x8000FFFF03FFFFFF) ∧
    (∀ q, q < 64 → (p.reg (0x1000 + 16 * q)).getLsbD 0 = false → v.getLsbD 0 = false →
      writes (0x1000 + 16 * q) 0xFFFFFFFFFFFFFFC0) ∧
    (∀ off ∈ [0x104, 0x120, 0x150, 0x308, 0x320, 0x348, 0x3B0, 0x400, 0x410], ignored off) ∧
    (p.reg 0x308 ≠ p.reg 0x310 → ignored 0x300) ∧
    (p.reg 0x308 = p.reg 0x310 → (on (p.reg 0x300) ∨ ¬ on ((p.reg 0x300 &&& 0xFE0) ||| (v &&& 0xFFFFFFFFFFFFF01F)) →
        writes 0x300 0xFFFFFFFFFFFFF01F) ∧
      (¬ on (p.reg 0x300) → on ((p.reg 0x300 &&& 0xFE0) ||| (v &&& 0xFFFFFFFFFFFFF01F)) →
        Does (.barRegisterWrite part 0x300 v) s [.parts] fun t => OnlyPart s t part ∧ t.part part = { p with
          bar := p.bar.set 0x300 ((p.reg 0x300 &&& 0xFE0) ||| (v &&& 0xFFFFFFFFFFFFF01F)), frecs := []
          resumable := p.resumable.filter fun i => !p.frecs.any fun r => r.id == i }))) ∧
  (∀ (s : State) (part off : Nat),
    let p := s.part part
    let b := p.reg 0x300
    let log := if 4 ≤ (b.extractLsb' 1 4).toNat ∧ (b.extractLsb' 1 4).toNat ≤ 12 then (b.extractLsb' 1 4).toNat else 4
    let place := (b.extractLsb' 12 52).toNat * 4096 + 64 * ((p.reg 0x308).toNat % 2 ^ log)
    let full := 2 ^ log ≤ (p.reg 0x308).toNat - (p.reg 0x310).toNat ∨ (b.getLsbD 0 = true ∧ s.hostLost = true) ∨
      (b.getLsbD 0 = false ∧ p.hbmSize < place + 64)
    (off % 8 ≠ 0 → s.barRead part off = 0) ∧
    (s.barRead part 0x320).getLsbD 1 = p.faulted ∧ ((s.barRead part 0x320).getLsbD 0 = true ↔ p.frecs ≠ [] ∧ on b ∧ full) ∧
    (off % 8 = 0 → off ≠ 0x320 → off ≠ 0x410 → off < 0x4000 → s.barRead part off = p.reg off)) ∧
  (∀ (s : State) (part : Nat) (on : Bool), s.hostLost = false → s.devResetting = false → s.mc.recovery = false → part < 48 →
    ((s.part part).clusters = [] → Does (.configurationWrite part on) s [] fun _ => True) ∧
    ((s.part part).clusters ≠ [] → Does (.configurationWrite part on) s [.parts] fun t => OnlyPart s t part ∧
      t.part part = { s.part part with memEnable := on })) ∧
  (∀ (s : State) (part : Nat) (v : BitVec 64), s.hostOpen part = true → v.getLsbD 0 = true →
    let p := s.part part
    ((p.reg 0x208).getLsbD 0 = true → Does (.tlbinvGo part v) s [] fun _ => True) ∧
    ((p.reg 0x208).getLsbD 0 = false → Does (.tlbinvGo part v) s [.parts] fun t => OnlyPart s t part ∧
      t.part part = { p with bar := (p.bar.set 0x200 (v &&& 0x00FFFFFFFFFFF006)).set 0x208 1 })) ∧
  (∀ (s : State) (part : Nat),
    let p := s.part part
    let v := p.reg 0x200
    let size := match (v.extractLsb' 1 2).toNat with | 0 => 2 ^ 12 | 1 => 2 ^ 21 | _ => 2 ^ 29
    let first := (v.extractLsb' 12 44).toNat * 4096 / size * size
    let apart := fun (base n : Nat) => n = 0 ∨ (v.extractLsb' 1 2 ≠ 3 ∧ (base % 2 ^ 56 + n ≤ first ∨ first + size ≤ base % 2 ^ 56))
    let kept := fun l : List Tlb => l.filter fun e => decide (e.part ≠ part ∨ apart e.base e.size)
    (p.reg 0x208).getLsbD 0 = true →
    ((∃ a ∈ s.accs, a.2.part = part ∧ ¬ apart a.2.page.1 a.2.page.2) → Idle (.tlbinvComplete part) s "TLBINV_COMPLETE") ∧
    ((∀ a ∈ s.accs, a.2.part = part → apart a.2.page.1 a.2.page.2) →
      (∀ o ∈ s.ops, o.2.part = part → ∀ sub d args st x, o.2.kind ≠ .snap sub d args st x) →
      Does (.tlbinvComplete part) s [.parts, .cores, .clusters, .dies] fun t => OnlyPart s t part ∧
        t.part part = { p with bar := p.bar.set 0x208 0 } ∧ ∀ c, t.core c = { s.core c with tlb := kept (s.core c).tlb } ∧
          t.cluster c = { s.cluster c with tlb := kept (s.cluster c).tlb } ∧ t.die c = { s.die c with tlb := kept (s.die c).tlb })) ∧
  (∀ (s : State) (part : Nat) (v : BitVec 64), s.hostOpen part = true → v.getLsbD 63 = true →
    let p := s.part part
    let n := (v.extractLsb' 0 12).toNat
    let core := (v.extractLsb' 48 10).toNat
    let write := v.getLsbD 62
    let bad : DWord := if crListed n = false ∨ crOfGroup n = true then 1 else if crOfCore n = true ∧ core ∉ p.coreList then 2
      else if write = true ∧ crClass n = 1 then 3 else 0
    let ended := fun (q : Part) (status : DWord) => { q with bar := (q.bar.set 0x140 (v &&& 0x43FF000000000FFF)).set 0x150 status }
    (write = false → (bad ≠ 0 → Does (.craccRead part v) s [.parts] fun t => OnlyPart s t part ∧ t.part part = ended p bad) ∧
      (bad = 0 → Does (.craccRead part v) s [.parts] fun t => OnlyPart s t part ∧ t.part part = ended { p with
        bar := p.bar.set 0x148 ((if crOfCore n then (s.core core).bks.get n else p.cr n).setWidth 64) } 0)) ∧
    (write = true → let x := lo32 (p.reg 0x148)
      (bad ≠ 0 → Does (.craccWrite part v) s [.parts] fun t => OnlyPart s t part ∧ t.part part = ended p bad) ∧
      (bad = 0 → crOfCore n = false → Does (.craccWrite part v) s [.parts] fun t => OnlyPart s t part ∧
        t.part part = ended { p with crs := p.crs.set n (crNext n (p.cr n) x) } 0) ∧
      (bad = 0 → crOfCore n = true → Does (.craccWrite part v) s [.parts, .cores] fun t => OnlyPart s t part ∧ OnlyCore s t core ∧
        t.part part = ended p 0 ∧
        t.core core = { s.core core with bks := (s.core core).bks.set n (crNext n ((s.core core).bks.get n) x) })))

/-- 22 R372, R373: CTXCMD loads and unloads a context, or says why not; a save area in a poisoned line faults the context (03 R81), and stores
that were issued before an unload are still performed (01 R32). -/
def ContextLoading : Prop :=
  ∀ (s : State) (part : Nat),
    let p := s.part part
    let status := fun (t : State) (state error : Nat) => OnlyPart s t part ∧
      t.part part = { p with bar := p.bar.set 0x120 (BitVec.ofNat 64 (error * 256 + state)) }
    let root := ((p.reg 0x100).extractLsb' 17 39).toNat * 2 ^ 17
    (s.hostOpen part = true →
      (p.ctxState ≠ 0 → Does (.contextLoad part) s [.parts] fun t => status t p.ctxState 1) ∧
      (p.ctxState = 0 → p.clusters.length < 4 → Does (.contextLoad part) s [.parts] fun t => status t 0 2) ∧
      (p.ctxState = 0 → 4 ≤ p.clusters.length → p.hbmSize < root + 2 ^ 17 → Does (.contextLoad part) s [.parts] fun t => status t 0 3) ∧
      (p.ctxState = 0 → 4 ≤ p.clusters.length → root + 2 ^ 17 ≤ p.hbmSize → Does (.contextLoad part) s [.parts] fun t => status t 1 0) ∧
      (p.ctxState ≠ 2 → Does (.contextUnload part) s [.parts] fun t => status t p.ctxState 1) ∧
      (p.ctxState = 2 → p.faulted = true → Does (.contextUnload part) s [.parts] fun t => status t 2 5) ∧
      (p.ctxState = 2 → p.faulted = false → ((∃ x ∈ s.teams, x.2.part = part) ∨ (p.preempt ≠ 2 ∧ p.pkts ≠ [])) →
        Does (.contextUnload part) s [.parts] fun t => status t 2 4) ∧
      (p.ctxState = 2 → p.faulted = false → (∀ x ∈ s.teams, x.2.part ≠ part) → (p.preempt = 2 ∨ p.pkts = []) →
        Does (.contextUnload part) s [.parts] fun t => status t 3 0)) ∧
    (p.ctxState = 1 → p.resetting = false →
      let area := ((p.reg 0x350).extractLsb' 12 52).toNat * 4096
      let error := ((p.reg 0x120).extractLsb' 8 8).toNat
      (area = 0 ∨ (s.poison.contains (Loc.cell ⟨.hbm, part, area⟩ / 64) = false ∧ (s.hbm64 part area).getLsbD 0 = false)) →
      Does (.contextLoadDone part) s [.parts, .cores, .clusters, .dies] fun t => OnlyPart s t part ∧ (∀ c,
          (∀ x ∈ (t.core c).tlb, x.part ≠ part) ∧ (∀ x ∈ (t.cluster c).tlb, x.part ≠ part) ∧ ∀ x ∈ (t.die c).tlb, x.part ≠ part) ∧
        t.part part = { p with
          bar := (p.bar.set 0x348 0).set 0x120 (BitVec.ofNat 64 (error * 256 + 2))
          crs := p.crs.set 0x21 (BitVec.ofNat 32 (((p.cr 0x21).extractLsb' 0 2).toNat * 17)), drainCount := 0, sliceCount := 0 }) ∧
    (p.ctxState = 1 → p.resetting = false → p.faulted = false → ((p.reg 0x350).extractLsb' 12 52) ≠ 0 →
      s.poison.contains (Loc.cell ⟨.hbm, part, ((p.reg 0x350).extractLsb' 12 52).toNat * 4096⟩ / 64) = true →
      ∃ t, exec (.contextLoadDone part) s = .next t ∧ (t.part part).ctxState = 2 ∧ Faulted s t part 64 0 0) ∧
    (p.ctxState = 3 → p.resetting = false → p.faulted = false → s.groups.wf = true → s.teams.wf = true →
      Does (.contextUnloadDone part) s
        [.mem, .late, .poison, .groups, .teams, .grids, .ops, .flits, .cores, .clusters, .dies, .parts, .nodes] fun t =>
        OnlyPart s t part ∧ (t.part part).ctxState = 0 ∧ (t.part part).pkts = [] ∧ (t.part part).resumable = [] ∧
        (∀ c, (∀ x ∈ (t.core c).tlb, x.part ≠ part) ∧ (∀ x ∈ (t.cluster c).tlb, x.part ≠ part) ∧ ∀ x ∈ (t.die c).tlb, x.part ≠ part) ∧
        (∃ rs, (t.part part).frecs = p.frecs ++ rs ∧ (p.queues = [] → rs = [])) ∧ (∀ n, (t.part part).cr n = p.cr n) ∧
        (∀ q, q < 64 → (t.part part).enabled q = false ∧ ((t.part part).queue q).st = 0) ∧
        (∀ i g, s.group? i = some g → t.group? i = if g.part = part ∧ slotOf i ≠ 16 then none else some g) ∧
        ∀ i x, s.teams.get? i = some x → t.teams.get? i = if x.part = part then none else some x)

/-- 22 R379 to R381: firmware, recovery, monitoring and attestation. -/
def ManagementController : Prop :=
  ∀ (s : State),
    let m := s.mc
    let answers := fun (i : Instr) (code : Nat) (ws : List DWord) => Does i s [.mc] fun t =>
      t.mc = { m with replies := (code, ws) :: m.replies }
    let error := fun i : Instr => answers i 0 []
    let verifies := fun (version : BitVec 6) (signed : Bool) => signed = true ∧ m.counter.toNat ≤ version.toNat
    (m.booting = true → Does .mcBoot s [.mc] fun t => t.mc.booting = false ∧ t.mc.flash = m.flash ∧ t.mc.pkgId = m.pkgId ∧
      (if m.flash.2.2 = true ∧ m.counter.toNat ≤ m.flash.2.1.toNat
        then t.mc.recovery = false ∧ t.mc.running = (m.flash.1, m.flash.2.1) ∧ t.mc.counter = m.flash.2.1
        else t.mc.recovery = true ∧ t.mc.counter = m.counter)) ∧
    (∀ image version signed, (verifies version signed → Does (.pldmFirmwareUpdate image version signed) s [.mc] fun t =>
        t.mc = { m with flash := (image, version, true), replies := (1, []) :: m.replies }) ∧
      (¬ verifies version signed → error (.pldmFirmwareUpdate image version signed)) ∧
      (m.recovery = true → (verifies version signed → Does (.recoveryImageLoad image version signed) s [.mc] fun t =>
          t.mc = { m with
            ram := some (image, version), running := (image, version), counter := version, recovery := false
            replies := (16, [image, version.setWidth 64]) :: (2, []) :: m.replies }) ∧
        (¬ verifies version signed → error (.recoveryImageLoad image version signed)))) ∧
    (∀ part, Does (.pldmMonitoring part) s [.mc] fun t => ∃ temp power link ports, t.mc = { m with
      replies := (3, [temp, power, link, ports, if s.hostLost then 1 else 0, (s.part part).softCorr, (s.part part).softUnc]) ::
        m.replies }) ∧
    answers .getVersion 4 [0x13] ∧ (∃ w, answers .getCapabilities 5 [w]) ∧
    (∀ b e h, (h = true → b = true → Does (.negotiateAlgorithms b e h) s [.mc] fun t => t.mc.alg = 1) ∧
      (h = true → b = false → e = true → Does (.negotiateAlgorithms b e h) s [.mc] fun t => t.mc.alg = 2) ∧
      (h = false ∨ (b = false ∧ e = false) → error (.negotiateAlgorithms b e h))) ∧
    (∃ ws, answers .getDigests 7 ws) ∧
    (∀ slot, (slot < 2 → ∃ ws, answers (.getCertificate slot) 8 ws) ∧ (2 ≤ slot → error (.getCertificate slot)) ∧
      ∀ nonce, (m.alg ≠ 0 → slot + 1 = m.alg → ∃ ws, answers (.challenge slot nonce) 9 ws) ∧
        (m.alg = 0 ∨ slot + 1 ≠ m.alg → error (.challenge slot nonce))) ∧
    answers (.getMeasurements 1) 10 [m.running.1, m.running.2.setWidth 64] ∧ answers (.getMeasurements 2) 10 [m.counter.setWidth 64] ∧
    (∃ ws, answers (.getMeasurements 3) 10 (m.pkgId.setWidth 64 :: ws)) ∧
    (∀ index, index = 0 ∨ 3 < index → error (.getMeasurements index))

/-- 12 R240, R241; 18 R332; 22 R374, R377 to R379: what the controller sets, only while the partition has no context loaded. An HBM share is at most its
clusters' part of the package's (the model's choice: log entry 72). -/
def ManagementSettings : Prop :=
  ∀ (s : State) (part : Nat),
    let p := s.part part
    let m := s.mc
    let error := fun i : Instr => Does i s [.mc] fun t => t.mc = { m with replies := (0, []) :: m.replies }
    let sets := fun (i : Instr) (code : Nat) (q : Part) => Does i s [.mc, .parts] fun t => OnlyPart s t part ∧ t.part part = q ∧
      t.mc = { m with replies := (code, []) :: m.replies }
    (∀ clusters hbmSize tierSize, let i : Instr := .mcSetPartitionConfig part clusters hbmSize tierSize
      let others := s.parts.filter fun x => x.1 != part
      let good := clusters.Pairwise (· < ·) ∧ (∀ c ∈ clusters, c < 192) ∧ (clusters = [] ∨ 4 ≤ clusters.length) ∧
        (∀ x ∈ s.parts, x.1 ≠ part → ∀ c ∈ x.2.clusters, c ∉ clusters) ∧ hbmSize * 192 ≤ clusters.length * 2 ^ 39 ∧
        hbmSize + (others.map fun x => x.2.hbmSize).sum ≤ 2 ^ 39 - 72 * 2 ^ 20 ∧
        tierSize + (others.map fun x => x.2.tierSize).sum ≤ 2 ^ 45
      (48 ≤ part ∨ p.ctxState ≠ 0 ∨ ¬ good → error i) ∧
      (part < 48 → p.ctxState = 0 → good →
        sets i 11 { p with clusters, hbmSize, tierSize, memEnable := p.memEnable && !clusters.isEmpty })) ∧
    (∀ key, (48 ≤ part ∨ p.ctxState ≠ 0 → error (.mcSetDomainKey part key)) ∧
      (part < 48 → p.ctxState = 0 → sets (.mcSetDomainKey part key) 12 { p with key })) ∧
    (∀ id, Does (.mcSetPackageId id) s [.mc] fun t => t.mc = { m with pkgId := id, replies := (13, []) :: m.replies }) ∧
    (∀ first count : Nat, let i : Instr := .mcSetEsnodes part first count
      let good := first < 2 ^ 20 ∧ first + count ≤ 2 ^ 20 ∧ ∀ x ∈ s.parts, x.1 ≠ part →
        first + count ≤ ((x.2.reg 0x400).extractLsb' 0 20).toNat ∨
        ((x.2.reg 0x400).extractLsb' 0 20).toNat + ((x.2.reg 0x400).extractLsb' 32 21).toNat ≤ first
      (48 ≤ part ∨ p.ctxState ≠ 0 ∨ ¬ good → error i) ∧
      (part < 48 → p.ctxState = 0 → good →
        sets i 14 { p with bar := p.bar.set 0x400 (BitVec.ofNat 64 (count * 2 ^ 32 + first)) })) ∧
    (∀ (write : Bool) (core : Nat) (num : BitVec 12) (data : BitVec 32), let n := num.toNat
      let i : Instr := .mcCrAccess part write core num data
      let bad : DWord := if crListed n = false ∨ crOfGroup n = true then 1 else if crOfCore n = true ∧ core ∉ p.coreList then 2
        else if write = true ∧ crClass n = 1 then 3 else 0
      let reply := fun (t : State) (ws : List DWord) => t.mc = { m with replies := (15, ws) :: m.replies }
      (bad ≠ 0 → Does i s [.mc] fun t => reply t [bad]) ∧
      (bad = 0 → write = false → Does i s [.mc] fun t =>
        reply t [0, (if crOfCore n then (s.core core).bks.get n else p.cr n).setWidth 64]) ∧
      (bad = 0 → write = true → crOfCore n = false → Does i s [.mc, .parts] fun t => reply t [0] ∧ OnlyPart s t part ∧
        t.part part = { p with crs := p.crs.set n (crNext n (p.cr n) data) }) ∧
      (bad = 0 → write = true → crOfCore n = true → Does i s [.mc, .cores] fun t => reply t [0] ∧ OnlyCore s t core ∧
        t.core core = { s.core core with bks := (s.core core).bks.set n (crNext n ((s.core core).bks.get n) data) }))

/-- 20 R361: a cycle of a scheduler partition without an eligible group is charged once, to bucket 0 and to one reason; the host clears a
block. -/
def StallAccounting : Prop :=
  (∀ (s : State) (core sp part : Nat), s.partOfCluster (core / 4) = some part → sp < 4 →
    let i := core * 4 + sp
    let p := s.part part
    (s.sp i).charged = false → s.noneEligible i = true →
    let r := s.stallReason i
    let block := p.relCluster (i / 16) * 16 + i % 16
    Does (.cycleWithNoEligibleGroup core sp) s [.sps, .parts] fun t => OnlyPart s t part ∧ OnlySp s t i ∧ 1 ≤ r ∧
      t.sp i = { s.sp i with charged := true, reason := r } ∧ (∃ st, t.part part = { p with stalls := st }) ∧
      ∀ k, (t.part part).stalls.get k = p.stalls.get k + if k = 64 * block ∨ k = 64 * block + 32 + r then 1 else 0) ∧
  (∀ (s : State) (sp : Nat),
    let rs := s.slotResidents sp
    ((s.sp sp).frozen = true → s.stallReason sp = 15) ∧
    ((s.sp sp).frozen = false → rs = [] → s.stallReason sp = if s.binWaits sp then 14 else 16) ∧
    ((s.sp sp).frozen = false → rs ≠ [] → s.spBusy sp = true → s.stallReason sp = 17) ∧
    (∀ i g, (s.sp sp).frozen = false → rs = [(i, g)] → s.spBusy sp = false →
      (ordinaryCand i g ≠ none → s.stallReason sp = max 1 g.why) ∧
      (ordinaryCand i g = none → handlerCand (s.part g.part).clock 0 i g = none →
        let live := fun l : Lane => l ∈ g.lanes ∧ l.st = .live
        (g.nextIssue = none → (∃ l n k, live l ∧ (l.hold = some (.bar n k) ∨ l.hold = some (.wait n k))) → s.stallReason sp = 8) ∧
        (g.nextIssue = none → (∃ l, live l) → (∀ l, live l → l.parked = true) → (∀ l, live l → l.hold = none) → s.stallReason sp = 19) ∧
        (g.nextIssue = none → (∃ l n, live l ∧ l.hold = some (.collective n)) →
          (∀ l, live l → ∃ n, l.hold = some (.collective n)) → s.stallReason sp = 18)))) ∧
  (∀ (s : State) (part block : Nat) (v : BitVec 64), s.hostOpen part = true → block < (s.part part).clusters.length * 16 →
    (v.getLsbD 0 = false → Does (.stallCounterClear part block v) s [] fun _ => True) ∧
    (v.getLsbD 0 = true → Does (.stallCounterClear part block v) s [.parts] fun t => OnlyPart s t part ∧
      (∃ st, t.part part = { s.part part with stalls := st }) ∧
      ∀ k, (t.part part).stalls.get k = if k / 64 = block then 0 else (s.part part).stalls.get k))

/-- 20 R359, R360: a sample writes one record of 16 bytes and moves WRITE on, or counts in DROPPED when the buffer is full; PERIOD doubles
or halves with the fill. -/
def Sampling : Prop :=
  (∀ (s : State) (core sp part : Nat), s.partOfCluster (core / 4) = some part → sp < 4 →
    let i := core * 4 + sp
    let p := s.part part
    let base := (p.cr 0x91 ++ p.cr 0x90) &&& ~~~(63 : DWord)
    let slots := (p.cr 0x92).toNat / 16 - 4
    base ≠ 0 → 8 ≤ (p.cr 0x92).toNat / 16 → p.stoppedAll = false → (s.sp i).nextSample ≤ p.clock →
    ∀ (ctl : List Byte) (pc : DWord) (slot : Nat), s.readFlat (engineOf part) .load base 24 = .ok ctl → (s.sp i).issued = some (pc, slot) →
    let write := ofBytes (ctl.take 8)
    let read := ofBytes ((ctl.drop 8).take 8)
    let dropped := ofBytes (ctl.drop 16)
    let fill := (write + 2 ^ 64 - read) % 2 ^ 64
    let record := toBytes 8 pc.toNat ++ toBytes 2 (p.relCluster (i / 16) * 16 + i % 16) ++ toBytes 1 slot ++ toBytes 1 0 ++
      toBytes 4 (s.now.toNat % 2 ^ 32)
    let next := fun t : State => OnlySp s t i ∧ t.sp i = { s.sp i with nextSample := p.clock + (p.cr 0x93).toNat }
    (∀ u, slots ≤ fill → s.writeFlat (engineOf part) (base + 16) (toBytes 8 (dropped + 1)) = .ok u →
      Does (.sampleTake core sp) s [.mem, .late, .poison, .sps] fun t => next t ∧ t.mem = u.mem) ∧
    (∀ u v, fill < slots → p.newPeriod (fill + 1) = none →
      s.writeFlat (engineOf part) (base + 64 + BitVec.ofNat 64 (16 * (write % slots))) record = .ok u →
      u.writeFlat (engineOf part) base (toBytes 8 (write + 1)) = .ok v →
      Does (.sampleTake core sp) s [.mem, .late, .poison, .sps] fun t => next t ∧ t.mem = v.mem)) ∧
  (∀ (p : Part) (fill : Nat), let slots := (p.cr 0x92).toNat / 16 - 4
    let now := (p.cr 0x93).toNat
    p.lastAdjust = 0 ∨ p.lastAdjust + 65536 ≤ p.clock + 1 →
    (3 * slots < 4 * fill → now < 2 ^ 20 → now ≠ 0 → p.newPeriod fill = some (min (2 ^ 20) (2 * now))) ∧
    (4 * fill < slots → 64 < now → p.newPeriod fill = some (max 64 (now / 2))) ∧
    (4 * fill ≤ 3 * slots → slots ≤ 4 * fill → p.newPeriod fill = none))

/-- 02 R59: a word that decodes to no instruction is Illegal-instruction for the whole active set. -/
def IllegalWords : Prop :=
  ∀ (s : State) (g : Group) (word : BitVec 32), s.curGroup? = some g → s.cur.len = 4 →
    (∀ i len, decode (leBytes 4 word.toNat) ≠ .instr i len) →
    exec (.illegalInstruction word) s = .next (s.raise g s.cur.mask 1 0 none 0)

/-- 02 R36, R38, R59 and 01 R18: of several faults Register-bound comes before Register-empty, and each before any effect; without them an
empty operand or destination makes the group wait. A register with a parity error that an issue reads faults the context (03 R82). -/
def OperandChecks : Prop :=
  ∀ (s : State) (g : Group), s.cur.defer = none → s.curGroup? = some g →
    (∀ (e f : Bool) (a b d : BitVec 7), (∀ r ∈ [Reg.v a.toNat, .v b.toNat, .v d.toNat], g.has r = true ∧ g.isEmpty r = false) →
      (s.part g.part).faulted = false →
      ((∃ j, maskBit s.cur.mask j = true ∧ ((Reg.v a.toNat, j) ∈ g.bad ∨ (Reg.v b.toNat, j) ∈ g.bad)) →
        ∃ t, exec (.iadd e b f a d) s = .next t ∧ Faulted s t g.part 64 0 s.cur.pc)) ∧
    (∀ (e f : Bool) (a b d : BitVec 7),
      Checks (.iadd e b f a d) s g [(.v a.toNat, f), (.v b.toNat, e)] [.v d.toNat] ∧
      Checks (.imad e b f a d) s g [(.v a.toNat, f), (.v b.toNat, e)] [.v d.toNat] ∧
      Checks (.fadd e b f a d) s g [(.v a.toNat, f), (.v b.toNat, e)] [.v d.toNat] ∧
      Checks (.popc f a d) s g [(.v a.toNat, f)] [.v d.toNat]) ∧
    (∀ (f : Bool) (a d : BitVec 5), Checks (.iaddH a d f) s g [(.v a.toNat, f)] [.v d.toNat]) ∧
    (∀ (e : Bool) (a b d : BitVec 7) (k : BitVec 3),
      Checks (.sel e b k a d) s g [(.v a.toNat, false), (.v b.toNat, e), (.k k.toNat, false)] [.v d.toNat]) ∧
    (∀ (e f : Bool) (b : BitVec 7) (a d : BitVec 6),
      Checks (.sadd e b f a d) s g ((.s a.toNat, f) :: (siRegs b).map fun r => (r, e)) [.s d.toNat])

/-- 01 R17, R18, R19: the group's next issue. Without a released meeting, a wait or a repeat it is at the lowest PC of the candidate lanes, or
where the oldest stands once it has reached age 64; a group that waits at an address chooses no other; the released threads of a meeting
go before the choice of R17, alone. -/
def IssueChoice : Prop :=
  ∀ g : Group, g.rep = none → g.forced = [] → g.lanes.length ≤ 64 →
    (g.waitPc = none → g.relq = [] →
      ((∀ j, j < g.lanes.length → (g.lane j).cand = false) → g.nextIssue = none) ∧
      ((∃ j, j < g.lanes.length ∧ (g.lane j).cand = true) → ∃ j m, j < g.lanes.length ∧ (g.lane j).cand = true ∧
        g.nextIssue = some ((g.lane j).pc, m, false) ∧
        (∀ i, i < 64 → maskBit m i = (decide (i < g.lanes.length) && (g.lane i).cand && (g.lane i).pc == (g.lane j).pc)) ∧
        (if ∃ i, i < g.lanes.length ∧ (g.lane i).cand = true ∧ 64 ≤ (g.lane i).age then
          ∀ i, i < g.lanes.length → (g.lane i).cand = true →
            (g.lane i).age ≤ (g.lane j).age ∧ (i < j → (g.lane i).age < (g.lane j).age)
        else ∀ i, i < g.lanes.length → (g.lane i).cand = true → (g.lane j).pc.toNat ≤ (g.lane i).pc.toNat))) ∧
    (∀ pc, g.waitPc = some pc → g.lanesAt pc ≠ 0 → g.nextIssue = some (pc, g.lanesAt pc, false)) ∧
    (∀ pc r, g.waitPc = none → g.relq = pc :: r → g.lanesAt pc ≠ 0 → g.nextIssue = some (pc, g.lanesAt pc, false) ∧
      ∀ i, i < g.lanes.length → (maskBit (g.lanesAt pc) i = true ↔
        (g.lane i).cand = true ∧ (g.lane i).pc = pc ∧ (g.lane i).rel = true))

/-- 01 R17: an issue of the ordinary class sets the ages of its active set to 0 and adds 1 to those of the other candidate lanes, up to 255;
issues of a handler and of the debug slot change no age. -/
def IssueAges : Prop :=
  ∀ (s : State) (g : Group) (e f : Bool) (a b d : BitVec 7), Ready s g [.v a.toNat, .v b.toNat] [.v d.toNat] →
    Completes (.iadd e b f a d) s g [.v d.toNat] fun _ h => ∀ j, j < g.lanes.length →
      (h.lane j).age =
        if s.cur.cls ≠ .ordinary then (g.lane j).age
        else if maskBit s.cur.mask j then 0
        else if (g.lane j).cand then min 255 ((g.lane j).age + 1) else (g.lane j).age

/-- An issue of a scheduler partition runs the instruction that the bytes at the candidate's address decode to, in the state in which the
candidate is the current issue and the fetch has filled levels of the TLBs; around it the issue leaves WAITC, YIELD, the scheduler partition's
marks and nothing else. An event of the table runs as itself; those that are an issue run where the scheduler partition selects them. -/
def StepRunsDecoded : Prop :=
  (∀ (s : State) (core sp : Nat) (rest : List Agendum) (c : Cur) (g : Group) (b1 b2 : List Byte) (i : Instr) (len : Nat),
    s.agenda = .issue core sp :: rest →
    let s0 := { s with agenda := rest }
    s0.choose exec (core * 4 + sp) = some c → (∀ j, j < sp → s0.choose exec (core * 4 + j) = none) →
    s0.comparator c = none → s0.group? c.gid = some g → c.rep = false → s0.overBudget g c = false →
    let w := s0.issuer c.gid g
    s0.fetch2 w c.pc = .ok b1 → (if ofBytes b1 % 2 = 0 then b2 = [] else s0.fetch2 w (c.pc + 2) = .ok b2) →
    decode (b1 ++ b2) = .instr i len →
    let u := { ({ s0 with waited := false }.fetched w c.pc len) with cur := { c with len } }
    (∀ t, exec i u = .next t → step s = .next (t.afterIssue c)) ∧
    (∀ x, exec i u = .fault x → step s = .fault x) ∧
    (∀ x, exec i u = .refused x → step s = .refused x)) ∧
  (∀ (s : State) (w : Issuer) (pc : DWord) (len : Nat), s.weak = [] → let t := s.fetched w pc len
    Keeps s t [.cores, .clusters] ∧ (∀ i, ∃ a, t.core i = { s.core i with tlb := a }) ∧
    ∀ i, ∃ a, t.cluster i = { s.cluster i with tlb := a }) ∧
  (∀ (t : State) (c : Cur), Keeps t (t.afterIssue c) [.groups, .sps] ∧ OnlySp t (t.afterIssue c) (spIdOf c.gid) ∧
    ∀ i g, t.group? i = some g → ∃ h, (t.afterIssue c).group? i = some h ∧ h.lanes = g.lanes ∧ SameRegs g h [] []) ∧
  (∀ (s : State) (i : Instr) (rest : List Agendum), s.agenda = .event i :: rest →
    let s0 := { s with agenda := rest }
    (isEvent i = true → (∀ gid, i ≠ .traceAdmit gid ∧ i ≠ .viewSlotGrant gid) → (∀ gid n, i ≠ .pcMatch gid n) →
      (∀ core sp, i ≠ .cycleWithNoEligibleGroup core sp) → step s = exec i s0) ∧
    (∀ gid c, s0.choose exec (gid / 17) = some c → c.gid = gid → c.cls = .ordinary →
      (s0.comparator c = none → i = .traceAdmit gid ∨ i = .viewSlotGrant gid → step s = exec i { s0 with cur := c }) ∧
      (∀ n, i = .pcMatch gid n → step s = exec i s0)) ∧
    (∀ core sp, i = .cycleWithNoEligibleGroup core sp → s0.choose exec (core * 4 + sp) = none → step s = exec i s0))

/-- 02 R41, R43 to R58: every legal instruction is read back from the bytes of its encoding, with every operand. -/
def EncodingRoundTrip : Prop :=
  ∀ (i : Instr) (bs : List Byte), i.wf = true → encode i = some bs → decode bs = .instr i bs.length

/-- 02 R41, R58, R59: no bit of an instruction is dropped: what decodes to an instruction is that instruction's encoding, and it is legal. -/
def EncodingUnique : Prop :=
  ∀ (bs : List Byte) (i : Instr) (len : Nat), decode bs = .instr i len → i.wf = true ∧ encode i = some (bs.take len)

/-- Words that the spec writes out decode to the instructions beside them, one or more of each format (02 R43, R44, R47; 04 R85, R90, R103; 05 R111,
R120; 06 R123; 07 R151 to R174; 08 R183 to R193; 09 R198; 10 R215; 11 R225; 12 R247; 13 R260 to R268; 18 R322), and so does an H word. -/
def WordsOfTheSpec : Prop :=
  let reads := fun (w : Nat) (i : Instr) => decode (leBytes 4 w) = .instr i 4
  reads 0x14080E01 (.iadd false 20 false 8 7) ∧ reads 0x5B080E03 (.iaddi false 91 false 8 7) ∧
  reads 0x0403058D (.maxn false 4 false 3 2) ∧ reads 0x8908050F (.icmpLt true 9 false 8 2) ∧ reads 0x09880B19 (.sel false 9 6 8 5) ∧
  reads 0x0904061D (.fmul false 9 false 4 3) ∧ reads 0x1412212F (.dfma false 10 false 9 8) ∧ reads 0x220406B1 (.cvt 34 false 4 3 1) ∧
  reads 0x06101539 (.rdx false 6 false 16 10) ∧ reads 0x06090A3B (.lrd false 6 false 9 5) ∧
  reads 0x18162951 (.smulw false 24 false 11 10) ∧ reads 0x060509BD (.kandn false 6 false 5 4) ∧ reads 0x02E30175 (.trdr 23 12 0) ∧
  reads 0x00044643 (.crd 17 6) ∧ reads 0x13083269 (.ld 0 1 3 4 12 4) ∧ reads 0x400C43F3 (.atom64 1 0 0 6 16 7) ∧
  reads 0x02001263 (.fenceS 1 9) ∧ reads 0xFFF80053 (.br 65528) ∧ reads 0x004050D9 (.call 64 20) ∧ reads 0x00C8015F (.sleep 200) ∧
  reads 0x620500E1 (.barm false 98 false 5) ∧ reads 0x0C060AE5 (.zbcast false 12 false 6 5) ∧ reads 0x000700DB (.trap 7) ∧
  reads 0x34608279 (.mma 3 2 24 16 4) ∧ reads 0x15187077 (.cpy 1 20 24 28) ∧ reads 0x30A0087D (.tidset 12 5) ∧
  reads 0x2482027D (.trace 9 8 16) ∧ reads 0x7944607D (.view 30 20 2 3) ∧ reads 0x3141447D (.snaphash 12 10 5) ∧
  decode (leBytes 2 0xA1E4) = .instr (.iaddH 20 7 true) 2

/-- 02 R39; 08 R189; 12 R244; 20 R344: what device reset leaves: control registers at the reset column of their table, the comparators off,
the clock at 0, every node of the store free with every field 0, and nothing resident. -/
def ResetValues : Prop :=
  (∀ p, let q := State.reset.part p
    q.cr 0x18 = 1024 ∧ q.cr 0x20 = 65536 ∧ q.cr 0x21 = 0x11 ∧ q.cr 0x28 = 0 ∧ q.cr 0x29 = 4096 ∧ q.cr 0x40 = 0 ∧ q.cr 0x41 = 0 ∧
    q.cr 0x4B = 65536 ∧ q.cr 0x50 = 16777216 ∧ q.cr 0x93 = 4096 ∧ (∀ n, 0x80 ≤ n → n ≤ 0x92 → q.cr n = 0)) ∧
  (∀ c n, 0x60 ≤ n → n ≤ 0x77 → (State.reset.core c).bks.get n = 0) ∧
  State.reset.now = 0 ∧ (∀ p k, State.reset.node p k = Node.reset) ∧ (∀ i, State.reset.group? i = none)

/-- The package after device reset has memory and the table of groups in their canonical forms. -/
def ResetForms : Prop := State.reset.memoryOk = true ∧ State.reset.groups.wf = true

/-- Every step that answers a next state keeps memory in its canonical form. -/
def StepKeepsMemoryForm : Prop :=
  ∀ s t : State, s.memoryOk = true → step s = .next t → t.memoryOk = true

/-- Every step that answers a next state keeps the table of groups sorted without repeats. -/
def StepKeepsGroupTable : Prop :=
  ∀ s t : State, s.groups.wf = true → step s = .next t → t.groups.wf = true

end Sys2Proof.Parts

/-- Integer arithmetic, logic, shifts and minima of vectors complete with the value of their table in each lane of the active set. -/
def Obligations.IntegerVectors : Prop := Sys2Proof.Parts.VectorInteger ∧ Sys2Proof.Parts.TwoAddressInteger ∧ Sys2Proof.Parts.VectorImmediate

/-- Bit counts, fields, byte shuffles, selection by a mask and MOVI.V. -/
def Obligations.BitsAndSelection : Prop := Sys2Proof.Parts.BitCounts ∧ Sys2Proof.Parts.BitFields ∧ Sys2Proof.Parts.SelectAndMove

/-- Integer compares are producers of a mask, and what a compare leaves when it completes. -/
def Obligations.IntegerCompares : Prop := Sys2Proof.Parts.CompareIssue ∧ Sys2Proof.Parts.CompareCompletion

/-- Scalar, pair and mask arithmetic, once for the group whatever the active set. -/
def Obligations.ScalarAndMaskArithmetic : Prop := Sys2Proof.Parts.ScalarArithmetic ∧ Sys2Proof.Parts.ScalarImmediate ∧ Sys2Proof.Parts.PairArithmetic ∧ Sys2Proof.Parts.MaskArithmetic

/-- F32 arithmetic of vectors, with a scalar operand and in the H forms, and the exceptions it gathers. -/
def Obligations.FloatArithmetic : Prop := Sys2Proof.Parts.FloatArithmetic ∧ Sys2Proof.Parts.FloatScalarOperand ∧ Sys2Proof.Parts.FloatTwoAddress

/-- Packed 16-bit elements and binary64 in pairs of vectors. -/
def Obligations.PackedAndDoubleArithmetic : Prop := Sys2Proof.Parts.PackedArithmetic ∧ Sys2Proof.Parts.DoubleArithmetic

/-- Compares of floats and special functions are producers; lanes that raise an enabled exception park and the others complete. -/
def Obligations.FloatProducersAndTraps : Prop := Sys2Proof.Parts.FloatCompareIssue ∧ Sys2Proof.Parts.SpecialFunctionIssue ∧ Sys2Proof.Parts.SpecialFunctionCompletion ∧ Sys2Proof.Parts.FloatTraps

/-- CVT by its conversion code and rounding, and NARROW of packed elements with a scale. -/
def Obligations.Conversions : Prop := Sys2Proof.Parts.Convert ∧ Sys2Proof.Parts.Narrow

/-- Shuffles, broadcasts, ballots and reductions over the lanes of a group. -/
def Obligations.LaneExchange : Prop := Sys2Proof.Parts.CrossLaneReads ∧ Sys2Proof.Parts.BallotAndReductions

/-- Registers named by an index, and a trap handler reading and writing another lane. -/
def Obligations.IndirectAndHandlerRegisters : Prop := Sys2Proof.Parts.IndirectRegisters ∧ Sys2Proof.Parts.HandlerLaneAccess

/-- Reading, writing, zeroing and moving tiles. -/
def Obligations.Tiles : Prop := Sys2Proof.Parts.Tiles

/-- SRD of every special register, and CRD and CWR by the class of a control register. -/
def Obligations.SpecialAndControlRegisters : Prop := Sys2Proof.Parts.SpecialRegisters ∧ Sys2Proof.Parts.ControlRegisters

/-- Branches, jumps, calls and the meeting register. -/
def Obligations.ControlFlow : Prop := Sys2Proof.Parts.BranchTargets ∧ Sys2Proof.Parts.JumpsAndMeetings

/-- A cause parks the lanes that raise it, faults the context, or ends a debug run; TRAP and BREAK. -/
def Obligations.TrapTaking : Prop := Sys2Proof.Parts.TrapTaking ∧ Sys2Proof.Parts.SoftwareTraps ∧ Sys2Proof.Parts.ContextFaults

/-- Entering the trap handler loads the frame of the oldest sub-warp; RTRAP resumes the lanes it names. -/
def Obligations.HandlerEntryAndReturn : Prop := Sys2Proof.Parts.HandlerEntry ∧ Sys2Proof.Parts.ReturnFromTrap

/-- A REP begins its sequence, or raises the cause of a repeat that is forbidden before any repeat. -/
def Obligations.RepeatBegins : Prop := Sys2Proof.Parts.RepeatBegins

/-- SLEEP, YIELD, WAITF and REPACK, and the ends of SLEEP and YIELD. -/
def Obligations.Scheduling : Prop := Sys2Proof.Parts.Scheduling

/-- Loads, atomics and tile loads leave their parts to be performed and their destination empty. -/
def Obligations.LoadIssue : Prop := Sys2Proof.Parts.LoadIssue

/-- Stores leave their parts and bytes to be performed; fences wait for what they name and order it. -/
def Obligations.StoresAndFences : Prop := Sys2Proof.Parts.StoreIssue ∧ Sys2Proof.Parts.Fences

/-- Performing a part of an access and who sees it, filling the registers of a load, page walks and the scrubber. -/
def Obligations.AccessesAndFills : Prop := Sys2Proof.Parts.AccessPerformed ∧ Sys2Proof.Parts.StoresSeen ∧ Sys2Proof.Parts.LoadFills ∧ Sys2Proof.Parts.WalksAndScrub

/-- Team barriers and lane barriers: arrivals, waits and the completion of a phase. -/
def Obligations.Barriers : Prop := Sys2Proof.Parts.TeamBarriers ∧ Sys2Proof.Parts.LaneBarriers ∧ Sys2Proof.Parts.BarrierPhases

/-- Zephyr operations: legal control words, arrivals, and the completion of a phase. -/
def Obligations.ZephyrOperations : Prop := Sys2Proof.Parts.ZephyrIssue ∧ Sys2Proof.Parts.ZephyrPhases

/-- Flits that arrive, and LULL and ZSIG. -/
def Obligations.FlitsAndSignals : Prop := Sys2Proof.Parts.FlitArrival ∧ Sys2Proof.Parts.SoftwareSignals

/-- Convergence registers and the issue of an MMA. -/
def Obligations.ConvergenceAndMatrixIssue : Prop := Sys2Proof.Parts.ConvergenceRegisters ∧ Sys2Proof.Parts.MatrixIssue

/-- The matrix unit executes operations in order; the accumulator receives the sums. -/
def Obligations.MatrixExecution : Prop := Sys2Proof.Parts.MatrixExecution

/-- SPAWN puts threads into bins; a bin forms a group. -/
def Obligations.Bins : Prop := Sys2Proof.Parts.SpawnIntoBins ∧ Sys2Proof.Parts.BinGroups

/-- TDEF, TDEC and TWAIT: task entries, their counters and their waits. -/
def Obligations.Tasks : Prop := Sys2Proof.Parts.TaskCounters ∧ Sys2Proof.Parts.TaskWaits

/-- TIDSET loads entries into the team window, all or none; TIDRD reads a word of an entry. -/
def Obligations.TensorWindow : Prop := Sys2Proof.Parts.TensorWindow

/-- COPY instructions join a channel, and copies move their sectors, end and decrement their tasks. -/
def Obligations.Copies : Prop := Sys2Proof.Parts.CopyIssue ∧ Sys2Proof.Parts.CopyProgress

/-- TRACE and TRACES submit rays; trade queues, the ends of rays and their records. -/
def Obligations.Rays : Prop := Sys2Proof.Parts.TraceIssue ∧ Sys2Proof.Parts.RaysAndRecords

/-- RAST queues its samples on the rasteriser of its core, which completes issues in order. -/
def Obligations.Rasteriser : Prop := Sys2Proof.Parts.Rasteriser

/-- VIEW takes a slot or answers at once, casts its rays and completes; shading bins form groups. -/
def Obligations.ViewsAndShading : Prop := Sys2Proof.Parts.Views ∧ Sys2Proof.Parts.ShadingGroups

/-- EXIT, TRET and VRET; the ends of groups, teams and grids; a REPACK that fires. -/
def Obligations.ThreadAndGridEnds : Prop := Sys2Proof.Parts.ThreadEnds ∧ Sys2Proof.Parts.Retirement ∧ Sys2Proof.Parts.RepackFires

/-- Snapshot instructions take their operands; SNAPHASH; prefix trees are created, discarded and freed. -/
def Obligations.SnapshotTreesAndKeys : Prop := Sys2Proof.Parts.SnapshotIssue ∧ Sys2Proof.Parts.SnapshotHash ∧ Sys2Proof.Parts.PrefixTrees

/-- SNAPFIND walks to the deepest confirmed node; SNAPGET copies a snapshot; SNAPREL takes a pin. -/
def Obligations.SnapshotSearchAndCopy : Prop := Sys2Proof.Parts.SnapshotFind ∧ Sys2Proof.Parts.SnapshotGetAndRelease

/-- SNAPDEP takes a free node, copies tokens and snapshot into its slot, and links it. -/
def Obligations.SnapshotDeposit : Prop := Sys2Proof.Parts.SnapshotDeposit

/-- CRED and CBCAST join an instance of their collective, which combines its sources or ends with a status. -/
def Obligations.Collectives : Prop := Sys2Proof.Parts.CollectiveIssue ∧ Sys2Proof.Parts.CollectiveCompletion ∧ Sys2Proof.Parts.PackageUnreachable

/-- A cluster places teams on its cores; clusters and dies steal ranges of teams. -/
def Obligations.TeamPlacement : Prop := Sys2Proof.Parts.TeamPlacement ∧ Sys2Proof.Parts.Steals ∧ Sys2Proof.Parts.DistributorsComplete

/-- Queues are enabled, disabled and rung, and their descriptors follow. -/
def Obligations.QueueControl : Prop := Sys2Proof.Parts.QueueControl

/-- The packet processor starts packets and completes them. -/
def Obligations.Packets : Prop := Sys2Proof.Parts.PacketStarts ∧ Sys2Proof.Parts.PacketCompletion

/-- BARRIER rounds, COPY sectors and SIGNAL packets. -/
def Obligations.BarrierCopyAndSignalPackets : Prop := Sys2Proof.Parts.BarrierPackets ∧ Sys2Proof.Parts.CopyAndSignalPackets

/-- The lull wave, PC comparators and the start of the debug slot. -/
def Obligations.LullAndDebugSlot : Prop := Sys2Proof.Parts.LullWaves ∧ Sys2Proof.Parts.ComparatorsAndDebugSlot

/-- DSTEP, DRES and the resume of a job. -/
def Obligations.StepsAndResumes : Prop := Sys2Proof.Parts.StepsAndResumes

/-- DUMP asks for a dump, and a dump writes its header and sections or faults. -/
def Obligations.Dumps : Prop := Sys2Proof.Parts.Dumps

/-- The host reads and writes a register of a group of a frozen scheduler partition. -/
def Obligations.DebugRegisterAccess : Prop := Sys2Proof.Parts.DebugRegisterAccess

/-- Fault records are written to the ring, and FQRESUME lets restartable work go on. -/
def Obligations.FaultQueue : Prop := Sys2Proof.Parts.FaultQueue

/-- The host, peer packages and lost links. -/
def Obligations.OutsideAccesses : Prop := Sys2Proof.Parts.LinksAndPeers ∧ Sys2Proof.Parts.OutsideRequests

/-- A drain begins, ends with the save area written, or is forced at its deadline. -/
def Obligations.Preemption : Prop := Sys2Proof.Parts.Preemption

/-- Partition reset, device reset and power-on. -/
def Obligations.Resets : Prop := Sys2Proof.Parts.PartitionReset ∧ Sys2Proof.Parts.DeviceReset

/-- The host's registers, memory-enable, TLB invalidation and the window to control registers. -/
def Obligations.HostRegisters : Prop := Sys2Proof.Parts.HostRegisters

/-- CTXCMD loads and unloads a context, or says why not. -/
def Obligations.ContextLoading : Prop := Sys2Proof.Parts.ContextLoading

/-- The management controller: firmware, monitoring, attestation and what it sets. -/
def Obligations.ManagementController : Prop := Sys2Proof.Parts.ManagementController ∧ Sys2Proof.Parts.ManagementSettings

/-- Stall accounting and samples. -/
def Obligations.CountersAndSamples : Prop := Sys2Proof.Parts.StallAccounting ∧ Sys2Proof.Parts.Sampling

/-- Illegal words, registers not allotted and empty registers: what is decided before any effect of an instruction. -/
def Obligations.ChecksBeforeEffects : Prop := Sys2Proof.Parts.IllegalWords ∧ Sys2Proof.Parts.OperandChecks

/-- Which of its lanes a group issues next, and what an issue does to their ages. -/
def Obligations.IssueSelection : Prop := Sys2Proof.Parts.IssueChoice ∧ Sys2Proof.Parts.IssueAges

/-- A step runs the instruction that the bytes at the issuing address decode to, and an event as its own meaning. -/
def Obligations.StepRunsDecoded : Prop := Sys2Proof.Parts.StepRunsDecoded

/-- Every legal instruction is read back from its bytes, and what decodes is a legal instruction with exactly these bytes. -/
def Obligations.EncodingRoundTrip : Prop := Sys2Proof.Parts.EncodingRoundTrip ∧ Sys2Proof.Parts.EncodingUnique

/-- Words that the spec writes out decode to the instructions it writes beside them. -/
def Obligations.WordsOfTheSpec : Prop := Sys2Proof.Parts.WordsOfTheSpec

/-- What device reset leaves, and that its memory and table of groups have their canonical forms. -/
def Obligations.ResetState : Prop := Sys2Proof.Parts.ResetValues ∧ Sys2Proof.Parts.ResetForms

/-- Every step keeps the canonical form of memory and the sorted table of groups. -/
def Obligations.StepKeepsForms : Prop := Sys2Proof.Parts.StepKeepsMemoryForm ∧ Sys2Proof.Parts.StepKeepsGroupTable
end

