-- ==== Sys2Proof/Laws/Cells.lean ====
section
/-! SUPPORT. Keyed lists: read after write, and the canonical form that every operation keeps. -/

namespace Sys2Proof

variable {α : Type} {w : Nat}

/-! Tables. -/

@[simp] theorem Tab.get?_set_same (t : Tab α) (i : Nat) (x : α) : (t.set i x).get? i = some x := by
  induction t with
  | nil => simp [Tab.set, Tab.get?]
  | cons c r ih =>
    obtain ⟨j, y⟩ := c
    simp only [Tab.set]
    split
    · simp [Tab.get?]
    · split
      · simp [Tab.get?]
      · rename_i h1 h2
        simp only [Tab.get?, ih]
        exact if_neg (Ne.symm h2)

@[simp] theorem Tab.get?_set_other (t : Tab α) (i j : Nat) (x : α) (h : j ≠ i) : (t.set i x).get? j = t.get? j := by
  induction t with
  | nil => simp [Tab.set, Tab.get?, Ne.symm h]
  | cons c r ih =>
    obtain ⟨k, y⟩ := c
    simp only [Tab.set]
    split
    · simp [Tab.get?, Ne.symm h]
    · split
      · rename_i h2
        simp [Tab.get?, ← h2, Ne.symm h]
      · simp [Tab.get?, ih]

theorem Tab.get?_set (t : Tab α) (i j : Nat) (x : α) : (t.set i x).get? j = if j = i then some x else t.get? j := by
  by_cases h : j = i
  · subst h; simp
  · simp [h]

@[simp] theorem Tab.get?_erase_same (t : Tab α) (i : Nat) : (t.erase i).get? i = none := by
  induction t with
  | nil => rfl
  | cons c r ih =>
    obtain ⟨j, y⟩ := c
    simp only [Tab.erase]
    split
    · exact ih
    · rename_i h
      simp [Tab.get?, h, ih]

@[simp] theorem Tab.get?_erase_other (t : Tab α) (i j : Nat) (h : j ≠ i) : (t.erase i).get? j = t.get? j := by
  induction t with
  | nil => rfl
  | cons c r ih =>
    obtain ⟨k, y⟩ := c
    simp only [Tab.erase]
    split
    · rename_i h2
      simp [Tab.get?, h2, Ne.symm h, ih]
    · simp [Tab.get?, ih]

theorem Tab.get?_modify (t : Tab α) (i j : Nat) (f : α → α) :
    (t.modify i f).get? j = if j = i then (t.get? i).map f else t.get? j := by
  unfold Tab.modify
  cases h : t.get? i with
  | none =>
    by_cases hj : j = i
    · subst hj; simp [h]
    · simp [hj]
  | some x => simp [Tab.get?_set]

@[simp] theorem Tab.get?_mapVal {β : Type} (f : Nat → α → β) (t : Tab α) (i : Nat) :
    (t.mapVal f).get? i = (t.get? i).map (f i) := by
  induction t with
  | nil => rfl
  | cons c r ih =>
    obtain ⟨j, y⟩ := c
    simp only [Tab.mapVal, Tab.get?]
    split
    · rename_i h; simp [h]
    · exact ih

@[simp] theorem Tab.getD_set_same (t : Tab α) (i : Nat) (x d : α) : (t.set i x).getD i d = x := by simp [Tab.getD]

@[simp] theorem Tab.getD_set_other (t : Tab α) (i j : Nat) (x d : α) (h : j ≠ i) : (t.set i x).getD j d = t.getD j d := by
  simp [Tab.getD, h]

/-! Stores. -/

/-- A cell below every listed one reads zero. -/
theorem Store.get_of_wfFrom (t : Store w) (b i : Nat) (h : t.wfFrom b = true) (hi : i < b) : t.get i = 0 := by
  induction t generalizing b with
  | nil => rfl
  | cons c r ih =>
    obtain ⟨j, y⟩ := c
    simp only [Store.wfFrom, Bool.and_eq_true, decide_eq_true_eq] at h
    obtain ⟨⟨h1, -⟩, h3⟩ := h
    have : j ≠ i := by omega
    simp only [Store.get, this, if_false]
    exact ih (j + 1) h3 (by omega)

theorem Store.wfFrom_mono (t : Store w) (a b : Nat) (hab : a ≤ b) (h : t.wfFrom b = true) : t.wfFrom a = true := by
  cases t with
  | nil => rfl
  | cons c r =>
    obtain ⟨j, y⟩ := c
    simp only [Store.wfFrom, Bool.and_eq_true, decide_eq_true_eq] at h ⊢
    exact ⟨⟨by omega, h.1.2⟩, h.2⟩

theorem Store.wfFrom_erase (t : Store w) (b i : Nat) (h : t.wfFrom b = true) : (t.erase i).wfFrom b = true := by
  induction t generalizing b with
  | nil => rfl
  | cons c r ih =>
    obtain ⟨j, y⟩ := c
    simp only [Store.wfFrom, Bool.and_eq_true, decide_eq_true_eq] at h
    simp only [Store.erase]
    split
    · exact Store.wfFrom_mono _ b (j + 1) (by omega) (ih (j + 1) h.2)
    · simp only [Store.wfFrom, Bool.and_eq_true, decide_eq_true_eq]
      exact ⟨h.1, ih (j + 1) h.2⟩

theorem Store.wfFrom_put (t : Store w) (b i : Nat) (x : BitVec w) (h : t.wfFrom b = true) (hi : b ≤ i) (hx : x ≠ 0) :
    (t.put i x).wfFrom b = true := by
  induction t generalizing b with
  | nil =>
    simp only [Store.put, Store.wfFrom, Bool.and_eq_true, decide_eq_true_eq]
    exact ⟨⟨hi, hx⟩, trivial⟩
  | cons c r ih =>
    obtain ⟨j, y⟩ := c
    simp only [Store.wfFrom, Bool.and_eq_true, decide_eq_true_eq] at h
    obtain ⟨⟨h1, h2⟩, h3⟩ := h
    simp only [Store.put]
    split
    · simp only [Store.wfFrom, Bool.and_eq_true, decide_eq_true_eq]
      exact ⟨⟨hi, hx⟩, ⟨by omega, h2⟩, h3⟩
    · split
      · rename_i hij
        simp only [Store.wfFrom, Bool.and_eq_true, decide_eq_true_eq]
        exact ⟨⟨hi, hx⟩, hij ▸ h3⟩
      · simp only [Store.wfFrom, Bool.and_eq_true, decide_eq_true_eq]
        exact ⟨⟨h1, h2⟩, ih (j + 1) h3 (by omega)⟩

theorem Store.wfFrom_set (t : Store w) (b i : Nat) (x : BitVec w) (h : t.wfFrom b = true) (hi : b ≤ i) :
    (t.set i x).wfFrom b = true := by
  unfold Store.set
  split
  · exact Store.wfFrom_erase t b i h
  · exact Store.wfFrom_put t b i x h hi ‹_›

/-- Setting a cell keeps the canonical form. -/
theorem Store.wf_set (t : Store w) (i : Nat) (x : BitVec w) (h : t.wf = true) : (t.set i x).wf = true :=
  Store.wfFrom_set t 0 i x h (Nat.zero_le i)

theorem Store.wf_setRange (xs : List (BitVec w)) (t : Store w) (i : Nat) (h : t.wf = true) : (t.setRange i xs).wf = true := by
  induction xs generalizing t i with
  | nil => exact h
  | cons x r ih => exact ih (t.set i x) (i + 1) (Store.wf_set t i x h)

theorem Store.wf_setAll (xs : List (Nat × BitVec w)) (t : Store w) (h : t.wf = true) : (Store.setAll xs t).wf = true := by
  induction xs generalizing t with
  | nil => exact h
  | cons x r ih => exact ih (t.set x.1 x.2) (Store.wf_set t x.1 x.2 h)

theorem Store.wfFrom_drop (p : Nat → Bool) (t : Store w) (b : Nat) (h : t.wfFrom b = true) :
    (Store.drop p t).wfFrom b = true := by
  induction t generalizing b with
  | nil => rfl
  | cons c r ih =>
    obtain ⟨j, y⟩ := c
    simp only [Store.wfFrom, Bool.and_eq_true, decide_eq_true_eq] at h
    simp only [Store.drop]
    split
    · exact Store.wfFrom_mono _ b (j + 1) (by omega) (ih (j + 1) h.2)
    · simp only [Store.wfFrom, Bool.and_eq_true, decide_eq_true_eq]
      exact ⟨h.1, ih (j + 1) h.2⟩

/-- Removing cells keeps the canonical form. -/
theorem Store.wf_drop (p : Nat → Bool) (t : Store w) (h : t.wf = true) : (Store.drop p t).wf = true :=
  Store.wfFrom_drop p t 0 h

theorem Store.get_erase (t : Store w) (i j : Nat) : (t.erase i).get j = if j = i then 0 else t.get j := by
  induction t with
  | nil => simp [Store.erase, Store.get]
  | cons c r ih =>
    obtain ⟨k, y⟩ := c
    simp only [Store.erase]
    by_cases hk : k = i
    · subst hk
      by_cases hj : j = k
      · subst hj; simpa using ih
      · simpa [Store.get, hj, Ne.symm hj] using ih
    · simp only [hk, if_false, Store.get]
      by_cases hj : k = j
      · subst hj; simp [hk]
      · simp [hj, ih]

theorem Store.get_put (t : Store w) (i j : Nat) (x : BitVec w) : (t.put i x).get j = if j = i then x else t.get j := by
  induction t with
  | nil => simp [Store.put, Store.get, eq_comm]
  | cons c r ih =>
    obtain ⟨k, y⟩ := c
    simp only [Store.put]
    split
    · simp [Store.get, eq_comm]
    · split
      · rename_i h2
        subst h2
        by_cases hj : j = i
        · simp [Store.get, hj]
        · simp [Store.get, hj, Ne.symm hj]
      · rename_i h2
        simp only [Store.get, ih]
        by_cases hk : k = j
        · subst hk; simp [Ne.symm h2]
        · simp [hk]

/-- A cell reads what was set, and every other cell what it read before. -/
theorem Store.get_set (t : Store w) (i j : Nat) (x : BitVec w) : (t.set i x).get j = if j = i then x else t.get j := by
  unfold Store.set
  split
  · rename_i h; rw [Store.get_erase, h]
  · exact Store.get_put t i j x

@[simp] theorem Store.get_set_same (t : Store w) (i : Nat) (x : BitVec w) : (t.set i x).get i = x := by
  simp [Store.get_set]

@[simp] theorem Store.get_set_other (t : Store w) (i j : Nat) (x : BitVec w) (h : j ≠ i) : (t.set i x).get j = t.get j := by
  simp [Store.get_set, h]

/-- Cells set from a list: a number of the list reads what the list gives it, where no number stands twice; every other as
before. -/
theorem Store.get_setAll_other (xs : List (Nat × BitVec w)) (t : Store w) (j : Nat) (h : j ∉ xs.map (·.1)) :
    (Store.setAll xs t).get j = t.get j := by
  induction xs generalizing t with
  | nil => rfl
  | cons x r ih =>
    simp only [List.map_cons, List.mem_cons, not_or] at h
    simp [Store.setAll, ih _ h.2, h.1]

theorem Store.get_setAll_keep {β : Type} (xs : List β) (key : β → Nat) (val : β → BitVec w) (t : Store w) (i : Nat) (x : BitVec w)
    (ht : t.get i = x) (h : ∀ y ∈ xs, key y = i → val y = x) :
    (Store.setAll (xs.map fun y => (key y, val y)) t).get i = x := by
  induction xs generalizing t with
  | nil => exact ht
  | cons y r ih =>
    refine ih _ ?_ fun z hz => h z (List.mem_cons_of_mem _ hz)
    rw [Store.get_set]
    split
    · rename_i he; exact h y (List.mem_cons_self ..) he.symm
    · exact ht

theorem Store.get_setAll_map {β : Type} (xs : List β) (key : β → Nat) (val : β → BitVec w) (t : Store w) (x : β) (hx : x ∈ xs)
    (h : ∀ y ∈ xs, key y = key x → val y = val x) :
    (Store.setAll (xs.map fun y => (key y, val y)) t).get (key x) = val x := by
  induction xs generalizing t with
  | nil => cases hx
  | cons y r ih =>
    have hr : ∀ z ∈ r, key z = key x → val z = val x := fun z hz => h z (List.mem_cons_of_mem _ hz)
    rcases List.mem_cons.mp hx with rfl | hm
    · exact Store.get_setAll_keep r key val _ _ _ (by simp) hr
    · exact ih _ hm hr

namespace Machine

/-- A write to memory keeps the canonical form. -/
theorem Memory.wf_write (m : Store 8) (l : Loc) (bs : List Byte) (h : Memory.wf m = true) :
    Memory.wf (Memory.write m l bs) = true := Store.wf_setRange bs m l.cell h

/-- Discarding cells keeps the canonical form. -/
theorem Memory.wf_drop (m : Store 8) (p : Nat → Bool) (h : Memory.wf m = true) : Memory.wf (Store.drop p m) = true :=
  Store.wf_drop p m h

/-- Memory at reset lists nothing. -/
theorem Memory.wf_reset : Memory.wf State.reset.mem = true := rfl

end Machine
end Sys2Proof
end

