-- ==== Sys2Proof/Laws/State.lean ====
section
/-! SUPPORT. One lemma for each field and each update of the state: what the update leaves as it was. -/

namespace Sys2Proof.Machine

@[simp] theorem State.setGroup_agenda (s : State) (i : Nat) (x : Group) : (s.setGroup i x).agenda = s.agenda := rfl
@[simp] theorem State.setGroup_cur (s : State) (i : Nat) (x : Group) : (s.setGroup i x).cur = s.cur := rfl
@[simp] theorem State.setGroup_waited (s : State) (i : Nat) (x : Group) : (s.setGroup i x).waited = s.waited := rfl
@[simp] theorem State.setGroup_now (s : State) (i : Nat) (x : Group) : (s.setGroup i x).now = s.now := rfl
@[simp] theorem State.setGroup_dtimeOff (s : State) (i : Nat) (x : Group) : (s.setGroup i x).dtimeOff = s.dtimeOff := rfl
@[simp] theorem State.setGroup_fresh (s : State) (i : Nat) (x : Group) : (s.setGroup i x).fresh = s.fresh := rfl
@[simp] theorem State.setGroup_mem (s : State) (i : Nat) (x : Group) : (s.setGroup i x).mem = s.mem := rfl
@[simp] theorem State.setGroup_late (s : State) (i : Nat) (x : Group) : (s.setGroup i x).late = s.late := rfl
@[simp] theorem State.setGroup_poison (s : State) (i : Nat) (x : Group) : (s.setGroup i x).poison = s.poison := rfl
@[simp] theorem State.setGroup_weak (s : State) (i : Nat) (x : Group) : (s.setGroup i x).weak = s.weak := rfl
@[simp] theorem State.setGroup_teams (s : State) (i : Nat) (x : Group) : (s.setGroup i x).teams = s.teams := rfl
@[simp] theorem State.setGroup_grids (s : State) (i : Nat) (x : Group) : (s.setGroup i x).grids = s.grids := rfl
@[simp] theorem State.setGroup_sps (s : State) (i : Nat) (x : Group) : (s.setGroup i x).sps = s.sps := rfl
@[simp] theorem State.setGroup_cores (s : State) (i : Nat) (x : Group) : (s.setGroup i x).cores = s.cores := rfl
@[simp] theorem State.setGroup_clusters (s : State) (i : Nat) (x : Group) : (s.setGroup i x).clusters = s.clusters := rfl
@[simp] theorem State.setGroup_dies (s : State) (i : Nat) (x : Group) : (s.setGroup i x).dies = s.dies := rfl
@[simp] theorem State.setGroup_parts (s : State) (i : Nat) (x : Group) : (s.setGroup i x).parts = s.parts := rfl
@[simp] theorem State.setGroup_ops (s : State) (i : Nat) (x : Group) : (s.setGroup i x).ops = s.ops := rfl
@[simp] theorem State.setGroup_accs (s : State) (i : Nat) (x : Group) : (s.setGroup i x).accs = s.accs := rfl
@[simp] theorem State.setGroup_flits (s : State) (i : Nat) (x : Group) : (s.setGroup i x).flits = s.flits := rfl
@[simp] theorem State.setGroup_nodes (s : State) (i : Nat) (x : Group) : (s.setGroup i x).nodes = s.nodes := rfl
@[simp] theorem State.setGroup_mc (s : State) (i : Nat) (x : Group) : (s.setGroup i x).mc = s.mc := rfl
@[simp] theorem State.setGroup_hostLost (s : State) (i : Nat) (x : Group) : (s.setGroup i x).hostLost = s.hostLost := rfl
@[simp] theorem State.setGroup_cxlPorts (s : State) (i : Nat) (x : Group) : (s.setGroup i x).cxlPorts = s.cxlPorts := rfl
@[simp] theorem State.setGroup_cxlDown (s : State) (i : Nat) (x : Group) : (s.setGroup i x).cxlDown = s.cxlDown := rfl
@[simp] theorem State.setGroup_devResetting (s : State) (i : Nat) (x : Group) : (s.setGroup i x).devResetting = s.devResetting := rfl
@[simp] theorem State.setGroup_peerOut (s : State) (i : Nat) (x : Group) : (s.setGroup i x).peerOut = s.peerOut := rfl
@[simp] theorem State.setGroup_irqs (s : State) (i : Nat) (x : Group) : (s.setGroup i x).irqs = s.irqs := rfl
@[simp] theorem State.setGroup_fabricOut (s : State) (i : Nat) (x : Group) : (s.setGroup i x).fabricOut = s.fabricOut := rfl
@[simp] theorem State.setGroup_hostOut (s : State) (i : Nat) (x : Group) : (s.setGroup i x).hostOut = s.hostOut := rfl

@[simp] theorem State.modGroup_agenda (s : State) (i : Nat) (f : Group → Group) : (s.modGroup i f).agenda = s.agenda := rfl
@[simp] theorem State.modGroup_cur (s : State) (i : Nat) (f : Group → Group) : (s.modGroup i f).cur = s.cur := rfl
@[simp] theorem State.modGroup_waited (s : State) (i : Nat) (f : Group → Group) : (s.modGroup i f).waited = s.waited := rfl
@[simp] theorem State.modGroup_now (s : State) (i : Nat) (f : Group → Group) : (s.modGroup i f).now = s.now := rfl
@[simp] theorem State.modGroup_dtimeOff (s : State) (i : Nat) (f : Group → Group) : (s.modGroup i f).dtimeOff = s.dtimeOff := rfl
@[simp] theorem State.modGroup_fresh (s : State) (i : Nat) (f : Group → Group) : (s.modGroup i f).fresh = s.fresh := rfl
@[simp] theorem State.modGroup_mem (s : State) (i : Nat) (f : Group → Group) : (s.modGroup i f).mem = s.mem := rfl
@[simp] theorem State.modGroup_late (s : State) (i : Nat) (f : Group → Group) : (s.modGroup i f).late = s.late := rfl
@[simp] theorem State.modGroup_poison (s : State) (i : Nat) (f : Group → Group) : (s.modGroup i f).poison = s.poison := rfl
@[simp] theorem State.modGroup_weak (s : State) (i : Nat) (f : Group → Group) : (s.modGroup i f).weak = s.weak := rfl
@[simp] theorem State.modGroup_teams (s : State) (i : Nat) (f : Group → Group) : (s.modGroup i f).teams = s.teams := rfl
@[simp] theorem State.modGroup_grids (s : State) (i : Nat) (f : Group → Group) : (s.modGroup i f).grids = s.grids := rfl
@[simp] theorem State.modGroup_sps (s : State) (i : Nat) (f : Group → Group) : (s.modGroup i f).sps = s.sps := rfl
@[simp] theorem State.modGroup_cores (s : State) (i : Nat) (f : Group → Group) : (s.modGroup i f).cores = s.cores := rfl
@[simp] theorem State.modGroup_clusters (s : State) (i : Nat) (f : Group → Group) : (s.modGroup i f).clusters = s.clusters := rfl
@[simp] theorem State.modGroup_dies (s : State) (i : Nat) (f : Group → Group) : (s.modGroup i f).dies = s.dies := rfl
@[simp] theorem State.modGroup_parts (s : State) (i : Nat) (f : Group → Group) : (s.modGroup i f).parts = s.parts := rfl
@[simp] theorem State.modGroup_ops (s : State) (i : Nat) (f : Group → Group) : (s.modGroup i f).ops = s.ops := rfl
@[simp] theorem State.modGroup_accs (s : State) (i : Nat) (f : Group → Group) : (s.modGroup i f).accs = s.accs := rfl
@[simp] theorem State.modGroup_flits (s : State) (i : Nat) (f : Group → Group) : (s.modGroup i f).flits = s.flits := rfl
@[simp] theorem State.modGroup_nodes (s : State) (i : Nat) (f : Group → Group) : (s.modGroup i f).nodes = s.nodes := rfl
@[simp] theorem State.modGroup_mc (s : State) (i : Nat) (f : Group → Group) : (s.modGroup i f).mc = s.mc := rfl
@[simp] theorem State.modGroup_hostLost (s : State) (i : Nat) (f : Group → Group) : (s.modGroup i f).hostLost = s.hostLost := rfl
@[simp] theorem State.modGroup_cxlPorts (s : State) (i : Nat) (f : Group → Group) : (s.modGroup i f).cxlPorts = s.cxlPorts := rfl
@[simp] theorem State.modGroup_cxlDown (s : State) (i : Nat) (f : Group → Group) : (s.modGroup i f).cxlDown = s.cxlDown := rfl
@[simp] theorem State.modGroup_devResetting (s : State) (i : Nat) (f : Group → Group) : (s.modGroup i f).devResetting = s.devResetting := rfl
@[simp] theorem State.modGroup_peerOut (s : State) (i : Nat) (f : Group → Group) : (s.modGroup i f).peerOut = s.peerOut := rfl
@[simp] theorem State.modGroup_irqs (s : State) (i : Nat) (f : Group → Group) : (s.modGroup i f).irqs = s.irqs := rfl
@[simp] theorem State.modGroup_fabricOut (s : State) (i : Nat) (f : Group → Group) : (s.modGroup i f).fabricOut = s.fabricOut := rfl
@[simp] theorem State.modGroup_hostOut (s : State) (i : Nat) (f : Group → Group) : (s.modGroup i f).hostOut = s.hostOut := rfl

@[simp] theorem State.setSp_agenda (s : State) (i : Nat) (x : Sp) : (s.setSp i x).agenda = s.agenda := rfl
@[simp] theorem State.setSp_cur (s : State) (i : Nat) (x : Sp) : (s.setSp i x).cur = s.cur := rfl
@[simp] theorem State.setSp_waited (s : State) (i : Nat) (x : Sp) : (s.setSp i x).waited = s.waited := rfl
@[simp] theorem State.setSp_now (s : State) (i : Nat) (x : Sp) : (s.setSp i x).now = s.now := rfl
@[simp] theorem State.setSp_dtimeOff (s : State) (i : Nat) (x : Sp) : (s.setSp i x).dtimeOff = s.dtimeOff := rfl
@[simp] theorem State.setSp_fresh (s : State) (i : Nat) (x : Sp) : (s.setSp i x).fresh = s.fresh := rfl
@[simp] theorem State.setSp_mem (s : State) (i : Nat) (x : Sp) : (s.setSp i x).mem = s.mem := rfl
@[simp] theorem State.setSp_late (s : State) (i : Nat) (x : Sp) : (s.setSp i x).late = s.late := rfl
@[simp] theorem State.setSp_poison (s : State) (i : Nat) (x : Sp) : (s.setSp i x).poison = s.poison := rfl
@[simp] theorem State.setSp_weak (s : State) (i : Nat) (x : Sp) : (s.setSp i x).weak = s.weak := rfl
@[simp] theorem State.setSp_groups (s : State) (i : Nat) (x : Sp) : (s.setSp i x).groups = s.groups := rfl
@[simp] theorem State.setSp_teams (s : State) (i : Nat) (x : Sp) : (s.setSp i x).teams = s.teams := rfl
@[simp] theorem State.setSp_grids (s : State) (i : Nat) (x : Sp) : (s.setSp i x).grids = s.grids := rfl
@[simp] theorem State.setSp_cores (s : State) (i : Nat) (x : Sp) : (s.setSp i x).cores = s.cores := rfl
@[simp] theorem State.setSp_clusters (s : State) (i : Nat) (x : Sp) : (s.setSp i x).clusters = s.clusters := rfl
@[simp] theorem State.setSp_dies (s : State) (i : Nat) (x : Sp) : (s.setSp i x).dies = s.dies := rfl
@[simp] theorem State.setSp_parts (s : State) (i : Nat) (x : Sp) : (s.setSp i x).parts = s.parts := rfl
@[simp] theorem State.setSp_ops (s : State) (i : Nat) (x : Sp) : (s.setSp i x).ops = s.ops := rfl
@[simp] theorem State.setSp_accs (s : State) (i : Nat) (x : Sp) : (s.setSp i x).accs = s.accs := rfl
@[simp] theorem State.setSp_flits (s : State) (i : Nat) (x : Sp) : (s.setSp i x).flits = s.flits := rfl
@[simp] theorem State.setSp_nodes (s : State) (i : Nat) (x : Sp) : (s.setSp i x).nodes = s.nodes := rfl
@[simp] theorem State.setSp_mc (s : State) (i : Nat) (x : Sp) : (s.setSp i x).mc = s.mc := rfl
@[simp] theorem State.setSp_hostLost (s : State) (i : Nat) (x : Sp) : (s.setSp i x).hostLost = s.hostLost := rfl
@[simp] theorem State.setSp_cxlPorts (s : State) (i : Nat) (x : Sp) : (s.setSp i x).cxlPorts = s.cxlPorts := rfl
@[simp] theorem State.setSp_cxlDown (s : State) (i : Nat) (x : Sp) : (s.setSp i x).cxlDown = s.cxlDown := rfl
@[simp] theorem State.setSp_devResetting (s : State) (i : Nat) (x : Sp) : (s.setSp i x).devResetting = s.devResetting := rfl
@[simp] theorem State.setSp_peerOut (s : State) (i : Nat) (x : Sp) : (s.setSp i x).peerOut = s.peerOut := rfl
@[simp] theorem State.setSp_irqs (s : State) (i : Nat) (x : Sp) : (s.setSp i x).irqs = s.irqs := rfl
@[simp] theorem State.setSp_fabricOut (s : State) (i : Nat) (x : Sp) : (s.setSp i x).fabricOut = s.fabricOut := rfl
@[simp] theorem State.setSp_hostOut (s : State) (i : Nat) (x : Sp) : (s.setSp i x).hostOut = s.hostOut := rfl

@[simp] theorem State.modSp_agenda (s : State) (i : Nat) (f : Sp → Sp) : (s.modSp i f).agenda = s.agenda := rfl
@[simp] theorem State.modSp_cur (s : State) (i : Nat) (f : Sp → Sp) : (s.modSp i f).cur = s.cur := rfl
@[simp] theorem State.modSp_waited (s : State) (i : Nat) (f : Sp → Sp) : (s.modSp i f).waited = s.waited := rfl
@[simp] theorem State.modSp_now (s : State) (i : Nat) (f : Sp → Sp) : (s.modSp i f).now = s.now := rfl
@[simp] theorem State.modSp_dtimeOff (s : State) (i : Nat) (f : Sp → Sp) : (s.modSp i f).dtimeOff = s.dtimeOff := rfl
@[simp] theorem State.modSp_fresh (s : State) (i : Nat) (f : Sp → Sp) : (s.modSp i f).fresh = s.fresh := rfl
@[simp] theorem State.modSp_mem (s : State) (i : Nat) (f : Sp → Sp) : (s.modSp i f).mem = s.mem := rfl
@[simp] theorem State.modSp_late (s : State) (i : Nat) (f : Sp → Sp) : (s.modSp i f).late = s.late := rfl
@[simp] theorem State.modSp_poison (s : State) (i : Nat) (f : Sp → Sp) : (s.modSp i f).poison = s.poison := rfl
@[simp] theorem State.modSp_weak (s : State) (i : Nat) (f : Sp → Sp) : (s.modSp i f).weak = s.weak := rfl
@[simp] theorem State.modSp_groups (s : State) (i : Nat) (f : Sp → Sp) : (s.modSp i f).groups = s.groups := rfl
@[simp] theorem State.modSp_teams (s : State) (i : Nat) (f : Sp → Sp) : (s.modSp i f).teams = s.teams := rfl
@[simp] theorem State.modSp_grids (s : State) (i : Nat) (f : Sp → Sp) : (s.modSp i f).grids = s.grids := rfl
@[simp] theorem State.modSp_cores (s : State) (i : Nat) (f : Sp → Sp) : (s.modSp i f).cores = s.cores := rfl
@[simp] theorem State.modSp_clusters (s : State) (i : Nat) (f : Sp → Sp) : (s.modSp i f).clusters = s.clusters := rfl
@[simp] theorem State.modSp_dies (s : State) (i : Nat) (f : Sp → Sp) : (s.modSp i f).dies = s.dies := rfl
@[simp] theorem State.modSp_parts (s : State) (i : Nat) (f : Sp → Sp) : (s.modSp i f).parts = s.parts := rfl
@[simp] theorem State.modSp_ops (s : State) (i : Nat) (f : Sp → Sp) : (s.modSp i f).ops = s.ops := rfl
@[simp] theorem State.modSp_accs (s : State) (i : Nat) (f : Sp → Sp) : (s.modSp i f).accs = s.accs := rfl
@[simp] theorem State.modSp_flits (s : State) (i : Nat) (f : Sp → Sp) : (s.modSp i f).flits = s.flits := rfl
@[simp] theorem State.modSp_nodes (s : State) (i : Nat) (f : Sp → Sp) : (s.modSp i f).nodes = s.nodes := rfl
@[simp] theorem State.modSp_mc (s : State) (i : Nat) (f : Sp → Sp) : (s.modSp i f).mc = s.mc := rfl
@[simp] theorem State.modSp_hostLost (s : State) (i : Nat) (f : Sp → Sp) : (s.modSp i f).hostLost = s.hostLost := rfl
@[simp] theorem State.modSp_cxlPorts (s : State) (i : Nat) (f : Sp → Sp) : (s.modSp i f).cxlPorts = s.cxlPorts := rfl
@[simp] theorem State.modSp_cxlDown (s : State) (i : Nat) (f : Sp → Sp) : (s.modSp i f).cxlDown = s.cxlDown := rfl
@[simp] theorem State.modSp_devResetting (s : State) (i : Nat) (f : Sp → Sp) : (s.modSp i f).devResetting = s.devResetting := rfl
@[simp] theorem State.modSp_peerOut (s : State) (i : Nat) (f : Sp → Sp) : (s.modSp i f).peerOut = s.peerOut := rfl
@[simp] theorem State.modSp_irqs (s : State) (i : Nat) (f : Sp → Sp) : (s.modSp i f).irqs = s.irqs := rfl
@[simp] theorem State.modSp_fabricOut (s : State) (i : Nat) (f : Sp → Sp) : (s.modSp i f).fabricOut = s.fabricOut := rfl
@[simp] theorem State.modSp_hostOut (s : State) (i : Nat) (f : Sp → Sp) : (s.modSp i f).hostOut = s.hostOut := rfl

@[simp] theorem State.setCore_agenda (s : State) (i : Nat) (x : Core) : (s.setCore i x).agenda = s.agenda := rfl
@[simp] theorem State.setCore_cur (s : State) (i : Nat) (x : Core) : (s.setCore i x).cur = s.cur := rfl
@[simp] theorem State.setCore_waited (s : State) (i : Nat) (x : Core) : (s.setCore i x).waited = s.waited := rfl
@[simp] theorem State.setCore_now (s : State) (i : Nat) (x : Core) : (s.setCore i x).now = s.now := rfl
@[simp] theorem State.setCore_dtimeOff (s : State) (i : Nat) (x : Core) : (s.setCore i x).dtimeOff = s.dtimeOff := rfl
@[simp] theorem State.setCore_fresh (s : State) (i : Nat) (x : Core) : (s.setCore i x).fresh = s.fresh := rfl
@[simp] theorem State.setCore_mem (s : State) (i : Nat) (x : Core) : (s.setCore i x).mem = s.mem := rfl
@[simp] theorem State.setCore_late (s : State) (i : Nat) (x : Core) : (s.setCore i x).late = s.late := rfl
@[simp] theorem State.setCore_poison (s : State) (i : Nat) (x : Core) : (s.setCore i x).poison = s.poison := rfl
@[simp] theorem State.setCore_weak (s : State) (i : Nat) (x : Core) : (s.setCore i x).weak = s.weak := rfl
@[simp] theorem State.setCore_groups (s : State) (i : Nat) (x : Core) : (s.setCore i x).groups = s.groups := rfl
@[simp] theorem State.setCore_teams (s : State) (i : Nat) (x : Core) : (s.setCore i x).teams = s.teams := rfl
@[simp] theorem State.setCore_grids (s : State) (i : Nat) (x : Core) : (s.setCore i x).grids = s.grids := rfl
@[simp] theorem State.setCore_sps (s : State) (i : Nat) (x : Core) : (s.setCore i x).sps = s.sps := rfl
@[simp] theorem State.setCore_clusters (s : State) (i : Nat) (x : Core) : (s.setCore i x).clusters = s.clusters := rfl
@[simp] theorem State.setCore_dies (s : State) (i : Nat) (x : Core) : (s.setCore i x).dies = s.dies := rfl
@[simp] theorem State.setCore_parts (s : State) (i : Nat) (x : Core) : (s.setCore i x).parts = s.parts := rfl
@[simp] theorem State.setCore_ops (s : State) (i : Nat) (x : Core) : (s.setCore i x).ops = s.ops := rfl
@[simp] theorem State.setCore_accs (s : State) (i : Nat) (x : Core) : (s.setCore i x).accs = s.accs := rfl
@[simp] theorem State.setCore_flits (s : State) (i : Nat) (x : Core) : (s.setCore i x).flits = s.flits := rfl
@[simp] theorem State.setCore_nodes (s : State) (i : Nat) (x : Core) : (s.setCore i x).nodes = s.nodes := rfl
@[simp] theorem State.setCore_mc (s : State) (i : Nat) (x : Core) : (s.setCore i x).mc = s.mc := rfl
@[simp] theorem State.setCore_hostLost (s : State) (i : Nat) (x : Core) : (s.setCore i x).hostLost = s.hostLost := rfl
@[simp] theorem State.setCore_cxlPorts (s : State) (i : Nat) (x : Core) : (s.setCore i x).cxlPorts = s.cxlPorts := rfl
@[simp] theorem State.setCore_cxlDown (s : State) (i : Nat) (x : Core) : (s.setCore i x).cxlDown = s.cxlDown := rfl
@[simp] theorem State.setCore_devResetting (s : State) (i : Nat) (x : Core) : (s.setCore i x).devResetting = s.devResetting := rfl
@[simp] theorem State.setCore_peerOut (s : State) (i : Nat) (x : Core) : (s.setCore i x).peerOut = s.peerOut := rfl
@[simp] theorem State.setCore_irqs (s : State) (i : Nat) (x : Core) : (s.setCore i x).irqs = s.irqs := rfl
@[simp] theorem State.setCore_fabricOut (s : State) (i : Nat) (x : Core) : (s.setCore i x).fabricOut = s.fabricOut := rfl
@[simp] theorem State.setCore_hostOut (s : State) (i : Nat) (x : Core) : (s.setCore i x).hostOut = s.hostOut := rfl

@[simp] theorem State.modCore_agenda (s : State) (i : Nat) (f : Core → Core) : (s.modCore i f).agenda = s.agenda := rfl
@[simp] theorem State.modCore_cur (s : State) (i : Nat) (f : Core → Core) : (s.modCore i f).cur = s.cur := rfl
@[simp] theorem State.modCore_waited (s : State) (i : Nat) (f : Core → Core) : (s.modCore i f).waited = s.waited := rfl
@[simp] theorem State.modCore_now (s : State) (i : Nat) (f : Core → Core) : (s.modCore i f).now = s.now := rfl
@[simp] theorem State.modCore_dtimeOff (s : State) (i : Nat) (f : Core → Core) : (s.modCore i f).dtimeOff = s.dtimeOff := rfl
@[simp] theorem State.modCore_fresh (s : State) (i : Nat) (f : Core → Core) : (s.modCore i f).fresh = s.fresh := rfl
@[simp] theorem State.modCore_mem (s : State) (i : Nat) (f : Core → Core) : (s.modCore i f).mem = s.mem := rfl
@[simp] theorem State.modCore_late (s : State) (i : Nat) (f : Core → Core) : (s.modCore i f).late = s.late := rfl
@[simp] theorem State.modCore_poison (s : State) (i : Nat) (f : Core → Core) : (s.modCore i f).poison = s.poison := rfl
@[simp] theorem State.modCore_weak (s : State) (i : Nat) (f : Core → Core) : (s.modCore i f).weak = s.weak := rfl
@[simp] theorem State.modCore_groups (s : State) (i : Nat) (f : Core → Core) : (s.modCore i f).groups = s.groups := rfl
@[simp] theorem State.modCore_teams (s : State) (i : Nat) (f : Core → Core) : (s.modCore i f).teams = s.teams := rfl
@[simp] theorem State.modCore_grids (s : State) (i : Nat) (f : Core → Core) : (s.modCore i f).grids = s.grids := rfl
@[simp] theorem State.modCore_sps (s : State) (i : Nat) (f : Core → Core) : (s.modCore i f).sps = s.sps := rfl
@[simp] theorem State.modCore_clusters (s : State) (i : Nat) (f : Core → Core) : (s.modCore i f).clusters = s.clusters := rfl
@[simp] theorem State.modCore_dies (s : State) (i : Nat) (f : Core → Core) : (s.modCore i f).dies = s.dies := rfl
@[simp] theorem State.modCore_parts (s : State) (i : Nat) (f : Core → Core) : (s.modCore i f).parts = s.parts := rfl
@[simp] theorem State.modCore_ops (s : State) (i : Nat) (f : Core → Core) : (s.modCore i f).ops = s.ops := rfl
@[simp] theorem State.modCore_accs (s : State) (i : Nat) (f : Core → Core) : (s.modCore i f).accs = s.accs := rfl
@[simp] theorem State.modCore_flits (s : State) (i : Nat) (f : Core → Core) : (s.modCore i f).flits = s.flits := rfl
@[simp] theorem State.modCore_nodes (s : State) (i : Nat) (f : Core → Core) : (s.modCore i f).nodes = s.nodes := rfl
@[simp] theorem State.modCore_mc (s : State) (i : Nat) (f : Core → Core) : (s.modCore i f).mc = s.mc := rfl
@[simp] theorem State.modCore_hostLost (s : State) (i : Nat) (f : Core → Core) : (s.modCore i f).hostLost = s.hostLost := rfl
@[simp] theorem State.modCore_cxlPorts (s : State) (i : Nat) (f : Core → Core) : (s.modCore i f).cxlPorts = s.cxlPorts := rfl
@[simp] theorem State.modCore_cxlDown (s : State) (i : Nat) (f : Core → Core) : (s.modCore i f).cxlDown = s.cxlDown := rfl
@[simp] theorem State.modCore_devResetting (s : State) (i : Nat) (f : Core → Core) : (s.modCore i f).devResetting = s.devResetting := rfl
@[simp] theorem State.modCore_peerOut (s : State) (i : Nat) (f : Core → Core) : (s.modCore i f).peerOut = s.peerOut := rfl
@[simp] theorem State.modCore_irqs (s : State) (i : Nat) (f : Core → Core) : (s.modCore i f).irqs = s.irqs := rfl
@[simp] theorem State.modCore_fabricOut (s : State) (i : Nat) (f : Core → Core) : (s.modCore i f).fabricOut = s.fabricOut := rfl
@[simp] theorem State.modCore_hostOut (s : State) (i : Nat) (f : Core → Core) : (s.modCore i f).hostOut = s.hostOut := rfl

@[simp] theorem State.setCluster_agenda (s : State) (i : Nat) (x : Cluster) : (s.setCluster i x).agenda = s.agenda := rfl
@[simp] theorem State.setCluster_cur (s : State) (i : Nat) (x : Cluster) : (s.setCluster i x).cur = s.cur := rfl
@[simp] theorem State.setCluster_waited (s : State) (i : Nat) (x : Cluster) : (s.setCluster i x).waited = s.waited := rfl
@[simp] theorem State.setCluster_now (s : State) (i : Nat) (x : Cluster) : (s.setCluster i x).now = s.now := rfl
@[simp] theorem State.setCluster_dtimeOff (s : State) (i : Nat) (x : Cluster) : (s.setCluster i x).dtimeOff = s.dtimeOff := rfl
@[simp] theorem State.setCluster_fresh (s : State) (i : Nat) (x : Cluster) : (s.setCluster i x).fresh = s.fresh := rfl
@[simp] theorem State.setCluster_mem (s : State) (i : Nat) (x : Cluster) : (s.setCluster i x).mem = s.mem := rfl
@[simp] theorem State.setCluster_late (s : State) (i : Nat) (x : Cluster) : (s.setCluster i x).late = s.late := rfl
@[simp] theorem State.setCluster_poison (s : State) (i : Nat) (x : Cluster) : (s.setCluster i x).poison = s.poison := rfl
@[simp] theorem State.setCluster_weak (s : State) (i : Nat) (x : Cluster) : (s.setCluster i x).weak = s.weak := rfl
@[simp] theorem State.setCluster_groups (s : State) (i : Nat) (x : Cluster) : (s.setCluster i x).groups = s.groups := rfl
@[simp] theorem State.setCluster_teams (s : State) (i : Nat) (x : Cluster) : (s.setCluster i x).teams = s.teams := rfl
@[simp] theorem State.setCluster_grids (s : State) (i : Nat) (x : Cluster) : (s.setCluster i x).grids = s.grids := rfl
@[simp] theorem State.setCluster_sps (s : State) (i : Nat) (x : Cluster) : (s.setCluster i x).sps = s.sps := rfl
@[simp] theorem State.setCluster_cores (s : State) (i : Nat) (x : Cluster) : (s.setCluster i x).cores = s.cores := rfl
@[simp] theorem State.setCluster_dies (s : State) (i : Nat) (x : Cluster) : (s.setCluster i x).dies = s.dies := rfl
@[simp] theorem State.setCluster_parts (s : State) (i : Nat) (x : Cluster) : (s.setCluster i x).parts = s.parts := rfl
@[simp] theorem State.setCluster_ops (s : State) (i : Nat) (x : Cluster) : (s.setCluster i x).ops = s.ops := rfl
@[simp] theorem State.setCluster_accs (s : State) (i : Nat) (x : Cluster) : (s.setCluster i x).accs = s.accs := rfl
@[simp] theorem State.setCluster_flits (s : State) (i : Nat) (x : Cluster) : (s.setCluster i x).flits = s.flits := rfl
@[simp] theorem State.setCluster_nodes (s : State) (i : Nat) (x : Cluster) : (s.setCluster i x).nodes = s.nodes := rfl
@[simp] theorem State.setCluster_mc (s : State) (i : Nat) (x : Cluster) : (s.setCluster i x).mc = s.mc := rfl
@[simp] theorem State.setCluster_hostLost (s : State) (i : Nat) (x : Cluster) : (s.setCluster i x).hostLost = s.hostLost := rfl
@[simp] theorem State.setCluster_cxlPorts (s : State) (i : Nat) (x : Cluster) : (s.setCluster i x).cxlPorts = s.cxlPorts := rfl
@[simp] theorem State.setCluster_cxlDown (s : State) (i : Nat) (x : Cluster) : (s.setCluster i x).cxlDown = s.cxlDown := rfl
@[simp] theorem State.setCluster_devResetting (s : State) (i : Nat) (x : Cluster) : (s.setCluster i x).devResetting = s.devResetting := rfl
@[simp] theorem State.setCluster_peerOut (s : State) (i : Nat) (x : Cluster) : (s.setCluster i x).peerOut = s.peerOut := rfl
@[simp] theorem State.setCluster_irqs (s : State) (i : Nat) (x : Cluster) : (s.setCluster i x).irqs = s.irqs := rfl
@[simp] theorem State.setCluster_fabricOut (s : State) (i : Nat) (x : Cluster) : (s.setCluster i x).fabricOut = s.fabricOut := rfl
@[simp] theorem State.setCluster_hostOut (s : State) (i : Nat) (x : Cluster) : (s.setCluster i x).hostOut = s.hostOut := rfl

@[simp] theorem State.modCluster_agenda (s : State) (i : Nat) (f : Cluster → Cluster) : (s.modCluster i f).agenda = s.agenda := rfl
@[simp] theorem State.modCluster_cur (s : State) (i : Nat) (f : Cluster → Cluster) : (s.modCluster i f).cur = s.cur := rfl
@[simp] theorem State.modCluster_waited (s : State) (i : Nat) (f : Cluster → Cluster) : (s.modCluster i f).waited = s.waited := rfl
@[simp] theorem State.modCluster_now (s : State) (i : Nat) (f : Cluster → Cluster) : (s.modCluster i f).now = s.now := rfl
@[simp] theorem State.modCluster_dtimeOff (s : State) (i : Nat) (f : Cluster → Cluster) : (s.modCluster i f).dtimeOff = s.dtimeOff := rfl
@[simp] theorem State.modCluster_fresh (s : State) (i : Nat) (f : Cluster → Cluster) : (s.modCluster i f).fresh = s.fresh := rfl
@[simp] theorem State.modCluster_mem (s : State) (i : Nat) (f : Cluster → Cluster) : (s.modCluster i f).mem = s.mem := rfl
@[simp] theorem State.modCluster_late (s : State) (i : Nat) (f : Cluster → Cluster) : (s.modCluster i f).late = s.late := rfl
@[simp] theorem State.modCluster_poison (s : State) (i : Nat) (f : Cluster → Cluster) : (s.modCluster i f).poison = s.poison := rfl
@[simp] theorem State.modCluster_weak (s : State) (i : Nat) (f : Cluster → Cluster) : (s.modCluster i f).weak = s.weak := rfl
@[simp] theorem State.modCluster_groups (s : State) (i : Nat) (f : Cluster → Cluster) : (s.modCluster i f).groups = s.groups := rfl
@[simp] theorem State.modCluster_teams (s : State) (i : Nat) (f : Cluster → Cluster) : (s.modCluster i f).teams = s.teams := rfl
@[simp] theorem State.modCluster_grids (s : State) (i : Nat) (f : Cluster → Cluster) : (s.modCluster i f).grids = s.grids := rfl
@[simp] theorem State.modCluster_sps (s : State) (i : Nat) (f : Cluster → Cluster) : (s.modCluster i f).sps = s.sps := rfl
@[simp] theorem State.modCluster_cores (s : State) (i : Nat) (f : Cluster → Cluster) : (s.modCluster i f).cores = s.cores := rfl
@[simp] theorem State.modCluster_dies (s : State) (i : Nat) (f : Cluster → Cluster) : (s.modCluster i f).dies = s.dies := rfl
@[simp] theorem State.modCluster_parts (s : State) (i : Nat) (f : Cluster → Cluster) : (s.modCluster i f).parts = s.parts := rfl
@[simp] theorem State.modCluster_ops (s : State) (i : Nat) (f : Cluster → Cluster) : (s.modCluster i f).ops = s.ops := rfl
@[simp] theorem State.modCluster_accs (s : State) (i : Nat) (f : Cluster → Cluster) : (s.modCluster i f).accs = s.accs := rfl
@[simp] theorem State.modCluster_flits (s : State) (i : Nat) (f : Cluster → Cluster) : (s.modCluster i f).flits = s.flits := rfl
@[simp] theorem State.modCluster_nodes (s : State) (i : Nat) (f : Cluster → Cluster) : (s.modCluster i f).nodes = s.nodes := rfl
@[simp] theorem State.modCluster_mc (s : State) (i : Nat) (f : Cluster → Cluster) : (s.modCluster i f).mc = s.mc := rfl
@[simp] theorem State.modCluster_hostLost (s : State) (i : Nat) (f : Cluster → Cluster) : (s.modCluster i f).hostLost = s.hostLost := rfl
@[simp] theorem State.modCluster_cxlPorts (s : State) (i : Nat) (f : Cluster → Cluster) : (s.modCluster i f).cxlPorts = s.cxlPorts := rfl
@[simp] theorem State.modCluster_cxlDown (s : State) (i : Nat) (f : Cluster → Cluster) : (s.modCluster i f).cxlDown = s.cxlDown := rfl
@[simp] theorem State.modCluster_devResetting (s : State) (i : Nat) (f : Cluster → Cluster) : (s.modCluster i f).devResetting = s.devResetting := rfl
@[simp] theorem State.modCluster_peerOut (s : State) (i : Nat) (f : Cluster → Cluster) : (s.modCluster i f).peerOut = s.peerOut := rfl
@[simp] theorem State.modCluster_irqs (s : State) (i : Nat) (f : Cluster → Cluster) : (s.modCluster i f).irqs = s.irqs := rfl
@[simp] theorem State.modCluster_fabricOut (s : State) (i : Nat) (f : Cluster → Cluster) : (s.modCluster i f).fabricOut = s.fabricOut := rfl
@[simp] theorem State.modCluster_hostOut (s : State) (i : Nat) (f : Cluster → Cluster) : (s.modCluster i f).hostOut = s.hostOut := rfl

@[simp] theorem State.setDie_agenda (s : State) (i : Nat) (x : Die) : (s.setDie i x).agenda = s.agenda := rfl
@[simp] theorem State.setDie_cur (s : State) (i : Nat) (x : Die) : (s.setDie i x).cur = s.cur := rfl
@[simp] theorem State.setDie_waited (s : State) (i : Nat) (x : Die) : (s.setDie i x).waited = s.waited := rfl
@[simp] theorem State.setDie_now (s : State) (i : Nat) (x : Die) : (s.setDie i x).now = s.now := rfl
@[simp] theorem State.setDie_dtimeOff (s : State) (i : Nat) (x : Die) : (s.setDie i x).dtimeOff = s.dtimeOff := rfl
@[simp] theorem State.setDie_fresh (s : State) (i : Nat) (x : Die) : (s.setDie i x).fresh = s.fresh := rfl
@[simp] theorem State.setDie_mem (s : State) (i : Nat) (x : Die) : (s.setDie i x).mem = s.mem := rfl
@[simp] theorem State.setDie_late (s : State) (i : Nat) (x : Die) : (s.setDie i x).late = s.late := rfl
@[simp] theorem State.setDie_poison (s : State) (i : Nat) (x : Die) : (s.setDie i x).poison = s.poison := rfl
@[simp] theorem State.setDie_weak (s : State) (i : Nat) (x : Die) : (s.setDie i x).weak = s.weak := rfl
@[simp] theorem State.setDie_groups (s : State) (i : Nat) (x : Die) : (s.setDie i x).groups = s.groups := rfl
@[simp] theorem State.setDie_teams (s : State) (i : Nat) (x : Die) : (s.setDie i x).teams = s.teams := rfl
@[simp] theorem State.setDie_grids (s : State) (i : Nat) (x : Die) : (s.setDie i x).grids = s.grids := rfl
@[simp] theorem State.setDie_sps (s : State) (i : Nat) (x : Die) : (s.setDie i x).sps = s.sps := rfl
@[simp] theorem State.setDie_cores (s : State) (i : Nat) (x : Die) : (s.setDie i x).cores = s.cores := rfl
@[simp] theorem State.setDie_clusters (s : State) (i : Nat) (x : Die) : (s.setDie i x).clusters = s.clusters := rfl
@[simp] theorem State.setDie_parts (s : State) (i : Nat) (x : Die) : (s.setDie i x).parts = s.parts := rfl
@[simp] theorem State.setDie_ops (s : State) (i : Nat) (x : Die) : (s.setDie i x).ops = s.ops := rfl
@[simp] theorem State.setDie_accs (s : State) (i : Nat) (x : Die) : (s.setDie i x).accs = s.accs := rfl
@[simp] theorem State.setDie_flits (s : State) (i : Nat) (x : Die) : (s.setDie i x).flits = s.flits := rfl
@[simp] theorem State.setDie_nodes (s : State) (i : Nat) (x : Die) : (s.setDie i x).nodes = s.nodes := rfl
@[simp] theorem State.setDie_mc (s : State) (i : Nat) (x : Die) : (s.setDie i x).mc = s.mc := rfl
@[simp] theorem State.setDie_hostLost (s : State) (i : Nat) (x : Die) : (s.setDie i x).hostLost = s.hostLost := rfl
@[simp] theorem State.setDie_cxlPorts (s : State) (i : Nat) (x : Die) : (s.setDie i x).cxlPorts = s.cxlPorts := rfl
@[simp] theorem State.setDie_cxlDown (s : State) (i : Nat) (x : Die) : (s.setDie i x).cxlDown = s.cxlDown := rfl
@[simp] theorem State.setDie_devResetting (s : State) (i : Nat) (x : Die) : (s.setDie i x).devResetting = s.devResetting := rfl
@[simp] theorem State.setDie_peerOut (s : State) (i : Nat) (x : Die) : (s.setDie i x).peerOut = s.peerOut := rfl
@[simp] theorem State.setDie_irqs (s : State) (i : Nat) (x : Die) : (s.setDie i x).irqs = s.irqs := rfl
@[simp] theorem State.setDie_fabricOut (s : State) (i : Nat) (x : Die) : (s.setDie i x).fabricOut = s.fabricOut := rfl
@[simp] theorem State.setDie_hostOut (s : State) (i : Nat) (x : Die) : (s.setDie i x).hostOut = s.hostOut := rfl

@[simp] theorem State.modDie_agenda (s : State) (i : Nat) (f : Die → Die) : (s.modDie i f).agenda = s.agenda := rfl
@[simp] theorem State.modDie_cur (s : State) (i : Nat) (f : Die → Die) : (s.modDie i f).cur = s.cur := rfl
@[simp] theorem State.modDie_waited (s : State) (i : Nat) (f : Die → Die) : (s.modDie i f).waited = s.waited := rfl
@[simp] theorem State.modDie_now (s : State) (i : Nat) (f : Die → Die) : (s.modDie i f).now = s.now := rfl
@[simp] theorem State.modDie_dtimeOff (s : State) (i : Nat) (f : Die → Die) : (s.modDie i f).dtimeOff = s.dtimeOff := rfl
@[simp] theorem State.modDie_fresh (s : State) (i : Nat) (f : Die → Die) : (s.modDie i f).fresh = s.fresh := rfl
@[simp] theorem State.modDie_mem (s : State) (i : Nat) (f : Die → Die) : (s.modDie i f).mem = s.mem := rfl
@[simp] theorem State.modDie_late (s : State) (i : Nat) (f : Die → Die) : (s.modDie i f).late = s.late := rfl
@[simp] theorem State.modDie_poison (s : State) (i : Nat) (f : Die → Die) : (s.modDie i f).poison = s.poison := rfl
@[simp] theorem State.modDie_weak (s : State) (i : Nat) (f : Die → Die) : (s.modDie i f).weak = s.weak := rfl
@[simp] theorem State.modDie_groups (s : State) (i : Nat) (f : Die → Die) : (s.modDie i f).groups = s.groups := rfl
@[simp] theorem State.modDie_teams (s : State) (i : Nat) (f : Die → Die) : (s.modDie i f).teams = s.teams := rfl
@[simp] theorem State.modDie_grids (s : State) (i : Nat) (f : Die → Die) : (s.modDie i f).grids = s.grids := rfl
@[simp] theorem State.modDie_sps (s : State) (i : Nat) (f : Die → Die) : (s.modDie i f).sps = s.sps := rfl
@[simp] theorem State.modDie_cores (s : State) (i : Nat) (f : Die → Die) : (s.modDie i f).cores = s.cores := rfl
@[simp] theorem State.modDie_clusters (s : State) (i : Nat) (f : Die → Die) : (s.modDie i f).clusters = s.clusters := rfl
@[simp] theorem State.modDie_parts (s : State) (i : Nat) (f : Die → Die) : (s.modDie i f).parts = s.parts := rfl
@[simp] theorem State.modDie_ops (s : State) (i : Nat) (f : Die → Die) : (s.modDie i f).ops = s.ops := rfl
@[simp] theorem State.modDie_accs (s : State) (i : Nat) (f : Die → Die) : (s.modDie i f).accs = s.accs := rfl
@[simp] theorem State.modDie_flits (s : State) (i : Nat) (f : Die → Die) : (s.modDie i f).flits = s.flits := rfl
@[simp] theorem State.modDie_nodes (s : State) (i : Nat) (f : Die → Die) : (s.modDie i f).nodes = s.nodes := rfl
@[simp] theorem State.modDie_mc (s : State) (i : Nat) (f : Die → Die) : (s.modDie i f).mc = s.mc := rfl
@[simp] theorem State.modDie_hostLost (s : State) (i : Nat) (f : Die → Die) : (s.modDie i f).hostLost = s.hostLost := rfl
@[simp] theorem State.modDie_cxlPorts (s : State) (i : Nat) (f : Die → Die) : (s.modDie i f).cxlPorts = s.cxlPorts := rfl
@[simp] theorem State.modDie_cxlDown (s : State) (i : Nat) (f : Die → Die) : (s.modDie i f).cxlDown = s.cxlDown := rfl
@[simp] theorem State.modDie_devResetting (s : State) (i : Nat) (f : Die → Die) : (s.modDie i f).devResetting = s.devResetting := rfl
@[simp] theorem State.modDie_peerOut (s : State) (i : Nat) (f : Die → Die) : (s.modDie i f).peerOut = s.peerOut := rfl
@[simp] theorem State.modDie_irqs (s : State) (i : Nat) (f : Die → Die) : (s.modDie i f).irqs = s.irqs := rfl
@[simp] theorem State.modDie_fabricOut (s : State) (i : Nat) (f : Die → Die) : (s.modDie i f).fabricOut = s.fabricOut := rfl
@[simp] theorem State.modDie_hostOut (s : State) (i : Nat) (f : Die → Die) : (s.modDie i f).hostOut = s.hostOut := rfl

@[simp] theorem State.setPart_agenda (s : State) (i : Nat) (x : Part) : (s.setPart i x).agenda = s.agenda := rfl
@[simp] theorem State.setPart_cur (s : State) (i : Nat) (x : Part) : (s.setPart i x).cur = s.cur := rfl
@[simp] theorem State.setPart_waited (s : State) (i : Nat) (x : Part) : (s.setPart i x).waited = s.waited := rfl
@[simp] theorem State.setPart_now (s : State) (i : Nat) (x : Part) : (s.setPart i x).now = s.now := rfl
@[simp] theorem State.setPart_dtimeOff (s : State) (i : Nat) (x : Part) : (s.setPart i x).dtimeOff = s.dtimeOff := rfl
@[simp] theorem State.setPart_fresh (s : State) (i : Nat) (x : Part) : (s.setPart i x).fresh = s.fresh := rfl
@[simp] theorem State.setPart_mem (s : State) (i : Nat) (x : Part) : (s.setPart i x).mem = s.mem := rfl
@[simp] theorem State.setPart_late (s : State) (i : Nat) (x : Part) : (s.setPart i x).late = s.late := rfl
@[simp] theorem State.setPart_poison (s : State) (i : Nat) (x : Part) : (s.setPart i x).poison = s.poison := rfl
@[simp] theorem State.setPart_weak (s : State) (i : Nat) (x : Part) : (s.setPart i x).weak = s.weak := rfl
@[simp] theorem State.setPart_groups (s : State) (i : Nat) (x : Part) : (s.setPart i x).groups = s.groups := rfl
@[simp] theorem State.setPart_teams (s : State) (i : Nat) (x : Part) : (s.setPart i x).teams = s.teams := rfl
@[simp] theorem State.setPart_grids (s : State) (i : Nat) (x : Part) : (s.setPart i x).grids = s.grids := rfl
@[simp] theorem State.setPart_sps (s : State) (i : Nat) (x : Part) : (s.setPart i x).sps = s.sps := rfl
@[simp] theorem State.setPart_cores (s : State) (i : Nat) (x : Part) : (s.setPart i x).cores = s.cores := rfl
@[simp] theorem State.setPart_clusters (s : State) (i : Nat) (x : Part) : (s.setPart i x).clusters = s.clusters := rfl
@[simp] theorem State.setPart_dies (s : State) (i : Nat) (x : Part) : (s.setPart i x).dies = s.dies := rfl
@[simp] theorem State.setPart_ops (s : State) (i : Nat) (x : Part) : (s.setPart i x).ops = s.ops := rfl
@[simp] theorem State.setPart_accs (s : State) (i : Nat) (x : Part) : (s.setPart i x).accs = s.accs := rfl
@[simp] theorem State.setPart_flits (s : State) (i : Nat) (x : Part) : (s.setPart i x).flits = s.flits := rfl
@[simp] theorem State.setPart_nodes (s : State) (i : Nat) (x : Part) : (s.setPart i x).nodes = s.nodes := rfl
@[simp] theorem State.setPart_mc (s : State) (i : Nat) (x : Part) : (s.setPart i x).mc = s.mc := rfl
@[simp] theorem State.setPart_hostLost (s : State) (i : Nat) (x : Part) : (s.setPart i x).hostLost = s.hostLost := rfl
@[simp] theorem State.setPart_cxlPorts (s : State) (i : Nat) (x : Part) : (s.setPart i x).cxlPorts = s.cxlPorts := rfl
@[simp] theorem State.setPart_cxlDown (s : State) (i : Nat) (x : Part) : (s.setPart i x).cxlDown = s.cxlDown := rfl
@[simp] theorem State.setPart_devResetting (s : State) (i : Nat) (x : Part) : (s.setPart i x).devResetting = s.devResetting := rfl
@[simp] theorem State.setPart_peerOut (s : State) (i : Nat) (x : Part) : (s.setPart i x).peerOut = s.peerOut := rfl
@[simp] theorem State.setPart_irqs (s : State) (i : Nat) (x : Part) : (s.setPart i x).irqs = s.irqs := rfl
@[simp] theorem State.setPart_fabricOut (s : State) (i : Nat) (x : Part) : (s.setPart i x).fabricOut = s.fabricOut := rfl
@[simp] theorem State.setPart_hostOut (s : State) (i : Nat) (x : Part) : (s.setPart i x).hostOut = s.hostOut := rfl

@[simp] theorem State.modPart_agenda (s : State) (i : Nat) (f : Part → Part) : (s.modPart i f).agenda = s.agenda := rfl
@[simp] theorem State.modPart_cur (s : State) (i : Nat) (f : Part → Part) : (s.modPart i f).cur = s.cur := rfl
@[simp] theorem State.modPart_waited (s : State) (i : Nat) (f : Part → Part) : (s.modPart i f).waited = s.waited := rfl
@[simp] theorem State.modPart_now (s : State) (i : Nat) (f : Part → Part) : (s.modPart i f).now = s.now := rfl
@[simp] theorem State.modPart_dtimeOff (s : State) (i : Nat) (f : Part → Part) : (s.modPart i f).dtimeOff = s.dtimeOff := rfl
@[simp] theorem State.modPart_fresh (s : State) (i : Nat) (f : Part → Part) : (s.modPart i f).fresh = s.fresh := rfl
@[simp] theorem State.modPart_mem (s : State) (i : Nat) (f : Part → Part) : (s.modPart i f).mem = s.mem := rfl
@[simp] theorem State.modPart_late (s : State) (i : Nat) (f : Part → Part) : (s.modPart i f).late = s.late := rfl
@[simp] theorem State.modPart_poison (s : State) (i : Nat) (f : Part → Part) : (s.modPart i f).poison = s.poison := rfl
@[simp] theorem State.modPart_weak (s : State) (i : Nat) (f : Part → Part) : (s.modPart i f).weak = s.weak := rfl
@[simp] theorem State.modPart_groups (s : State) (i : Nat) (f : Part → Part) : (s.modPart i f).groups = s.groups := rfl
@[simp] theorem State.modPart_teams (s : State) (i : Nat) (f : Part → Part) : (s.modPart i f).teams = s.teams := rfl
@[simp] theorem State.modPart_grids (s : State) (i : Nat) (f : Part → Part) : (s.modPart i f).grids = s.grids := rfl
@[simp] theorem State.modPart_sps (s : State) (i : Nat) (f : Part → Part) : (s.modPart i f).sps = s.sps := rfl
@[simp] theorem State.modPart_cores (s : State) (i : Nat) (f : Part → Part) : (s.modPart i f).cores = s.cores := rfl
@[simp] theorem State.modPart_clusters (s : State) (i : Nat) (f : Part → Part) : (s.modPart i f).clusters = s.clusters := rfl
@[simp] theorem State.modPart_dies (s : State) (i : Nat) (f : Part → Part) : (s.modPart i f).dies = s.dies := rfl
@[simp] theorem State.modPart_ops (s : State) (i : Nat) (f : Part → Part) : (s.modPart i f).ops = s.ops := rfl
@[simp] theorem State.modPart_accs (s : State) (i : Nat) (f : Part → Part) : (s.modPart i f).accs = s.accs := rfl
@[simp] theorem State.modPart_flits (s : State) (i : Nat) (f : Part → Part) : (s.modPart i f).flits = s.flits := rfl
@[simp] theorem State.modPart_nodes (s : State) (i : Nat) (f : Part → Part) : (s.modPart i f).nodes = s.nodes := rfl
@[simp] theorem State.modPart_mc (s : State) (i : Nat) (f : Part → Part) : (s.modPart i f).mc = s.mc := rfl
@[simp] theorem State.modPart_hostLost (s : State) (i : Nat) (f : Part → Part) : (s.modPart i f).hostLost = s.hostLost := rfl
@[simp] theorem State.modPart_cxlPorts (s : State) (i : Nat) (f : Part → Part) : (s.modPart i f).cxlPorts = s.cxlPorts := rfl
@[simp] theorem State.modPart_cxlDown (s : State) (i : Nat) (f : Part → Part) : (s.modPart i f).cxlDown = s.cxlDown := rfl
@[simp] theorem State.modPart_devResetting (s : State) (i : Nat) (f : Part → Part) : (s.modPart i f).devResetting = s.devResetting := rfl
@[simp] theorem State.modPart_peerOut (s : State) (i : Nat) (f : Part → Part) : (s.modPart i f).peerOut = s.peerOut := rfl
@[simp] theorem State.modPart_irqs (s : State) (i : Nat) (f : Part → Part) : (s.modPart i f).irqs = s.irqs := rfl
@[simp] theorem State.modPart_fabricOut (s : State) (i : Nat) (f : Part → Part) : (s.modPart i f).fabricOut = s.fabricOut := rfl
@[simp] theorem State.modPart_hostOut (s : State) (i : Nat) (f : Part → Part) : (s.modPart i f).hostOut = s.hostOut := rfl

@[simp] theorem State.setOp_agenda (s : State) (i : Nat) (x : Op) : (s.setOp i x).agenda = s.agenda := rfl
@[simp] theorem State.setOp_cur (s : State) (i : Nat) (x : Op) : (s.setOp i x).cur = s.cur := rfl
@[simp] theorem State.setOp_waited (s : State) (i : Nat) (x : Op) : (s.setOp i x).waited = s.waited := rfl
@[simp] theorem State.setOp_now (s : State) (i : Nat) (x : Op) : (s.setOp i x).now = s.now := rfl
@[simp] theorem State.setOp_dtimeOff (s : State) (i : Nat) (x : Op) : (s.setOp i x).dtimeOff = s.dtimeOff := rfl
@[simp] theorem State.setOp_fresh (s : State) (i : Nat) (x : Op) : (s.setOp i x).fresh = s.fresh := rfl
@[simp] theorem State.setOp_mem (s : State) (i : Nat) (x : Op) : (s.setOp i x).mem = s.mem := rfl
@[simp] theorem State.setOp_late (s : State) (i : Nat) (x : Op) : (s.setOp i x).late = s.late := rfl
@[simp] theorem State.setOp_poison (s : State) (i : Nat) (x : Op) : (s.setOp i x).poison = s.poison := rfl
@[simp] theorem State.setOp_weak (s : State) (i : Nat) (x : Op) : (s.setOp i x).weak = s.weak := rfl
@[simp] theorem State.setOp_groups (s : State) (i : Nat) (x : Op) : (s.setOp i x).groups = s.groups := rfl
@[simp] theorem State.setOp_teams (s : State) (i : Nat) (x : Op) : (s.setOp i x).teams = s.teams := rfl
@[simp] theorem State.setOp_grids (s : State) (i : Nat) (x : Op) : (s.setOp i x).grids = s.grids := rfl
@[simp] theorem State.setOp_sps (s : State) (i : Nat) (x : Op) : (s.setOp i x).sps = s.sps := rfl
@[simp] theorem State.setOp_cores (s : State) (i : Nat) (x : Op) : (s.setOp i x).cores = s.cores := rfl
@[simp] theorem State.setOp_clusters (s : State) (i : Nat) (x : Op) : (s.setOp i x).clusters = s.clusters := rfl
@[simp] theorem State.setOp_dies (s : State) (i : Nat) (x : Op) : (s.setOp i x).dies = s.dies := rfl
@[simp] theorem State.setOp_parts (s : State) (i : Nat) (x : Op) : (s.setOp i x).parts = s.parts := rfl
@[simp] theorem State.setOp_accs (s : State) (i : Nat) (x : Op) : (s.setOp i x).accs = s.accs := rfl
@[simp] theorem State.setOp_flits (s : State) (i : Nat) (x : Op) : (s.setOp i x).flits = s.flits := rfl
@[simp] theorem State.setOp_nodes (s : State) (i : Nat) (x : Op) : (s.setOp i x).nodes = s.nodes := rfl
@[simp] theorem State.setOp_mc (s : State) (i : Nat) (x : Op) : (s.setOp i x).mc = s.mc := rfl
@[simp] theorem State.setOp_hostLost (s : State) (i : Nat) (x : Op) : (s.setOp i x).hostLost = s.hostLost := rfl
@[simp] theorem State.setOp_cxlPorts (s : State) (i : Nat) (x : Op) : (s.setOp i x).cxlPorts = s.cxlPorts := rfl
@[simp] theorem State.setOp_cxlDown (s : State) (i : Nat) (x : Op) : (s.setOp i x).cxlDown = s.cxlDown := rfl
@[simp] theorem State.setOp_devResetting (s : State) (i : Nat) (x : Op) : (s.setOp i x).devResetting = s.devResetting := rfl
@[simp] theorem State.setOp_peerOut (s : State) (i : Nat) (x : Op) : (s.setOp i x).peerOut = s.peerOut := rfl
@[simp] theorem State.setOp_irqs (s : State) (i : Nat) (x : Op) : (s.setOp i x).irqs = s.irqs := rfl
@[simp] theorem State.setOp_fabricOut (s : State) (i : Nat) (x : Op) : (s.setOp i x).fabricOut = s.fabricOut := rfl
@[simp] theorem State.setOp_hostOut (s : State) (i : Nat) (x : Op) : (s.setOp i x).hostOut = s.hostOut := rfl

@[simp] theorem State.dropOp_agenda (s : State) (i : Nat) : (s.dropOp i).agenda = s.agenda := rfl
@[simp] theorem State.dropOp_cur (s : State) (i : Nat) : (s.dropOp i).cur = s.cur := rfl
@[simp] theorem State.dropOp_waited (s : State) (i : Nat) : (s.dropOp i).waited = s.waited := rfl
@[simp] theorem State.dropOp_now (s : State) (i : Nat) : (s.dropOp i).now = s.now := rfl
@[simp] theorem State.dropOp_dtimeOff (s : State) (i : Nat) : (s.dropOp i).dtimeOff = s.dtimeOff := rfl
@[simp] theorem State.dropOp_fresh (s : State) (i : Nat) : (s.dropOp i).fresh = s.fresh := rfl
@[simp] theorem State.dropOp_mem (s : State) (i : Nat) : (s.dropOp i).mem = s.mem := rfl
@[simp] theorem State.dropOp_late (s : State) (i : Nat) : (s.dropOp i).late = s.late := rfl
@[simp] theorem State.dropOp_poison (s : State) (i : Nat) : (s.dropOp i).poison = s.poison := rfl
@[simp] theorem State.dropOp_weak (s : State) (i : Nat) : (s.dropOp i).weak = s.weak := rfl
@[simp] theorem State.dropOp_groups (s : State) (i : Nat) : (s.dropOp i).groups = s.groups := rfl
@[simp] theorem State.dropOp_teams (s : State) (i : Nat) : (s.dropOp i).teams = s.teams := rfl
@[simp] theorem State.dropOp_grids (s : State) (i : Nat) : (s.dropOp i).grids = s.grids := rfl
@[simp] theorem State.dropOp_sps (s : State) (i : Nat) : (s.dropOp i).sps = s.sps := rfl
@[simp] theorem State.dropOp_cores (s : State) (i : Nat) : (s.dropOp i).cores = s.cores := rfl
@[simp] theorem State.dropOp_clusters (s : State) (i : Nat) : (s.dropOp i).clusters = s.clusters := rfl
@[simp] theorem State.dropOp_dies (s : State) (i : Nat) : (s.dropOp i).dies = s.dies := rfl
@[simp] theorem State.dropOp_parts (s : State) (i : Nat) : (s.dropOp i).parts = s.parts := rfl
@[simp] theorem State.dropOp_accs (s : State) (i : Nat) : (s.dropOp i).accs = s.accs := rfl
@[simp] theorem State.dropOp_flits (s : State) (i : Nat) : (s.dropOp i).flits = s.flits := rfl
@[simp] theorem State.dropOp_nodes (s : State) (i : Nat) : (s.dropOp i).nodes = s.nodes := rfl
@[simp] theorem State.dropOp_mc (s : State) (i : Nat) : (s.dropOp i).mc = s.mc := rfl
@[simp] theorem State.dropOp_hostLost (s : State) (i : Nat) : (s.dropOp i).hostLost = s.hostLost := rfl
@[simp] theorem State.dropOp_cxlPorts (s : State) (i : Nat) : (s.dropOp i).cxlPorts = s.cxlPorts := rfl
@[simp] theorem State.dropOp_cxlDown (s : State) (i : Nat) : (s.dropOp i).cxlDown = s.cxlDown := rfl
@[simp] theorem State.dropOp_devResetting (s : State) (i : Nat) : (s.dropOp i).devResetting = s.devResetting := rfl
@[simp] theorem State.dropOp_peerOut (s : State) (i : Nat) : (s.dropOp i).peerOut = s.peerOut := rfl
@[simp] theorem State.dropOp_irqs (s : State) (i : Nat) : (s.dropOp i).irqs = s.irqs := rfl
@[simp] theorem State.dropOp_fabricOut (s : State) (i : Nat) : (s.dropOp i).fabricOut = s.fabricOut := rfl
@[simp] theorem State.dropOp_hostOut (s : State) (i : Nat) : (s.dropOp i).hostOut = s.hostOut := rfl

@[simp] theorem State.setTeam_agenda (s : State) (i : Nat) (x : Team) : (s.setTeam i x).agenda = s.agenda := rfl
@[simp] theorem State.setTeam_cur (s : State) (i : Nat) (x : Team) : (s.setTeam i x).cur = s.cur := rfl
@[simp] theorem State.setTeam_waited (s : State) (i : Nat) (x : Team) : (s.setTeam i x).waited = s.waited := rfl
@[simp] theorem State.setTeam_now (s : State) (i : Nat) (x : Team) : (s.setTeam i x).now = s.now := rfl
@[simp] theorem State.setTeam_dtimeOff (s : State) (i : Nat) (x : Team) : (s.setTeam i x).dtimeOff = s.dtimeOff := rfl
@[simp] theorem State.setTeam_fresh (s : State) (i : Nat) (x : Team) : (s.setTeam i x).fresh = s.fresh := rfl
@[simp] theorem State.setTeam_mem (s : State) (i : Nat) (x : Team) : (s.setTeam i x).mem = s.mem := rfl
@[simp] theorem State.setTeam_late (s : State) (i : Nat) (x : Team) : (s.setTeam i x).late = s.late := rfl
@[simp] theorem State.setTeam_poison (s : State) (i : Nat) (x : Team) : (s.setTeam i x).poison = s.poison := rfl
@[simp] theorem State.setTeam_weak (s : State) (i : Nat) (x : Team) : (s.setTeam i x).weak = s.weak := rfl
@[simp] theorem State.setTeam_groups (s : State) (i : Nat) (x : Team) : (s.setTeam i x).groups = s.groups := rfl
@[simp] theorem State.setTeam_grids (s : State) (i : Nat) (x : Team) : (s.setTeam i x).grids = s.grids := rfl
@[simp] theorem State.setTeam_sps (s : State) (i : Nat) (x : Team) : (s.setTeam i x).sps = s.sps := rfl
@[simp] theorem State.setTeam_cores (s : State) (i : Nat) (x : Team) : (s.setTeam i x).cores = s.cores := rfl
@[simp] theorem State.setTeam_clusters (s : State) (i : Nat) (x : Team) : (s.setTeam i x).clusters = s.clusters := rfl
@[simp] theorem State.setTeam_dies (s : State) (i : Nat) (x : Team) : (s.setTeam i x).dies = s.dies := rfl
@[simp] theorem State.setTeam_parts (s : State) (i : Nat) (x : Team) : (s.setTeam i x).parts = s.parts := rfl
@[simp] theorem State.setTeam_ops (s : State) (i : Nat) (x : Team) : (s.setTeam i x).ops = s.ops := rfl
@[simp] theorem State.setTeam_accs (s : State) (i : Nat) (x : Team) : (s.setTeam i x).accs = s.accs := rfl
@[simp] theorem State.setTeam_flits (s : State) (i : Nat) (x : Team) : (s.setTeam i x).flits = s.flits := rfl
@[simp] theorem State.setTeam_nodes (s : State) (i : Nat) (x : Team) : (s.setTeam i x).nodes = s.nodes := rfl
@[simp] theorem State.setTeam_mc (s : State) (i : Nat) (x : Team) : (s.setTeam i x).mc = s.mc := rfl
@[simp] theorem State.setTeam_hostLost (s : State) (i : Nat) (x : Team) : (s.setTeam i x).hostLost = s.hostLost := rfl
@[simp] theorem State.setTeam_cxlPorts (s : State) (i : Nat) (x : Team) : (s.setTeam i x).cxlPorts = s.cxlPorts := rfl
@[simp] theorem State.setTeam_cxlDown (s : State) (i : Nat) (x : Team) : (s.setTeam i x).cxlDown = s.cxlDown := rfl
@[simp] theorem State.setTeam_devResetting (s : State) (i : Nat) (x : Team) : (s.setTeam i x).devResetting = s.devResetting := rfl
@[simp] theorem State.setTeam_peerOut (s : State) (i : Nat) (x : Team) : (s.setTeam i x).peerOut = s.peerOut := rfl
@[simp] theorem State.setTeam_irqs (s : State) (i : Nat) (x : Team) : (s.setTeam i x).irqs = s.irqs := rfl
@[simp] theorem State.setTeam_fabricOut (s : State) (i : Nat) (x : Team) : (s.setTeam i x).fabricOut = s.fabricOut := rfl
@[simp] theorem State.setTeam_hostOut (s : State) (i : Nat) (x : Team) : (s.setTeam i x).hostOut = s.hostOut := rfl

@[simp] theorem State.modTeam_agenda (s : State) (i : Nat) (f : Team → Team) : (s.modTeam i f).agenda = s.agenda := rfl
@[simp] theorem State.modTeam_cur (s : State) (i : Nat) (f : Team → Team) : (s.modTeam i f).cur = s.cur := rfl
@[simp] theorem State.modTeam_waited (s : State) (i : Nat) (f : Team → Team) : (s.modTeam i f).waited = s.waited := rfl
@[simp] theorem State.modTeam_now (s : State) (i : Nat) (f : Team → Team) : (s.modTeam i f).now = s.now := rfl
@[simp] theorem State.modTeam_dtimeOff (s : State) (i : Nat) (f : Team → Team) : (s.modTeam i f).dtimeOff = s.dtimeOff := rfl
@[simp] theorem State.modTeam_fresh (s : State) (i : Nat) (f : Team → Team) : (s.modTeam i f).fresh = s.fresh := rfl
@[simp] theorem State.modTeam_mem (s : State) (i : Nat) (f : Team → Team) : (s.modTeam i f).mem = s.mem := rfl
@[simp] theorem State.modTeam_late (s : State) (i : Nat) (f : Team → Team) : (s.modTeam i f).late = s.late := rfl
@[simp] theorem State.modTeam_poison (s : State) (i : Nat) (f : Team → Team) : (s.modTeam i f).poison = s.poison := rfl
@[simp] theorem State.modTeam_weak (s : State) (i : Nat) (f : Team → Team) : (s.modTeam i f).weak = s.weak := rfl
@[simp] theorem State.modTeam_groups (s : State) (i : Nat) (f : Team → Team) : (s.modTeam i f).groups = s.groups := rfl
@[simp] theorem State.modTeam_grids (s : State) (i : Nat) (f : Team → Team) : (s.modTeam i f).grids = s.grids := rfl
@[simp] theorem State.modTeam_sps (s : State) (i : Nat) (f : Team → Team) : (s.modTeam i f).sps = s.sps := rfl
@[simp] theorem State.modTeam_cores (s : State) (i : Nat) (f : Team → Team) : (s.modTeam i f).cores = s.cores := rfl
@[simp] theorem State.modTeam_clusters (s : State) (i : Nat) (f : Team → Team) : (s.modTeam i f).clusters = s.clusters := rfl
@[simp] theorem State.modTeam_dies (s : State) (i : Nat) (f : Team → Team) : (s.modTeam i f).dies = s.dies := rfl
@[simp] theorem State.modTeam_parts (s : State) (i : Nat) (f : Team → Team) : (s.modTeam i f).parts = s.parts := rfl
@[simp] theorem State.modTeam_ops (s : State) (i : Nat) (f : Team → Team) : (s.modTeam i f).ops = s.ops := rfl
@[simp] theorem State.modTeam_accs (s : State) (i : Nat) (f : Team → Team) : (s.modTeam i f).accs = s.accs := rfl
@[simp] theorem State.modTeam_flits (s : State) (i : Nat) (f : Team → Team) : (s.modTeam i f).flits = s.flits := rfl
@[simp] theorem State.modTeam_nodes (s : State) (i : Nat) (f : Team → Team) : (s.modTeam i f).nodes = s.nodes := rfl
@[simp] theorem State.modTeam_mc (s : State) (i : Nat) (f : Team → Team) : (s.modTeam i f).mc = s.mc := rfl
@[simp] theorem State.modTeam_hostLost (s : State) (i : Nat) (f : Team → Team) : (s.modTeam i f).hostLost = s.hostLost := rfl
@[simp] theorem State.modTeam_cxlPorts (s : State) (i : Nat) (f : Team → Team) : (s.modTeam i f).cxlPorts = s.cxlPorts := rfl
@[simp] theorem State.modTeam_cxlDown (s : State) (i : Nat) (f : Team → Team) : (s.modTeam i f).cxlDown = s.cxlDown := rfl
@[simp] theorem State.modTeam_devResetting (s : State) (i : Nat) (f : Team → Team) : (s.modTeam i f).devResetting = s.devResetting := rfl
@[simp] theorem State.modTeam_peerOut (s : State) (i : Nat) (f : Team → Team) : (s.modTeam i f).peerOut = s.peerOut := rfl
@[simp] theorem State.modTeam_irqs (s : State) (i : Nat) (f : Team → Team) : (s.modTeam i f).irqs = s.irqs := rfl
@[simp] theorem State.modTeam_fabricOut (s : State) (i : Nat) (f : Team → Team) : (s.modTeam i f).fabricOut = s.fabricOut := rfl
@[simp] theorem State.modTeam_hostOut (s : State) (i : Nat) (f : Team → Team) : (s.modTeam i f).hostOut = s.hostOut := rfl

@[simp] theorem State.setGrid_agenda (s : State) (i : Nat) (x : Grid) : (s.setGrid i x).agenda = s.agenda := rfl
@[simp] theorem State.setGrid_cur (s : State) (i : Nat) (x : Grid) : (s.setGrid i x).cur = s.cur := rfl
@[simp] theorem State.setGrid_waited (s : State) (i : Nat) (x : Grid) : (s.setGrid i x).waited = s.waited := rfl
@[simp] theorem State.setGrid_now (s : State) (i : Nat) (x : Grid) : (s.setGrid i x).now = s.now := rfl
@[simp] theorem State.setGrid_dtimeOff (s : State) (i : Nat) (x : Grid) : (s.setGrid i x).dtimeOff = s.dtimeOff := rfl
@[simp] theorem State.setGrid_fresh (s : State) (i : Nat) (x : Grid) : (s.setGrid i x).fresh = s.fresh := rfl
@[simp] theorem State.setGrid_mem (s : State) (i : Nat) (x : Grid) : (s.setGrid i x).mem = s.mem := rfl
@[simp] theorem State.setGrid_late (s : State) (i : Nat) (x : Grid) : (s.setGrid i x).late = s.late := rfl
@[simp] theorem State.setGrid_poison (s : State) (i : Nat) (x : Grid) : (s.setGrid i x).poison = s.poison := rfl
@[simp] theorem State.setGrid_weak (s : State) (i : Nat) (x : Grid) : (s.setGrid i x).weak = s.weak := rfl
@[simp] theorem State.setGrid_groups (s : State) (i : Nat) (x : Grid) : (s.setGrid i x).groups = s.groups := rfl
@[simp] theorem State.setGrid_teams (s : State) (i : Nat) (x : Grid) : (s.setGrid i x).teams = s.teams := rfl
@[simp] theorem State.setGrid_sps (s : State) (i : Nat) (x : Grid) : (s.setGrid i x).sps = s.sps := rfl
@[simp] theorem State.setGrid_cores (s : State) (i : Nat) (x : Grid) : (s.setGrid i x).cores = s.cores := rfl
@[simp] theorem State.setGrid_clusters (s : State) (i : Nat) (x : Grid) : (s.setGrid i x).clusters = s.clusters := rfl
@[simp] theorem State.setGrid_dies (s : State) (i : Nat) (x : Grid) : (s.setGrid i x).dies = s.dies := rfl
@[simp] theorem State.setGrid_parts (s : State) (i : Nat) (x : Grid) : (s.setGrid i x).parts = s.parts := rfl
@[simp] theorem State.setGrid_ops (s : State) (i : Nat) (x : Grid) : (s.setGrid i x).ops = s.ops := rfl
@[simp] theorem State.setGrid_accs (s : State) (i : Nat) (x : Grid) : (s.setGrid i x).accs = s.accs := rfl
@[simp] theorem State.setGrid_flits (s : State) (i : Nat) (x : Grid) : (s.setGrid i x).flits = s.flits := rfl
@[simp] theorem State.setGrid_nodes (s : State) (i : Nat) (x : Grid) : (s.setGrid i x).nodes = s.nodes := rfl
@[simp] theorem State.setGrid_mc (s : State) (i : Nat) (x : Grid) : (s.setGrid i x).mc = s.mc := rfl
@[simp] theorem State.setGrid_hostLost (s : State) (i : Nat) (x : Grid) : (s.setGrid i x).hostLost = s.hostLost := rfl
@[simp] theorem State.setGrid_cxlPorts (s : State) (i : Nat) (x : Grid) : (s.setGrid i x).cxlPorts = s.cxlPorts := rfl
@[simp] theorem State.setGrid_cxlDown (s : State) (i : Nat) (x : Grid) : (s.setGrid i x).cxlDown = s.cxlDown := rfl
@[simp] theorem State.setGrid_devResetting (s : State) (i : Nat) (x : Grid) : (s.setGrid i x).devResetting = s.devResetting := rfl
@[simp] theorem State.setGrid_peerOut (s : State) (i : Nat) (x : Grid) : (s.setGrid i x).peerOut = s.peerOut := rfl
@[simp] theorem State.setGrid_irqs (s : State) (i : Nat) (x : Grid) : (s.setGrid i x).irqs = s.irqs := rfl
@[simp] theorem State.setGrid_fabricOut (s : State) (i : Nat) (x : Grid) : (s.setGrid i x).fabricOut = s.fabricOut := rfl
@[simp] theorem State.setGrid_hostOut (s : State) (i : Nat) (x : Grid) : (s.setGrid i x).hostOut = s.hostOut := rfl

@[simp] theorem State.modGrid_agenda (s : State) (i : Nat) (f : Grid → Grid) : (s.modGrid i f).agenda = s.agenda := rfl
@[simp] theorem State.modGrid_cur (s : State) (i : Nat) (f : Grid → Grid) : (s.modGrid i f).cur = s.cur := rfl
@[simp] theorem State.modGrid_waited (s : State) (i : Nat) (f : Grid → Grid) : (s.modGrid i f).waited = s.waited := rfl
@[simp] theorem State.modGrid_now (s : State) (i : Nat) (f : Grid → Grid) : (s.modGrid i f).now = s.now := rfl
@[simp] theorem State.modGrid_dtimeOff (s : State) (i : Nat) (f : Grid → Grid) : (s.modGrid i f).dtimeOff = s.dtimeOff := rfl
@[simp] theorem State.modGrid_fresh (s : State) (i : Nat) (f : Grid → Grid) : (s.modGrid i f).fresh = s.fresh := rfl
@[simp] theorem State.modGrid_mem (s : State) (i : Nat) (f : Grid → Grid) : (s.modGrid i f).mem = s.mem := rfl
@[simp] theorem State.modGrid_late (s : State) (i : Nat) (f : Grid → Grid) : (s.modGrid i f).late = s.late := rfl
@[simp] theorem State.modGrid_poison (s : State) (i : Nat) (f : Grid → Grid) : (s.modGrid i f).poison = s.poison := rfl
@[simp] theorem State.modGrid_weak (s : State) (i : Nat) (f : Grid → Grid) : (s.modGrid i f).weak = s.weak := rfl
@[simp] theorem State.modGrid_groups (s : State) (i : Nat) (f : Grid → Grid) : (s.modGrid i f).groups = s.groups := rfl
@[simp] theorem State.modGrid_teams (s : State) (i : Nat) (f : Grid → Grid) : (s.modGrid i f).teams = s.teams := rfl
@[simp] theorem State.modGrid_sps (s : State) (i : Nat) (f : Grid → Grid) : (s.modGrid i f).sps = s.sps := rfl
@[simp] theorem State.modGrid_cores (s : State) (i : Nat) (f : Grid → Grid) : (s.modGrid i f).cores = s.cores := rfl
@[simp] theorem State.modGrid_clusters (s : State) (i : Nat) (f : Grid → Grid) : (s.modGrid i f).clusters = s.clusters := rfl
@[simp] theorem State.modGrid_dies (s : State) (i : Nat) (f : Grid → Grid) : (s.modGrid i f).dies = s.dies := rfl
@[simp] theorem State.modGrid_parts (s : State) (i : Nat) (f : Grid → Grid) : (s.modGrid i f).parts = s.parts := rfl
@[simp] theorem State.modGrid_ops (s : State) (i : Nat) (f : Grid → Grid) : (s.modGrid i f).ops = s.ops := rfl
@[simp] theorem State.modGrid_accs (s : State) (i : Nat) (f : Grid → Grid) : (s.modGrid i f).accs = s.accs := rfl
@[simp] theorem State.modGrid_flits (s : State) (i : Nat) (f : Grid → Grid) : (s.modGrid i f).flits = s.flits := rfl
@[simp] theorem State.modGrid_nodes (s : State) (i : Nat) (f : Grid → Grid) : (s.modGrid i f).nodes = s.nodes := rfl
@[simp] theorem State.modGrid_mc (s : State) (i : Nat) (f : Grid → Grid) : (s.modGrid i f).mc = s.mc := rfl
@[simp] theorem State.modGrid_hostLost (s : State) (i : Nat) (f : Grid → Grid) : (s.modGrid i f).hostLost = s.hostLost := rfl
@[simp] theorem State.modGrid_cxlPorts (s : State) (i : Nat) (f : Grid → Grid) : (s.modGrid i f).cxlPorts = s.cxlPorts := rfl
@[simp] theorem State.modGrid_cxlDown (s : State) (i : Nat) (f : Grid → Grid) : (s.modGrid i f).cxlDown = s.cxlDown := rfl
@[simp] theorem State.modGrid_devResetting (s : State) (i : Nat) (f : Grid → Grid) : (s.modGrid i f).devResetting = s.devResetting := rfl
@[simp] theorem State.modGrid_peerOut (s : State) (i : Nat) (f : Grid → Grid) : (s.modGrid i f).peerOut = s.peerOut := rfl
@[simp] theorem State.modGrid_irqs (s : State) (i : Nat) (f : Grid → Grid) : (s.modGrid i f).irqs = s.irqs := rfl
@[simp] theorem State.modGrid_fabricOut (s : State) (i : Nat) (f : Grid → Grid) : (s.modGrid i f).fabricOut = s.fabricOut := rfl
@[simp] theorem State.modGrid_hostOut (s : State) (i : Nat) (f : Grid → Grid) : (s.modGrid i f).hostOut = s.hostOut := rfl

@[simp] theorem State.takeFresh_agenda (s : State) (n : Nat) : (s.takeFresh n).agenda = s.agenda := rfl
@[simp] theorem State.takeFresh_cur (s : State) (n : Nat) : (s.takeFresh n).cur = s.cur := rfl
@[simp] theorem State.takeFresh_waited (s : State) (n : Nat) : (s.takeFresh n).waited = s.waited := rfl
@[simp] theorem State.takeFresh_now (s : State) (n : Nat) : (s.takeFresh n).now = s.now := rfl
@[simp] theorem State.takeFresh_dtimeOff (s : State) (n : Nat) : (s.takeFresh n).dtimeOff = s.dtimeOff := rfl
@[simp] theorem State.takeFresh_mem (s : State) (n : Nat) : (s.takeFresh n).mem = s.mem := rfl
@[simp] theorem State.takeFresh_late (s : State) (n : Nat) : (s.takeFresh n).late = s.late := rfl
@[simp] theorem State.takeFresh_poison (s : State) (n : Nat) : (s.takeFresh n).poison = s.poison := rfl
@[simp] theorem State.takeFresh_weak (s : State) (n : Nat) : (s.takeFresh n).weak = s.weak := rfl
@[simp] theorem State.takeFresh_groups (s : State) (n : Nat) : (s.takeFresh n).groups = s.groups := rfl
@[simp] theorem State.takeFresh_teams (s : State) (n : Nat) : (s.takeFresh n).teams = s.teams := rfl
@[simp] theorem State.takeFresh_grids (s : State) (n : Nat) : (s.takeFresh n).grids = s.grids := rfl
@[simp] theorem State.takeFresh_sps (s : State) (n : Nat) : (s.takeFresh n).sps = s.sps := rfl
@[simp] theorem State.takeFresh_cores (s : State) (n : Nat) : (s.takeFresh n).cores = s.cores := rfl
@[simp] theorem State.takeFresh_clusters (s : State) (n : Nat) : (s.takeFresh n).clusters = s.clusters := rfl
@[simp] theorem State.takeFresh_dies (s : State) (n : Nat) : (s.takeFresh n).dies = s.dies := rfl
@[simp] theorem State.takeFresh_parts (s : State) (n : Nat) : (s.takeFresh n).parts = s.parts := rfl
@[simp] theorem State.takeFresh_ops (s : State) (n : Nat) : (s.takeFresh n).ops = s.ops := rfl
@[simp] theorem State.takeFresh_accs (s : State) (n : Nat) : (s.takeFresh n).accs = s.accs := rfl
@[simp] theorem State.takeFresh_flits (s : State) (n : Nat) : (s.takeFresh n).flits = s.flits := rfl
@[simp] theorem State.takeFresh_nodes (s : State) (n : Nat) : (s.takeFresh n).nodes = s.nodes := rfl
@[simp] theorem State.takeFresh_mc (s : State) (n : Nat) : (s.takeFresh n).mc = s.mc := rfl
@[simp] theorem State.takeFresh_hostLost (s : State) (n : Nat) : (s.takeFresh n).hostLost = s.hostLost := rfl
@[simp] theorem State.takeFresh_cxlPorts (s : State) (n : Nat) : (s.takeFresh n).cxlPorts = s.cxlPorts := rfl
@[simp] theorem State.takeFresh_cxlDown (s : State) (n : Nat) : (s.takeFresh n).cxlDown = s.cxlDown := rfl
@[simp] theorem State.takeFresh_devResetting (s : State) (n : Nat) : (s.takeFresh n).devResetting = s.devResetting := rfl
@[simp] theorem State.takeFresh_peerOut (s : State) (n : Nat) : (s.takeFresh n).peerOut = s.peerOut := rfl
@[simp] theorem State.takeFresh_irqs (s : State) (n : Nat) : (s.takeFresh n).irqs = s.irqs := rfl
@[simp] theorem State.takeFresh_fabricOut (s : State) (n : Nat) : (s.takeFresh n).fabricOut = s.fabricOut := rfl
@[simp] theorem State.takeFresh_hostOut (s : State) (n : Nat) : (s.takeFresh n).hostOut = s.hostOut := rfl

@[simp] theorem State.atCost_agenda (s : State) (n : Nat) : (s.atCost n).agenda = s.agenda := rfl
@[simp] theorem State.atCost_waited (s : State) (n : Nat) : (s.atCost n).waited = s.waited := rfl
@[simp] theorem State.atCost_now (s : State) (n : Nat) : (s.atCost n).now = s.now := rfl
@[simp] theorem State.atCost_dtimeOff (s : State) (n : Nat) : (s.atCost n).dtimeOff = s.dtimeOff := rfl
@[simp] theorem State.atCost_fresh (s : State) (n : Nat) : (s.atCost n).fresh = s.fresh := rfl
@[simp] theorem State.atCost_mem (s : State) (n : Nat) : (s.atCost n).mem = s.mem := rfl
@[simp] theorem State.atCost_late (s : State) (n : Nat) : (s.atCost n).late = s.late := rfl
@[simp] theorem State.atCost_poison (s : State) (n : Nat) : (s.atCost n).poison = s.poison := rfl
@[simp] theorem State.atCost_weak (s : State) (n : Nat) : (s.atCost n).weak = s.weak := rfl
@[simp] theorem State.atCost_groups (s : State) (n : Nat) : (s.atCost n).groups = s.groups := rfl
@[simp] theorem State.atCost_teams (s : State) (n : Nat) : (s.atCost n).teams = s.teams := rfl
@[simp] theorem State.atCost_grids (s : State) (n : Nat) : (s.atCost n).grids = s.grids := rfl
@[simp] theorem State.atCost_sps (s : State) (n : Nat) : (s.atCost n).sps = s.sps := rfl
@[simp] theorem State.atCost_cores (s : State) (n : Nat) : (s.atCost n).cores = s.cores := rfl
@[simp] theorem State.atCost_clusters (s : State) (n : Nat) : (s.atCost n).clusters = s.clusters := rfl
@[simp] theorem State.atCost_dies (s : State) (n : Nat) : (s.atCost n).dies = s.dies := rfl
@[simp] theorem State.atCost_parts (s : State) (n : Nat) : (s.atCost n).parts = s.parts := rfl
@[simp] theorem State.atCost_ops (s : State) (n : Nat) : (s.atCost n).ops = s.ops := rfl
@[simp] theorem State.atCost_accs (s : State) (n : Nat) : (s.atCost n).accs = s.accs := rfl
@[simp] theorem State.atCost_flits (s : State) (n : Nat) : (s.atCost n).flits = s.flits := rfl
@[simp] theorem State.atCost_nodes (s : State) (n : Nat) : (s.atCost n).nodes = s.nodes := rfl
@[simp] theorem State.atCost_mc (s : State) (n : Nat) : (s.atCost n).mc = s.mc := rfl
@[simp] theorem State.atCost_hostLost (s : State) (n : Nat) : (s.atCost n).hostLost = s.hostLost := rfl
@[simp] theorem State.atCost_cxlPorts (s : State) (n : Nat) : (s.atCost n).cxlPorts = s.cxlPorts := rfl
@[simp] theorem State.atCost_cxlDown (s : State) (n : Nat) : (s.atCost n).cxlDown = s.cxlDown := rfl
@[simp] theorem State.atCost_devResetting (s : State) (n : Nat) : (s.atCost n).devResetting = s.devResetting := rfl
@[simp] theorem State.atCost_peerOut (s : State) (n : Nat) : (s.atCost n).peerOut = s.peerOut := rfl
@[simp] theorem State.atCost_irqs (s : State) (n : Nat) : (s.atCost n).irqs = s.irqs := rfl
@[simp] theorem State.atCost_fabricOut (s : State) (n : Nat) : (s.atCost n).fabricOut = s.fabricOut := rfl
@[simp] theorem State.atCost_hostOut (s : State) (n : Nat) : (s.atCost n).hostOut = s.hostOut := rfl

@[simp] theorem State.atCost_cur_gid (s : State) (n : Nat) : (s.atCost n).cur.gid = s.cur.gid := rfl
@[simp] theorem State.atCost_cur_cls (s : State) (n : Nat) : (s.atCost n).cur.cls = s.cur.cls := rfl
@[simp] theorem State.atCost_cur_pc (s : State) (n : Nat) : (s.atCost n).cur.pc = s.cur.pc := rfl
@[simp] theorem State.atCost_cur_mask (s : State) (n : Nat) : (s.atCost n).cur.mask = s.cur.mask := rfl
@[simp] theorem State.atCost_cur_len (s : State) (n : Nat) : (s.atCost n).cur.len = s.cur.len := rfl
@[simp] theorem State.atCost_cur_rep (s : State) (n : Nat) : (s.atCost n).cur.rep = s.cur.rep := rfl
@[simp] theorem State.atCost_cur_defer (s : State) (n : Nat) : (s.atCost n).cur.defer = s.cur.defer := rfl
@[simp] theorem State.atCost_cur_others (s : State) (n : Nat) : (s.atCost n).cur.others = s.cur.others := rfl
@[simp] theorem State.atCost_cur_waiters (s : State) (n : Nat) : (s.atCost n).cur.waiters = s.cur.waiters := rfl
@[simp] theorem State.atCost_cost (s : State) (n : Nat) : (s.atCost n).cur.cost = n := rfl

end Sys2Proof.Machine
end

