-- ==== Sys2Proof/Laws/Issue.lean ====
section
/-! SUPPORT. One issue: what the checks decide, and that an instruction whose operands are ready has its effect. -/

namespace Sys2Proof.Machine

/-- The checks pass: the issue claims its flit and takes place (02 R59). -/
theorem State.check_ready (s : State) (g : Group) (q : Need') (hl : q.legal.ok s.cur.cls = true) (hp : q.priv = false)
    (hn : q.names.all g.has = true) (h : Operands s g q.reads (q.dests ++ q.late)) :
    s.check g q = .go (g.claim (q.srcs.map (·.reg))) := by
  obtain ⟨ha, hf, hr, ht, -⟩ := h
  have hin : ∀ x ∈ q.srcs, x.reg ∈ q.reads := fun x hx => List.mem_append_left _ (List.mem_map_of_mem hx)
  have hsub : ∀ r ∈ q.srcs.map (·.reg), r ∈ q.reads := fun r hr' => List.mem_append_left _ hr'
  have hfull : ∀ x ∈ q.srcs, g.isEmpty x.reg = false := fun x hx => hf x.reg (List.mem_append_left _ (hin x hx))
  have hq : ∀ x ∈ q.srcs, g.srcEmpty x.reg = false := by
    intro x hx
    unfold Group.srcEmpty
    split
    · rename_i h6
      by_cases hk : g.kind = .debug
      · simp [hk]
      · have := hr (h6 ▸ hin x hx) hk
        cases hx2 : g.rxq with
        | nil => exact absurd hx2 this
        | cons a r => simp
    · exact hfull x hx
  have h1 : ((q.names ++ q.srcs.map (·.reg) ++ q.dests ++ q.late).all g.has) = true := by
    rw [List.append_assoc, List.append_assoc, List.all_append, hn, Bool.true_and, List.all_eq_true]
    intro r hr'
    rcases List.mem_append.mp hr' with h' | h'
    · exact ha r (List.mem_append_left _ (hsub r h'))
    · exact ha r (List.mem_append_right _ h')
  have h2 : (q.srcs.any fun x => x.e && g.srcEmpty x.reg) = false := by
    rw [List.any_eq_false]; intro x hx; simp [hq x hx]
  have h3 : q.dests.any g.isEmpty = false := by
    rw [List.any_eq_false]; intro r hr'; simp [hf r (by simp [hr'])]
  have h4 : q.late.any g.isEmpty = false := by
    rw [List.any_eq_false]; intro r hr'; simp [hf r (by simp [hr'])]
  have h5 : (q.srcs.any fun x => !(x.reg == .s 62) && g.srcEmpty x.reg) = false := by
    rw [List.any_eq_false]; intro x hx; simp [hq x hx]
  unfold State.check
  simp only [hl, hp, h1, h2, h3, h4, h5, Bool.not_true, Bool.false_eq_true, if_false, Bool.or_false]
  have h6 : (q.dests.contains (Reg.s 61) && (g.kind != .debug) && decide (4 ≤ s.outstanding g.uid)) = false := by
    by_cases hd : Reg.s 61 ∈ q.dests
    · by_cases hk : g.kind = .debug
      · simp [hk]
      · have := (ht (by simp [hd]) hk).1
        have h' : ¬ 4 ≤ s.outstanding g.uid := by omega
        simp [h']
    · simp [hd]
  have h7 : (q.dests.contains (Reg.s 61) && (g.kind != .debug) && (s.msgTarget g.part g.msgDst).isNone) = false := by
    by_cases hd : Reg.s 61 ∈ q.dests
    · by_cases hk : g.kind = .debug
      · simp [hk]
      · have := (ht (by simp [hd]) hk).2
        cases hm : s.msgTarget g.part g.msgDst with
        | none => simp [hm] at this
        | some a => simp
    · simp [hd]
  simp only [h6, h7, Bool.false_eq_true, if_false]
  by_cases hs : ∃ x ∈ q.srcs, x.reg = Reg.s 62
  · by_cases hk : g.kind = .debug
    · simp [hk, Group.claim]
    · have hm : Reg.s 62 ∈ q.srcs.map (·.reg) := by simpa using hs
      have := hr (hsub _ hm) hk
      have ha' : (q.srcs.any fun x => x.reg == Reg.s 62) = true := by simpa using hs
      simp only [ha', Bool.true_and, bne_iff_ne, ne_eq, hk, not_false_iff, if_true]
      cases hx2 : g.rxq with
      | nil => exact absurd hx2 this
      | cons a r => simp [Group.claim, hm, hk, hx2]
  · have ha' : (q.srcs.any fun x => x.reg == Reg.s 62) = false := by
      rw [List.any_eq_false]; intro x hx; simp; intro h'; exact hs ⟨x, hx, h'⟩
    have hm : Reg.s 62 ∉ q.srcs.map (·.reg) := by simpa using hs
    simp [ha', Group.claim, hm]

/-- An instruction whose operands are ready has its effect, on a group that has claimed its flit and whose reads have acquired. -/
theorem State.issue_ready (s : State) (g : Group) (q : Need') (cost : Group → Nat) (effect : State → Group → Out)
    (h : Ready s g q.reads (q.dests ++ q.late)) (hl : q.legal.ok s.cur.cls = true)
    (hp : q.priv = false) (hn : q.names.all g.has = true := by rfl) (hw : g.readsBad (q.lanes s.cur.mask) q.reads = false) :
    s.issue q cost effect = effect (s.atCost (cost g)) (g.taken q s.cur.mask) := by
  unfold State.issue
  rw [h.fresh]
  simp only [h.group, State.check_ready s g q hl hp hn h.operands, hw, Bool.false_eq_true, if_false]
  rfl

/-- An issue that names no register has its effect. -/
theorem State.issue_plain (s : State) (g : Group) (cost : Group → Nat) (effect : State → Group → Out)
    (hd : s.cur.defer = none) (hg : s.curGroup? = some g) :
    s.issue {} cost effect = effect (s.atCost (cost g)) (g.taken {} s.cur.mask) :=
  s.issue_ready g {} cost effect ⟨hd, hg, ⟨by simp [Need'.reads], by simp [Need'.reads], by simp [Need'.reads], by simp,
    by simp [Group.readsBad, Need'.reads]⟩⟩ rfl rfl rfl (by simp [Group.readsBad, Need'.reads])

end Sys2Proof.Machine
end

