-- ==== Sys2Proof/Laws/Regs.lean ====
section
/-! SUPPORT. Registers read after they are written, and operations on a group that leave every register alone. -/

namespace Sys2Proof.Machine

/-! Lanes of a mask. -/

theorem mem_lanesOf (m : Mask) (j : Nat) : j ∈ lanesOf m ↔ j < 64 ∧ maskBit m j = true := by simp [lanesOf]

/-- Bit j of the mask of lanes that satisfy a test. -/
theorem maskBit_maskOf (n : Nat) (p : Nat → Bool) (j : Nat) (hj : j < 64) :
    maskBit (maskOf n p) j = (decide (j < n) && p j) := by
  have H : ∀ l : List Nat, (l.foldr (fun i (m : Mask) => if p i then m ||| ((1 : Mask) <<< i) else m) 0).getLsbD j =
      (decide (j ∈ l) && p j) := by
    intro l
    induction l with
    | nil => simp
    | cons a r ih =>
      simp only [List.foldr_cons, List.mem_cons]
      have hb : ((1 : Mask) <<< a).getLsbD j = decide (j = a) := by
        rw [BitVec.getLsbD_shiftLeft]
        by_cases h : j = a
        · subst h; simp [hj]
        · by_cases h1 : j < a
          · simp [h1, h]
          · have : j - a ≠ 0 := by omega
            simp [hj, h, h1, this, BitVec.getLsbD_one]
      by_cases hp : p a
      · simp only [hp, if_true, BitVec.getLsbD_or, ih, hb]
        by_cases h : j = a
        · subst h; simp [hp]
        · simp [h]
      · simp only [hp, Bool.false_eq_true, if_false, ih]
        by_cases h : j = a
        · subst h; simp [hp]
        · simp [h]
  simpa [maskBit, maskOf] using H (List.range n)

/-! Operations that leave every register alone. -/

/-- Two groups with the same registers, full/empty bits, control and convergence registers, allotment and messages. -/
structure SameData (g h : Group) : Prop where
  v : h.v = g.v
  s : h.s = g.s
  k : h.k = g.k
  t : h.t = g.t
  crs : h.crs = g.crs
  conv : h.conv = g.conv
  empty : h.empty = g.empty
  uid : h.uid = g.uid
  part : h.part = g.part
  kind : h.kind = g.kind
  width : h.width = g.width
  nv : h.nv = g.nv
  ns : h.ns = g.ns
  nt : h.nt = g.nt
  msgDst : h.msgDst = g.msgDst
  msgSrc : h.msgSrc = g.msgSrc
  rx : h.rx = g.rx
  rxq : h.rxq = g.rxq

theorem SameData.rfl' (g : Group) : SameData g g := by constructor <;> rfl

theorem SameData.trans {a b c : Group} (h : SameData a b) (k : SameData b c) : SameData a c := by
  constructor
  all_goals first
    | exact k.v.trans h.v | exact k.s.trans h.s | exact k.k.trans h.k | exact k.t.trans h.t | exact k.crs.trans h.crs
    | exact k.conv.trans h.conv | exact k.empty.trans h.empty | exact k.uid.trans h.uid | exact k.part.trans h.part
    | exact k.kind.trans h.kind | exact k.width.trans h.width | exact k.nv.trans h.nv | exact k.ns.trans h.ns
    | exact k.nt.trans h.nt | exact k.msgDst.trans h.msgDst | exact k.msgSrc.trans h.msgSrc | exact k.rx.trans h.rx
    | exact k.rxq.trans h.rxq

theorem Group.modLanes_same (g : Group) (f : Nat → Lane → Lane) : SameData g (g.modLanes f) := by constructor <;> rfl
theorem Group.aged_same (g old : Group) (m : Mask) : SameData g (g.aged old m) := g.modLanes_same _
theorem Group.moveTo_same (g : Group) (m : Mask) (f : Nat → DWord) : SameData g (g.moveTo m f) := g.modLanes_same _
theorem Group.onMask_same (g : Group) (m : Mask) (f : Lane → Lane) : SameData g (g.onMask m f) := g.modLanes_same _
theorem Group.setMeet_same (g : Group) (m : Mask) (f : Nat → DWord) : SameData g (g.setMeet m f) := g.modLanes_same _
theorem Group.holdAt_same (g : Group) (m : Mask) (h : Hold) : SameData g (g.holdAt m h) := g.modLanes_same _
theorem Group.settle_same (g : Group) : SameData g g.settle := by constructor <;> rfl
theorem Group.issuedAt_same (g : Group) (pc : DWord) : SameData g (g.issuedAt pc) := by constructor <;> rfl
theorem Group.dropRep_same (g : Group) (m : Mask) : SameData g (g.dropRep m) := by constructor <;> rfl

theorem Group.withRep_same (g : Group) (r : Option Rep) : SameData g { g with rep := r } := by constructor <;> rfl

theorem Group.splitRep_same (g : Group) (r : Rep) (m : Mask) : SameData g (g.splitRep r m) := by
  unfold Group.splitRep
  dsimp only
  split
  · split
    · exact g.withRep_same _
    · exact (g.withRep_same _).trans (Group.onMask_same _ _ _)
  · exact (g.withRep_same _).trans (Group.moveTo_same _ _ _)

theorem Group.stepLanes_same (g : Group) (c : Cur) (m : Mask) (x : Goes) : SameData g (g.stepLanes c m x) := by
  unfold Group.stepLanes
  split
  · exact .rfl' g
  · split
    · split
      · exact .rfl' g
      · exact g.splitRep_same _ _
    · exact g.moveTo_same _ _

theorem Group.park_same (g : Group) (x : Parked) (n : Nat) : SameData g (g.park x n) := by
  have h := g.onMask_same x.mask fun l => { l with parked := true, hold := none }
  constructor
  all_goals first
    | exact h.v | exact h.s | exact h.k | exact h.t | exact h.crs | exact h.conv | exact h.empty | exact h.uid | exact h.part
    | exact h.kind | exact h.width | exact h.nv | exact h.ns | exact h.nt | exact h.msgDst | exact h.msgSrc | exact h.rx
    | exact h.rxq

theorem Group.rest_same (g : Group) (c : Cls) (n : Nat) (y : Option (Nat × List Nat)) : SameData g (g.rest c n y) := by
  unfold Group.rest
  split <;> constructor <;> rfl

/-! Lanes. -/

theorem mapLanes_get (f : Nat → Lane → Lane) (k : Nat) (ls : List Lane) (j : Nat) :
    (mapLanes f k ls)[j]? = (ls[j]?).map (f (k + j)) := by
  induction ls generalizing k j with
  | nil => simp [mapLanes]
  | cons a r ih =>
    cases j with
    | zero => simp [mapLanes]
    | succ j => simp [mapLanes, ih, Nat.add_right_comm, Nat.add_assoc]

@[simp] theorem Group.length_modLanes (g : Group) (f : Nat → Lane → Lane) : (g.modLanes f).lanes.length = g.lanes.length := by
  have H : ∀ (ls : List Lane) k, (mapLanes f k ls).length = ls.length := by
    intro ls
    induction ls with
    | nil => intro k; rfl
    | cons a r ih => intro k; simp [mapLanes, ih]
  exact H g.lanes 0

/-- A lane after lanes are changed by number. -/
theorem Group.lane_modLanes (g : Group) (f : Nat → Lane → Lane) (j : Nat) (h : j < g.lanes.length) :
    (g.modLanes f).lane j = f j (g.lane j) := by
  unfold Group.lane Group.modLanes
  rw [mapLanes_get]
  simp [h]

/-- Two groups that differ in what their threads' later accesses follow, and in the marks of fills and of errors, alone. -/
structure SyncOnly (g h : Group) : Prop where
  data : SameData g h
  length : h.lanes.length = g.lanes.length
  lane : ∀ j, ∃ y, h.lane j = { g.lane j with sync := y }
  handling : h.handling = g.handling
  rep : h.rep = g.rep
  parked : h.parked = g.parked
  team : h.team = g.team
  gnum : h.gnum = g.gnum
  level : h.level = g.level
  zwaits : h.zwaits = g.zwaits
  enterAt : h.enterAt = g.enterAt

theorem SyncOnly.refl (g : Group) : SyncOnly g g := ⟨.rfl' g, rfl, fun _ => ⟨_, rfl⟩, rfl, rfl, rfl, rfl, rfl, rfl, rfl, rfl⟩

theorem SyncOnly.trans {a b c : Group} (h : SyncOnly a b) (k : SyncOnly b c) : SyncOnly a c where
  data := h.data.trans k.data
  length := k.length.trans h.length
  lane j := by
    obtain ⟨y, hy⟩ := h.lane j
    obtain ⟨z, hz⟩ := k.lane j
    exact ⟨z, by rw [hz, hy]⟩
  handling := k.handling.trans h.handling
  rep := k.rep.trans h.rep
  parked := k.parked.trans h.parked
  team := k.team.trans h.team
  gnum := k.gnum.trans h.gnum
  level := k.level.trans h.level
  zwaits := k.zwaits.trans h.zwaits
  enterAt := k.enterAt.trans h.enterAt

/-- Changing what the threads of a mask follow. -/
theorem Group.onMask_sync (g : Group) (m : Mask) (f : Lane → Lane) (h : ∀ l, ∃ y, f l = { l with sync := y }) :
    SyncOnly g (g.onMask m f) where
  data := g.onMask_same m f
  length := g.length_modLanes _
  lane j := by
    by_cases hj : j < g.lanes.length
    · rw [Group.onMask, Group.lane_modLanes _ _ _ hj]
      split
      · exact h _
      · exact ⟨_, rfl⟩
    · have h1 : (g.onMask m f).lane j = Lane.none := by
        unfold Group.lane
        rw [List.getElem?_eq_none (by rw [Group.onMask, Group.length_modLanes]; omega)]; rfl
      have h2 : g.lane j = Lane.none := by
        unfold Group.lane
        rw [List.getElem?_eq_none (by omega)]; rfl
      exact ⟨_, by rw [h1, h2]⟩
  handling := rfl
  rep := rfl
  parked := rfl
  team := rfl
  gnum := rfl
  level := rfl
  zwaits := rfl
  enterAt := rfl

/-- The marks of fills and of errors are no register. -/
theorem SyncOnly.marks {g h : Group} (k : SyncOnly g h) (a : List Acquire) (b : List (Reg × Nat)) :
    SyncOnly g { h with acquires := a, bad := b } where
  data := k.data.trans (by constructor <;> rfl)
  length := k.length
  lane := k.lane
  handling := k.handling
  rep := k.rep
  parked := k.parked
  team := k.team
  gnum := k.gnum
  level := k.level
  zwaits := k.zwaits
  enterAt := k.enterAt

/-- What an issue's reads do to its group. -/
theorem Group.reads_sync (g : Group) (m : Mask) (srcs writes : List Reg) (own : Bool) : SyncOnly g (g.reads m srcs writes own) := by
  have hf : ∀ (l : List Acquire) (g : Group), SyncOnly g (l.foldl (fun (g : Group) a => g.onMask (m &&& a.lanes) fun l => match a.op with
      | none => l.acquire allStreams
      | some op => l.sees op (2 ^ 64)) g) := by
    intro l
    induction l with
    | nil => exact SyncOnly.refl
    | cons a r ih =>
      intro g
      refine SyncOnly.trans (Group.onMask_sync _ _ _ fun l => ?_) (ih _)
      split <;> exact ⟨_, rfl⟩
  have h1 : SyncOnly g (if Reg.s 62 ∈ srcs ∧ g.kind ≠ .debug then g.onMask m fun l => l.acquire allStreams else g) := by
    split
    · exact Group.onMask_sync _ _ _ fun l => ⟨_, rfl⟩
    · exact .refl g
  exact (h1.trans (hf _ _)).marks _ _

/-! The end of an issue. -/

/-- What finishing an issue does to the state: the group and the scheduler partition's clocks, nothing else. -/
structure Finished (s t : State) (g h : Group) : Prop where
  data : SameData g h
  groups : t.groups = s.groups.set s.cur.gid h
  mem : t.mem = s.mem
  parts : t.parts = s.parts
  cores : t.cores = s.cores
  clusters : t.clusters = s.clusters
  dies : t.dies = s.dies
  teams : t.teams = s.teams
  grids : t.grids = s.grids
  nodes : t.nodes = s.nodes
  mc : t.mc = s.mc
  now : t.now = s.now
  late : t.late = s.late
  lines : t.poison = s.poison ∧ t.weak = s.weak
  accs : t.accs = s.accs
  ops : t.ops = s.ops
  flits : t.flits = s.flits
  fresh : t.fresh = s.fresh
  cur : t.cur = s.cur

theorem State.setGroup_modSp_finished (s : State) (g h : Group) (i : Nat) (f : Sp → Sp) (hd : SameData g h) :
    Finished s ((s.modSp i f).setGroup s.cur.gid h) g h :=
  ⟨hd, rfl, rfl, rfl, rfl, rfl, rfl, rfl, rfl, rfl, rfl, rfl, rfl, ⟨rfl, rfl⟩, rfl, rfl, rfl, rfl, rfl⟩

/-- Finishing an issue leaves the registers of the group as they were given. -/
theorem State.finish_spec (s : State) (g : Group) (m : Mask) (x : Goes) (cost : Nat) :
    ∃ h, Finished s (s.finish g m x cost) g h := by
  unfold State.finish
  dsimp only
  split
  · exact ⟨_, s.setGroup_modSp_finished g _ _ _ ((((g.aged_same _ _).trans (Group.issuedAt_same _ _)).trans
      (Group.stepLanes_same _ _ _ _)).trans (Group.settle_same _))⟩
  · exact ⟨_, s.setGroup_modSp_finished g _ _ _ (g.stepLanes_same _ _ _)⟩
  · split
    · exact ⟨_, s.setGroup_modSp_finished g _ _ _ (.rfl' g)⟩
    · exact ⟨_, s.setGroup_modSp_finished g _ _ _ (by constructor <;> rfl)⟩

/-! Registers after a write. -/

theorem SameRegs.of_data {g h : Group} (d : SameData g h) (dests : List Reg) (crs : List Nat) : SameRegs g h dests crs where
  v n j _ _ := by simp [Group.vr, d.v]
  s n _ := by rw [d.s]
  k n _ := by rw [d.k]
  t n w _ _ := by simp [Group.tw, d.t]
  cr n _ := by simp [Group.cr, d.crs]
  conv := d.conv
  allot := ⟨d.kind, d.width, d.nv, d.ns, d.nt⟩
  msgDst _ := d.msgDst
  rx := ⟨d.rx, d.msgSrc, d.rxq⟩
  full r _ := by rw [d.empty]

theorem SameRegs.trans {a b c : Group} {ds : List Reg} {cs : List Nat} (h : SameRegs a b ds cs) (k : SameRegs b c ds cs) :
    SameRegs a c ds cs where
  v n j x y := (k.v n j x y).trans (h.v n j x y)
  s n x := (k.s n x).trans (h.s n x)
  k n x := (k.k n x).trans (h.k n x)
  t n w x y := (k.t n w x y).trans (h.t n w x y)
  cr n x := (k.cr n x).trans (h.cr n x)
  conv := k.conv.trans h.conv
  allot := ⟨k.allot.1.trans h.allot.1, k.allot.2.1.trans h.allot.2.1, k.allot.2.2.1.trans h.allot.2.2.1,
    k.allot.2.2.2.1.trans h.allot.2.2.2.1, k.allot.2.2.2.2.trans h.allot.2.2.2.2⟩
  msgDst x := (k.msgDst x).trans (h.msgDst x)
  rx := ⟨k.rx.1.trans h.rx.1, k.rx.2.1.trans h.rx.2.1, k.rx.2.2.trans h.rx.2.2⟩
  full r x := (k.full r x).trans (h.full r x)

/-- A vector register written in the lanes of a mask reads the new value there and the old one elsewhere. -/
theorem Group.vr_writeV (g : Group) (n : Nat) (m : Mask) (f : Nat → Word) (j : Nat) (hj : j < 64) :
    (g.writeV n m f).vr n j = if maskBit m j then f j else g.vr n j := by
  unfold Group.writeV Group.vr
  dsimp only
  by_cases h : maskBit m j = true
  · rw [if_pos h]
    refine Store.get_setAll_map (lanesOf m) (fun j => n * 64 + j) f g.v j ((mem_lanesOf m j).2 ⟨hj, h⟩) ?_
    intro y _ he
    have : y = j := by omega
    rw [this]
  · rw [if_neg h, Store.get_setAll_other]
    simp only [List.map_map, List.mem_map, Function.comp, not_exists, not_and]
    intro a ha he
    have : a = j := by omega
    subst this
    exact h ((mem_lanesOf m a).1 ha).2

/-- Every other vector register reads as before. -/
theorem Group.vr_writeV_other (g : Group) (n k : Nat) (m : Mask) (f : Nat → Word) (j : Nat) (hj : j < 64) (hk : k ≠ n) :
    (g.writeV n m f).vr k j = g.vr k j := by
  unfold Group.writeV Group.vr
  dsimp only
  rw [Store.get_setAll_other]
  simp only [List.map_map, List.mem_map, Function.comp, not_exists, not_and]
  intro a ha he
  have := ((mem_lanesOf m a).1 ha).1
  omega

theorem Group.writeV_same (g : Group) (n : Nat) (m : Mask) (f : Nat → Word) (ds : List Reg) (cs : List Nat) (h : Reg.v n ∈ ds) :
    SameRegs g (g.writeV n m f) ds cs where
  v k j hk hj := g.vr_writeV_other n k m f j hj (by rintro rfl; exact hk h)
  s _ _ := rfl
  k _ _ := rfl
  t _ _ _ _ := rfl
  cr _ _ := rfl
  conv := rfl
  allot := ⟨rfl, rfl, rfl, rfl, rfl⟩
  msgDst _ := rfl
  rx := ⟨rfl, rfl, rfl⟩
  full _ _ := .rfl

theorem Group.setKr_same (g : Group) (n : Nat) (x : Mask) (ds : List Reg) (cs : List Nat) (h : Reg.k n ∈ ds) :
    SameRegs g (g.setKr n x) ds cs := by
  unfold Group.setKr
  split
  · exact .of_data (.rfl' g) _ _
  · constructor
    case k => intro i hi; exact Store.get_set_other _ _ _ _ (by rintro rfl; exact hi h)
    all_goals first | (intros; rfl) | exact ⟨rfl, rfl, rfl, rfl, rfl⟩ | exact ⟨rfl, rfl, rfl⟩

theorem Group.kr_setKr (g : Group) (n : Nat) (x : Mask) (h : n ≠ 0) : (g.setKr n x).k.get n = x := by
  simp [Group.setKr, h]

theorem Group.setCr_same (g : Group) (n : Nat) (x : Word) (ds : List Reg) (cs : List Nat) (h : n ∈ cs) :
    SameRegs g (g.setCr n x) ds cs := by
  constructor
  case cr => intro i hi; exact Store.get_set_other _ _ _ _ (by rintro rfl; exact hi h)
  all_goals first | (intros; rfl) | exact ⟨rfl, rfl, rfl, rfl, rfl⟩ | exact ⟨rfl, rfl, rfl⟩

@[simp] theorem Group.cr_setCr (g : Group) (n : Nat) (x : Word) : (g.setCr n x).cr n = x := by
  simp [Group.setCr, Group.cr]

theorem State.writeS_same (s : State) (gid : Nat) (g : Group) (n : Nat) (x : Word) (ds : List Reg) (cs : List Nat)
    (h : Reg.s n ∈ ds) : SameRegs g (s.writeS gid g n x) ds cs := by
  unfold State.writeS
  split
  · constructor
    case s => intro i hi; exact Store.get_set_other _ _ _ _ (by rintro rfl; exact hi h)
    all_goals first | (intros; rfl) | exact ⟨rfl, rfl, rfl, rfl, rfl⟩ | exact ⟨rfl, rfl, rfl⟩
  · split
    · exact .of_data (.rfl' g) _ _
    · split
      · rename_i h6
        constructor
        case msgDst => intro hn; exact absurd (h6 ▸ h) hn
        all_goals first | (intros; rfl) | exact ⟨rfl, rfl, rfl, rfl, rfl⟩ | exact ⟨rfl, rfl, rfl⟩
      · exact .of_data (.rfl' g) _ _

@[simp] theorem State.writeS_kind (s : State) (gid : Nat) (g : Group) (n : Nat) (x : Word) :
    (s.writeS gid g n x).kind = g.kind := by unfold State.writeS; split <;> [rfl; split <;> [rfl; split <;> rfl]]
@[simp] theorem State.writeS_part (s : State) (gid : Nat) (g : Group) (n : Nat) (x : Word) :
    (s.writeS gid g n x).part = g.part := by unfold State.writeS; split <;> [rfl; split <;> [rfl; split <;> rfl]]
@[simp] theorem State.writeS_uid (s : State) (gid : Nat) (g : Group) (n : Nat) (x : Word) :
    (s.writeS gid g n x).uid = g.uid := by unfold State.writeS; split <;> [rfl; split <;> [rfl; split <;> rfl]]

theorem State.writeS_get (s : State) (gid : Nat) (g : Group) (n : Nat) (x : Word) (h : n < 60) :
    (s.writeS gid g n x).s.get n = x := by simp [State.writeS, h]

theorem State.writeS_get_other (s : State) (gid : Nat) (g : Group) (n k : Nat) (x : Word) (h : k ≠ n) :
    (s.writeS gid g n x).s.get k = g.s.get k :=
  (s.writeS_same gid g n x [.s n] [] (by simp)).s k (by simpa using h)

theorem State.writeS_msgDst (s : State) (gid : Nat) (g : Group) (n : Nat) (x : Word) :
    (s.writeS gid g n x).msgDst = if n = 60 then (if g.kind = .debug then g.msgDst
      else if x.getLsbD 31 then s.addrOf g.part gid else x &&& 0x00FF033F) else g.msgDst := by
  unfold State.writeS
  by_cases h : n < 60
  · have : n ≠ 60 := by omega
    simp [h, this]
  · by_cases hk : g.kind = .debug
    · simp [h, hk]
    · by_cases h6 : n = 60
      · simp [h6, hk]
      · simp [h, hk, h6]

/-- Registers marked empty: nothing else of the group changes. -/
theorem Group.markEmpty_same (g : Group) (rs ds : List Reg) (cs : List Nat) (h : ∀ r ∈ rs, r ∈ ds) :
    SameRegs g (g.markEmpty rs) ds cs := by
  constructor
  case full =>
    intro r hr
    have : r ∉ rs := fun hn => hr (h r hn)
    simp [Group.markEmpty, this]
  all_goals first | (intros; rfl) | exact ⟨rfl, rfl, rfl, rfl, rfl⟩ | exact ⟨rfl, rfl, rfl⟩

/-- Registers marked full: nothing else of the group changes. -/
theorem Group.markFull_same (g : Group) (rs ds : List Reg) (cs : List Nat) (h : ∀ r ∈ rs, r ∈ ds) :
    SameRegs g (g.markFull rs) ds cs := by
  constructor
  case full =>
    intro r hr
    have : r ∉ rs := fun hn => hr (h r hn)
    simp [Group.markFull, this]
  all_goals first | (intros; rfl) | exact ⟨rfl, rfl, rfl, rfl, rfl⟩ | exact ⟨rfl, rfl, rfl⟩

theorem Group.full_markFull (g : Group) (rs : List Reg) (r : Reg) (h : r ∈ rs) : r ∉ (g.markFull rs).empty := by
  simp [Group.markFull, h]

theorem Group.setVr_same (g : Group) (n j : Nat) (x : Word) (hj : j < 64) (ds : List Reg) (cs : List Nat) (h : Reg.v n ∈ ds) :
    SameRegs g (g.setVr n j x) ds cs := by
  constructor
  case v =>
    intro k i hk hi
    refine Store.get_set_other _ _ _ _ ?_
    have : k ≠ n := by rintro rfl; exact hk h
    omega
  all_goals first | (intros; rfl) | exact ⟨rfl, rfl, rfl, rfl, rfl⟩ | exact ⟨rfl, rfl, rfl⟩

theorem Group.vr_setVr (g : Group) (n j k i : Nat) (x : Word) (hj : j < 64) (hi : i < 64) :
    (g.setVr n j x).vr k i = if k = n ∧ i = j then x else g.vr k i := by
  unfold Group.setVr Group.vr
  rw [Store.get_set]
  by_cases h : k = n ∧ i = j
  · rw [if_pos h, if_pos (by rw [h.1, h.2])]
  · rw [if_neg h, if_neg (by omega)]

theorem Group.setTw_same (g : Group) (n w : Nat) (x : Word) (hw : w < 1024) (ds : List Reg) (cs : List Nat) (h : Reg.t n ∈ ds) :
    SameRegs g (g.setTw n w x) ds cs := by
  constructor
  case t =>
    intro k i hk hi
    refine Store.get_set_other _ _ _ _ ?_
    have : k ≠ n := by rintro rfl; exact hk h
    omega
  all_goals first | (intros; rfl) | exact ⟨rfl, rfl, rfl, rfl, rfl⟩ | exact ⟨rfl, rfl, rfl⟩

theorem Group.tw_setTw (g : Group) (n w k i : Nat) (x : Word) (hw : w < 1024) (hi : i < 1024) :
    (g.setTw n w x).tw k i = if k = n ∧ i = w then x else g.tw k i := by
  unfold Group.setTw Group.tw
  rw [Store.get_set]
  by_cases h : k = n ∧ i = w
  · rw [if_pos h, if_pos (by rw [h.1, h.2])]
  · rw [if_neg h, if_neg (by omega)]

end Sys2Proof.Machine
end

