-- ==== Sys2Proof/Laws/Families.lean ====
section
/-! SUPPORT. What the shared shapes of instructions do when their operands are ready: results in vectors, scalars, pairs and masks. -/

namespace Sys2Proof.Machine

/-- A finished issue keeps the frame of the registers that were written before. -/
theorem Frame.of_finished {s t : State} {g g1 h : Group} {ds : List Reg} {cs : List Nat} (f : Finished s t g1 h)
    (r : SameRegs g g1 ds cs) : Frame s t g h ds cs where
  memory c := by rw [f.mem]
  units := ⟨f.parts, f.cores, f.clusters, f.dies, f.teams, f.grids, f.nodes, f.mc, f.now, f.late, f.lines⟩
  work := ⟨f.accs, fun i _ => by rw [f.ops], fun i _ => by rw [f.flits]⟩
  others i hi := by simp [State.group?, f.groups, hi]
  group := by simp [State.group?, f.groups]
  regs := r.trans (.of_data f.data ds cs)

/-- An injected flit changes nothing but the flit that takes the next number. -/
theorem State.inject_spec (s : State) (gid : Nat) (g : Group) (m : Mask) (x : Word) :
    (s.inject gid g m x).mem = s.mem ∧ (s.inject gid g m x).groups = s.groups ∧ (s.inject gid g m x).ops = s.ops ∧
    (s.inject gid g m x).accs = s.accs ∧ SameUnits s (s.inject gid g m x) ∧
    (∀ i, i ≠ s.fresh → (s.inject gid g m x).flits.get? i = s.flits.get? i) ∧
    (∀ d, s.msgTarget g.part g.msgDst = some d → ∃ f, (s.inject gid g m x).flits.get? s.fresh = some f ∧ f.payload = x ∧
      f.srcAddr = s.addrOf g.part gid ∧ f.dst = d) := by
  unfold State.inject
  split
  · rename_i h
    exact ⟨rfl, rfl, rfl, rfl, ⟨rfl, rfl, rfl, rfl, rfl, rfl, rfl, rfl, rfl, rfl, ⟨rfl, rfl⟩⟩, fun _ _ => rfl, fun d hd => by rw [h] at hd; cases hd⟩
  · rename_i dst h
    refine ⟨rfl, rfl, rfl, rfl, ⟨rfl, rfl, rfl, rfl, rfl, rfl, rfl, rfl, rfl, rfl, ⟨rfl, rfl⟩⟩, fun i hi => Tab.get?_set_other _ _ _ _ hi,
      fun d hd => ?_⟩
    rw [h] at hd
    cases hd
    exact ⟨_, Tab.get?_set_same _ _ _, rfl, rfl, rfl⟩

/-- The end of an instruction that writes its registers in its issue: the frame of those registers, and what they hold. -/
theorem State.done_spec (s : State) (g g1 : Group) (m : Mask) (x : Goes) (cost : Nat) (tx : Option Word) (ds : List Reg)
    (cs : List Nat) (hd : s.cur.defer = none) (r : SameRegs g g1 ds cs) :
    ∃ t h, s.done g1 m x cost tx = .next t ∧ Frame s t g h ds cs ∧ SameData g1 h ∧
      (∀ w g0 d, tx = some w → g1.kind ≠ .debug → s.curGroup? = some g0 → s.msgTarget g1.part g0.msgDst = some d →
        ∃ f, t.flits.get? s.fresh = some f ∧ f.payload = w ∧
          f.srcAddr = s.addrOf g1.part s.cur.gid ∧ f.dst = d) := by
  obtain ⟨h, f⟩ := s.finish_spec g1 m x cost
  unfold State.done
  rw [hd]
  cases tx with
  | none => exact ⟨_, h, rfl, .of_finished f r, f.data, by simp⟩
  | some w =>
    dsimp only
    by_cases hk : g1.kind = .debug
    · rw [if_pos hk]
      exact ⟨_, h, rfl, .of_finished f r, f.data, fun _ _ _ _ hn => absurd hk hn⟩
    · rw [if_neg hk]
      have fr := Frame.of_finished f r
      obtain ⟨i1, i2, i3, i4, i5, i6, i7⟩ := (s.finish g1 m x cost).inject_spec s.cur.gid
        { g1 with msgDst := ((s.curGroup?).map (·.msgDst)).getD g1.msgDst } m w
      refine ⟨_, h, rfl, ?_, f.data, ?_⟩
      · constructor
        · intro c; rw [i1]; exact fr.memory c
        · exact ⟨i5.parts.trans f.parts, i5.cores.trans f.cores, i5.clusters.trans f.clusters, i5.dies.trans f.dies, i5.teams.trans f.teams,
            i5.grids.trans f.grids, i5.nodes.trans f.nodes, i5.mc.trans f.mc, i5.now.trans f.now, i5.late.trans f.late,
            ⟨i5.lines.1.trans f.lines.1, i5.lines.2.trans f.lines.2⟩⟩
        · exact ⟨i4.trans f.accs, fun i _ => by rw [i3, f.ops], fun i hi => by
            rw [i6 i (by rw [f.fresh]; exact hi), f.flits]⟩
        · intro i hi; show Tab.get? _ i = _; rw [i2]; exact fr.others i hi
        · show Tab.get? _ _ = _; rw [i2]; exact fr.group
        · exact fr.regs
      · intro w' g0 d hw hn hg ht
        cases hw
        have := i7 d (by
          simp only [State.msgTarget, f.parts, State.part, hg, Option.map_some, Option.getD_some] at ht ⊢
          exact ht)
        simpa only [f.fresh, State.addrOf, State.part, f.parts] using this

@[simp] theorem Group.claim_part (g : Group) (l : List Reg) : (g.claim l).part = g.part := by
  unfold Group.claim; split <;> [(split <;> rfl); rfl]
@[simp] theorem Group.claim_kind (g : Group) (l : List Reg) : (g.claim l).kind = g.kind := by
  unfold Group.claim; split <;> [(split <;> rfl); rfl]
@[simp] theorem Group.claim_msgDst (g : Group) (l : List Reg) : (g.claim l).msgDst = g.msgDst := by
  unfold Group.claim; split <;> [(split <;> rfl); rfl]
@[simp] theorem Group.claim_uid (g : Group) (l : List Reg) : (g.claim l).uid = g.uid := by
  unfold Group.claim; split <;> [(split <;> rfl); rfl]
@[simp] theorem Group.claim_width (g : Group) (l : List Reg) : (g.claim l).width = g.width := by
  unfold Group.claim; split <;> [(split <;> rfl); rfl]
@[simp] theorem Group.claim_v (g : Group) (l : List Reg) : (g.claim l).v = g.v := by
  unfold Group.claim; split <;> [(split <;> rfl); rfl]
@[simp] theorem Group.claim_s (g : Group) (l : List Reg) : (g.claim l).s = g.s := by
  unfold Group.claim; split <;> [(split <;> rfl); rfl]
@[simp] theorem Group.claim_k (g : Group) (l : List Reg) : (g.claim l).k = g.k := by
  unfold Group.claim; split <;> [(split <;> rfl); rfl]
@[simp] theorem Group.claim_lanes (g : Group) (l : List Reg) : (g.claim l).lanes = g.lanes := by
  unfold Group.claim; split <;> [(split <;> rfl); rfl]
@[simp] theorem Group.claim_empty (g : Group) (l : List Reg) : (g.claim l).empty = g.empty := by
  unfold Group.claim; split <;> [(split <;> rfl); rfl]
@[simp] theorem Group.claim_crs (g : Group) (l : List Reg) : (g.claim l).crs = g.crs := by
  unfold Group.claim; split <;> [(split <;> rfl); rfl]

/-- The group once its flit is claimed is the group, but where s62 is read. -/
theorem Group.claim_none (g : Group) (l : List Reg) (h : Reg.s 62 ∉ l) : g.claim l = g := by simp [Group.claim, h]

/-- What an effect's group differs in from the group that has claimed its flit. -/
theorem Group.taken_sync (g : Group) (q : Need') (m : Mask) : SyncOnly (g.claim (q.srcs.map (·.reg))) (g.taken q m) :=
  Group.reads_sync _ _ _ _ _

/-- A frame against the group that has claimed its flit, where it was one against the effect's group. -/
theorem Frame.claimed {s t : State} {g g' h : Group} {ds : List Reg} {cs : List Nat} {n : Nat} (d : SyncOnly g g')
    (f : Frame (s.atCost n) t g' h ds cs) : Frame s t g h ds cs where
  memory := f.memory
  units := ⟨f.units.parts, f.units.cores, f.units.clusters, f.units.dies, f.units.teams, f.units.grids, f.units.nodes, f.units.mc,
    f.units.now, f.units.late, f.units.lines⟩
  work := ⟨f.work.accs, f.work.ops, f.work.flits⟩
  others := f.others
  group := f.group
  regs := SameRegs.trans (.of_data d.data ds cs) f.regs

/-- A vector result. -/
theorem State.vecOp_spec (s : State) (i : Instr) (g : Group) (srcs : List Src) (d : Nat) (f : Group → Nat → Word) (old : List Reg) (wide : Bool)
    (h : Ready s g (srcs.map (·.reg) ++ old) [.v d])
    (hw : g.readsBad (if wide then BitVec.allOnes 64 else s.cur.mask) (srcs.map (·.reg) ++ old) = false) :
    ∃ t h' g', s.vecOp i srcs d f old wide = .next t ∧ Frame s t (g.claim (srcs.map (·.reg))) h' [.v d] ∧
      SyncOnly (g.claim (srcs.map (·.reg))) g' ∧
      ∀ j, j < 64 → h'.vr d j = if maskBit s.cur.mask j then f g' j else (g.claim (srcs.map (·.reg))).vr d j := by
  unfold State.vecOp
  rw [s.issue_ready g { srcs, dests := [.v d], defer := some i, old, wide } _ _ h rfl rfl rfl hw]
  have hs := g.taken_sync { srcs, dests := [.v d], defer := some i, old, wide } s.cur.mask
  revert hs
  generalize g.taken _ _ = g'
  intro hs
  obtain ⟨t, h', e, fr, sd, -⟩ := (s.atCost (costLane g)).done_spec g' _ s.cur.mask .on (costLane g') none
    [.v d] [] h.fresh (g'.writeV_same d s.cur.mask (f g') _ _ (by simp))
  refine ⟨t, h', g', e, .claimed hs fr, hs, fun j hj => ?_⟩
  have := g'.vr_writeV d s.cur.mask (f g') j hj
  rw [Group.vr, ← sd.v] at this
  rw [Group.vr, this]
  simp [Group.vr, hs.data.v]

/-- A scalar result. -/
theorem State.sclOp_spec (s : State) (i : Instr) (g : Group) (srcs : List Src) (d : Nat) (f : Group → Word) (old : List Reg)
    (h : Ready s g (srcs.map (·.reg) ++ old) [.s d]) :
    ∃ t h' g', s.sclOp i srcs d f old = .next t ∧ Frame s t (g.claim (srcs.map (·.reg))) h' [.s d] ∧
      SyncOnly (g.claim (srcs.map (·.reg))) g' ∧ ScalarHolds s t (g.claim (srcs.map (·.reg))) h' d (f g') := by
  unfold State.sclOp
  rw [s.issue_ready g { srcs, dests := [.s d], defer := some i, old } _ _ h rfl rfl rfl h.operands.sound]
  have hs := g.taken_sync { srcs, dests := [.s d], defer := some i, old } s.cur.mask
  revert hs
  generalize g.taken _ _ = g'
  intro hs
  have hk : g'.kind = g.kind := by simpa using hs.data.kind
  have hp : g'.part = g.part := by simpa using hs.data.part
  obtain ⟨t, h', e, fr, sd, tx⟩ := (s.atCost (costOne g)).done_spec g' _ s.cur.mask .on 1 (if d = 61 then some (f g') else none) [.s d] [] h.fresh
    ((s.atCost (costOne g)).writeS_same s.cur.gid g' d (f g') _ _ (by simp))
  refine ⟨t, h', g', e, .claimed hs fr, hs, fun hd => ?_, fun hd => ?_, fun hd hn => ?_⟩
  · rw [sd.s]; exact State.writeS_get _ _ _ _ _ hd
  · rw [sd.msgDst]
    show ((s.atCost (costOne g)).writeS s.cur.gid g' d (f g')).msgDst = _
    rw [State.writeS_msgDst, if_pos hd, hs.data.kind, hs.data.msgDst, hs.data.part]; rfl
  · rw [Group.claim_kind] at hn
    have ht := (h.operands.tx (by simp [hd]) hn).2
    obtain ⟨x, hx⟩ := Option.isSome_iff_exists.mp ht
    obtain ⟨fl, f1, f2, f3, f4⟩ := tx (f g') g x (by simp [hd]) (by
      rw [State.writeS_kind, hk]; exact hn) h.group (by rw [State.writeS_part, hp]; exact hx)
    rw [State.writeS_part, hp] at f3
    exact ⟨fl, f1, f2, by rw [f3, Group.claim_part]; rfl, by rw [f4, Group.claim_part, Group.claim_msgDst, hx]⟩

/-- A result in a pair of scalars. -/
theorem State.scl2Op_spec (s : State) (i : Instr) (g : Group) (srcs : List Src) (d : Nat) (f : Group → DWord)
    (hd : d % 2 = 0) (h : Ready s g (srcs.map (·.reg)) [.s d, .s (d + 1)]) :
    ∃ t h' g', s.scl2Op i srcs d f = .next t ∧ Frame s t (g.claim (srcs.map (·.reg))) h' [.s d, .s (d + 1)] ∧
      SyncOnly (g.claim (srcs.map (·.reg))) g' ∧ ScalarHolds s t (g.claim (srcs.map (·.reg))) h' d (lo32 (f g')) ∧
      ScalarHolds s t (g.claim (srcs.map (·.reg))) h' (d + 1) (hi32 (f g')) := by
  unfold State.scl2Op
  rw [← List.append_nil (srcs.map (·.reg))] at h
  rw [s.issue_ready g { srcs, dests := [.s d, .s (d + 1)], defer := some i } _ _ h rfl rfl rfl h.operands.sound]
  have hs := g.taken_sync { srcs, dests := [.s d, .s (d + 1)], defer := some i } s.cur.mask
  revert hs
  generalize g.taken _ _ = g'
  intro hs
  have hk : g'.kind = g.kind := by simpa using hs.data.kind
  have hp : g'.part = g.part := by simpa using hs.data.part
  have hr : SameRegs g' ((s.atCost (costOne g)).writeS2 s.cur.gid g' d (f g')) [.s d, .s (d + 1)] [] :=
    ((s.atCost (costOne g)).writeS_same s.cur.gid g' d (lo32 (f g')) _ _ (by simp)).trans
      ((s.atCost (costOne g)).writeS_same s.cur.gid _ (d + 1) _ _ _ (by simp))
  obtain ⟨t, h', e, fr, sd, tx⟩ := (s.atCost (costOne g)).done_spec g' _ s.cur.mask .on 1 (if d + 1 = 61 then some (hi32 (f g')) else none)
    [.s d, .s (d + 1)] [] h.fresh hr
  refine ⟨t, h', g', e, .claimed hs fr, hs, ⟨fun hd => ?_, fun hd => ?_, fun hd hn => by omega⟩, fun hd => ?_, fun hd => by omega, fun hd hn => ?_⟩
  · rw [sd.s]; unfold State.writeS2
    rw [State.writeS_get_other _ _ _ _ _ _ (by omega), State.writeS_get _ _ _ _ _ hd]
  · rw [sd.msgDst]; unfold State.writeS2
    rw [State.writeS_msgDst, if_neg (by omega), State.writeS_msgDst, if_pos hd, hs.data.kind, hs.data.msgDst, hs.data.part]; rfl
  · rw [sd.s]; unfold State.writeS2
    rw [State.writeS_get _ _ _ _ _ hd]
  · rw [Group.claim_kind] at hn
    have ht := (h.operands.tx (by simp [hd]) hn).2
    obtain ⟨x, hx⟩ := Option.isSome_iff_exists.mp ht
    obtain ⟨fl, f1, f2, f3, f4⟩ := tx (hi32 (f g')) g x (by simp [hd]) (by
      rw [State.writeS2, State.writeS_kind, State.writeS_kind, hk]; exact hn) h.group (by
      simp only [State.writeS2, State.writeS_part, hp]; exact hx)
    rw [State.writeS2, State.writeS_part, State.writeS_part, hp] at f3
    exact ⟨fl, f1, f2, by rw [f3, Group.claim_part]; rfl, by rw [f4, Group.claim_part, Group.claim_msgDst, hx]⟩

/-- Bit j of the mask of lanes 0 to w − 1. -/
theorem widthMask_bit (w j : Nat) (hj : j < 64) : (widthMask w).getLsbD j = decide (j < w) := by
  rw [widthMask, BitVec.getLsbD_ofNat, Nat.testBit_two_pow_sub_one]
  simp [hj]

/-- A mask result. -/
theorem State.maskOp_spec (s : State) (i : Instr) (g : Group) (srcs : List Src) (d : Nat) (f : Group → Mask)
    (h : Ready s g (srcs.map (·.reg)) [.k d]) :
    ∃ t h' g', s.maskOp i srcs d f = .next t ∧ Frame s t (g.claim (srcs.map (·.reg))) h' [.k d] ∧
      SyncOnly (g.claim (srcs.map (·.reg))) g' ∧
      (d ≠ 0 → ∀ j, j < 64 → (h'.k.get d).getLsbD j = (decide (j < g.width) && (f g').getLsbD j)) := by
  unfold State.maskOp
  rw [← List.append_nil (srcs.map (·.reg))] at h
  rw [s.issue_ready g { srcs, dests := [.k d], defer := some i } _ _ h rfl rfl rfl h.operands.sound]
  have hs := g.taken_sync { srcs, dests := [.k d], defer := some i } s.cur.mask
  revert hs
  generalize g.taken _ _ = g'
  intro hs
  have hw : g'.width = g.width := by simpa using hs.data.width
  obtain ⟨t, h', e, fr, sd, -⟩ := (s.atCost (costOne g)).done_spec g' _ s.cur.mask .on 1 none [.k d] [] h.fresh
    (g'.setKr_same d (f g' &&& widthMask g'.width) _ _ (by simp))
  refine ⟨t, h', g', e, .claimed hs fr, hs, fun hd j hj => ?_⟩
  rw [sd.k, Group.kr_setKr _ _ _ hd, BitVec.getLsbD_and, widthMask_bit _ _ hj, Bool.and_comm, hw]

end Sys2Proof.Machine
end

