-- ==== Sys2Proof/Laws/Producers.lean ====
section
/-! SUPPORT. Producers: an issue that leaves its destinations empty with an operation that will fill them, and the completion that
fills them (01 R18, 02 R38). -/

namespace Sys2Proof.Machine

/-- The operation that a producer leaves. -/
def State.opOf (s : State) (g : Group) (cls : PClass) (dests : List Reg) (latency : Nat) (kind : OpKind) : Op :=
  { gid := s.cur.gid, uid := g.uid, part := g.part, pc := s.cur.pc, cls, dests, mask := s.cur.mask,
    due := s.timeOf g.part s.cur.gid + latency, bad := none, kind }

/-- The group and the scheduler partition's clocks change, one operation takes the next number, and nothing else does. -/
structure Produced (s t : State) (g h : Group) (dests : List Reg) (o : Op) : Prop where
  data : SameData (g.markEmpty dests) h
  frame : Frame s t g h dests []
  op : t.ops.get? s.fresh = some o
  fresh : t.fresh = s.fresh + 1

theorem Produced.of_set (s : State) (g h : Group) (dests : List Reg) (o : Op) (i : Nat) (f : Sp → Sp)
    (d : SameData (g.markEmpty dests) h) :
    Produced s (({ s with ops := s.ops.set s.fresh o, fresh := s.fresh + 1 }.modSp i f).setGroup s.cur.gid h) g h dests o where
  data := d
  frame := {
    memory := fun _ => rfl
    units := ⟨rfl, rfl, rfl, rfl, rfl, rfl, rfl, rfl, rfl, rfl, ⟨rfl, rfl⟩⟩
    work := ⟨rfl, fun _ hi => Tab.get?_set_other _ _ _ _ hi, fun _ _ => rfl⟩
    others := fun _ hi => Tab.get?_set_other _ _ _ _ hi
    group := Tab.get?_set_same _ _ _
    regs := (g.markEmpty_same dests dests [] fun _ hx => hx).trans (.of_data d dests []) }
  op := Tab.get?_set_same _ _ _
  fresh := rfl

/-- Starting a producer and finishing its issue. -/
theorem State.produce_spec (s : State) (g : Group) (cls : PClass) (dests : List Reg) (latency : Nat) (kind : OpKind) (m : Mask)
    (x : Goes) (cost : Nat) :
    ∃ h, Produced s ((s.produce g cls dests latency kind).1.finish (s.produce g cls dests latency kind).2 m x cost) g h dests
      (s.opOf g cls dests latency kind) := by
  unfold State.finish
  dsimp only [State.produce]
  split
  · exact ⟨_, .of_set s g _ dests _ _ _ (((((g.markEmpty dests).aged_same _ _).trans (Group.issuedAt_same _ _)).trans
      (Group.stepLanes_same _ _ _ _)).trans (Group.settle_same _))⟩
  · exact ⟨_, .of_set s g _ dests _ _ _ ((g.markEmpty dests).stepLanes_same _ _ _)⟩
  · split
    · exact ⟨_, .of_set s g _ dests _ _ _ (.rfl' _)⟩
    · exact ⟨_, .of_set s g _ dests _ _ _ (by constructor <;> rfl)⟩

/-- The effects of one register write of a producer. -/
theorem State.applyWrites_nil (s : State) (o : Op) (g : Group) : s.applyWrites o [] g = g := rfl

theorem State.applyWrites_k (s : State) (o : Op) (g : Group) (d : Nat) (w : DWord) (h : Reg.k d ∈ o.dests) :
    s.applyWrites o [⟨.k d, 0, w⟩] g = g.setKr d w := by simp [State.applyWrites, h]

/-- Register writes change the destinations of their operation only. -/
theorem State.applyWrites_same (s : State) (o : Op) (ws : List RegWrite) (g : Group) (cs : List Nat)
    (hw : ∀ w ∈ ws, (∀ n, w.reg = .v n → w.lane < 64) ∧ (∀ n, w.reg = .t n → w.lane < 1024)) :
    SameRegs g (s.applyWrites o ws g) o.dests cs := by
  unfold State.applyWrites
  have H : ∀ l : List RegWrite, (∀ w ∈ l, w.reg ∈ o.dests ∧ (∀ n, w.reg = .v n → w.lane < 64) ∧ (∀ n, w.reg = .t n → w.lane < 1024)) →
      ∀ g : Group, SameRegs g (l.foldl (fun g w => match w.reg with
        | .v n => if (g.lane w.lane).st = .exited then g else g.setVr n w.lane (lo32 w.val)
        | .s n => s.writeS o.gid g n (lo32 w.val)
        | .k n => g.setKr n w.val
        | .t n => g.setTw n w.lane (lo32 w.val)) g) o.dests cs := by
    intro l
    induction l with
    | nil => intro _ g; exact .of_data (.rfl' g) _ _
    | cons w r ih =>
      intro hl g
      obtain ⟨h1, h2, h3⟩ := hl w (List.mem_cons_self ..)
      refine SameRegs.trans ?_ (ih (fun x hx => hl x (List.mem_cons_of_mem _ hx)) _)
      dsimp only
      split
      · rename_i n hn
        split
        · exact .of_data (.rfl' g) _ _
        · exact g.setVr_same n _ _ (h2 n hn) _ _ (hn ▸ h1)
      · rename_i n hn; exact s.writeS_same _ g n _ _ _ (hn ▸ h1)
      · rename_i n hn; exact g.setKr_same n _ _ _ (hn ▸ h1)
      · rename_i n hn; exact g.setTw_same n _ _ (h3 n hn) _ _ (hn ▸ h1)
  refine H _ ?_ g
  intro w hw'
  rw [List.mem_filter] at hw'
  exact ⟨by simpa using hw'.2, hw w hw'.1⟩

/-- A group set and an operation dropped: what completion does to the state. -/
theorem Filled.of_set {s : State} {id : Nat} {o : Op} {g h : Group} {cs : List Nat} (r : SameRegs g h o.dests cs)
    (f : ∀ x, x ∈ o.dests → x ∉ h.empty) : Filled s ((s.setGroup o.gid h).dropOp id) id o g h cs where
  memory _ := rfl
  units := ⟨rfl, rfl, rfl, rfl, rfl, rfl, rfl, rfl, rfl, rfl, ⟨rfl, rfl⟩⟩
  accs := rfl
  others _ hi := Tab.get?_set_other _ _ _ _ hi
  group := Tab.get?_set_same _ _ _
  regs := r
  full := f
  gone := Tab.get?_erase_same _ _
  ops _ hi := Tab.get?_erase_other _ _ _ hi

/-- The completion of an operation whose group is still there. -/
theorem State.completeOp_spec (s : State) (id : Nat) (o : Op) (g : Group) (f : State → Group → Group) (hg : s.group? o.gid = some g)
    (hu : g.uid = o.uid) (hr : SameRegs g (f s g) o.dests []) :
    Filled s (s.completeOp id o f) id o g ((f s g).markFull o.dests) [] := by
  unfold State.completeOp
  rw [hg]
  dsimp only
  rw [if_pos hu]
  exact .of_set (hr.trans ((f s g).markFull_same _ _ _ fun _ hx => hx)) fun x hx => Group.full_markFull _ _ _ hx

end Sys2Proof.Machine
end

