-- ==== Sys2Proof/Laws/Flags.lean ====
section
/-! SUPPORT. Float exceptions: when no lane faults, and what an issue or a completion without faults leaves (05 R109, R110). -/

namespace Sys2Proof.Machine

/-- A bit of exceptions ORed over lanes. -/
theorem orLanes_bit (ls : List Nat) (ex : Nat → Word) (n : Nat) :
    (orLanes ls ex).getLsbD n = ls.any fun j => (ex j).getLsbD n := by
  have H : ∀ (l : List Nat) (x : Word), (l.foldl (fun a j => a ||| ex j) x).getLsbD n =
      (x.getLsbD n || l.any fun j => (ex j).getLsbD n) := by
    intro l
    induction l with
    | nil => simp
    | cons a r ih => intro x; simp [ih, Bool.or_assoc]
  simpa [orLanes] using H ls 0

/-- Where no lane raises an enabled exception, no lane faults. -/
theorem fpFaults_none (en : Word) (ls : List Nat) (ex : Nat → Word) (h : ∀ j ∈ ls, fpCause en (ex j) = none) :
    fpFaults en ls ex = [] := by
  have H : ∀ (l : List Nat) (acc : List (Nat × Mask)), (∀ j ∈ l, fpCause en (ex j) = none) →
      l.foldl (fun acc j => match fpCause en (ex j) with
        | none => acc
        | some c =>
          if acc.any (fun x => x.1 == c) then acc.map fun x => if x.1 = c then (c, x.2 ||| ((1 : Mask) <<< j)) else x
          else acc ++ [(c, (1 : Mask) <<< j)]) acc = acc := by
    intro l
    induction l with
    | nil => intro acc _; rfl
    | cons a r ih =>
      intro acc hl
      rw [List.foldl_cons, hl a (List.mem_cons_self ..)]
      exact ih acc fun j hj => hl j (List.mem_cons_of_mem _ hj)
  exact H ls [] h

theorem fpCause_zero (ex : Word) : fpCause 0 ex = none := by simp [fpCause]

theorem fpFaults_zero (ls : List Nat) (ex : Nat → Word) : fpFaults 0 ls ex = [] :=
  fpFaults_none 0 ls ex fun _ _ => fpCause_zero _

/-- ORing flags changes cr.FPFLAGS alone. -/
theorem Group.orFlags_same (g : Group) (x : Word) (ds : List Reg) (cs : List Nat) (h : 0x11 ∈ cs) : SameRegs g (g.orFlags x) ds cs :=
  g.setCr_same 0x11 _ ds cs h

theorem Group.orFlags_cr (g : Group) (x : Word) : (g.orFlags x).cr 0x11 = g.cr 0x11 ||| x := by simp [Group.orFlags]

theorem exceptionsOf_eq (ex : List (Nat × Word)) :
    (fun j => ((ex.find? fun x => x.1 == j).map (·.2)).getD 0) = exceptionsOf ex := rfl

/-- The completion of a special function or a float compare whose lanes have gone on: its results and its flags. -/
theorem State.flagDone_spec (s : State) (id : Nat) (o : Op) (g : Group) (ws : List RegWrite) (ex : List (Nat × Word)) (c : Cur)
    (hg : s.group? o.gid = some g) (hu : g.uid = o.uid) (hm : o.mask ≠ 0)
    (hw : ∀ w ∈ ws, (∃ n, w.reg = .v n ∧ w.lane < 64 ∧ maskBit o.mask w.lane = true) ∨ ∃ n, w.reg = .k n) :
    ∃ h, Filled s (s.flagDone id o ws ex c true) id o g h [0x11] ∧ FlagsGather g h o.mask (exceptionsOf ex) ∧
      h.v = (s.applyWrites o ws g).v ∧ h.k = (s.applyWrites o ws g).k := by
  have hu' : (g.uid != o.uid) = false := by simp [hu]
  have hs := s.applyWrites_same o ws g [] fun w hw' => by
    rcases hw w hw' with ⟨n, h1, h2, -⟩ | ⟨n, h1⟩ <;> simp [h1]
    exact h2
  have hs' := s.applyWrites_same o ws g [0x11] fun w hw' => by
    rcases hw w hw' with ⟨n, h1, h2, -⟩ | ⟨n, h1⟩ <;> simp [h1]
    exact h2
  unfold State.flagDone
  rw [hg]
  simp only [hu', Bool.false_eq_true, if_false, if_true, fpFaults_zero, List.isEmpty_nil, Bool.true_or, State.trapFaults,
    exceptionsOf_eq]
  rw [List.filter_eq_self.mpr]
  · refine ⟨_, Filled.of_set (cs := [0x11]) (hs'.trans ((Group.markFull_same _ o.dests _ _ fun _ hx => hx).trans
      ((Group.orFlags_same _ (orLanes (lanesOf o.mask) (exceptionsOf ex)) _ _ (by simp)).trans
        (.of_data (by constructor <;> rfl) _ _)))) ?_, ?_, rfl, rfl⟩
    · intro x hx
      exact Group.full_markFull (s.applyWrites o ws g) o.dests x hx
    · intro n
      show (Group.cr (Group.orFlags _ _) 0x11).getLsbD n = _
      rw [Group.orFlags_cr, BitVec.getLsbD_or, orLanes_bit]
      congr 1
      rw [← hs.cr 0x11 (by simp)]
      rfl
  · intro w hw'
    rcases hw w hw' with ⟨n, h1, -, h2⟩ | ⟨n, h1⟩
    · simp [h1, h2]
    · simp only [h1, bne_iff_ne]; exact hm

/-- The enabled exceptions of a lane, by bit. -/
theorem fpCause_none (en ex : Word) (h : ∀ n, n < 5 → (en.getLsbD n && ex.getLsbD n) = false) : fpCause en ex = none := by
  unfold fpCause
  dsimp only
  have hb : ∀ n, n < 5 → (en &&& ex).toNat / 2 ^ n % 2 = 0 := by
    intro n hn
    have := h n hn
    rw [← BitVec.getLsbD_and, BitVec.getLsbD, Nat.testBit_eq_decide_div_mod_eq] at this
    simp only [decide_eq_false_iff_not] at this
    omega
  generalize (en &&& ex).toNat = m at hb ⊢
  have h0 := hb 0 (by omega)
  have h1 := hb 1 (by omega)
  have h2 := hb 2 (by omega)
  have h3 := hb 3 (by omega)
  have h4 := hb 4 (by omega)
  norm_num at h0 h1 h2 h3 h4
  simp [h0, h1, h2, h3, h4]

/-- Where no lane raises an enabled exception, no lane of an issue faults. -/
theorem NoTrap.faults {s : State} {g : Group} {ex : Nat → Word} (h : NoTrap s g ex) :
    fpFaults (s.fpEnabled g) (lanesOf s.cur.mask) ex = [] := by
  unfold State.fpEnabled
  split
  · rename_i hc
    refine fpFaults_none _ _ _ fun j hj => fpCause_none _ _ fun n hn => ?_
    obtain ⟨h1, h2⟩ := (mem_lanesOf _ _).1 hj
    have := h hc j h1 h2 n hn
    rw [BitVec.getLsbD_and]
    revert this
    cases (g.cr 16).getLsbD n <;> simp
    intro h3 _
    exact h3
  · exact fpFaults_zero _ _

/-- Registers written one after another from a list of words in each lane. -/
theorem Group.vr_writeAll (m : Mask) (f : Nat → List Word) (ds : List Nat) (hn : ds.Nodup) (k0 : Nat) (g : Group) :
    ∀ k d j, ds[k]? = some d → j < 64 →
      ((ds.zipIdx k0).foldl (fun g' x => g'.writeV x.1 m fun j => ((f j)[x.2]?).getD 0) g).vr d j =
        if maskBit m j then ((f j)[k0 + k]?).getD 0 else g.vr d j := by
  induction ds generalizing k0 g with
  | nil => intro k d j h; simp at h
  | cons a r ih =>
    intro k d j h hj
    rw [List.nodup_cons] at hn
    rw [List.zipIdx_cons, List.foldl_cons]
    have keep : ∀ (l : List Nat) (i : Nat) (g : Group), d ∉ l →
        ((l.zipIdx i).foldl (fun g' x => g'.writeV x.1 m fun j => ((f j)[x.2]?).getD 0) g).vr d j = g.vr d j := by
      intro l
      induction l with
      | nil => intro i g _; rfl
      | cons b l ihl =>
        intro i g hb
        simp only [List.mem_cons, not_or] at hb
        rw [List.zipIdx_cons, List.foldl_cons, ihl _ _ hb.2, Group.vr_writeV_other _ _ _ _ _ _ hj hb.1]
    cases k with
    | zero =>
      simp only [List.getElem?_cons_zero, Option.some.injEq] at h
      subst h
      rw [keep r _ _ hn.1, Group.vr_writeV _ _ _ _ _ hj]
      simp
    | succ k =>
      simp only [List.getElem?_cons_succ] at h
      rw [ih hn.2 (k0 + 1) _ k d j h hj]
      have hd : d ≠ a := by rintro rfl; exact hn.1 (List.mem_of_getElem? h)
      rw [Group.vr_writeV_other _ _ _ _ _ _ hj hd, Nat.add_right_comm, Nat.add_assoc]

theorem Group.writeAll_same (m : Mask) (f : Nat → List Word) (ds : List (Nat × Nat)) (g : Group) (rs : List Reg) (cs : List Nat)
    (h : ∀ x ∈ ds, Reg.v x.1 ∈ rs) :
    SameRegs g (ds.foldl (fun g' x => g'.writeV x.1 m fun j => ((f j)[x.2]?).getD 0) g) rs cs := by
  induction ds generalizing g with
  | nil => exact .of_data (.rfl' g) _ _
  | cons a r ih =>
    rw [List.foldl_cons]
    exact (g.writeV_same _ _ _ _ _ (h a (List.mem_cons_self ..))).trans (ih _ fun x hx => h x (List.mem_cons_of_mem _ hx))

/-- The end of a float issue in which no lane faults: results in registers, exceptions in cr.FPFLAGS. -/
theorem State.float_done (s : State) (g : Group) (ds : List Nat) (cost : Nat) (r : Reg) (f : Nat → List Word × Word)
    (hd : s.cur.defer = none) (hn : ds.Nodup) :
    ∃ t h, s.doneFloat (((ds.zipIdx).foldl (fun g' x => g'.writeV x.1 (s.cur.mask &&& ~~~(faultMask [])) fun j =>
        (((f j).1)[x.2]?).getD 0) g).orFlags (orLanes (lanesOf (s.cur.mask &&& ~~~(faultMask []))) fun j => (f j).2))
        (s.cur.mask &&& ~~~(faultMask [])) cost r [] = .next t ∧ Frame s t g h (ds.map .v) [0x11] ∧
      (∀ (k d : Nat), ds[k]? = some d → ∀ j, j < 64 → h.vr d j = if maskBit s.cur.mask j then (((f j).1)[k]?).getD 0 else g.vr d j) ∧
      FlagsGather g h s.cur.mask fun j => (f j).2 := by
  have hm : s.cur.mask &&& ~~~(faultMask []) = s.cur.mask := by
    have h0 : ~~~(faultMask []) = BitVec.allOnes 64 := by decide
    rw [h0, BitVec.and_allOnes]
  have hh : s.heldAt = false := by unfold State.heldAt; rw [hd]
  unfold State.doneFloat
  simp only [hh, Bool.false_eq_true, if_false, List.isEmpty_nil, if_true]
  rw [hm]
  have w := Group.writeAll_same s.cur.mask (fun j => (f j).1) ds.zipIdx g (ds.map .v) [0x11] (by
    intro x hx
    exact List.mem_map_of_mem (List.fst_mem_of_mem_zipIdx hx))
  have w0 := Group.writeAll_same s.cur.mask (fun j => (f j).1) ds.zipIdx g (ds.map .v) [] (by
    intro x hx
    exact List.mem_map_of_mem (List.fst_mem_of_mem_zipIdx hx))
  have hv := Group.vr_writeAll s.cur.mask (fun j => (f j).1) ds hn 0 g
  revert w w0 hv
  generalize (ds.zipIdx).foldl (fun g' x => g'.writeV x.1 s.cur.mask fun j => (((f j).1)[x.2]?).getD 0) g = g1
  intro w w0 hv
  obtain ⟨t, h, e, fr, sd, -⟩ := s.done_spec g (g1.orFlags (orLanes (lanesOf s.cur.mask) fun j => (f j).2)) s.cur.mask .on cost none
    (ds.map .v) [0x11] hd (w.trans (g1.orFlags_same _ _ _ (by simp)))
  refine ⟨t, h, e, fr, ?_, ?_⟩
  · intro k d hk j hj
    have h1 := hv k d j hk hj
    rw [Nat.zero_add] at h1
    rw [← h1]
    unfold Group.vr
    rw [sd.v]
    rfl
  · intro n
    unfold Group.cr
    rw [sd.crs]
    show (Group.cr (Group.orFlags _ _) 0x11).getLsbD n = _
    rw [Group.orFlags_cr, BitVec.getLsbD_or, orLanes_bit, w0.cr 0x11 (by simp)]
    rfl

/-- A float instruction whose operands are ready and in which no lane faults, for any group that its effect may act on. -/
theorem State.vecFloat_spec (s : State) (i : Instr) (g : Group) (srcs : List Src) (ds : List Nat) (cost : Group → Nat)
    (f : Group → Nat → List Word × Word) (old : List Reg) (h : Ready s g (srcs.map (·.reg) ++ old) (ds.map .v)) (hn : ds.Nodup)
    (nt : ∀ g', SyncOnly (g.claim (srcs.map (·.reg))) g' → NoTrap s g fun j => (f g' j).2) :
    ∃ t h' g', s.vecFloat i srcs ds cost f old = .next t ∧ Frame s t (g.claim (srcs.map (·.reg))) h' (ds.map .v) [0x11] ∧
      SyncOnly (g.claim (srcs.map (·.reg))) g' ∧
      (∀ (k d : Nat), ds[k]? = some d → ∀ j, j < 64 → h'.vr d j = if maskBit s.cur.mask j
        then (((f g' j).1)[k]?).getD 0 else (g.claim (srcs.map (·.reg))).vr d j) ∧
      FlagsGather (g.claim (srcs.map (·.reg))) h' s.cur.mask fun j => (f g' j).2 := by
  unfold State.vecFloat
  dsimp only
  rw [← List.append_nil (ds.map Reg.v)] at h
  generalize ((match s.curGroup? with | some g => s.fpEnabled g | none => 0) != 0) = hold
  rw [s.issue_ready g { srcs, dests := ds.map .v, defer := some i, hold, old } _ _ h rfl rfl rfl h.operands.sound]
  have hs := g.taken_sync { srcs, dests := ds.map .v, defer := some i, hold, old } s.cur.mask
  revert hs
  generalize g.taken _ _ = g'
  intro hs
  have hc : g'.crs = g.crs := by simpa using hs.data.crs
  have nt' : NoTrap (s.atCost (cost g)) g' fun j => (f g' j).2 := fun hx j hj hm n hn => by
    have := nt g' hs hx j hj hm n hn
    rwa [Group.cr, hc]
  rw [nt'.faults]
  obtain ⟨t, h', e, fr, h1, h2⟩ := (s.atCost (cost g)).float_done g' ds (cost g') (.v ((ds.head?).getD 0)) (f g') h.fresh hn
  refine ⟨t, h', g', e, .claimed hs fr, hs, fun k d hk j hj => ?_, fun n => ?_⟩
  · rw [h1 k d hk j hj]; simp [Group.vr, hs.data.v]
  · rw [h2 n, Group.cr, hs.data.crs]; rfl

/-- Issuing a special function or a float compare. -/
theorem State.flagOp_spec (s : State) (g : Group) (cls : PClass) (d : Reg) (lat : Nat) (ws : List RegWrite) (ex : List (Nat × Word)) :
    ∃ t h, s.flagOp g cls [d] lat ws ex = .next t ∧ Frame s t g h [d] ∧ SameData (g.markEmpty [d]) h ∧
      t.ops.get? s.fresh = some (s.opOf g cls [d] lat (.flagged ws ex s.cur (s.fpEnabled g == 0))) := by
  unfold State.flagOp
  dsimp only
  split
  · obtain ⟨h, p⟩ := s.produce_spec g cls [d] lat (.flagged ws ex s.cur (s.fpEnabled g == 0)) s.cur.mask .on (costLane g)
    exact ⟨_, h, rfl, p.frame, p.data, p.op⟩
  · have d1 : SameData (g.markEmpty [d])
        { (((g.markEmpty [d]).aged (g.markEmpty [d]) s.cur.mask).issuedAt s.cur.pc) with serial := some s.fresh } := by
      constructor <;> rfl
    have p := Produced.of_set s g _ [d] (s.opOf g cls [d] lat (.flagged ws ex s.cur (s.fpEnabled g == 0))) (spIdOf s.cur.gid)
      (fun q => { q with busy := s.now.toNat + costLane g }) d1
    exact ⟨_, _, rfl, p.frame, p.data, p.op⟩

end Sys2Proof.Machine
end

