-- ==== Sys2Proof/Laws/Goes.lean ====
section
/-! SUPPORT. Where an issue goes on: the addresses of the lanes after it. -/

namespace Sys2Proof.Machine

@[simp] theorem Group.length_settle (g : Group) : g.settle.lanes.length = g.lanes.length := by simp [Group.settle]

/-- Releasing complete meetings moves no lane and changes nothing of it but its release. -/
theorem Group.lane_settle (g : Group) (j : Nat) :
    (g.settle.lane j).pc = (g.lane j).pc ∧ (g.settle.lane j).st = (g.lane j).st ∧ (g.settle.lane j).meet = (g.lane j).meet ∧
    (g.settle.lane j).parked = (g.lane j).parked ∧ (g.settle.lane j).hold = (g.lane j).hold ∧
    (g.settle.lane j).tid = (g.lane j).tid ∧ (g.settle.lane j).age = (g.lane j).age ∧
    (g.settle.lane j).resume = (g.lane j).resume := by
  unfold Group.lane Group.settle
  dsimp only
  rw [List.getElem?_map]
  cases h : g.lanes[j]? with
  | none => exact ⟨rfl, rfl, rfl, rfl, rfl, rfl, rfl, rfl⟩
  | some l =>
    simp only [Option.map_some, Option.getD_some]
    split <;> exact ⟨rfl, rfl, rfl, rfl, rfl, rfl, rfl, rfl⟩

/-- Where finishing an issue sends the lanes. -/
theorem State.finish_goes (s : State) (g g1 h : Group) (x : Goes) (cost : Nat) (hs : x.stays = false) (hl : g1.lanes.length = g.lanes.length)
    (hp : ∀ j, (g1.lane j).pc = (g.lane j).pc)
    (hh : g1.handling = g.handling) (e : (s.finish g1 s.cur.mask x cost).group? s.cur.gid = some h) :
    GoesTo s g h (x.at s.cur.pc s.cur.len) := by
  intro hr
  unfold State.finish at e
  dsimp only at e
  refine ⟨fun hc j hj => ?_, fun hc k hk => ?_⟩
  · split at e
    · rename_i he
      simp only [State.group?, State.setGroup, Tab.get?_set_same, Option.some.injEq] at e
      subst e
      rw [(Group.lane_settle _ j).1]
      unfold Group.stepLanes
      rw [hs, hr]
      simp only [Bool.false_eq_true, if_false]
      unfold Group.moveTo
      rw [Group.lane_modLanes]
      · have hi : ((g1.aged ((s.curGroup?).getD g1) s.cur.mask).issuedAt s.cur.pc).lane j = (g1.aged ((s.curGroup?).getD g1) s.cur.mask).lane j := rfl
        rw [hi]
        unfold Group.aged
        rw [Group.lane_modLanes _ _ _ (by rw [hl]; exact hj), ← hp]
        by_cases hm : maskBit s.cur.mask j = true
        · simp [hm]
        · simp only [hm, Bool.false_eq_true, if_false]
          split <;> rfl
      · show j < (g1.aged ((s.curGroup?).getD g1) s.cur.mask).lanes.length
        unfold Group.aged
        rw [Group.length_modLanes, hl]; exact hj
    · rename_i he
      simp only [State.group?, State.setGroup, Tab.get?_set_same, Option.some.injEq] at e
      subst e
      unfold Group.stepLanes
      rw [hs, hr]
      simp only [Bool.false_eq_true, if_false]
      unfold Group.moveTo
      rw [Group.lane_modLanes _ _ _ (by rw [hl]; exact hj), ← hp]
      split <;> rfl
    · rename_i he
      exact absurd he hc
  · split at e
    · rename_i he; rw [hc] at he; cases he
    · rename_i he; rw [hc] at he; cases he
    · rw [hh, hk] at e
      dsimp only at e
      rw [hr] at e
      simp only [State.group?, State.setGroup, Tab.get?_set_same, Option.some.injEq, Bool.false_eq_true, if_false] at e
      subst e
      exact ⟨_, rfl, rfl⟩

/-- The end of an instruction without flits that sends its lanes somewhere. -/
theorem State.done_goes (s : State) (g g1 : Group) (x : Goes) (cost : Nat) (ds : List Reg) (cs : List Nat) (hd : s.cur.defer = none)
    (r : SameRegs g g1 ds cs) (hs : x.stays = false) (hl : g1.lanes.length = g.lanes.length)
    (hp : ∀ j, (g1.lane j).pc = (g.lane j).pc) (hh : g1.handling = g.handling) :
    ∃ t h, s.done g1 s.cur.mask x cost none = .next t ∧ Frame s t g h ds cs ∧ SameData g1 h ∧
      GoesTo s g h (x.at s.cur.pc s.cur.len) := by
  obtain ⟨h, f⟩ := s.finish_spec g1 s.cur.mask x cost
  refine ⟨s.finish g1 s.cur.mask x cost, h, ?_, .of_finished f r, f.data, ?_⟩
  · unfold State.done; rw [hd]
  · exact s.finish_goes g g1 h x cost hs hl hp hh (by simp [State.group?, f.groups])

end Sys2Proof.Machine
end

