-- ==== Sys2Proof/Laws/Order.lean ====
section
/-! SUPPORT. What the operations on lagging stores do to the bytes that viewers read and to the stores of cells (04 R94 to R96). -/

namespace Sys2Proof.Machine

/-- A cell of a table that keeps cells by their number. -/
theorem Tab.get?_keepKey {α : Type} (p : Nat → Bool) (t : Tab α) (i : Nat) :
    (t.keep fun c _ => p c).get? i = if p i then t.get? i else none := by
  induction t with
  | nil => simp [Tab.keep, Tab.get?]
  | cons x r ih =>
    obtain ⟨j, y⟩ := x
    by_cases hj : j = i
    · subst hj
      by_cases hp : p j <;> simp [Tab.keep, Tab.get?, hp, ih]
    · by_cases hp : p j <;> simp [Tab.keep, Tab.get?, hp, ih, hj]

/-- The bytes a viewer reads where no store lags. -/
theorem State.viewBytes_of_nil {s : State} (v : Viewer) (l : Loc) (n : Nat) (h : ∀ c ∈ upTo l.cell n, s.lags c = []) :
    s.viewBytes v l n = (upTo l.cell n).map (Memory.byte s.mem) := by
  unfold State.viewBytes
  apply List.map_congr_left
  intro c hc
  rw [h c hc]; rfl

/-- A viewer sees a cell as it stands once its place lies above every store on it. -/
theorem byteBefore_above (n : Nat) (es : List Late) (b : Byte) (h : ∀ e ∈ es, e.stamp < n) : byteBefore n es b = b := by
  cases es with
  | nil => rfl
  | cons e r => simp [byteBefore, h e (by simp)]

/-- The greatest value of the members of a list that satisfy a test bounds each of them. -/
theorem le_foldl_max {α : Type} (p : α → Bool) (f : α → Nat) (e : α) :
    ∀ (xs : List α) (n : Nat), (n ≤ xs.foldl (fun n e => if p e then max n (f e) else n) n) ∧
      (e ∈ xs → p e = true → f e ≤ xs.foldl (fun n e => if p e then max n (f e) else n) n) := by
  intro xs
  induction xs with
  | nil => intro n; exact ⟨Nat.le_refl _, fun h => absurd h (by simp)⟩
  | cons x r ih =>
    intro n
    have hn : n ≤ if p x then max n (f x) else n := by split <;> omega
    refine ⟨Nat.le_trans hn (ih _).1, fun hx hp => ?_⟩
    rcases List.mem_cons.mp hx with rfl | hx
    · refine Nat.le_trans ?_ (ih _).1
      simp only [hp, if_true]; omega
    · exact (ih _).2 hx hp

/-- A place lies above every store of a cell that a viewer must see, or that is open to one without a bound. -/
theorem Late.lt_horizon (v : Viewer) (es : List Late) (e : Late) (he : e ∈ es) (h : e.must v = true ∨ (e.open v = true ∧ v.upTo = none)) :
    e.stamp < Late.horizon v es :=
  (le_foldl_max _ (fun e : Late => e.stamp + 1) e es 0).2 he (by rcases h with h | ⟨h, h'⟩ <;> simp [*])

/-- Stores that are performed for every agent leave the table. -/
theorem State.settle_lags (s : State) (p : Nat → Bool) (c : Nat) : (s.settle p).lags c = if p c then [] else s.lags c := by
  rw [State.settle, State.lags, State.lags, Tab.getD, Tab.getD, Tab.get?_keepKey]
  cases p c <;> simp

@[simp] theorem State.settle_mem (s : State) (p : Nat → Bool) : (s.settle p).mem = s.mem := rfl
@[simp] theorem State.settleStore_mem (s : State) (n : Nat) : (s.settleStore n).mem = s.mem := rfl
@[simp] theorem State.onLate_mem (s : State) (f : Nat → Late → Late) : (s.onLate f).mem = s.mem := rfl
@[simp] theorem State.publish_mem (s : State) (f : Nat → Late → Bool) (ps : List Path) (n team : Nat) :
    (s.publish f ps n team).mem = s.mem := rfl
@[simp] theorem State.observe_mem (s : State) (f : Nat → Late → Bool) (xs : List Seen) : (s.observe f xs).mem = s.mem := rfl

/-- A store changes memory alike whether or not it lags. -/
@[simp] theorem State.store_mem (s : State) (l : Loc) (bs : List Byte) : (s.store l bs).mem = Memory.write s.mem l bs := by
  unfold State.store; split <;> rfl

/-- A store for every agent leaves none on its own cells, and those of other cells as they were. -/
theorem State.store_lags (s : State) (l : Loc) (bs : List Byte) (c : Nat) (h : s.late.now = none) :
    (s.store l bs).lags c = if inRun l.cell bs.length c then [] else s.lags c := by
  unfold State.store
  rw [h]
  exact s.settle_lags _ c

/-- What a change of stores leaves on a cell. -/
theorem State.onLate_lags (s : State) (f : Nat → Late → Late) (c : Nat) : (s.onLate f).lags c = (s.lags c).map (f c) := by
  unfold State.onLate State.lags Tab.getD
  rw [Tab.get?_mapVal]
  cases s.late.cells.get? c <;> rfl

/-- Raising a path at device scope or beyond raises it and no other. -/
theorem Late.level_raise (e : Late) (p q : Path) (n team : Nat) (h : n ≠ 1) :
    (e.raise p n team).level q = if q = p then max n (e.level p) else e.level q := by
  unfold Late.raise
  rw [if_neg (by omega)]
  cases p <;> cases q <;> simp [Late.level, Reach.level, Reach.raise]

/-- A store raised at team scope is performed for an agent of that team. -/
theorem Late.reaches_raise (e : Late) (p : Path) (v : Viewer) (hp : v.path = p) (hf : v.far = 2) : (e.raise p 1 v.team).reaches v = true := by
  unfold Late.raise
  by_cases h : v.team = e.team
  · rw [if_neg (by simp [h])]
    subst hp
    have hl : 1 ≤ (e.reach.raise v.path 1).level v.path := by
      cases v.path <;> simp [Reach.level, Reach.raise]
    simp only [Late.reaches, Late.level, hf, h]
    by_cases h2 : 2 ≤ (e.reach.raise v.path 1).level v.path
    · simp [h2]
    · have : (e.reach.raise v.path 1).level v.path = 1 := by omega
      simp [this]
  · rw [if_pos ⟨rfl, h⟩]
    subst hp
    simp [Late.reaches, hf]

end Sys2Proof.Machine
end

