-- ==== Sys2Proof/Tests/Slice0.lean ====
section
/-! SUPPORT. Tests: illegal terms that the well-formedness check refuses, words of the spec decoded, single steps whose results the spec
gives, and for each part of a statement with hypotheses a state and operands that meet them (`wit_<part>`). -/

set_option maxRecDepth 100000
set_option maxHeartbeats 1000000

namespace Sys2Proof.Tests
open Sys2Proof Sys2Proof.Machine
/-! Terms that the well-formedness check refuses, one for each condition. -/

/-- 02 R42: an immediate carries no E bit. -/
theorem test_wf_immediate : (Instr.iaddi true 100 false 1 2).wf = false ∧ (Instr.iaddi false 100 false 1 2).wf = true := by decide
/-- 02 R37: no destination k0, s62 or s63, and no late destination s61. -/
theorem test_wf_destinations :
    (Instr.icmpEq false 1 false 2 0).wf = false ∧ (Instr.sadd false 64 false 1 62).wf = false ∧
    (Instr.zbcast false 12 false 6 61).wf = false ∧ (Instr.k2s false 2 31).wf = false ∧ (Instr.sadd false 64 false 1 61).wf = true := by
  decide
/-- 02 R38: an instruction that reads s62 has no destination s61. -/
theorem test_wf_read_of_s62 :
    (Instr.sadd false 62 false 1 61).wf = false ∧ (Instr.rdlane false 62 false 1 61).wf = false ∧
    (Instr.sadd false 62 false 1 60).wf = true := by decide
/-- 07 R172: a scalar code of a pair is even. -/
theorem test_wf_pair : (Instr.sadd64 false 5 false 1 2).wf = false ∧ (Instr.sadd64 false 4 false 1 2).wf = true := by decide
/-- 02 R39, R40: control and special registers that are not listed. -/
theorem test_wf_registers :
    (Instr.crd 0x13 1).wf = false ∧ (Instr.cwr 0x100 1).wf = false ∧ (Instr.srd 17 1).wf = false ∧ (Instr.srd 5 62).wf = false := by
  decide
/-- 05 R111: conversion codes. -/
theorem test_wf_conversions :
    (Instr.cvt 48 false 2 4 0).wf = false ∧ (Instr.cvt 9 false 2 4 0).wf = false ∧ (Instr.cvt 37 false 2 5 0).wf = false ∧
    (Instr.cvt 1 false 2 4 1).wf = false ∧ (Instr.cvt 36 false 2 4 0).wf = true := by decide
/-- 02 R47, 04 R84: spaces, ordering codes, sizes, alignment and blocks of accesses. -/
theorem test_wf_accesses :
    (Instr.ld 3 0 0 4 8 4).wf = false ∧ (Instr.ld 0 2 0 4 8 4).wf = false ∧ (Instr.ld 0 0 0 5 8 4).wf = false ∧
    (Instr.ld 0 0 0 4 9 5).wf = false ∧ (Instr.st 0 1 0 4 8 4).wf = false ∧ (Instr.st 0 0 0 4 8 1).wf = false ∧
    (Instr.lds 0 0 0 4 61 4).wf = false ∧ (Instr.lds 0 0 0 4 56 7).wf = false ∧ (Instr.sts 0 0 0 64 8 4).wf = false ∧
    (Instr.atom32 0 0 0 4 9 7).wf = false ∧ (Instr.atom64 0 0 0 4 10 7).wf = false := by decide
/-- Operand blocks of the other instructions. -/
theorem test_wf_blocks :
    (Instr.cpy 0 60 4 8).wf = false ∧ (Instr.cpy 0 4 57 8).wf = false ∧ (Instr.waitf 3 16).wf = false ∧ (Instr.waitf 1 64).wf = false ∧
    (Instr.snaphash 4 4 30).wf = false ∧ (Instr.snapget 30 4 4).wf = false ∧ (Instr.trace 4 4 121).wf = false ∧
    (Instr.mma 0 0 121 16 0).wf = false ∧ (Instr.mma 0 0 16 121 0).wf = false ∧ (Instr.view 4 51 2 3).wf = false := by decide
/-! Words that the spec writes out, with the source it gives for them (02 R43, R44; 04 to 13; 18; 20), and words of the tables. -/

/-- The instruction of a 32-bit word. -/
def reads (w : Nat) : Option Instr := match decode (leBytes 4 w) with | .instr i 4 => some i | _ => none

/-- Majors 0x00 to 0x0C. -/
theorem test_decode_spec_0 :
    reads 0x05040781 = some (.isubs false 5 false 4 3) ∧
    reads 0x14080E01 = some (.iadd false 20 false 8 7) ∧
    reads 0x09080E03 = some (.iaddi false 9 false 8 7) ∧
    reads 0x5B080E03 = some (.iaddi false 91 false 8 7) ∧
    reads 0x0C0B1585 = some (.imad false 12 false 11 10) ∧
    reads 0x50070D89 = some (.andnI false 80 false 7 6) ∧
    reads 0x0E09118B = some (.rol false 14 false 9 8) ∧
    reads 0x0403058D = some (.maxn false 4 false 3 2) ∧
    reads 0x8908050F = some (.icmpLt true 9 false 8 2) ∧
    reads 0x07060B11 = some (.icmpTst false 7 false 6 5) ∧
    reads 0x7F020393 = some (.icmpLeI false 127 false 2 1) ∧
    reads 0x00040695 = some (.clz false 4 3) ∧
    reads 0x07060A97 = some (.bfxs false 7 false 6 5) ∧
    reads 0x09080B19 = some (.sel false 9 2 8 5) := by
  decide
/-- Majors 0x0C to 0x19. -/
theorem test_decode_spec_1 :
    reads 0x09880B19 = some (.sel false 9 6 8 5) ∧
    reads 0x0904061D = some (.fmul false 9 false 4 3) ∧
    reads 0x0928501D = some (.fmul false 9 false 40 40) ∧
    reads 0x1615289D = some (.ffma false 22 false 21 20) ∧
    reads 0x891528A1 = some (.ffmaS true 9 false 21 20) ∧
    reads 0x020107A3 = some (.fcmpUno false 2 false 1 3) ∧
    reads 0x008910A7 = some (.rsq true 9 8) ∧
    reads 0x000509A9 = some (.tanh false 5 4) ∧
    reads 0x0E0D192B = some (.hfma2 false 14 false 13 12) ∧
    reads 0x1412212F = some (.dfma false 10 false 9 8) ∧
    reads 0x20060A31 = some (.cvt 32 false 6 5 0) ∧
    reads 0x220406B1 = some (.cvt 34 false 4 3 1) ∧
    reads 0x05082833 = some (.pack8 5 false 2 20) ∧
    reads 0x070331B3 = some (.unpk4 7 false 3 3) := by
  decide
/-- Majors 0x1A to 0x1D. -/
theorem test_decode_spec_2 :
    reads 0x05040635 = some (.shfl false 5 false 4 3) ∧
    reads 0x05040735 = some (.shflu false 5 false 4 3) ∧
    reads 0x610107B5 = some (.shfld false 97 false 1 3) ∧
    reads 0x610406B5 = some (.shflx false 97 false 4 3) ∧
    reads 0x00010AB7 = some (.vredAdd false 1 5) ∧
    reads 0x00070637 = some (.ballot false 7 3) ∧
    reads 0x000C1337 = some (.vredFadd false 12 9) ∧
    reads 0x000C13B7 = some (.vredFmax false 12 9) ∧
    reads 0x05040639 = some (.bcast false 5 false 4 3) ∧
    reads 0x060A21B9 = some (.wrx false 6 false 10 16) ∧
    reads 0x06101539 = some (.rdx false 6 false 16 10) ∧
    reads 0x65040EB9 = some (.rdlane false 101 false 4 7) ∧
    reads 0x0600113B = some (.lmeet false 6 4) ∧
    reads 0x060015BB = some (.lpc false 6 5) := by
  decide
/-- Majors 0x1D to 0x21. -/
theorem test_decode_spec_3 :
    reads 0x060512BB = some (.lwr false 6 false 5 9) ∧
    reads 0x06090A3B = some (.lrd false 6 false 9 5) ∧
    reads 0x262F0CBB = some (.lwr false 38 false 47 6) ∧
    reads 0x060509BD = some (.kandn false 6 false 5 4) ∧
    reads 0x0002103F = some (.k2s false 2 4) ∧
    reads 0x00030FBF = some (.kffs false 3 7) ∧
    reads 0x00000141 = some (.srd 0 2) ∧
    reads 0x0002C2C1 = some (.srd 11 5) ∧
    reads 0x00034441 = some (.srd 13 8) ∧
    reads 0x000046C3 = some (.cwr 1 6) ∧
    reads 0x00044643 = some (.crd 17 6) ∧
    reads 0x000446C3 = some (.cwr 17 6) ∧
    reads 0x00122E43 = some (.crd 72 46) ∧
    reads 0x00218CC3 = some (.cwr 134 12) := by
  decide
/-- Majors 0x24 to 0x2C. -/
theorem test_decode_spec_4 :
    reads 0x00100049 = some (.addiS 64 0) ∧
    reads 0x5F0B15CF = some (.sltn false 95 false 11 10) ∧
    reads 0x18162951 = some (.smulw false 24 false 11 10) ∧
    reads 0x68003851 = some (.sadd64 false 104 false 0 14) ∧
    reads 0x000605D3 = some (.brneg 6 2) ∧
    reads 0x000C0ED3 = some (.brz 12 7) ∧
    reads 0xFFDE0F53 = some (.brnz 65502 7) ∧
    reads 0xFFF80053 = some (.br 65528) ∧
    reads 0x000A0655 = some (.brk 10 3) ∧
    reads 0x000A06D5 = some (.brkn 10 3) ∧
    reads 0xFFFC1355 = some (.brv 65532 9) ∧
    reads 0xFFFC13D5 = some (.brvz 65532 9) ∧
    reads 0x000E3C57 = some (.setmeet 14 15) ∧
    reads 0x00001559 = some (.jmpv 0 5) := by
  decide
/-- Majors 0x2C to 0x30. -/
theorem test_decode_spec_5 :
    reads 0x00003DD9 = some (.rstmeet 15) ∧
    reads 0x00005059 = some (.jmp 0 20) ∧
    reads 0x004050D9 = some (.call 64 20) ∧
    reads 0x000001DB = some (.rtrap) ∧
    reads 0x0001015B = some (.breakI 1) ∧
    reads 0x000700DB = some (.trap 7) ∧
    reads 0x0000005F = some (.repack) ∧
    reads 0x000000DF = some (.yield) ∧
    reads 0x00017DDF = some (.waitf 1 62) ∧
    reads 0x000307DF = some (.waitf 3 3) ∧
    reads 0x00C8015F = some (.sleep 200) ∧
    reads 0x090001E1 = some (.wait false 9) ∧
    reads 0x60000061 = some (.bar false 96) ∧
    reads 0x620500E1 = some (.barm false 98 false 5) := by
  decide
/-- Majors 0x30 to 0x34. -/
theorem test_decode_spec_6 :
    reads 0x63000161 = some (.arrive false 99) ∧
    reads 0x00000163 = some (.fenceA) ∧
    reads 0x000020E3 = some (.fenceP 0 2 0) ∧
    reads 0x02000C63 = some (.fenceS 1 6) ∧
    reads 0x02001263 = some (.fenceS 1 9) ∧
    reads 0x0C000065 = some (.zbar false 12) ∧
    reads 0x0C060AE5 = some (.zbcast false 12 false 6 5) ∧
    reads 0x0C080F65 = some (.zred false 12 false 8 7) ∧
    reads 0x600401E5 = some (.zsig false 96 false 4) ∧
    reads 0x000004E7 = some (.crst 2) ∧
    reads 0x00021367 = some (.cqry 2 9) ∧
    reads 0x00050467 = some (.cdecl false 5 2) ∧
    reads 0x00850467 = some (.cdecl true 5 2) ∧
    reads 0x13083269 = some (.ld 0 1 3 4 12 4) := by
  decide
/-- Majors 0x34 to 0x3A. -/
theorem test_decode_spec_7 :
    reads 0x400C3269 = some (.ld 1 0 0 6 12 4) ∧
    reads 0x82163269 = some (.ld 2 0 2 11 12 4) ∧
    reads 0x2308326B = some (.st 0 2 3 4 12 4) ∧
    reads 0xA1305A6B = some (.st 2 2 1 24 22 4) ∧
    reads 0x002822ED = some (.lds 0 0 0 20 8 5) ∧
    reads 0x0000226F = some (.sts 0 0 0 0 8 4) ∧
    reads 0x0058A36F = some (.sts 0 0 0 44 40 6) ∧
    reads 0x400C266F = some (.sts 1 0 0 6 9 4) ∧
    reads 0x01080871 = some (.atom32 0 0 1 4 2 0) ∧
    reads 0x31082871 = some (.atom32 0 3 1 4 10 0) ∧
    reads 0x400C43F3 = some (.atom64 1 0 0 6 16 7) ∧
    reads 0x00001F75 = some (.tzero 7) ∧
    reads 0x00C20EF5 = some (.twrc 6 8 3) ∧
    reads 0x01200BF5 = some (.tmov 9 2) := by
  decide
/-- Majors 0x3A to 0x3E. -/
theorem test_decode_spec_8 :
    reads 0x02800075 = some (.tld 0 10 0) ∧
    reads 0x02E30175 = some (.trdr 23 12 0) ∧
    reads 0x094010F5 = some (.tst 1 5 4) ∧
    reads 0x07185077 = some (.cpy 0 28 24 20) ∧
    reads 0x0A008277 = some (.pref 0 40 32) ∧
    reads 0x15187077 = some (.cpy 1 20 24 28) ∧
    reads 0x25187177 = some (.cpysp 2 20 24 28) ∧
    reads 0x00404079 = some (.mma 0 0 16 8 0) ∧
    reads 0x12A10179 = some (.mma 1 1 40 32 2) ∧
    reads 0x34608279 = some (.mma 3 2 24 16 4) ∧
    reads 0x0000037D = some (.tret) ∧
    reads 0x0000D0FD = some (.dump 6) ∧
    reads 0x0060A8FD = some (.tidrd 6 5) ∧
    reads 0x00A0AC7D = some (.spawn 5 5) := by
  decide
/-- Majors 0x3E to 0x3E. -/
theorem test_decode_spec_9 :
    reads 0x2482027D = some (.trace 9 8 16) ∧
    reads 0x248202FD = some (.traces 9 8 16) ∧
    reads 0x30A0087D = some (.tidset 12 5) ∧
    reads 0x3141447D = some (.snaphash 12 10 5) ∧
    reads 0x314144FD = some (.snapfind 12 10 5) ∧
    reads 0x34D18A7D = some (.tdef 13 13 12) ∧
    reads 0x4CA2467D = some (.snaprel 19 10 9) ∧
    reads 0x518205FD = some (.snapdep 10 12 8) ∧
    reads 0x6161C57D = some (.snapget 12 22 7) ∧
    reads 0x7944607D = some (.view 30 20 2 3) ∧
    reads 0xA0A0207D = some (.view 40 10 0 1) := by
  decide
/-- The instruction of a 16-bit word. -/
def readsH (w : Nat) : Option Instr := match decode (leBytes 2 w) with | .instr i 2 => some i | _ => none

/-- Words of the tables of 02 R43 and R58: MOV_H to FSUB_H. -/
theorem test_decode_table_0 :
    readsH 0x6EE0 = some (.movH 13 27 true) ∧
    readsH 0x0CA2 = some (.notH 1 18 true) ∧
    readsH 0x21E4 = some (.iaddH 4 7 true) ∧
    readsH 0x5626 = some (.isubH 10 24 true) ∧
    readsH 0xB328 = some (.imulH 22 12 true) ∧
    readsH 0xDE2A = some (.andH 27 24 true) ∧
    readsH 0xE56C = some (.orH 28 21 true) ∧
    readsH 0xDB2E = some (.xorH 27 12 true) ∧
    readsH 0x4270 = some (.shlH 8 9 true) ∧
    readsH 0x8F72 = some (.shrH 17 29 true) ∧
    readsH 0x3AB4 = some (.sarH 7 10 true) ∧
    readsH 0x89B6 = some (.faddH 17 6 true) ∧
    readsH 0xC1F8 = some (.fsubH 24 7 true) := by
  decide
/-- Words of the tables of 02 R43 and R58: FMUL_H to OR. -/
theorem test_decode_table_1 :
    readsH 0x3D3A = some (.fmulH 7 20 true) ∧
    readsH 0x873C = some (.fmaxH 16 28 true) ∧
    readsH 0xA97E = some (.fminH 21 5 true) ∧
    reads 0xA09A5E81 = some (.isub true 32 true 26 47) ∧
    reads 0xB19B5D01 = some (.iadds true 49 true 27 46) ∧
    reads 0x8F9F4283 = some (.isubi true 15 true 31 33) ∧
    reads 0xA7983103 = some (.iaddsi true 39 true 24 24) ∧
    reads 0x8F303383 = some (.isubsi true 15 false 48 25) ∧
    reads 0xA9A61205 = some (.imul true 41 true 38 9) ∧
    reads 0x81A14685 = some (.imulhi true 1 true 33 35) ∧
    reads 0xA5A61D05 = some (.imulhin true 37 true 38 14) ∧
    reads 0xA4A96007 = some (.and true 36 true 41 48) ∧
    reads 0x9B915887 = some (.or true 27 true 17 44) := by
  decide
/-- Words of the tables of 02 R43 and R58: XOR to ICMP_NE. -/
theorem test_decode_table_2 :
    reads 0x8B8A0907 = some (.xor true 11 true 10 4) ∧
    reads 0x9A304987 = some (.andn true 26 false 48 36) ∧
    reads 0x93A95A09 = some (.andI true 19 true 41 45) ∧
    reads 0x958A3089 = some (.orI true 21 true 10 24) ∧
    reads 0x90866309 = some (.xorI true 16 true 6 49) ∧
    reads 0x929D0E0B = some (.shl true 18 true 29 7) ∧
    reads 0x9784348B = some (.shr true 23 true 4 26) ∧
    reads 0x909E590B = some (.sar true 16 true 30 44) ∧
    reads 0xA387600D = some (.min true 35 true 7 48) ∧
    reads 0x82220E8D = some (.max true 2 false 34 7) ∧
    reads 0x86A23B0D = some (.minn true 6 true 34 29) ∧
    reads 0x2D911C0F = some (.icmpEq false 45 true 17 14) ∧
    reads 0x8EA3028F = some (.icmpNe true 14 true 35 1) := by
  decide
/-- Words of the tables of 02 R43 and R58: ICMP_LE to BSHUF. -/
theorem test_decode_table_3 :
    reads 0xACAE158F = some (.icmpLe true 44 true 46 10) ∧
    reads 0xAA820611 = some (.icmpLtn true 42 true 2 3) ∧
    reads 0xA5A70C91 = some (.icmpLen true 37 true 39 6) ∧
    reads 0x0CAE1B91 = some (.icmpTstn false 12 true 46 13) ∧
    reads 0xA7A01A13 = some (.icmpEqI true 39 true 32 13) ∧
    reads 0x83880493 = some (.icmpNeI true 3 true 8 2) ∧
    reads 0xABAF1913 = some (.icmpLtI true 43 true 47 12) ∧
    reads 0x00A32215 = some (.popc true 35 17) ∧
    reads 0x00915D15 = some (.brev true 17 46) ∧
    reads 0x00A04595 = some (.ctz true 32 34) ∧
    reads 0x84B02017 = some (.bfxn true 4 true 48 16) ∧
    reads 0x268E5717 = some (.bfi false 38 true 14 43) ∧
    reads 0x97863D97 = some (.bshuf true 23 true 6 30) := by
  decide
/-- Words of the tables of 02 R43 and R58: FADD to FFNMA_S. -/
theorem test_decode_table_4 :
    reads 0x8A8A601B = some (.fadd true 10 true 10 48) ∧
    reads 0x919E629B = some (.fsub true 17 true 30 49) ∧
    reads 0x98A6211B = some (.fmin true 24 true 38 16) ∧
    reads 0x9BAC359B = some (.fmax true 27 true 44 26) ∧
    reads 0xB097311D = some (.ffms true 48 true 23 24) ∧
    reads 0x8518399D = some (.ffnma true 5 false 24 28) ∧
    reads 0x2F970A1F = some (.faddS false 47 true 23 5) ∧
    reads 0xAC8B449F = some (.fsubS true 44 true 11 34) ∧
    reads 0x1A913B1F = some (.fminS false 26 true 17 29) ∧
    reads 0xA78A259F = some (.fmaxS true 39 true 10 18) ∧
    reads 0x9CA41E21 = some (.fmulS true 28 true 36 15) ∧
    reads 0x15A64121 = some (.ffmsS false 21 true 38 32) ∧
    reads 0x8B1A3FA1 = some (.ffnmaS true 11 false 26 31) := by
  decide
/-- Words of the tables of 02 R43 and R58: FCMP_EQ to SQRT. -/
theorem test_decode_table_5 :
    reads 0x84950823 = some (.fcmpEq true 4 true 21 4) ∧
    reads 0x8B811EA3 = some (.fcmpLt true 11 true 1 15) ∧
    reads 0x9F8C0F23 = some (.fcmpLe true 31 true 12 7) ∧
    reads 0x009C3825 = some (.fabs true 28 28) ∧
    reads 0x00B110A5 = some (.fneg true 49 8) ∧
    reads 0x00875325 = some (.ffloor true 7 41) ∧
    reads 0x00955FA5 = some (.fceil true 21 47) ∧
    reads 0x009D1027 = some (.rcp true 29 8) ∧
    reads 0x00815127 = some (.ex2 true 1 40) ∧
    reads 0x00AC1FA7 = some (.lg2 true 44 15) ∧
    reads 0x008C1A29 = some (.sin true 12 13) ∧
    reads 0x00A922A9 = some (.cos true 41 17) ∧
    reads 0x00960929 = some (.sqrt true 22 4) := by
  decide
/-- Words of the tables of 02 R43 and R58: HADD2 to KAND. -/
theorem test_decode_table_6 :
    reads 0xA19A4A2B = some (.hadd2 true 33 true 26 37) ∧
    reads 0xAB2444AB = some (.hmul2 true 43 false 36 34) ∧
    reads 0xA4AE21AB = some (.hmax2 true 36 true 46 16) ∧
    reads 0x129F022D = some (.badd2 false 18 true 31 1) ∧
    reads 0xA89F02AD = some (.bmul2 true 40 true 31 1) ∧
    reads 0xA5B05D2D = some (.bfma2 true 37 true 48 46) ∧
    reads 0x958931AD = some (.bmax2 true 21 true 9 24) ∧
    reads 0x96A0602F = some (.dadd true 11 true 16 24) ∧
    reads 0xB09218AF = some (.dmul true 24 true 9 6) ∧
    reads 0xD6BE05AF = some (.dmin true 43 true 31 1) ∧
    reads 0x278D58B3 = some (.unpk8 39 true 13 11) ∧
    reads 0x15C00F33 = some (.pack4 21 true 8 7) ∧
    reads 0x81831C3D = some (.kand true 1 true 3 14) := by
  decide
/-- Words of the tables of 02 R43 and R58: KOR to SXOR. -/
theorem test_decode_table_7 :
    reads 0x8F8A12BD = some (.kor true 15 true 10 9) ∧
    reads 0x868A0D3D = some (.kxor true 6 true 10 6) ∧
    reads 0x00820CBF = some (.s2k true 1 6) ∧
    reads 0x008B513F = some (.kpopc true 11 40) ∧
    reads 0x9CDC8545 = some (.moviV 160626 10) ∧
    reads 0x75819847 = some (.moviS 120326 48) ∧
    reads 0xDA88A1C7 = some (.movihS 223778 3) ∧
    reads 0xA8AB164B = some (.sadd true 40 true 43 11) ∧
    reads 0x8BA24ECB = some (.ssub true 11 true 34 39) ∧
    reads 0x93882D4B = some (.smul true 19 true 8 22) ∧
    reads 0x9C2663CB = some (.sand true 28 false 38 49) ∧
    reads 0x959E5C4D = some (.sor true 21 true 30 46) ∧
    reads 0x898E4ECD = some (.sxor true 9 true 14 39) := by
  decide
/-- Words of the tables of 02 R43 and R58: SSHL to CPYG. -/
theorem test_decode_table_8 :
    reads 0x0A992B4D = some (.sshl false 10 true 25 21) ∧
    reads 0x90872DCD = some (.sshr true 16 true 7 22) ∧
    reads 0xAD81024F = some (.seq true 45 true 1 1) ∧
    reads 0x0B1414CF = some (.sne false 11 false 20 10) ∧
    reads 0x892D154F = some (.slt true 9 false 45 10) ∧
    reads 0xA6AE0CD1 = some (.ssub64 true 38 true 23 3) ∧
    reads 0x8AB43DD1 = some (.sshl64 true 10 true 26 15) ∧
    reads 0x0000005B = some (.exit) ∧
    reads 0x0001F65D = some (.rep 1 true true true 44) ∧
    reads 0x00E3C5F5 = some (.trdc 7 15 1) ∧
    reads 0x02C07E75 = some (.twrr 22 1 15) ∧
    reads 0x171AB0F7 = some (.cpymc 1 28 26 44) ∧
    reads 0x63689DF7 = some (.cpyg 6 13 40 39) := by
  decide
/-- Words of the tables of 02 R43 and R58: VRET to DRES. -/
theorem test_decode_table_9 :
    reads 0x0001A0FD = some (.vret 13) ∧
    reads 0x486223FD = some (.rast 18 6 17) ∧
    reads 0x01F3E97D = some (.wpos 31 31) ∧
    reads 0x2AB14AFD = some (.tdec 10 43 10) ∧
    reads 0x1F030B7D = some (.twait 7 48 24) ∧
    reads 0xC4A24D7D = some (.cred 49 5 18) ∧
    reads 0x5502EDFD = some (.cbcast 21 8 23) ∧
    reads 0x0000107D = some (.lull) ∧
    reads 0x0230117D = some (.dstep 35) ∧
    reads 0x002011FD = some (.dres 1) := by
  decide
/-- 02 R59: majors 0x3D and 0x3F, and an undefined fn, are no instruction. -/
theorem test_decode_illegal :
    reads 0x0000007B = none ∧ reads 0x0000007F = none ∧ reads 0x000001E7 = none ∧ reads 0x00001FFD = none ∧ decode [] = .short ∧ decode [1, 0] = .short := by
  decide
/-! Single steps on a small state: lanes 0 and 1 of a group of 32 issue an instruction. -/

/-- The launched package in an issue of group 0 with a mask and a class. -/
def at0 (m : Mask := 3) (c : Cls := .ordinary) : State :=
  { State.reset.launch 0 with agenda := [], cur := { Cur.idle with pc := launchPc, mask := m, cls := c } }

/-- The issuing group. -/
def grp (s : State) : Group := s.curGroup?.getD Group.blank

/-- A state with vector registers set in lanes 0 and 1, and scalars. -/
def State.regs (s : State) (vs ss : List (Nat × Word)) : State :=
  s.modGroup s.cur.gid fun g =>
    { g with
      v := vs.foldl (fun t x => (t.set (x.1 * 64) x.2).set (x.1 * 64 + 1) x.2) g.v
      s := ss.foldl (fun t x => t.set x.1 x.2) g.s }

/-- The state after an instruction; reset where it gives none. -/
def after (x : Out) : State := match x with | .next t => t | _ => State.reset

/-- Group 0 after an instruction. -/
def after0 (i : Instr) (s : State) : Group := ((after (exec i s)).group? 0).getD Group.blank

/-- Register v3 of lane 0 and cr.FPFLAGS after an instruction on v1 and v2, with an old v3. -/
def v3 (i : Instr) (a b d : Word) : Word × Word :=
  let g := after0 i (State.regs at0 [(1, a), (2, b), (3, d)] [(9, b)])
  (g.vr 3 0, g.cr 0x11)

/-- The cases of 07 R151. -/
theorem test_integer_cases :
    (v3 (.iadd false 2 false 1 3) 0x7FFFFFF0 0x20 0).1 = 0x80000010 ∧
    (v3 (.iadds false 2 false 1 3) 0x7FFFFFF0 0x20 0).1 = 0x7FFFFFFF ∧
    (v3 (.isubs false 2 false 1 3) 0x80000000 1 0).1 = 0x80000000 ∧
    (v3 (.imulhi false 2 false 1 3) 0xFFFFFFFF 0xFFFFFFFF 0).1 = 0 ∧
    (v3 (.imulhin false 2 false 1 3) 0xFFFFFFFF 0xFFFFFFFF 0).1 = 0xFFFFFFFE ∧
    (v3 (.sar false 9 false 1 3) 0x80000001 4 0).1 = 0xF8000000 ∧
    (v3 (.rol false 9 false 1 3) 0x80000001 4 0).1 = 0x18 ∧
    (v3 (.min false 2 false 1 3) 0xFFFFFFFF 1 0).1 = 0xFFFFFFFF ∧ (v3 (.minn false 2 false 1 3) 0xFFFFFFFF 1 0).1 = 1 := by decide

/-- The cases of 07 R155. -/
theorem test_field_cases :
    (v3 (.bfxn false 9 false 1 3) 0xDEADBEEF 0xB04 0).1 = 0xBEE ∧ (v3 (.bfxs false 9 false 1 3) 0xDEADBEEF 0xB04 0).1 = 0xFFFFFBEE ∧
    (v3 (.bfi false 9 false 1 3) 0xABC 0xB04 0x12345678).1 = 0x1234ABC8 ∧
    (v3 (.bshuf false 9 false 1 3) 0x12345678 0x1B 0).1 = 0x78563412 ∧
    (v3 (.bshuf false 9 false 1 3) 0x11223344 0xC0E4 0xAABBCCDD).1 = 0xAABB3344 ∧
    (v3 (.bshuf false 9 false 1 3) 0x11223344 0x3E4 0xAABBCCDD).1 = 0x11220000 := by decide

/-- The cases of 07 R162, with the flags they raise: NV is bit 0, OF bit 2, UF bit 3, NX bit 4. -/
theorem test_float_cases :
    v3 (.fadd false 2 false 1 3) 0x7F800000 0xFF800000 0 = (0x7FC00000, 1) ∧
    v3 (.fadd false 2 false 1 3) 0x80000000 0x80000000 0 = (0x80000000, 0) ∧
    v3 (.fadd false 2 false 1 3) 0x7F000000 0x7F000000 0 = (0x7F800000, 0x14) ∧
    v3 (.fmul false 2 false 1 3) 0x0D800000 0x21800000 0 = (0, 0x18) ∧
    v3 (.fmul false 2 false 1 3) 0x1A000000 0x1C800000 0 = (0x00000010, 0) ∧
    v3 (.ffma false 2 false 1 3) 0 0x7F800000 0x7FC00000 = (0x7FC00000, 1) ∧
    v3 (.fmin false 2 false 1 3) 0x7FC00001 0x40000000 0 = (0x40000000, 0) ∧
    v3 (.fmin false 2 false 1 3) 0x7F800001 0x40000000 0 = (0x40000000, 1) ∧
    v3 (.fmin false 2 false 1 3) 0x80000000 0 0 = (0x80000000, 0) ∧ v3 (.fmax false 2 false 1 3) 0x80000000 0 0 = (0, 0) ∧
    v3 (.fneg false 1 3) 0x7F800001 0 0 = (0xFF800001, 0) := by decide

/-- 01 R16: a lane outside the active set keeps its register; 01 R17: the ages after the issue. -/
theorem test_active_set :
    let g := after0 (.moviV 5 3) (at0 2)
    g.vr 3 0 = 0 ∧ g.vr 3 1 = 5 ∧ (g.lane 0).age = 1 ∧ (g.lane 1).age = 0 ∧ (g.lane 0).pc = launchPc ∧ (g.lane 1).pc = launchPc + 4 := by
  decide

/-- 08 R176: SHFLU reads lane j − n, 0 outside; the lanes are read before any is written. -/
theorem test_shuffle_up :
    let g := after0 (.shflu false 97 false 0 0) (at0 7)
    g.vr 0 0 = 0 ∧ g.vr 0 1 = 0 ∧ g.vr 0 2 = 1 ∧ g.vr 0 3 = 3 := by decide

/-- 08 R180: VRED.ADD sums the active lanes; 08 R179: BALLOT gives the lanes whose value is not 0. -/
theorem test_reductions :
    (after0 (.vredAdd false 0 5) (at0 0x1E)).sr 5 = 10 ∧ (after0 (.ballot false 0 3) (at0 0xF)).kr 3 = 0xE := by decide

/-- 07 R172, R174: a product of pairs, and the index of the lowest set bit of the live mask. -/
theorem test_pairs_and_masks :
    let g := after0 (.smulw false 24 false 11 10) (State.regs at0 [] [(22, 0xFFFFFFFF), (24, 2)])
    g.sr 20 = 0xFFFFFFFE ∧ g.sr 21 = 1 ∧ (after0 (.kffs false 0 7) at0).sr 7 = 0 ∧ (after0 (.kpopc false 0 7) at0).sr 7 = 32 := by
  decide

/-- 02 R39, 07 R173: a write of k1 clears the bits from the width on. -/
theorem test_mask_width : (after0 (.s2k false 4 1) (State.regs at0 [] [(8, 0xFFFFFFFF), (9, 0xFFFFFFFF)])).kr 1 = 0xFFFFFFFF := by decide

/-- 13 R260: BRZ is taken by the whole active set; BRV by the lanes whose value is not 0. -/
theorem test_branches :
    ((after0 (.brz 0xFFF8 7) at0).lane 0).pc = launchPc - 16 ∧ ((after0 (.brnz 0xFFF8 7) at0).lane 0).pc = launchPc + 4 ∧
    (let g := after0 (.brv 0xFFFC 0) at0
     (g.lane 0).pc = launchPc + 4 ∧ (g.lane 1).pc = launchPc - 8) := by decide

/-- 13 R262, 01 R19: lanes that reach their meeting point are held until the others do. -/
theorem test_meeting :
    let s := at0.modGroup 0 fun g => { g with lanes := g.lanes.map fun l => { l with meet := launchPc + 4 } }
    let g := after0 (.moviV 5 3) { s with cur := { s.cur with mask := 0x7FFFFFFF } }
    (g.lane 0).held = true ∧ (g.lane 31).held = false ∧ g.relq = [] ∧
    (let h := after0 (.moviV 5 3) { s with cur := { s.cur with mask := 0xFFFFFFFF } }
     (h.lane 0).held = false ∧ h.relq = [launchPc + 4]) := by decide

/-- 18 R317, R321: TRAP parks the active set with its code; without a handler the context is faulted (R318). -/
theorem test_trap :
    let t := after (exec (.trap 7) (at0.modPart 0 fun p => p.setCr 0x40 0x1000))
    ((t.group? 0).map fun g => (g.parked.map fun x => (x.cause, x.code, x.mask), (g.lane 0).parked, (g.lane 2).parked)) =
      some ([(5, 7, 3)], true, false) ∧
    (t.part 0).faulted = false ∧ ((after (exec (.trap 7) at0)).part 0).faulted = true := by decide

/-- 02 R59: a register that the group was not allotted, before an empty one. -/
theorem test_register_bound :
    let s := at0.modGroup 0 fun g => { g with nv := 8, empty := [.v 2] }
    let t := (s.modPart 0 fun p => p.setCr 0x40 0x1000)
    (after0 (.iadd false 2 false 9 3) t).parked.map (·.cause) = [3] ∧ (after0 (.iadd true 2 false 1 3) t).parked.map (·.cause) = [4] ∧
    (after (exec (.iadd false 2 false 1 3) t)).waited = true := by decide

/-- 12 R246: with seed 0 the tokens 0 and 0 give the key 1 and then 0x9E3779B97F4A7C16. -/
theorem test_rolling_key :
    hashStep keyMul 0 0 = 1 ∧ hashStep keyMul 1 0 = 0x9E3779B97F4A7C16 := by decide

/-- A step of the machine runs the word stored where it fetches, as the first instruction. -/
theorem test_first_step :
    let t := after (step (State.reset.withFetchWord 32 0x14080E01))
    ((t.group? 0).map fun g => ((g.lane 0).pc, g.vr 7 3)) = some (launchPc + 4, 0) ∧
    (let u := after (step (State.reset.withFetchWord 16 0x0404))
     ((u.group? 0).map fun g => ((g.lane 5).pc, g.vr 16 5)) = some (launchPc + 2, 5)) := by decide

/-- 00 R11, 04 R86: a byte written is read back, and writing what an unlisted byte reads as removes the entry. -/
theorem test_memory :
    let m := Memory.write [] ⟨.hbm, 0, 5⟩ [7, 0, 9]
    Memory.byte m (Loc.cell ⟨.hbm, 0, 7⟩) = 9 ∧ m.length = 2 ∧ Memory.write m ⟨.hbm, 0, 5⟩ [0, 0, 0] = [] ∧ Memory.wf m = true := by
  decide
/-! States and operands that meet the hypotheses of the statements (`wit_<part>` for each part that has hypotheses). -/

/-- The hypotheses of `Ready`, evaluated. -/
def readyB (s : State) (srcs dests : List Reg) : Bool :=
  match s.curGroup? with
  | none => false
  | some g =>
    s.cur.defer.isNone && (srcs ++ dests).all g.has && (srcs ++ dests).all (fun r => !g.isEmpty r) &&
    (!srcs.contains (.s 62) || !g.rxq.isEmpty) &&
    (!dests.contains (.s 61) || (decide (s.outstanding g.uid < 4) && (s.msgTarget g.part g.msgDst).isSome)) && !g.readsBad s.cur.mask srcs

theorem ready_of {s : State} {srcs dests : List Reg} (h : readyB s srcs dests = true) : Ready s (grp s) srcs dests := by
  unfold readyB at h
  unfold grp
  cases hg : s.curGroup? with
  | none => simp [hg] at h
  | some g =>
    simp only [hg, Bool.and_eq_true, List.all_eq_true, Option.isNone_iff_eq_none, Bool.or_eq_true, Bool.not_eq_true',
      decide_eq_true_eq, List.contains_eq_mem] at h
    obtain ⟨⟨⟨⟨⟨h1, h2⟩, h3⟩, h4⟩, h5⟩, h6⟩ := h
    refine ⟨h1, by simp [hg], h2, h3, fun hm _ => ?_, fun hm _ => ?_, h6⟩
    · rcases h4 with h4 | h4
      · simp [hm] at h4
      · simpa using h4
    · rcases h5 with h5 | h5
      · simp [hm] at h5
      · exact h5

/-- An issue in a trap handler, and in the debug slot's class. -/
def inHandler : State := (at0 1 .handler).modGroup 0 fun g =>
  { g with handling := some { lane := 0, pc := launchPc, entered := 0, issues := 0, rep := none, stopped := none, start := 0, yield := none } }
def inDebug : State := at0 1 .debug

/-- The value and test of a result that may be an error. -/
def okB {α β : Type} (x : Except α β) : Bool := match x with | .ok _ => true | _ => false
def okD {α β : Type} (d : β) (x : Except α β) : β := match x with | .ok v => v | _ => d
theorem ok_of {α β : Type} {d : β} {x : Except α β} (h : okB x = true) : x = .ok (okD d x) := by
  cases x with
  | ok v => rfl
  | error e => cases h

/-! Arithmetic. -/

theorem wit_VectorInteger : Ready at0 (grp at0) [.v 1, .v 2] [.v 3] ∧ Ready at0 (grp at0) [.v 1, .v 2, .v 3] [.v 3] :=
  ⟨ready_of (by decide), ready_of (by decide)⟩
theorem wit_TwoAddressInteger : Ready at0 (grp at0) [.v 1] [.v 3] ∧ Ready at0 (grp at0) [.v 1, .v 3] [.v 3] :=
  ⟨ready_of (by decide), ready_of (by decide)⟩
theorem wit_VectorImmediate : Ready at0 (grp at0) (.v 1 :: siRegs 9) [.v 3] ∧ Ready at0 (grp at0) (.v 1 :: siRegs 127) [.v 3] :=
  ⟨ready_of (by decide), ready_of (by decide)⟩
theorem wit_BitCounts : Ready at0 (grp at0) [.v 127] [.v 0] := ready_of (by decide)
theorem wit_BitFields : Ready at0 (grp at0) (.v 1 :: siRegs 63) [.v 3] ∧ Ready at0 (grp at0) (.v 1 :: .v 3 :: siRegs 63) [.v 3] :=
  ⟨ready_of (by decide), ready_of (by decide)⟩
theorem wit_SelectAndMove : Ready at0 (grp at0) [.v 1, .v 2, .k 7] [.v 3] ∧ Ready at0 (grp at0) [] [.v 127] :=
  ⟨ready_of (by decide), ready_of (by decide)⟩
theorem wit_CompareIssue : Ready at0 (grp at0) [.v 1, .v 2] [.k 15] ∧ Ready at0 (grp at0) (.v 1 :: siRegs 64) [.k 1] :=
  ⟨ready_of (by decide), ready_of (by decide)⟩
theorem wit_ScalarArithmetic : Ready at0 (grp at0) (.s 59 :: siRegs 0) [.s 60] ∧
    (let s := at0.modGroup 0 fun g => { g with rxq := [(5, 0)] }
     Ready s (grp s) (.s 62 :: siRegs 64) [.s 0]) ∧ Ready at0 (grp at0) (.s 5 :: siRegs 64) [.s 61] :=
  ⟨ready_of (by decide), ready_of (by decide), ready_of (by decide)⟩
theorem wit_ScalarImmediate : Ready at0 (grp at0) [] [.s 60] ∧ Ready at0 (grp at0) [.s 5] [.s 5] := ⟨ready_of (by decide), ready_of (by decide)⟩
theorem wit_PairArithmetic : Ready at0 (grp at0) (.s 4 :: .s 5 :: siPair 6) [.s 58, .s 59] := ready_of (by decide)
theorem wit_MaskArithmetic : Ready at0 (grp at0) [.k 0, .k 15] [.k 1] ∧ Ready at0 (grp at0) [.k 0] [.s 4, .s 5] ∧
    Ready at0 (grp at0) [.s 4, .s 5] [.k 1] ∧ Ready at0 (grp at0) [.k 0] [.s 61] :=
  ⟨ready_of (by decide), ready_of (by decide), ready_of (by decide), ready_of (by decide)⟩
theorem wit_FloatArithmetic : Ready at0 (grp at0) [.v 1, .v 2] [.v 3] ∧ Ready at0 (grp at0) [.v 1, .v 2, .v 3] [.v 3] ∧
    NoTrap at0 (grp at0) fun _ => 31 :=
  ⟨ready_of (by decide), ready_of (by decide), by unfold NoTrap; decide⟩
theorem wit_FloatScalarOperand : Ready at0 (grp at0) [.v 1, .s 9] [.v 3] ∧ Ready at0 (grp at0) [.v 1, .s 9, .v 3] [.v 3] :=
  ⟨ready_of (by decide), ready_of (by decide)⟩
theorem wit_FloatTwoAddress : Ready at0 (grp at0) [.v 31, .v 0] [.v 0] ∧ Ready at0 (grp at0) [.v 127] [.v 3] :=
  ⟨ready_of (by decide), ready_of (by decide)⟩
theorem wit_PackedArithmetic : Ready at0 (grp at0) [.v 1, .v 2] [.v 3] ∧ Ready at0 (grp at0) [.v 1, .v 2, .v 3] [.v 3] :=
  ⟨ready_of (by decide), ready_of (by decide)⟩
theorem wit_DoubleArithmetic : Ready at0 (grp at0) [.v 2, .v 3, .v 4, .v 5] [.v 126, .v 127] ∧
    Ready at0 (grp at0) [.v 2, .v 3, .v 4, .v 5, .v 126, .v 127] [.v 126, .v 127] := ⟨ready_of (by decide), ready_of (by decide)⟩
theorem wit_FloatCompareIssue : Ready at0 (grp at0) [.v 1, .v 2] [.k 3] := ready_of (by decide)
theorem wit_SpecialFunctionIssue : Ready at0 (grp at0) [.v 1] [.v 3] ∧ (at0.sp (spIdOf at0.cur.gid)).sfuBusy ≤ (at0.part 0).clock ∧
    Ready inDebug (grp inDebug) [.v 1] [.v 3] ∧ inDebug.cur.cls = .debug := ⟨ready_of (by decide), by decide, ready_of (by decide), rfl⟩

/-- An operation of group 0 under number 7. -/
def withOp (s : State) (cls : PClass) (dests : List Reg) (kind : OpKind) : State :=
  { s with
    ops := s.ops.set 7
      { gid := 0, uid := (grp s).uid, part := 0, pc := launchPc, cls, dests, mask := 3, due := 0, bad := none, kind } }.modGroup 0
    fun g => { g with empty := dests }
/-- The operation under number 7. -/
def op7 (s : State) : Op := (s.ops.get? 7).getD
  { gid := 0, uid := 0, part := 0, pc := 0, cls := .memory, dests := [], mask := 0, due := 0, bad := none, kind := .store }
/-- The operation under number 7 may complete. -/
def dueB (s : State) : Bool :=
  (s.ops.get? 7).isSome && decide (s.group? (op7 s).gid = some (grp s)) && decide ((grp s).uid = (op7 s).uid) && (op7 s).bad.isNone &&
  s.opReady 7 (op7 s)
theorem due_of {s : State} (h : dueB s = true) : Due s 7 (op7 s) (grp s) := by
  simp only [dueB, Bool.and_eq_true, decide_eq_true_eq, Option.isNone_iff_eq_none] at h
  obtain ⟨⟨⟨⟨h1, h2⟩, h3⟩, h4⟩, h5⟩ := h
  obtain ⟨x, hx⟩ := Option.isSome_iff_exists.mp h1
  exact ⟨by rw [op7, hx]; rfl, h2, h3, h4, h5⟩

/-- A compare, a compare of floats and a special function about to complete. -/
def compareDue : State := withOp at0 .compare [.k 2] (.writes [⟨.k 2, 0, 3⟩])
def fcompareDue : State := withOp at0 .compare [.k 2] (.flagged [⟨.k 2, 0, 3⟩] [(0, 1)] Cur.idle true)
def sfuDue : State := withOp at0 .sfu [.v 4] (.flagged ((lanesOf 3).map fun j => ⟨.v 4, j, BitVec.ofNat 64 ((fun _ => ⟨5, 0⟩ : Nat → Fr) j).bits⟩) [] Cur.idle true)
theorem wit_CompareCompletion : Due compareDue 7 (op7 compareDue) (grp compareDue) ∧ (op7 compareDue).cls = .compare ∧
    (op7 compareDue).dests = [.k 2] ∧ (op7 compareDue).kind = .writes [⟨.k 2, 0, 3⟩] ∧
    Due fcompareDue 7 (op7 fcompareDue) (grp fcompareDue) ∧ (op7 fcompareDue).mask ≠ 0 ∧
    (op7 fcompareDue).kind = .flagged [⟨.k 2, 0, 3⟩] [(0, 1)] Cur.idle true :=
  ⟨due_of (by decide), by decide, by decide, by decide, due_of (by decide), by decide, by decide⟩
theorem wit_SpecialFunctionCompletion : Due sfuDue 7 (op7 sfuDue) (grp sfuDue) ∧ (op7 sfuDue).cls = .sfu ∧ (op7 sfuDue).mask ≠ 0 ∧
    (op7 sfuDue).dests = [.v 4] ∧ (op7 sfuDue).kind = .flagged ((lanesOf (op7 sfuDue).mask).map fun j =>
      ⟨.v 4, j, BitVec.ofNat 64 ((fun _ => ⟨5, 0⟩ : Nat → Fr) j).bits⟩) [] Cur.idle true :=
  ⟨due_of (by decide), by decide, by decide, by decide, by decide⟩
theorem wit_Convert : Ready at0 (grp at0) [.v 2, .v 3] [.v 4] ∧ Ready at0 (grp at0) [.v 2] [.v 4, .v 5] :=
  ⟨ready_of (by decide), ready_of (by decide)⟩

/-- The package with entry n of the team's window: format f, valid, no scale. -/
def withTid (s : State) (n f : Nat) : State :=
  { s with teams := s.teams.mapVal fun _ (t : Team) => { t with tids := Store.setRange t.tids (n * 64 + 8) [BitVec.ofNat 8 (f + 128)] } }
theorem wit_Narrow :
    let s := withTid at0 5 1
    let u := withTid at0 5 3
    Ready s (grp s) [.v 8, .v 9, .v 10, .v 11] [.v 20] ∧ Ready s (grp s) [.v 8] [.v 20, .v 21, .v 22, .v 23] ∧
    (s.tidOf (grp s) 5).valid = true ∧ (s.tidOf (grp s) 5).fmt = 1 ∧ (s.tidOf (grp s) 5).scale = 0 ∧ s.cur.cls ≠ .debug ∧
    Ready u (grp u) ((List.range 8).map fun k => .v (8 * 2 + k)) [.v 40] ∧ Ready u (grp u) [.v 3] ((List.range 8).map fun k => .v (8 * 3 + k)) ∧
    (u.tidOf (grp u) 5).valid = true ∧ (u.tidOf (grp u) 5).fmt = 3 ∧ (u.tidOf (grp u) 5).scale = 0 :=
  ⟨ready_of (by decide), ready_of (by decide), by decide, by decide, by decide, by decide, ready_of (by decide), ready_of (by decide),
    by decide, by decide, by decide⟩

/-! Lanes, tiles, registers and control flow. -/

theorem wit_CrossLaneReads : Ready at0 (grp at0) (.v 1 :: .v 3 :: siRegs 5) [.v 3] ∧ Ready at0 (grp at0) (.v 1 :: siRegs 5) [.v 3] ∧
    Ready at0 (grp at0) (.v 1 :: siRegs 101) [.s 7] ∧ (grp at0).sound (.v 1) ∧ (grp at0).sound (.v 3) :=
  ⟨ready_of (by decide), ready_of (by decide), ready_of (by decide), by unfold Group.sound; decide, by unfold Group.sound; decide⟩
theorem wit_BallotAndReductions : Ready at0 (grp at0) [.v 1] [.k 3] ∧ Ready at0 (grp at0) [.v 1] [.s 9] ∧
    ∀ n, n < 5 → (((grp at0).cr 0x10).getLsbD n && (31 : Word).getLsbD n) = false :=
  ⟨ready_of (by decide), ready_of (by decide), by decide⟩
theorem wit_IndirectRegisters :
    let s := State.regs at0 [] [(6, 0x1FFF)]
    Ready at0 (grp at0) [.s 6] [.v 3] ∧ 127 + ((grp at0).sr 6).toNat < (grp at0).nv ∧ (grp at0).isEmpty (.v 127) = false ∧
    (grp at0).readsBad at0.cur.mask [.v 127] = false ∧ Ready s (grp s) [.s 6] [.v 3] ∧ (grp s).nv ≤ 0 + ((grp s).sr 6).toNat ∧ Ready at0 (grp at0) [.v 1, .s 6] [] ∧
    Ready s (grp s) [.v 1, .s 6] [] :=
  ⟨ready_of (by decide), by decide, by decide, by decide, ready_of (by decide), by decide, ready_of (by decide), ready_of (by decide)⟩
theorem wit_HandlerLaneAccess :
    inHandler.cur.cls = .handler ∧ Ready inHandler (grp inHandler) [.v 9, .s 6] [.s 5] ∧ (grp inHandler).sound (.v 9) ∧ Ready inHandler (grp inHandler) [.s 5, .s 6] [.v 9] ∧
    Ready inHandler (grp inHandler) [.s 6] [.s 8, .s 9] ∧ at0.cur.cls ≠ .handler ∧ at0.cur.defer = none ∧
    at0.curGroup? = some (grp at0) :=
  ⟨rfl, ready_of (by decide), by unfold Group.sound; decide, ready_of (by decide), ready_of (by decide), by decide, rfl, by decide⟩
theorem wit_Tiles :
    let s := State.regs at0 [] [(23, 32)]
    Ready at0 (grp at0) [.t 15, .s 23] [.v 12] ∧ ((grp at0).sr 23).toNat < 32 ∧ Ready at0 (grp at0) [.v 12, .s 23] [.t 0] ∧
    Ready s (grp s) [.t 15, .s 23] [.v 12] ∧ Ready s (grp s) [.v 12, .s 23] [.t 0] ∧ 32 ≤ ((grp s).sr 23).toNat ∧
    Ready at0 (grp at0) [] [.t 15] ∧ Ready at0 (grp at0) [.s 23] [.t 2] ∧ ((grp at0).sr 23).toNat < (grp at0).nt ∧
    (grp at0).isEmpty (.t 0) = false ∧ (grp at0).readsBad at0.cur.mask [.t 0] = false ∧ Ready s (grp s) [.s 23] [.t 2] ∧ (grp s).nt ≤ ((grp s).sr 23).toNat :=
  ⟨ready_of (by decide), by decide, ready_of (by decide), ready_of (by decide), ready_of (by decide), by decide, ready_of (by decide),
    ready_of (by decide), by decide, by decide, by decide, ready_of (by decide), by decide⟩
theorem wit_SpecialRegisters : Ready at0 (grp at0) [] [.v 3] ∧ Ready at0 (grp at0) [] [.s 61] ∧ (grp at0).kind ≠ .debug ∧
    at0.teams.get? (grp at0).team = some (launchTeam 41) ∧ at0.grids.get? 41 = some launchGrid ∧ (grp at0).clockHi = none ∧
    (let s := at0.modGroup 0 fun g => { g with clockHi := some 9 }
     Ready s (grp s) [] [.s 5] ∧ (grp s).clockHi = some 9) :=
  ⟨ready_of (by decide), ready_of (by decide), by decide, by decide, by decide, by decide, ready_of (by decide), by decide⟩
theorem wit_ControlRegisters : at0.flagsOpen at0.cur.gid (grp at0).uid = false ∧ Ready at0 (grp at0) [] [.s 6] ∧
    Ready at0 (grp at0) [.s 6] [] ∧ crClass 0x29 = 2 ∧ crClass 0x12 = 1 ∧ crClass 0x11 = 0 ∧ crOfGroup 0x11 = true ∧ crOfGroup 0x18 = false ∧
    crClass 0x18 = 0 ∧ Ready inDebug (grp inDebug) [.s 6] [] ∧ Ready inDebug (grp inDebug) [] [.s 6] ∧
    inDebug.flagsOpen inDebug.cur.gid (grp inDebug).uid = false :=
  ⟨by decide, ready_of (by decide), ready_of (by decide), by decide, by decide, by decide, by decide, by decide, by decide,
    ready_of (by decide), ready_of (by decide), by decide⟩
theorem wit_BranchTargets : Ready at0 (grp at0) [] [] ∧ Ready at0 (grp at0) [.s 7] [] ∧ Ready at0 (grp at0) [.k 3] [] ∧
    Ready at0 (grp at0) [.v 9] [] := ⟨ready_of (by decide), ready_of (by decide), ready_of (by decide), ready_of (by decide)⟩
theorem wit_JumpsAndMeetings : Ready at0 (grp at0) [.s 40, .s 41] [] ∧ Ready at0 (grp at0) [] [.s 40, .s 41] ∧
    Ready at0 (grp at0) [.v 30, .v 31] [] ∧ Ready at0 (grp at0) [] [.v 30, .v 31] :=
  ⟨ready_of (by decide), ready_of (by decide), ready_of (by decide), ready_of (by decide)⟩

/-! Traps, repeats and scheduling. -/

/-- A package whose context has a trap handler at 0x1000. -/
def handled (s : State) : State := s.modPart 0 fun p => p.setCr 0x40 0x1000
/-- The launched package with a second word after the issuing address. -/
def withNext (s : State) (w : Nat) : State := { s with mem := launchMem s.mem (w * 2 ^ 32) }

theorem wit_TrapTaking : (handled at0).cur.cls = .ordinary ∧ (handled at0).cur.defer = none ∧ (handled at0).curGroup? = some (grp (handled at0)) ∧
    (handled at0).handles (grp (handled at0)).part := ⟨rfl, rfl, by decide, by decide, by decide⟩
theorem wit_SoftwareTraps : Ready (handled at0) (grp (handled at0)) [] [] ∧ (handled at0).cur.cls = .ordinary ∧
    (handled at0).handles (grp (handled at0)).part ∧ ((handled at0).part 0).resident = false ∧
    Ready inHandler (grp inHandler) [] [] ∧ inHandler.cur.cls ≠ .ordinary ∧
    (let s := at0.modPart 0 fun p => (p.setReg 0x380 0x2000).setReg 0x388 1
     Ready s (grp s) [] [] ∧ s.cur.cls = .ordinary ∧ (s.part (grp s).part).resident = true ∧ (s.part (grp s).part).wave = none ∧
     (s.part (grp s).part).stoppedAll = false) :=
  ⟨ready_of (by decide), rfl, ⟨by decide, by decide⟩, by decide, ready_of (by decide), by decide, ready_of (by decide), by decide,
    by decide, by decide, by decide⟩
theorem wit_ContextFaults : (at0.part 0).faulted = false ∧ at0.cur.defer = none ∧ inHandler.cur.defer = none ∧ inDebug.cur.defer = none ∧ at0.curGroup? = some (grp at0) ∧ (at0.part (grp at0).part).faulted = false ∧
    at0.cur.cls = .ordinary ∧ (at0.part (grp at0).part).trapVec = 0 ∧ inHandler.curGroup? = some (grp inHandler) ∧
    (inHandler.part (grp inHandler).part).faulted = false ∧ inDebug.curGroup? = some (grp inDebug) ∧ inDebug.cur.cls = .debug := by decide
/-- A group with one parked sub-warp, about to enter its handler. -/
def parked : State := (handled at0).modGroup 0 fun g =>
  { g with parked := [{ mask := 2, pc := launchPc, cause := 5, code := 7, info := 0, va := 0, rep := none }] }
theorem wit_HandlerEntry : ∃ x r, parked.group? 0 = some (grp parked) ∧ (grp parked).handling = none ∧ (grp parked).parked = x :: r ∧
    (parked.part (grp parked).part).trapVec ≠ 0 ∧ (grp parked).enterAt ≤ (parked.part (grp parked).part).clock ∧
    (parked.part (grp parked).part).faulted = false ∧ (parked.sp (spIdOf 0)).frozen = false ∧ maskBit x.mask 1 = true :=
  ⟨_, _, by decide, by decide, rfl, by decide, by decide, by decide, by decide, by decide⟩
theorem wit_ReturnFromTrap : Ready inHandler (grp inHandler) [] [] ∧ inHandler.cur.cls = .handler ∧ Ready at0 (grp at0) [] [] ∧
    at0.cur.cls ≠ .handler := ⟨ready_of (by decide), rfl, ready_of (by decide), by decide⟩
theorem wit_RepeatBegins :
    let r : Rep := { pc := launchPc, mask := 3, idx := 0, count := 8, tlen := 0, stride := 1, stepD := true, stepA := true, stepB := false }
    let s := withNext at0 0x0404
    let u := withNext at0 0x14080E01
    let bad := withNext at0 0x7B
    let far := { at0 with cur := { at0.cur with pc := 0x20000000 } }
    let h := withNext inHandler 0x0404
    let target := fun s : State => (s.atCost 1).fetch (s.issuer s.cur.gid (grp s)) (s.cur.pc + 4)
    let cold := s.evictTlb 0 0 (fun _ => true) |>.evictTlb 1 0 (fun _ => true) |>.evictTlb 2 0 (fun _ => true)
    Ready s (grp s) [] [] ∧ s.cur.rep = false ∧ target s = .instr (.iaddH 0 16 false) 2 0x0404 ∧
    r.refusal (grp s) 2 0x0404 = none ∧
    target u = .instr (.iadd false 20 false 8 7) 4 0x14080E01 ∧
    { r with stride := 8, count := 64 }.refusal (grp u) 4 0x14080E01 = some 1 ∧ Ready u (grp u) [] [] ∧
    target bad = .illegal 4 0x7B ∧ Ready bad (grp bad) [] [] ∧
    (∃ e, target far = .cause e) ∧ Ready far (grp far) [] [] ∧
    Ready h (grp h) [] [] ∧ h.cur.cls = .handler ∧ (grp h).handling.isSome = true ∧ target h = .instr (.iaddH 0 16 false) 2 0x0404 ∧
    (∃ page, target cold = .miss page) ∧ Ready cold (grp cold) [] [] :=
  ⟨ready_of (by decide), rfl, by decide, by decide, by decide, by decide, ready_of (by decide), by decide, ready_of (by decide),
    ⟨_, rfl⟩, ready_of (by decide), ready_of (by decide), rfl, by decide, by decide, ⟨_, rfl⟩, ready_of (by decide)⟩
theorem wit_Scheduling :
    let s := at0.modGroup 0 fun g => { g with empty := [.v 2], sleep := 0 }
    let x := at0.modGroup 0 fun g => { g with kind := .closestHit }
    let y := at0.modGroup 0 fun g => { g with yield := some (0, []) }
    let z := { at0.modGroup 0 (fun g => { g with sleep := 5 }) with now := 9, parts := at0.parts.mapVal fun _ (p : Part) => { p with clock := 9 } }
    Ready at0 (grp at0) [] [] ∧ at0.cur.cls = .ordinary ∧ (grp at0).kind ≠ .closestHit ∧ (grp at0).kind ≠ .viewShade ∧
    Ready inHandler (grp inHandler) [] [] ∧ (grp inHandler).handling.isSome = true ∧
    Ready x (grp x) [] [] ∧ (grp x).kind = .closestHit ∧ (grp at0).has (.v 127) = true ∧ (grp at0).isEmpty (.v 127) = false ∧
    (grp at0).has (.v 128) = false ∧ Ready s (grp s) [] [] ∧ (grp s).has (.v 2) = true ∧ (grp s).isEmpty (.v 2) = true ∧
    y.group? 0 = some (grp y) ∧ (grp y).yield = some (0, []) ∧ (y.part (grp y).part).stoppedAll = false ∧
    z.group? 0 = some (grp z) ∧ (grp z).sleep ≠ 0 ∧ (grp z).sleep ≤ z.timeOf (grp z).part 0 ∧ (z.part (grp z).part).stoppedAll = false :=
  ⟨ready_of (by decide), rfl, by decide, by decide, ready_of (by decide), by decide, ready_of (by decide), by decide, by decide, by decide,
    by decide, ready_of (by decide), by decide⟩

/-! Memory. -/

/-- The pieces of an access at VA 0 in each lane, and scalars and tiles there. -/
def laneP (k : Need) (n : Nat) (op : Option (Nat × Nat)) (j : Nat) : List Piece :=
  okD [] (at0.resolveAcc (grp at0) 0 k (laneAddress (grp at0) 0 4 j) n false op)

theorem wit_LoadIssue :
    Ready at0 (grp at0) (addressRegs .v 0 4) (regsFrom .v 8 (sizeRegs 4)) ∧
    (∀ j ∈ lanesOf at0.cur.mask, at0.resolveAcc (grp at0) 0 .load (laneAddress (grp at0) 0 4 j) (sizeBytes 4) ((0 : BitVec 2) != 0) none =
      .ok (laneP .load 4 none j)) ∧
    Ready at0 (grp at0) (addressRegs .s 0 20) (regsFrom .s 8 (sizeRegs 5)) ∧
    at0.resolveAcc (grp at0) 0 .load (scalarAddress (grp at0) 0 20) (sizeBytes 5) ((0 : BitVec 2) != 0) none = .ok (laneP .load 8 none 0) ∧
    Ready at0 (grp at0) (addressRegs .v 0 4 ++ regsFrom .v 10 2) [.v 10] ∧
    (∀ j ∈ lanesOf at0.cur.mask, at0.resolveAcc (grp at0) 0 .atomic (laneAddress (grp at0) 0 4 j) 4 ((0 : BitVec 2) != 0) (some (7, 4)) =
      .ok (laneP .atomic 4 (some (7, 4)) j)) ∧
    Ready at0 (grp at0) (addressRegs .v 0 4 ++ regsFrom .v 16 4) [.v 16, .v 17] ∧
    (∀ j ∈ lanesOf at0.cur.mask, at0.resolveAcc (grp at0) 0 .atomic (laneAddress (grp at0) 0 4 j) 8 ((0 : BitVec 2) != 0) (some (7, 8)) =
      .ok (laneP .atomic 8 (some (7, 8)) j)) ∧
    Ready at0 (grp at0) (regsFrom .s 20 3) [.t 0] ∧
    (∀ i : Nat, i < 32 → at0.resolveFlat (at0.issuer at0.cur.gid (grp at0)) .load
      (scalarAddress (grp at0) 0 20 + BitVec.ofInt 64 (i * ((grp at0).sr 22).toInt)) 128 = .ok (laneP .load 128 none 0)) :=
  ⟨ready_of (by decide), by decide, ready_of (by decide), by decide, ready_of (by decide), by decide, ready_of (by decide), by decide,
    ready_of (by decide), by decide⟩

/-- A lane address that no page maps. -/
def unmapped : State := State.regs at0 [(4, 0), (5, 0x1000)] []
theorem wit_StoreIssue :
    let r : Resolved := (lanesOf unmapped.cur.mask).map fun j =>
      (j, unmapped.resolveAcc (grp unmapped) 0 .store (laneAddress (grp unmapped) 0 4 j) (sizeBytes 4) false none)
    Ready unmapped (grp unmapped) (addressRegs .v 0 4 ++ regsFrom .v 12 (sizeRegs 4)) [] ∧ faultsOf r ≠ [] ∧
    Ready at0 (grp at0) (addressRegs .v 0 4 ++ regsFrom .v 12 (sizeRegs 4)) [] ∧
    (∀ j ∈ lanesOf at0.cur.mask, at0.resolveAcc (grp at0) 0 .store (laneAddress (grp at0) 0 4 j) (sizeBytes 4) false none =
      .ok (laneP .store 4 none j)) ∧
    Ready at0 (grp at0) (addressRegs .s 0 20 ++ regsFrom .s 8 (sizeRegs 4)) [] ∧
    at0.resolveAcc (grp at0) 0 .store (scalarAddress (grp at0) 0 20) (sizeBytes 4) false none = .ok (laneP .store 4 none 0) ∧
    Ready at0 (grp at0) (.t 4 :: regsFrom .s 10 3) [] ∧
    (∀ i : Nat, i < 32 → at0.resolveFlat (at0.issuer at0.cur.gid (grp at0)) .store
      (scalarAddress (grp at0) 0 10 + BitVec.ofInt 64 (i * ((grp at0).sr 12).toInt)) 128 = .ok (laneP .store 128 none 0)) ∧
    (let fs : List (Nat × Cause) := [(0, ⟨13, 0⟩), (1, ⟨10, 8⟩)]
     fs.find? (fun x => x.2.code != 13) = some (1, ⟨10, 8⟩) ∧ ∀ x ∈ fs, x.2.code ≠ 64 ∧ x.2.code ≠ 67 ∧ x.2.code ≠ 71) ∧
    (let fs : List (Nat × Cause) := [(0, ⟨13, 0⟩), (1, ⟨67, 8⟩)]
     fs.find? (fun x => x.2.code == 67) = some (1, ⟨67, 8⟩) ∧ (∀ x ∈ fs, x.2.code ≠ 64) ∧ at0.cur.cls = .ordinary) ∧
    (let fs : List (Nat × Cause) := [(0, ⟨13, 0⟩)]
     fs.head? = some (0, ⟨13, 0⟩) ∧ ∀ x ∈ fs, x.2.code = 13) :=
  ⟨ready_of (by decide), by decide, ready_of (by decide), by decide, ready_of (by decide), by decide, ready_of (by decide), by decide,
    by decide, by decide, by decide⟩

/-- The issue of group 0 with no translation in its core's TLB. -/
def cold : State := at0.evictTlb 0 0 fun _ => true
/-- A load, a store and an atomic whose parts may be performed, and one whose part waits for a page walk. -/
def walking : State := after (execLd 0 0 0 4 8 4 cold)
def loading : State := after (execLd 0 0 0 4 8 4 at0)
def storing : State := after (execSt 0 0 0 4 12 4 at0)
def adding : State := after (execAtom32 0 0 0 4 10 0 at0)
def accOf (s : State) (i : Nat) : Acc := ((s.accs.get? i).getD
  { op := 0, uid := 0, part := 0, team := 0, who := [], path := .ls, stream := 0, scope := 1, sync := Lane.none.sync, okind := .so,
    acq := false, rel := false, loc := ⟨.hbm, 0, 0⟩, len := 0, lane := 0, boff := 0, va := 0, act := .read, whole := false, page := (0, 0),
    walk := none, sent := none, pc := 0, gid := 0, grid := 0 })
theorem wit_AccessPerformed :
    let ok := fun (s : State) (i : Nat) => s.accs.get? i = some (accOf s i) ∧ (accOf s i).walk = none ∧ (accOf s i).loc.space = .hbm ∧
      (s.part (accOf s i).part).stoppedAll = false ∧ s.unordered i (accOf s i) = true ∧ s.late.now = none ∧ s.weak = [] ∧
      ∀ x ∈ s.groups, ∀ l ∈ x.2.lanes, l.hold = none
    ok loading 45 ∧ (accOf loading 45).act = .read ∧ (loading.ops.get? (accOf loading 45).op).map (·.kind) = some (.load false false 4 8 []) ∧
    ok storing 45 ∧ (accOf storing 45).act = .write [0, 0, 0, 0] ∧ ok adding 45 ∧ (accOf adding 45).act = .atomic 0 4 0 0 ∧
    (accOf adding 45).len = 4 := by decide
/-- The store of lane 0 with the byte 7, about to be performed for the LS path only, and after it. -/
def sevenAcc : Acc := { accOf storing 45 with act := .write [7, 0, 0, 0] }
def lagging : State := after ({ storing with accs := [(45, sevenAcc)] }.lag exec (.memoryAccessPerform 45 []) ⟨4, 0, 0, 0, 0, 0⟩)
/-- As `lagging`, for no other agent at all, with a release and an acquire of the same threads that follow. -/
def unseen : State :=
  { after ({ storing with accs := [(45, { sevenAcc with okind := .rc })] }.lag exec (.memoryAccessPerform 45 []) Reach.none) with
    accs := [(46, { sevenAcc with okind := .rc, rel := true, scope := 2, loc := ⟨.hbm, 0, 8⟩ }),
             (47, { sevenAcc with okind := .rc, acq := true, act := .read })] }
def sevenCell : Nat := (Loc.cell sevenAcc.loc)
/-- The first byte a viewer reads where the store went. -/
def sees (s : State) (v : Viewer) : Option Byte := (s.viewBytes v sevenAcc.loc 4).head?
/-- 04 R95, R96, R102, the tile load after a store: a tile load need not see an LS store, the storing thread in its own stream does, and
another thread too once the store is performed for LS; FENCE.P LS, MX performs it for tile loads. -/
theorem test_store_lags :
    sees lagging (Viewer.engine .mx sevenAcc.team) = some 1 ∧ sees lagging (Viewer.engine .ls 0) = some 7 ∧
    sees unseen (Viewer.engine .ls sevenAcc.team) = some 1 ∧ sees unseen (sevenAcc.viewer []) = some 7 ∧
    sees (after (exec (.fenceP 1 2 0) { lagging with cur := at0.cur })) (Viewer.engine .mx sevenAcc.team) = some 7 := by decide
/-- A store that lags. -/
def lateOf (s : State) : Late :=
  ((s.lags sevenCell).head?).getD { lagBase .cp 0 (0, 0) 0 Reach.none with old := 0 }
theorem wit_StoresSeen :
    let e := lateOf lagging
    let v := sevenAcc.viewer []
    e ∈ lagging.lags sevenCell ∧ e.path = .ls ∧ e.level .mx = 0 ∧ 2 ≤ e.level .ls ∧ v.path = .ls ∧ (∃ x ∈ e.seen, x.tid ∈ v.who ∧ x.stream = v.stream) ∧
    (∃ t ∈ v.who, t ∈ e.who) ∧ (Viewer.engine .mx 0).far = 2 ∧ e.among (Viewer.engine .mx 0).saw = false ∧ e.teams = [] := by decide
theorem wit_Lagging :
    (unseen.lags sevenCell).isEmpty = false ∧ unseen.unordered 46 (accOf unseen 46) = true ∧ (accOf unseen 46).rel = true ∧
    (accOf unseen 46).okind ≠ .so ∧ (∃ x ∈ (lateOf unseen).seen, x.tid ∈ (accOf unseen 46).tids ∧ x.stream = 0 ∧ x.uo = false ∧ x.acc < 46) ∧
    (accOf unseen 47).acq = true ∧ (accOf unseen 47).walk = none ∧ (grp unseen).uid = (grp at0).uid := by decide
/-- Loads that may fill their registers, one with poisoned data. -/
def fillDue (k : OpKind) (d : List Reg) : State := withOp at0 .memory d k
def spoilt (k : OpKind) : State :=
  { at0 with ops := at0.ops.set 7 { gid := 0, uid := 42, part := 0, pc := launchPc, cls := .memory, dests := [], mask := 3, due := 0, bad := some 64, kind := k } }
theorem wit_LoadFills :
    let a := fillDue (.load false true 1 8 [(0, 255)]) (regsFrom .v 8 (sizeRegs 1))
    let b := fillDue (.load true false 8 8 []) (regsFrom .s 8 (sizeRegs 5))
    let c := fillDue (.atom 4 8 []) [.v 8]
    let d := fillDue (.atom 8 8 []) [.v 8, .v 9]
    let e := fillDue (.tile 3 []) [.t 3]
    Due a 7 (op7 a) (grp a) ∧ (op7 a).kind = .load false true (sizeBytes 1) 8 [(0, 255)] ∧ (op7 a).dests = regsFrom .v 8 (sizeRegs 1) ∧
    Due b 7 (op7 b) (grp b) ∧ (op7 b).kind = .load true false (sizeBytes 5) 8 [] ∧ (op7 b).dests = regsFrom .s 8 (sizeRegs 5) ∧
    Due c 7 (op7 c) (grp c) ∧ Due d 7 (op7 d) (grp d) ∧ Due e 7 (op7 e) (grp e) ∧
    (op7 (spoilt (.tile 3 []))).bad = some 64 ∧ (spoilt (.tile 3 [])).opReady 7 (op7 (spoilt (.tile 3 []))) = true ∧
    (op7 (spoilt (.load false false 4 8 []))).bad = some 64 ∧
    (spoilt (.load false false 4 8 [])).opReady 7 (op7 (spoilt (.load false false 4 8 []))) = true ∧
    ((spoilt (.load false false 4 8 [])).part 0).faulted = false :=
  ⟨due_of (by decide), by decide, by decide, due_of (by decide), by decide, by decide, due_of (by decide), due_of (by decide),
    due_of (by decide), by decide⟩
/-- The issue of a fence while the load of the same threads is open, and after. -/
def fencing : State := { walking with cur := at0.cur }
theorem wit_Fences : Ready fencing (grp fencing) [] [] ∧
    (fencing.accs.any fun x => x.2.path == .ls && (((1 : BitVec 16).getLsbD x.2.stream || x.2.okind == .so) &&
      x.2.who.any fun w => ((lanesOf fencing.cur.mask).map fun j => ((grp fencing).lane j).tid).contains w.1)) = true ∧
    fencing.pathOpen 0 (grp fencing) ((grp fencing).lanes.map (·.tid)) 0 = true ∧
    Ready at0 (grp at0) [] [] ∧ at0.accs = [] ∧ at0.pathOpen 0 (grp at0) ((grp at0).lanes.map (·.tid)) 0 = false :=
  ⟨ready_of (by decide), by decide, by decide, ready_of (by decide), by decide, by decide⟩
theorem wit_WalksAndScrub : walking.walkDie 0 0 = some 0 ∧ (walking.part 0).stoppedAll = false ∧ okB (walking.walk 0 0) = true ∧
    okB (walking.walk 0 0x20000000) = false := by decide
theorem wit_WalksAndScrub_scrub :
    let l : Loc := ⟨.hbm, 0, 128⟩
    let weak := { at0 with weak := [l.cell / 64] }
    2 * 64 + 64 ≤ (at0.part 0).hbmSize ∧ at0.ownerOf l = some 0 ∧ ((at0.part 0).vaultLoc (2 * 64) 64).isSome = true ∧
    l.cell / 64 ∉ at0.weak ∧ l.cell / 64 ∈ weak.weak ∧ at0.poisoned l = false := by decide

/-! Barriers, Zephyr operations, flits and signals. -/

/-- Change the lanes of group 0. -/
def withLanes (s : State) (f : Nat → Lane → Lane) : State := s.modGroup 0 fun g => { g with lanes := mapLanes f 0 g.lanes }
/-- A closest-hit group. -/
def hitting (s : State) : State := s.modGroup 0 fun g => { g with kind := .closestHit }
/-- Change the launched team. -/
def withTeam (s : State) (f : Team → Team) : State := { s with teams := s.teams.mapVal fun _ (t : Team) => f t }

theorem wit_TeamBarriers :
    let marked := withLanes at0 fun _ l => { l with marks := [(0, 0)] }
    Ready at0 (grp at0) (siRegs 96) [] ∧ at0.teams.get? (grp at0).team = some (launchTeam 41) ∧ at0.cur.rep = false ∧
    at0.cur.cls = .ordinary ∧ (grp at0).kind = .ordinary ∧ ((siValue (grp at0) 96).toNat < 16) ∧ 16 ≤ (siValue (grp at0) 112).toNat ∧
    Ready at0 (grp at0) (siRegs 112) [] ∧ Ready (hitting at0) (grp (hitting at0)) (siRegs 96) [] ∧ (grp (hitting at0)).kind = .closestHit ∧
    Ready inHandler (grp inHandler) (siRegs 96) [] ∧ Ready marked (grp marked) (siRegs 96) [] ∧
    ((grp marked).lane 0).marks.get? 0 = some ((launchTeam 41).phases.getD 0 0) :=
  ⟨ready_of (by decide), by decide, rfl, rfl, by decide, by decide, by decide, ready_of (by decide), ready_of (by decide), by decide,
    ready_of (by decide), ready_of (by decide), by decide⟩
theorem wit_LaneBarriers :
    let s := at0.modGroup 0 fun g => { g with k := g.k.set 5 3 }
    let u := at0.modGroup 0 fun g => { g with k := g.k.set 5 7 }
    let rs : List Reg := .k 5 :: siRegs 98
    Ready s (grp s) rs [] ∧ s.cur.cls = .ordinary ∧ (grp s).kind = .ordinary ∧ (siValue (grp s) 98).toNat < 16 ∧ (grp s).rep = none ∧
    ((grp s).lanes.all fun l => decide (l.hold = none)) = true ∧ (grp s).kr 5 &&& (grp s).liveMask = s.cur.mask ∧ s.cur.mask ≠ 0 ∧ s.accs = [] ∧
    Ready u (grp u) rs [] ∧ u.cur.mask &&& ~~~((grp u).kr 5 &&& (grp u).liveMask) = 0 ∧ maskBit ((grp u).kr 5 &&& (grp u).liveMask) 2 = true ∧
    maskBit u.cur.mask 2 = false ∧ Ready inHandler (grp inHandler) rs [] ∧ Ready (hitting at0) (grp (hitting at0)) rs [] ∧
    Ready at0 (grp at0) (.k 5 :: siRegs 112) [] :=
  ⟨ready_of (by decide), rfl, by decide, by decide, by decide, by decide, by decide, by decide, by decide, ready_of (by decide), by decide,
    by decide, by decide, ready_of (by decide), ready_of (by decide), ready_of (by decide)⟩
/-- Every lane waits at barrier 0, which it is marked for. -/
def arrived : State :=
  withTeam { withLanes at0 (fun _ l => { l with marks := [(0, 0)], hold := some (.bar 0 0) }) with
    parts := at0.parts.mapVal fun _ (p : Part) => { p with clock := 9 } }
    fun t => { t with barToks := [(0, { tids := [1], bound := 40 })], arrAt := [(0, 5)] }
theorem wit_BarrierPhases : ∃ tm, arrived.teams.get? 42 = some tm ∧ (tm.barToks.filter fun x => x.1 == 0) ≠ [] ∧
    (∀ x ∈ tm.barToks.filter (fun x => x.1 == 0), arrived.tokDone x.2 = true) ∧
    (∃ x ∈ arrived.groups, x.2.team = 42 ∧ x.2.kind = .ordinary) ∧
    (∀ x ∈ arrived.groups, ∀ l ∈ x.2.lanes, l.marks.get? 0 = some (tm.phases.getD 0 0)) ∧
    tm.arrAt.getD 0 0 < (arrived.part tm.part).clock ∧ (arrived.part tm.part).stoppedAll = false ∧ arrived.groups.wf = true ∧
    (grp arrived).rep = none := ⟨_, rfl, by decide, by decide, by decide, by decide, by decide, by decide, by decide, by decide⟩
theorem wit_ZephyrIssue :
    let s := State.regs at0 [] [(12, 0x00030205)]
    let bad := State.regs at0 [] [(12, 0x40)]
    Ready s (grp s) (siRegs 12) [] ∧ Ready s (grp s) (.s 6 :: siRegs 12) [.s 5] ∧ Ready s (grp s) [.s 8, .s 12] [.s 7] ∧
    s.cur.cls = .ordinary ∧ zephyrLegal 2 ((grp s).sr 12) ∧ Ready at0 (grp at0) (siRegs 12) [] ∧ zephyrLegal 0 ((grp at0).sr 12) ∧
    zephyrLegal 1 ((grp at0).sr 12) ∧ Ready bad (grp bad) (siRegs 12) [] ∧ ¬ zephyrLegal 0 ((grp bad).sr 12) ∧
    ¬ zephyrLegal 0 ((grp s).sr 12) ∧ Ready inHandler (grp inHandler) (siRegs 12) [] ∧ inHandler.cur.cls ≠ .ordinary :=
  ⟨ready_of (by decide), ready_of (by decide), ready_of (by decide), rfl, by unfold zephyrLegal; decide, ready_of (by decide),
    by unfold zephyrLegal; decide, by unfold zephyrLegal; decide, ready_of (by decide), by unfold zephyrLegal; decide,
    by unfold zephyrLegal; decide, ready_of (by decide), by decide⟩
/-- Every live lane waits at ZRED with ID 5 for two participants, in a cycle after the wait began; an open phase of the ID. -/
def zarriving : State :=
  let s := (withLanes (handled at0) fun _ l => { l with hold := some (.zephyr 2 5) }).modGroup 0 fun g =>
    { g with zwaits := [{ id := 5, fn := 2, bv := 0x00010005, val := 9, d := 7, ds := [(launchPc, 7)], time := 0, tok := { tids := [], bound := 0 } }] }
  { s with parts := s.parts.mapVal fun _ (p : Part) => { p with clock := 9 } }
def zphase (due : Option Nat) (fn : Nat) : ZPhase :=
  { id := 5, fn, count := 2, op := 0, arrs := [{ gid := 0, uid := 43, val := 9, root := false, die := 0, d := 7 }], due }
def zopen (fn : Nat) : State := zarriving.modPart 0 fun p => { p with zph := [zphase none fn] }
def zdone : State := at0.modPart 0 fun p => { p with clock := 100, zph := [zphase (some 70) 2] }
theorem wit_ZephyrPhases :
    (∃ z, zarriving.group? 0 = some (grp zarriving) ∧ zarriving.zReady (grp zarriving) = some z ∧ z.id = 5 ∧
      (zarriving.part (grp zarriving).part).stoppedAll = false ∧
      (zarriving.part (grp zarriving).part).zph.find? (fun y => y.id == 5 && y.due.isNone) = none) ∧
    (zopen 2).zReady (grp (zopen 2)) = zarriving.zReady (grp zarriving) ∧
    ((zopen 2).part 0).zph.find? (fun y => y.id == 5 && y.due.isNone) = some (zphase none 2) ∧
    ((zopen 1).part 0).zph.find? (fun y => y.id == 5 && y.due.isNone) = some (zphase none 1) ∧ (zopen 1).handles 0 ∧
    (∀ j ∈ lanesOf ((grp (zopen 1)).zLanes 2 5), ((grp (zopen 1)).lane j).pc = launchPc ∧ ((grp (zopen 1)).lane j).parked = false) ∧
    (zdone.part 0).stoppedAll = false ∧
    (zdone.part 0).zph.find? (fun y => y.id == 5 && (match y.due with | some t => decide (t ≤ (zdone.part 0).clock) | none => false)) =
      some (zphase (some 70) 2) ∧ ((zphase (some 70) 2).arrs.map (·.gid)).Nodup ∧ (grp zdone).uid = 43 ∧ (grp zdone).rep = none :=
  ⟨⟨_, by decide, rfl, by decide, by decide, by decide⟩, by decide, by decide, by decide, ⟨by decide, by decide⟩, by decide, by decide,
    by decide, by decide, by decide, by decide⟩
/-- A flit for group 0, one for an empty slot, one that a read waits for, and one that finds the queue full. -/
def flit (dst : Nat) : Flit :=
  { srcUid := 43, srcAddr := 0, dst, part := 0, payload := 8, due := 0, tok := { tids := [], bound := 0 } }
def withFlit (s : State) (dst : Nat) : State := { s with flits := [(9, flit dst)] }
def reading : State := after (execSadd false 64 false 62 5 at0)
theorem wit_FlitArrival :
    let ok := fun (s : State) (f : Flit) => s.flits.get? 9 = some f ∧ (s.part f.part).stoppedAll = false ∧ f.due ≤ (s.part f.part).clock ∧
      s.tokDone f.tok = true ∧ s.flitBefore 9 f = false
    let full := (withFlit at0 0).modGroup 0 fun g => { g with rxq := (List.range 16).map fun _ => (1, 0) }
    ok (withFlit at0 1) (flit 1) ∧ (withFlit at0 1).group? 1 = none ∧ ok (withFlit at0 0) (flit 0) ∧
    (withFlit at0 0).group? 0 = some (grp at0) ∧ (withFlit at0 0).oldestRead 0 (grp at0).uid = none ∧ (grp at0).rxq.length < 16 ∧
    ok full (flit 0) ∧ 16 ≤ (grp full).rxq.length ∧ full.oldestRead 0 (grp full).uid = none ∧ ok (withFlit reading 0) (flit 0) ∧
    ∃ o cur g0, reading.ops.get? 44 = some o ∧ (withFlit reading 0).oldestRead 0 43 = some (44, o) ∧ o.gid = 0 ∧ o.uid = 43 ∧ o.dests = [.s 5] ∧
      o.kind = .message (.sadd false 64 false 62 5) cur (some g0) none ∧ (withFlit reading 0).group? 0 ≠ none :=
  ⟨by decide, by decide, by decide, by decide, by decide, by decide, by decide, by decide, by decide, by decide, _, _, _, rfl, rfl, rfl, rfl,
    rfl, rfl, by decide⟩
theorem wit_SoftwareSignals :
    let d := inDebug.modPart 0 fun p => (p.setReg 0x348 0).setCr 0x50 5
    Ready at0 (grp at0) [] [] ∧ at0.cur.cls ≠ .debug ∧ (at0.part 0).wave = none ∧ (at0.part 0).stoppedAll = false ∧
    Ready at0 (grp at0) (.s 4 :: siRegs 96) [] ∧ siValue (grp at0) 96 = 0 ∧ siValue (grp at0) 97 = 1 ∧ siValue (grp at0) 98 = 2 ∧
    Ready at0 (grp at0) (.s 4 :: siRegs 97) [] ∧ Ready d (grp d) [] [] ∧ Ready d (grp d) (.s 4 :: siRegs 97) [] ∧ d.cur.cls = .debug ∧
    (d.part (grp d).part).preempt = 0 ∧ (d.part (grp d).part).ctxState = 2 ∧ (d.part (grp d).part).cr 0x50 ≠ 0 :=
  ⟨ready_of (by decide), by decide, by decide, by decide, ready_of (by decide), by decide, by decide, by decide, ready_of (by decide),
    ready_of (by decide), ready_of (by decide), rfl, by decide, by decide, by decide⟩

/-! Convergence registers, the matrix unit and traps of floats. -/

/-- Convergence register 2 with members and signers, and entry 0 of the window of format 5. -/
def conving (members signed : Mask) (word : Word) : State :=
  (withTid at0 0 5).modGroup 0 fun g =>
    { g with k := g.k.set 5 3, conv := [(2, { members, signed, word, declared := true })] }
def mmaWord : Word := BitVec.ofNat 32 ((encodeWord (.mma 0 2 24 16 4)).getD 0)
theorem wit_ConvergenceRegisters :
    let s := conving 7 4 mmaWord
    let u := conving 7 0 0
    Ready u (grp u) [.k 5] [] ∧ u.cur.cls = .ordinary ∧ ((grp u).convOf 2).signed = 0 ∧ (grp u).kr 5 &&& (grp u).liveMask ≠ 0 ∧
    (grp u).kr 6 &&& (grp u).liveMask = 0 ∧ Ready u (grp u) [.k 6] [] ∧ Ready s (grp s) [.k 5] [] ∧ ((grp s).convOf 2).signed ≠ 0 ∧
    Ready inHandler (grp inHandler) [.k 5] [] ∧ inHandler.cur.cls ≠ .ordinary ∧ Ready s (grp s) [] [] ∧ s.cur.cls ≠ .handler ∧
    s.cur.rep = false ∧ (grp s).rep = none ∧ Ready s (grp s) [] [.s 9] :=
  ⟨ready_of (by decide), rfl, by decide, by decide, by decide, ready_of (by decide), ready_of (by decide), by decide, ready_of (by decide),
    by decide, ready_of (by decide), by decide, rfl, by decide, ready_of (by decide)⟩
theorem wit_MatrixIssue :
    let all := fun (s : State) => (regsFrom .v 16 8 ++ regsFrom .v 24 8 ++ [Reg.t 4]).all (grp s).has
    let last := conving 3 0 0
    let first := conving 7 0 0
    let other := conving 7 4 1
    let small := last.modGroup 0 fun g => { g with nv := 16 }
    let narrow := last.modGroup 0 fun g => { g with width := 16 }
    let busy := last.modGroup 0 fun g => { g with empty := [.v 16] }
    let bare := (conving 3 0 0).modGroup 0 fun g => { g with conv := [] }
    let untyped := withTid last 0 9
    let forced := conving 3 3 mmaWord
    let still := forced.modGroup 0 fun g => { g with empty := [.v 16] }
    let lame := handled (withTid forced 0 9)
    let odd := (conving 3 0 0).modGroup 0 fun g => { g with width := 64 }
    Ready last (grp last) [] [] ∧ last.cur.cls = .ordinary ∧ last.cur.mask ≠ 0 ∧ all last = true ∧ (grp last).width = 32 ∧ ((grp last).convOf 2).declared = true ∧
    last.cur.mask &&& (~~~((grp last).convOf 2).members ||| ((grp last).convOf 2).signed) = 0 ∧ ((grp last).convOf 2).signed = 0 ∧
    mmaSelect (last.tidOf (grp last) 0) (last.tidOf (grp last) 16) = some (5, 0x3F800000, 0x3F800000) ∧
    ((grp last).convOf 2).signed ||| last.cur.mask = ((grp last).convOf 2).members ∧ last.mmaReady (grp last) 24 16 4 = true ∧
    Ready first (grp first) [] [] ∧ ((grp first).convOf 2).signed ||| first.cur.mask ≠ ((grp first).convOf 2).members ∧
    Ready other (grp other) [] [] ∧ ((grp other).convOf 2).signed ≠ 0 ∧ mmaWord ≠ ((grp other).convOf 2).word ∧
    Ready small (grp small) [] [] ∧ all small = false ∧ Ready narrow (grp narrow) [] [] ∧ (grp narrow).width = 16 ∧
    Ready busy (grp busy) [] [] ∧ busy.mmaReady (grp busy) 24 16 4 = false ∧ Ready bare (grp bare) [] [] ∧
    ((grp bare).convOf 2).declared = false ∧ Ready untyped (grp untyped) [] [] ∧
    mmaSelect (untyped.tidOf (grp untyped) 0) (untyped.tidOf (grp untyped) 16) = none ∧
    Ready forced (grp forced) [] [] ∧ ((grp forced).convOf 2).signed = ((grp forced).convOf 2).members ∧
    forced.cur.mask &&& ~~~((grp forced).convOf 2).signed = 0 ∧ ((grp forced).convOf 2).declared = true ∧
    mmaWord = ((grp forced).convOf 2).word ∧ forced.mmaReady (grp forced) 24 16 4 = true ∧
    Ready still (grp still) [] [] ∧ still.mmaReady (grp still) 24 16 4 = false ∧ Ready lame (grp lame) [] [] ∧ lame.handles (grp lame).part ∧
    mmaSelect (lame.tidOf (grp lame) 0) (lame.tidOf (grp lame) 16) = none ∧ Ready odd (grp odd) [] [] ∧ (grp odd).width = 64 :=
  ⟨ready_of (by decide), rfl, by decide, by decide, by decide, by decide, by decide, by decide, by decide, by decide, by decide, ready_of (by decide),
    by decide, ready_of (by decide), by decide, by decide, ready_of (by decide), by decide, ready_of (by decide), by decide, ready_of (by decide),
    by decide, ready_of (by decide), by decide, ready_of (by decide), by decide, ready_of (by decide), by decide, by decide, by decide, by decide, by decide,
    ready_of (by decide), by decide, ready_of (by decide), ⟨by decide, by decide⟩, by decide, ready_of (by decide), by decide⟩
/-- A matrix operation queued, and one that has started. -/
def queued (started : Bool) : State :=
  let s := withOp at0 .matrix [.t 4] (.mma 1 0 0 [] ((List.range 32).map fun _ => []) 4 false started)
  { s with cores := s.cores.mapVal fun _ (c : Core) => { c with mq := if started then [] else [7], mrun := if started then [7] else [] } }
theorem wit_MatrixExecution :
    let s := queued false
    let u := queued true
    s.mmaNext 0 [] (s.core 0).mq = some (7, op7 s) ∧ (s.core 0).mfree ≤ (s.part 0).clock ∧ (op7 s).due ≤ (s.part 0).clock ∧
    (s.part 0).stoppedAll = false ∧ s.group? 0 = some (grp s) ∧ (grp s).uid = (op7 s).uid ∧
    (∀ k ∈ accTiles (grp s) 4, Reg.t k ∈ (op7 s).dests) ∧ ((List.range 32).map fun _ => ([] : List Word)).length = 32 ∧ u.ops.get? 7 = some (op7 u) ∧ u.opReady 7 (op7 u) = true ∧
    coreOf (op7 u).gid = 0 ∧ u.group? 0 = some (grp u) ∧ (grp u).uid = (op7 u).uid := by decide
/-- The invalid exception is enabled, and lane 1 adds infinities of unlike signs. -/
def trapping : State :=
  ((handled at0).modGroup 0 fun g => { (g.setCr 0x10 1) with v := (g.v.set 65 0x7F800000).set 129 0xFF800000 })
theorem wit_FloatTraps : Ready trapping (grp trapping) [.v 1, .v 2] [.v 3] ∧ trapping.cur.cls = .ordinary ∧
    trapping.handles (grp trapping).part ∧ (grp trapping).cr 0x10 &&& 31 = (1 : Word) <<< 0 ∧ trapping.cur.rep = false ∧
    (maskBit trapping.cur.mask 1 && (f32.addV .rne (f32.val ((grp trapping).vr 1 1).toNat) (f32.val ((grp trapping).vr 2 1).toNat)).ex.getLsbD 0)
      = true ∧ (∀ j, j < 64 → maskBit trapping.cur.mask j = true → j < (grp trapping).lanes.length) :=
  ⟨ready_of (by decide), rfl, ⟨by decide, by decide⟩, by decide, rfl, by decide, by decide⟩

/-! Bins, tasks, the tensor window and copies. -/

/-- Change core 0, cluster 0 and the clock of partition 0. -/
def withCore (s : State) (f : Core → Core) : State := { s with cores := s.cores.mapVal fun _ (c : Core) => f c }
def withCluster (s : State) (f : Cluster → Cluster) : State := { s with clusters := [(0, f (s.cluster 0))] }
def atClock (s : State) (n : Nat) : State := s.modPart 0 fun p => { p with clock := n }
def binOf (entry : DWord) (n : Nat) (expired : Bool) : Bin :=
  { team := 42, entry, threads := (List.range n).map fun _ => { arg := 1, arrived := 0, tok := [] }, expired }
/-- A bin of a team holds threads for an entry address. -/
def holdsB (c : Core) (team : Nat) (e : DWord) (b : Nat) : Bool := match c.bins.get? b with | some x => x.team == team && x.entry == e | none => false

theorem wit_SpawnIntoBins :
    let rs : List Reg := [.v 5, .s 10, .s 11]
    let full := withCore at0 fun c => { c with bins := [(0, binOf 0 127 false)] }
    let other := withCore at0 fun c => { c with bins := (List.range 16).map fun n => (n, binOf 0x100 1 false) }
    Ready at0 (grp at0) rs [] ∧ at0.cur.cls = .ordinary ∧ (at0.core 0).queuedFor 42 0 = false ∧ (at0.core 0).bins.get? 0 = none ∧
    (∀ k, k < 16 → holdsB (at0.core 0) 42 0 k = false) ∧ Ready full (grp full) rs [] ∧ holdsB (full.core 0) 42 0 0 = true ∧
    128 < ((((full.core 0).bins.get? 0).map (·.threads)).getD []).length + (lanesOf full.cur.mask).length ∧ Ready other (grp other) rs [] ∧
    (∀ k, k < 16 → holdsB (other.core 0) 42 0 k = false ∧ ((other.core 0).bins.get? k).isSome = true) ∧
    Ready inHandler (grp inHandler) rs [] ∧ inHandler.cur.cls ≠ .ordinary :=
  ⟨ready_of (by decide), rfl, by decide, by decide, by decide, ready_of (by decide), by decide, by decide, ready_of (by decide), by decide,
    ready_of (by decide), by decide⟩
theorem wit_BinGroups :
    let s := withTeam (withCore (atClock at0 2000) fun c => { c with bins := [(0, binOf 0x100 2 true)] }) fun t => { t with slots := [0, 1] }
    let u := withCore (atClock at0 2000) fun c => { c with bins := [(0, binOf 0x100 2 false)] }
    let tm := (s.teams.get? 42).getD (launchTeam 41)
    (s.core 0).bins.get? 0 = some (binOf 0x100 2 true) ∧ s.teams.get? 42 = some tm ∧ (s.part tm.part).stoppedAll = false ∧
    s.freeSlot tm 0 = some 1 ∧ (s.core 0).binFirst 0 (binOf 0x100 2 true) tm.width = true ∧
    (∀ y ∈ (binOf 0x100 2 true).threads.take tm.width, y.tok.all s.tokDone = true) ∧ (s.core 0).placements = [] ∧
    (u.core 0).bins.get? 0 = some (binOf 0x100 2 false) ∧ u.teams.get? 42 = some (launchTeam 41) ∧
    (∃ y, (binOf 0x100 2 false).threads.head? = some y ∧ y.arrived + max 1 ((u.part 0).cr 0x18).toNat ≤ (u.part 0).clock) := by decide
/-- The team's task 0 in a state. -/
def withTask (s : State) (st ctr code : Nat) : State :=
  withTeam s fun t => { t with tasks := [(0, { Task.free with st, ctr, code })] }
theorem wit_TaskCounters :
    let rs : List Reg := [.s 10, .s 11, .s 12]
    let ok := State.regs at0 [] [(10, 0x00020000)]
    let land := withTeam (State.regs at0 [] [(10, 0x00020040), (11, 64), (12, 0x00050001)]) fun t => { t with scratch := 128 }
    let big := State.regs at0 [] [(10, 0x00020040), (11, 64), (12, 0x00050001)]
    let bad := State.regs at0 [] [(10, 5)]
    let tm := (land.teams.get? 42).getD (launchTeam 41)
    let dec := withTask (State.regs at0 [] [(10, 0), (11, 3)]) 1 2 0
    Ready ok (grp ok) rs [] ∧ ok.cur.cls = .ordinary ∧ ok.teams.get? (grp ok).team = some (launchTeam 41) ∧
    ((launchTeam 41).taskCore 0).isSome = true ∧ ((grp ok).sr 10).extractLsb' 7 9 = 0 ∧ ((launchTeam 41).task 0).st ≠ 1 ∧
    Ready land (grp land) rs [] ∧ land.teams.get? 42 = some tm ∧ tm.landingWith 0 5 = false ∧ 64 + 64 * 1 ≤ tm.scratch ∧
    Ready big (grp big) rs [] ∧ (launchTeam 41).scratch < 64 + 64 * 1 ∧ Ready bad (grp bad) rs [] ∧ ((launchTeam 41).taskCore 5).isSome = false ∧
    Ready dec (grp dec) [.s 10, .s 11] [.s 13] ∧ (dec.teams.get? 42).isSome = true ∧
    (((dec.teams.get? 42).map fun t => (t.task 0).st) = some 1) ∧ Ready bad (grp bad) [.s 10, .s 11] [.s 13] :=
  ⟨ready_of (by decide), rfl, by decide, by decide, by decide, by decide, ready_of (by decide), by decide, by decide, by decide,
    ready_of (by decide), by decide, ready_of (by decide), by decide, ready_of (by decide), by decide, by decide, ready_of (by decide)⟩
theorem wit_TaskWaits :
    let rs : List Reg := [.s 10, .s 11]
    let ready := withTask at0 2 0 0
    let error := withTask at0 3 0 7
    let pend := withTask at0 1 2 0
    let past := pend.modGroup 0 fun g => { g with twait := some (launchPc, 9, true) }
    let lim := (atClock pend 20).modGroup 0 fun g => { g with twait := some (launchPc, 9, false) }
    let late := withTeam { walking with cur := at0.cur } fun t => { t with tasks := [(0, { Task.free with st := 2, toks := [{ tids := [1], bound := 99 }] })] }
    let bad := State.regs at0 [] [(10, 5)]
    Ready at0 (grp at0) rs [.s 15] ∧ at0.cur.cls = .ordinary ∧ ((launchTeam 41).task 0).st = 0 ∧ Ready ready (grp ready) rs [.s 15] ∧
    (ready.teams.get? 42).map (fun t => ((t.task 0).st, (t.task 0).toks)) = some (2, []) ∧ Ready error (grp error) rs [.s 15] ∧
    Ready pend (grp pend) rs [.s 15] ∧ (grp pend).twait = none ∧ Ready past (grp past) rs [.s 15] ∧
    (grp past).twait = some (launchPc, 9, true) ∧ Ready bad (grp bad) rs [.s 15] ∧ Ready late (grp late) rs [.s 15] ∧
    (late.teams.get? 42).map (fun t => (t.task 0).toks.all late.tokDone) = some false ∧
    lim.group? 0 = some (grp lim) ∧ (grp lim).twait = some (launchPc, 9, false) ∧ 9 ≤ (lim.part (grp lim).part).clock ∧
    (lim.part (grp lim).part).stoppedAll = false :=
  ⟨ready_of (by decide), rfl, by decide, ready_of (by decide), by decide, ready_of (by decide), ready_of (by decide), by decide,
    ready_of (by decide), by decide, ready_of (by decide), ready_of (by decide), by decide, by decide⟩
/-- A plain load of stream 0 by the group of `at0`. -/
def plainView : Viewer :=
  { path := .ls, team := (grp at0).team, who := (lanesOf at0.cur.mask).map fun j => ((grp at0).lane j).tid, stream := 0, so := false
    saw := (((grp at0).taken { srcs := srcSs 10 2 false ++ [srcS (12 : BitVec 6) false] } at0.cur.mask).syncOf (lanesOf at0.cur.mask)).saw
    upTo := none, far := 2 }
/-- An address whose page is lazy, through an entry of the die's TLB: 0x20000000. Address 0x40000000 has no page. -/
def lazyPage (s : State) : State :=
  s.modDie 0 fun d => { d with tlb := [{ part := 0, base := 0x20000000, size := 2 ^ 29, pte := 0x181F }] }
theorem wit_TensorWindow :
    let rs : List Reg := [.s 10, .s 11, .s 12]
    let bad := { State.regs at0 [] [(10, 0x50000)] with mem := Memory.write at0.mem ⟨.hbm, 0, 0x50008⟩ [0x80] }
    let wrong := State.regs at0 [] [(12, 0xFF000000), (6, 0xFF000000)]
    let ent := fun (s : State) (tab : DWord) => s.resolveEntries (s.issuer s.cur.gid (grp s)) .load (tab + 0) 1
    Ready at0 (grp at0) rs [] ∧ at0.teams.get? (grp at0).team = some (launchTeam 41) ∧ at0.cur.cls ≠ .debug ∧ okB (ent at0 0) = true ∧
    at0.accs = [] ∧ (okD [] (ent at0 0)).find? at0.pieceBad = none ∧
    (entryOf ((okD [] (ent at0 0)).flatMap (at0.pieceBytes plainView))).valid = false ∧ Ready bad (grp bad) rs [] ∧ okB (ent bad 0x50000) = true ∧
    ((entryOf ((okD [] (ent bad 0x50000)).flatMap (bad.pieceBytes plainView))).valid &&
      (entryOf ((okD [] (ent bad 0x50000)).flatMap (bad.pieceBytes plainView))).malformed) = true ∧
    (let far := State.regs at0 [] [(10, 0x20000000)]
     let cold := cold.modGroup 0 fun g => { g with s := g.s.set 10 64 }
     Ready far (grp far) rs [] ∧ okB (ent far 0x20000000) = false ∧ Ready cold (grp cold) rs [] ∧ okB (ent cold 64) = true ∧
     (okD [] (ent cold 64)).any (fun p => p.walk.isSome) = true) ∧
    Ready wrong (grp wrong) rs [] ∧ ((grp wrong).sr 12).extractLsb' 22 10 ≠ 0 ∧ Ready inDebug (grp inDebug) rs [] ∧
    Ready at0 (grp at0) [.s 6] [.s 5] ∧ Ready wrong (grp wrong) [.s 6] [.s 5] ∧ Ready inDebug (grp inDebug) [.s 6] [.s 5] :=
  ⟨ready_of (by decide), by decide, by decide, by decide, by decide, by decide, by decide, ready_of (by decide), by decide, by decide,
    ⟨ready_of (by decide), by decide, ready_of (by decide), by decide, by decide⟩,
    ready_of (by decide), by decide, ready_of (by decide), ready_of (by decide), ready_of (by decide), ready_of (by decide)⟩
/-- Entries 1 and 2 of the window: eight elements of 32 bits. -/
def tensors (s : State) : State :=
  withTeam s fun t =>
    let e := fun b => toBytes 8 b ++ toBytes 8 0x700000087 ++ toBytes 8 8
    { t with tids := Store.setRange (Store.setRange t.tids 64 (e 0x50000)) 128 (e 0x60000) }
/-- Descriptors of a copy from tensor 2 to tensor 1 in s24 and s28, without a task in s20. -/
def copying : State := State.regs (tensors at0) [] [(24, 1), (28, 2), (20, 0x80000000)]
/-- No copy. -/
def noCopy : Copy :=
  { team := 42, gid := 0, uid := 43, form := 0, dst := [], src := [], idx := [], dd := [], sd := [], task := none, core := 0, id := 9, seq := 1,
    pos := 0, size := 0, err := 0, stopped := none, targets := [], begun := false }
theorem wit_CopyIssue :
    let two := regsFrom Reg.s 24 4 ++ regsFrom Reg.s 28 4 ++ [.s 20]
    let d := [(1 : Word), 0, 0, 0]
    let a := [(2 : Word), 0, 0, 0]
    let second := copying.modGroup 0 fun g => { g with gnum := 1 }
    let full := withCore copying fun c => { c with chans := [(1, { Chan.empty with copies := List.replicate 8 noCopy })] }
    Ready copying (grp copying) two [] ∧ Ready copying (grp copying) (regsFrom Reg.s 28 4 ++ [.s 20]) [] ∧ copying.cur.cls = .ordinary ∧
    (grp copying).kind = .ordinary ∧ copying.producer (grp copying) = true ∧
    copyCheck 0 (copying.tidOf (grp copying) 1) (copying.tidOf (grp copying) 2) [] d a (fun _ => true) = .ok 32 ∧
    copyCheck 4 (copying.tidOf (grp copying) 2) (copying.tidOf (grp copying) 2) [] [] a (fun _ => true) = .ok 32 ∧
    (∃ tm, copying.teams.get? (grp copying).team = some tm) ∧ ((grp copying).sr 20).extractLsb' 6 25 = 0 ∧ ((grp copying).sr 20).getLsbD 31 = true ∧
    ((copying.core 0).chans.getD 1 Chan.empty).copies.length < 8 ∧ Ready full (grp full) two [] ∧
    8 ≤ ((full.core 0).chans.getD 1 Chan.empty).copies.length ∧ Ready second (grp second) two [] ∧ second.producer (grp second) = false ∧
    Ready (hitting copying) (grp (hitting copying)) two [] ∧ Ready at0 (grp at0) two [] ∧ at0.producer (grp at0) = true ∧
    copyCheck 0 [] [] [] [0, 0, 0, 0] [0, 0, 0, 0] (fun _ => true) = .error 22 ∧ Ready at0 (grp at0) [.s 8] [.s 9] :=
  ⟨ready_of (by decide), ready_of (by decide), rfl, by decide, by decide, by decide, by decide, ⟨_, rfl⟩, by decide, by decide, by decide,
    ready_of (by decide), by decide, ready_of (by decide), by decide, ready_of (by decide), ready_of (by decide), by decide, by decide,
    ready_of (by decide)⟩
/-- A copy under way on channel 1, of a form and a task, and at its end. -/
def moving (form pos : Nat) (task : Option Nat) (src : DWord) : State :=
  let s := withTask (tensors at0) 1 2 0
  let t := (s.teams.get? 42).getD (launchTeam 41)
  let x : Copy :=
    { noCopy with form, dst := t.tid 1, src := src :: (t.tid 2).drop 1, dd := [1, 0, 0, 0], sd := [2, 0, 0, 0], task, pos, size := 32, begun := true }
  withCore s fun c => { c with chans := [(1, { Chan.empty with copies := [x] })] }
def movingCopy (s : State) : Copy := (((s.core 0).chans.getD 1 Chan.empty).copies.head?).getD noCopy
theorem wit_CopyProgress :
    let ok := fun (s : State) => ((s.core 0).chans.get? 1).map (·.copies) = some [movingCopy s] ∧
      (s.part (s.copyIssuer (movingCopy s)).part).stoppedAll = false ∧ (movingCopy s).stopped = none
    let s := moving 0 0 none 0x60000
    let p := moving 4 0 none 0x60000
    let e := moving 0 32 (some 0) 0x60000
    let z := lazyPage (moving 0 0 none 0x20000000)
    ok s ∧ (movingCopy s).pos < (movingCopy s).size ∧ okB (s.copySector (movingCopy s) (movingCopy s).pieces) = true ∧
    okB (s.copyDest (movingCopy s) (movingCopy s).pieces) = true ∧ s.hostLost = false ∧ (s.core 0).sectors.2 < 4 ∧
    ok p ∧ (movingCopy p).form = 4 ∧ (movingCopy p).core = 0 ∧ (∃ c, z.copySector (movingCopy z) (movingCopy z).pieces = .error c ∧ c.code = 13) ∧
    ok z ∧ ok e ∧ (movingCopy e).size ≤ (movingCopy e).pos ∧ (movingCopy e).targets = [] ∧
    (movingCopy e).task = some 0 ∧ (e.teams.get? 42).map (fun t => ((t.task 0).st, (t.task 0).ctr)) = some (1, 2) := by
  refine ⟨by decide, by decide, by decide, by decide, by decide, by decide, by decide, by decide, by decide, ⟨_, rfl, by decide⟩, by decide, by decide⟩

/-! Rays, rasterisation, views and shading; the ends of threads. -/

/-- Entry 0 of the scene-cut table is valid. -/
def withCut (s : State) : State := { s with grids := s.grids.mapVal fun _ (x : Grid) => { x with cuts := some [[0, 0, 0, 1]] } }
/-- Every lane is about to issue a word that stands at the issuing address; the group has been waiting for a pool. -/
def blocked (w : Nat) (view : Bool) : State :=
  withCut (({ State.reset.launch w with agenda := [] } : State).modGroup 0 fun g => { g with block := some { pc := launchPc, order := 0, view, empty := false } })
def rayOf (op : Nat) (ofView : Bool) (status budget pending : Nat) : Ray :=
  { op, lane := 0, ofView, level := 0, part := 0, team := 42, cut := [0, 0, 0, 1], o := [0, 0, 0], d := [0x3F800000, 0, 0], tmin := 0, tbest := 0x3F800000,
    best := none, budget, made := 0, pending, status, done := false }
/-- The package with a ray in the ray table and entries in the trade queue. -/
def withRay (s : State) (r : Ray) (tq : List TqEnt) : State := withCluster s fun c => { c with rays := [(0, r)], tq }
def ent : TqEnt := TqEnt.start 0 0 0
/-- A ray whose scene's nodes lie at an address. -/
def rayAt (va : DWord) : Ray := { rayOf 7 false 0 5 1 with cut := [va, 0, 0, 1] }
/-- What serving a ray from the start of treelet 0 gives. -/
def served (s : State) (r : Ray) : Served :=
  serveRay s (serveFuel r.budget 1) { ray := r, queued := [], stack := ent.stack, stop := none, room := 16383, visits := 0, reads := [] }

theorem wit_TraceIssue :
    let rs : List Reg := regsFrom .v 16 8 ++ [.s 8, .s 9]
    let crowded := at0.setGroup 4 { launchGroup 50 42 with block := some { pc := 0, order := 0, view := false, empty := false } }
    let b := blocked 0x2482027D false
    let bs := blocked 0x248202FD false
    Ready at0 (grp at0) rs [] ∧ at0.cur.cls = .ordinary ∧ at0.waitsBefore 0 (grp at0) false = false ∧
    (lanesOf at0.cur.mask).length ≤ at0.raysFree 0 0 (grp at0).level ∧ (withCut at0).cutOf (grp at0) 0 = some [0, 0, 0, 1] ∧
    at0.cutOf (grp at0) 0 = none ∧ Ready (withCut at0) (grp (withCut at0)) rs [] ∧
    Ready crowded (grp crowded) rs [] ∧ crowded.waitsBefore 0 (grp crowded) false = true ∧
    (∃ c, b.blockedIssue 0 false = some (c, .trace 9 8 16) ∧ Ready { b with cur := c, waited := false } (grp { b with cur := c }) rs [] ∧
      { b with cur := c, waited := false }.waitsBefore 0 (grp { b with cur := c }) false = false ∧
      (lanesOf c.mask).length ≤ { b with cur := c, waited := false }.raysFree 0 0 0) ∧
    (∃ c, bs.blockedIssue 0 false = some (c, .traces 9 8 16)) :=
  ⟨ready_of (by decide), rfl, by decide, by decide, by decide, by decide, ready_of (by decide), ready_of (by decide), by decide,
    ⟨_, rfl, ready_of (by decide), by decide, by decide⟩, ⟨_, rfl⟩⟩
/-- A TRACE with one lane left, and one whose records are complete. -/
def tracing (left : List Nat) (rays : List Nat) : State :=
  withOp (withRay at0 (rayOf 7 false 0 5 0) []) .viewTrace (regsFrom .v 16 8) (.trace 16 false left [] false rays)
theorem wit_RaysAndRecords :
    let q := fun (st b : Nat) => withRay at0 (rayOf 7 false st b 1) [ent]
    let ok := fun (s : State) => (s.cluster 0).tq = [ent] ∧ s.weak = [] ∧ ((s.cluster 0).rays.get? 0).isSome = true ∧ (s.part 0).stoppedAll = false ∧
      s.hostLost = false ∧ (s.cluster 0).visitFree ≤ (s.part 0).clock
    let t := tracing [0] []
    let v := withCluster at0 fun c => { c with rays := [(0, rayOf 3 true 0 5 0)], views := [(3, { op := 7, gid := 0, level := 1, part := 0, team := 42, cut := [0, 0, 0, 1], camera := [], res := 0, tile := 3, stat := 30, nextPix := 4, budget := 5, asked := 0, shaded := false, pix := [], lastAt := 0, status := 0, order := 0 })] }
    let f := tracing [] [0]
    ok (q 1 5) ∧ ok (q 0 0) ∧ ent.stack = [⟨0, 1, none⟩] ∧ ent.stopped = none ∧ (served (q 0 0) (rayOf 7 false 0 0 1)).stop = none ∧
    ok (withRay (lazyPage at0) (rayAt 0x20000000) [ent]) ∧ ok (withRay at0 (rayAt 0x40000000) [ent]) ∧
    (served (withRay (lazyPage at0) (rayAt 0x20000000) [ent]) (rayAt 0x20000000)).stop.map (·.code) = some 13 ∧
    (served (withRay at0 (rayAt 0x40000000) [ent]) (rayAt 0x40000000)).stop.map (fun x => (x.code, x.fatal)) = some (10, false) ∧
    (t.cluster 0).rays.get? 0 = some (rayOf 7 false 0 5 0) ∧ (rayOf 7 false 0 5 0).pending = 0 ∧ (op7 t).kind = .trace 16 false [0] [] false [] ∧ (op7 t).dests = regsFrom .v 16 8 ∧
    t.group? (op7 t).gid = some (grp t) ∧ (grp t).uid = (op7 t).uid ∧ ((grp t).lane 0).st ≠ .exited ∧
    t.ops.get? 7 = some (op7 t) ∧ (v.cluster 0).rays.get? 0 = some (rayOf 3 true 0 5 0) ∧ ((v.cluster 0).views.get? 3).isSome = true ∧
    f.ops.get? 7 = some (op7 f) ∧ (op7 f).kind = .trace 16 false [] [] false [0] ∧ (f.part (op7 f).part).stoppedAll = false ∧
    f.group? (op7 f).gid = some (grp f) ∧ (grp f).uid = (op7 f).uid ∧ (op7 f).dests = regsFrom .v 16 8 := by decide
/-- A RAST about to complete. -/
def rasting : State := withCore (withOp at0 .viewTrace [.v 4] (.rast [⟨.v 4, 0, 5⟩])) fun c => { c with rq := [7] }
theorem wit_Rasteriser : Ready at0 (grp at0) (regsFrom .s 10 11 ++ [.s 30]) (regsFrom .v 40 4) ∧ at0.cur.cls = .ordinary ∧
    walkOf [0x7F800000] = none ∧ (rasting.core 0).rq = [7] ∧ Due rasting 7 (op7 rasting) (grp rasting) ∧
    (op7 rasting).kind = .rast [⟨.v 4, 0, 5⟩] ∧ (0 : Nat) < 64 := ⟨ready_of (by decide), rfl, by decide, by decide, due_of (by decide), by decide, by decide⟩
/-- A camera at the origin: w = 1, h = 1, near 0, far 1. -/
def camera : List (Nat × Word) := [(23, 0x3F800000), (27, 0x3F800000), (29, 0x3F800000)]
def slotOf3 (pix : Tab Word) (next : Nat) : ViewSlot :=
  { op := 7, gid := 0, level := 1, part := 0, team := 42, cut := [0, 0, 0, 1], camera := [0, 0, 0, 0x3F800000, 0, 0, 0, 0x3F800000, 0, 0x3F800000],
    res := 0, tile := 3, stat := 30, nextPix := next, budget := 5, asked := 0, shaded := false, pix, lastAt := 0, status := 0, order := 0 }
theorem wit_Views :
    let srcs : List Reg := regsFrom .s 20 10 ++ [.s 30]
    let dests : List Reg := [.t 3, .s 30]
    let cam := fun (s : State) => (List.range 10).map fun k => (grp s).sr (20 + k)
    let ok := State.regs (withCut at0) [] camera
    let full := withCluster ok fun c => { c with views := (List.range 64).map fun n => (n, slotOf3 [] 0) }
    let deep := ok.modGroup 0 fun g => { g with level := 1 }
    let b := (State.regs (blocked 0x7944607D true) [] camera)
    let cast := withCluster at0 fun c => { c with views := [(3, slotOf3 [] 0)] }
    let done := atClock (withOp (withCluster at0 fun c => { c with views := [(3, slotOf3 [(0, 1), (1, 1), (2, 1), (3, 1)] 4)] }) .viewTrace [.t 3, .s 30]
      (.view 3 0)) 9
    Ready ok (grp ok) srcs dests ∧ ok.cur.cls = .ordinary ∧ (grp ok).level < (ok.part 0).viewV ∧
    ok.cutOf (grp ok) ((grp ok).sr 30).toNat = some [0, 0, 0, 1] ∧ cameraBad (cam ok) = false ∧ ok.waitsBefore 0 (grp ok) true = false ∧
    (ok.cluster 0).viewsOf 1 < (ok.part 0).viewPool ∧ Ready full (grp full) srcs dests ∧ ¬ (full.cluster 0).viewsOf 1 < (full.part 0).viewPool ∧
    Ready deep (grp deep) srcs dests ∧ (deep.part 0).viewV ≤ (grp deep).level ∧ Ready at0 (grp at0) srcs dests ∧ at0.cutOf (grp at0) 0 = none ∧
    Ready (withCut at0) (grp (withCut at0)) srcs dests ∧ cameraBad (cam (withCut at0)) = true ∧
    (∃ c, b.blockedIssue 0 true = some (c, .view 30 20 2 3) ∧ Ready { b with cur := c, waited := false } (grp { b with cur := c }) srcs dests ∧
      { b with cur := c, waited := false }.waitsBefore 0 (grp { b with cur := c }) true = false ∧
      ({ b with cur := c, waited := false }.cutOf (grp { b with cur := c }) 0).isSome = true ∧
      (grp { b with cur := c }).sr 30 = 0 ∧ (grp { b with cur := c }).level = 0 ∧
      cameraBad (cam { b with cur := c }) = false) ∧
    (b.cluster 0).viewsOf 1 < (b.part 0).viewPool ∧ 0 < (b.part 0).viewV ∧
    cast.partOfCluster 0 = some 0 ∧ castNext (fun v => decide (0 < cast.raysFree 0 0 v.level) && !cast.traceBefore 0 v) (cast.cluster 0).views = some (3, slotOf3 [] 0) ∧
    (cast.cluster 0).castAt ≠ (cast.part 0).clock + 1 ∧ (done.cluster 0).views.get? 3 = some (slotOf3 [(0, 1), (1, 1), (2, 1), (3, 1)] 4) ∧
    done.ops.get? 7 = some (op7 done) ∧ done.group? (op7 done).gid = some (grp done) ∧ (grp done).uid = (op7 done).uid ∧
    (op7 done).dests = [.t 3, .s 30] ∧ 0 < (done.part 0).clock :=
  ⟨ready_of (by decide), rfl, by decide, by decide, by decide, by decide, by decide, ready_of (by decide), by decide, ready_of (by decide),
    by decide, ready_of (by decide), by decide, ready_of (by decide), by decide,
    ⟨_, rfl, ready_of (by decide), by decide, by decide, by decide, by decide, by decide⟩, by decide, by decide, by decide, by decide, by decide,
    by decide, by decide, by decide, by decide, by decide, by decide⟩
/-- A bin of one thread whose time has come. -/
def shbin (view : Bool) : ShBin :=
  { view, entry := 0x100, team := 42, mat := 5, level := 1, threads := [{ regs := [1, 2], arrived := 0, shade := (7, 0) }] }
theorem wit_ShadingGroups :
    let s := fun view => atClock (withCore at0 fun c => { c with shbins := [shbin view] }) 2000
    let best := fun (s : State) => bestBin (fun t => ((s.teams.get? t).map (·.index)).getD 0) ((s.core 0).shbins.filter fun x =>
      x.level == 1 && (decide (32 ≤ x.threads.length) || decide (x.oldest + (s.part 0).binTimer ≤ (s.part 0).clock)))
    (s true).partOfCluster (0 / 4) = some 0 ∧ best (s true) = some (shbin true) ∧ best (s false) = some (shbin false) ∧
    (s true).groups.get? (shadeSlot 0 1) = none ∧ ((s true).part 0).stoppedAll = false := by decide
/-- A closest-hit and a view-shading group of which lane 0 issues, with an open load or none. -/
def shade (k : GKind) (s : State) : State :=
  { (withLanes s fun _ l => { l with shade := some (7, 0) }).modGroup 0 (fun g => { g with kind := k }) with cur := { Cur.idle with pc := launchPc, mask := 1 } }
theorem wit_ThreadEnds :
    let ok := fun (s : State) => s.cur.defer = none ∧ s.curGroup? = some (grp s)
    let open' := fun (s : State) => s.lsOpen ((grp s).tidsOf s.cur.mask) allStreams
    let quiet := fun (s : State) => (s.groups.all fun x => x.2.lanes.all fun l => decide (l.hold = none)) = true ∧ (grp s).conv = []
    let busy := shade .closestHit walking
    let hit := shade .closestHit at0
    let view := shade .viewShade at0
    let traced := shade .closestHit (withOp at0 .viewTrace (regsFrom .v 16 8) (.trace 16 true [] [0] true []))
    let viewed := withLanes (shade .viewShade (withCluster at0 fun c => { c with views := [(3, slotOf3 [] 4)] })) fun _ l => { l with shade := some (3, 0) }
    ok at0 ∧ at0.cur.cls = .ordinary ∧ (grp at0).kind = .ordinary ∧ quiet at0 ∧ ok inHandler ∧ inHandler.cur.cls = .handler ∧ ok inDebug ∧
    inDebug.cur.cls = .debug ∧ ok busy ∧ (grp busy).kind = .closestHit ∧ open' busy = true ∧ ok hit ∧ open' hit = false ∧ quiet hit ∧
    ok view ∧ (grp view).kind = .viewShade ∧ open' view = false ∧ quiet view ∧ (grp view).has (.v 5) = true ∧ (grp view).isEmpty (.v 5) = false ∧
    open' (shade .viewShade walking) = true ∧ ok traced ∧ lanesOf traced.cur.mask = [0] ∧ ((grp traced).lane 0).shade = some (7, 0) ∧
    (op7 traced).kind = .trace 16 true [] [0] true [] ∧ (grp view).readsBad view.cur.mask [.v 5] = false ∧ ok viewed ∧ ((grp viewed).lane 0).shade = some (0 * 64 + 3, 0) ∧
    (viewed.cluster 0).views.get? 3 = some (slotOf3 [] 4) := by decide
theorem wit_Retirement :
    let dead := withLanes at0 fun _ l => { l with st := .exited }
    let gone := { at0 with groups := [] }
    let past := { gone with teams := [], grids := gone.grids.mapVal fun _ (x : Grid) => { x with resident := 0 } }
    let x := (past.grids.get? 41).getD launchGrid
    dead.group? 0 = some (grp dead) ∧ (grp dead).kind ≠ .debug ∧ (∀ l ∈ (grp dead).lanes, l.st ≠ .live) ∧
    dead.producing 0 (grp dead).uid = false ∧ (dead.part (grp dead).part).stoppedAll = false ∧
    gone.teams.get? 42 = some (launchTeam 41) ∧ (∀ x ∈ gone.groups, x.2.team = 42 → x.2.kind = .debug) ∧
    (∀ x ∈ gone.cores, x.2.holdsTeam 42 = false) ∧ (∀ x ∈ (launchTeam 41).tasks, x.2.unready = false) ∧
    past.grids.get? 41 = some x ∧ (∀ r ∈ x.ranges, r.2.2 = 0) ∧ x.steals = [] ∧ x.resident = 0 ∧ past.accs = [] ∧
    (past.part x.part).pkts.find? (fun k => k.grid == 41) = none := by decide
/-- Every lane waits at a REPACK. -/
def repacking : State := withLanes at0 fun _ l => { l with hold := some .repack }
theorem wit_RepackFires :
    let gs := ((repacking.teamGroups 42).filter fun x => x.2.liveMask != 0).foldr insertByNum []
    let ts := gs.flatMap fun x => x.2.atRepack x.1
    let tm := launchTeam 41
    let slots := (tm.slots.filter fun i => gs.any fun x => x.1 == i) ++ tm.slots.filter fun i => (repacking.groups.get? i).isNone
    repacking.teams.get? 42 = some tm ∧ (repacking.part tm.part).stoppedAll = false ∧ ts.length = 32 ∧
    (∀ x ∈ ts, x.th.hold = some .repack ∧ x.th.parked = false) ∧ (∀ x ∈ gs, repacking.pendingRegs x.1 x.2.uid = false) ∧
    (gs.all fun x => x.2.empty.isEmpty) = true ∧ (freshGroups tm.width ts).length ≤ slots.length ∧ slots.Nodup ∧
    (gs.all fun x => x.2.v.wf && x.2.rep.isNone) = true := by decide

/-! The prefix store. -/

/-- Nodes 0 to 7 with slots of 4 KiB from 0x80000; tree 0 of blocks of 16 tokens, its root node 0, and node 1 a child over 16 zeros. -/
def zeros16 : List Word := List.replicate 16 0
def rootNode : Node := { Node.reset with st := 3, hash2 := 5, gen := 2 }
def childNode : Node :=
  { Node.reset with st := 2, key := keyOver 0 zeros16, hash2 := hash2Over 5 zeros16, depth := 1, refcnt := 1, tokBase := 0x81000,
                    snapBase := 0x81040, snapSize := 64, gen := 3 }
def withStore (s : State) (ns : Tab Node) : State :=
  { lazyPage (s.modPart 0 fun p => ((p.setReg 0x400 0x800000000).setReg 0x408 0x8000C).setReg 0x808 0x80000004) with nodes := ns }
def store0 : Tab Node := [(0, { rootNode with nchild := 1 }), (1, childNode)]
/-- A snapshot operation under number 7 with its arguments, over a store. -/
def args0 (s : State) : Issuer := s.snapIssuer (op7 s)
def snapOf (ns : Tab Node) (sub results : Nat) (args : List Word) (st : SnapSt) : State :=
  withOp (withStore at0 ns) .snapshot (regsFrom .s 20 results) (.snap sub 20 args st none)

theorem wit_SnapshotIssue :
    let ok := fun (s : State) => Ready s (grp s) ([30, 31, 6].map .s) (regsFrom .s 56 3) ∧ Ready s (grp s) ([6, 58, 59].map .s) (regsFrom .s 58 2) ∧
      Ready s (grp s) ([56, 57, 58, 59, 0, 1].map .s) (regsFrom .s 0 2) ∧ Ready s (grp s) ([7, 7].map .s) (regsFrom .s 4 2)
    (ok at0 ∧ at0.cur.cls = .ordinary) ∧ (ok inHandler ∧ inHandler.cur.cls ≠ .ordinary) ∧
    Ready at0 (grp at0) ([20, 21, 6, 20, 21].map .s) (regsFrom .s 20 3) ∧
    (let s := at0.modGroup 0 fun g => { g with rxq := [(5, 0)] }
     Ready s (grp s) ([30, 31, 62].map .s) (regsFrom .s 56 2)) :=
  ⟨⟨⟨ready_of (by decide), ready_of (by decide), ready_of (by decide), ready_of (by decide)⟩, rfl⟩,
    ⟨⟨ready_of (by decide), ready_of (by decide), ready_of (by decide), ready_of (by decide)⟩, by decide⟩,
    ready_of (by decide), ready_of (by decide)⟩
theorem wit_SnapshotHash :
    let at' := fun (lo b : Word) => snapOf store0 0 3 [lo, 0, b, 9, 0] (.start [])
    let ok := fun (s : State) => s.ops.get? 7 = some (op7 s) ∧ s.group? (op7 s).gid = some (grp s) ∧ (grp s).uid = (op7 s).uid ∧
      (s.part (op7 s).part).stoppedAll = false ∧ (op7 s).dests = regsFrom .s 20 3 ∧ s.hostLost = false
    let code := fun (lo : DWord) => match (at' 0 0).readTokens (args0 (at' 0 0)) lo 2 with | .error c => c.code | .ok _ => 0
    ok (at' 0x50000 2) ∧ okB ((at' 0x50000 2).readTokens (args0 (at' 0 0)) 0x50000 2) = true ∧ ok (at' 0x50000 0x80000002) ∧
    (((at' 0 0).part 0).reg 0x808).getLsbD 31 = true ∧ ok (at' 0x50000 0x81000002) ∧ (((at' 0 0).part 0).reg 0x818).getLsbD 31 = false ∧
    ok (at' 0x50002 2) ∧ ok (at' 0x40000000 2) ∧ code 0x40000000 = 10 ∧ ok (at' 0x20000000 2) ∧ code 0x20000000 = 13 := by decide
theorem wit_SnapshotFind :
    let at' := fun (lo b : Word) => snapOf store0 1 2 [lo, 0, b] (.start [])
    let ok := fun (s : State) => s.ops.get? 7 = some (op7 s) ∧ s.group? (op7 s).gid = some (grp s) ∧ (grp s).uid = (op7 s).uid ∧
      s.snapArrives (op7 s) (.start []) none = true ∧ (op7 s).dests = regsFrom .s 20 2 ∧ s.hostLost = false
    let s := at' 0x50000 16
    let full := withOp (withStore at0 [(0, { rootNode with refcnt := 2 ^ 24 - 1 })]) .snapshot (regsFrom .s 20 2) (.snap 1 20 [0x50000, 0, 0] (.start []) none)
    let x := fun i : Nat => if i = 0 then 0 else 1
    ok s ∧ ok (at' 0x50000 0x40000010) ∧ ok (at' 0x50000 0x01000010) ∧ ok full ∧ (full.node 0 0).refcnt = 2 ^ 24 - 1 ∧ x 0 = 0 ∧
    s.readTokens (args0 s) (0x50000 + BitVec.ofNat 64 (4 * 16 * 0)) 16 = .ok zeros16 ∧
    s.candidates 0 0 (x 0) (keyOver (s.node 0 (x 0)).key zeros16) = [] ++ x 1 :: [] ∧
    s.confirms 0 (x 1) false 16 zeros16 (hash2Over (s.node 0 (x 0)).hash2 zeros16) = .ok true ∧ (s.node 0 1).refcnt ≠ 2 ^ 24 - 1 := by decide
theorem wit_SnapshotGetAndRelease :
    let ok := fun (s : State) => s.ops.get? 7 = some (op7 s) ∧ s.group? (op7 s).gid = some (grp s) ∧ (grp s).uid = (op7 s).uid ∧
      s.snapArrives (op7 s) (.start []) none = true ∧ (op7 s).dests = regsFrom .s 20 2
    let get := fun (h lo : Word) => snapOf store0 2 2 [h, lo, 0] (.start [])
    let rel := fun (h touch : Word) => snapOf store0 4 2 [h, touch] (.start [])
    let full := snapOf [(0, rootNode), (1, { childNode with refcnt := 2 ^ 24 - 1 })] 2 2 [0x300001, 0x50000, 0] (.start [])
    let s := get 0x300001 0x50000
    let code := fun (s : State) (lo : DWord) (n : Nat) => match s.resolveDest (args0 s) lo n [] with | .error c => c.1.code | .ok _ => 0
    let copying := fun (size : Nat) (dest : List (List Piece)) (done : Nat) =>
      snapOf [(0, rootNode), (1, { childNode with snapSize := size, refcnt := 2 })] 2 2 [0x300001, 0x50000, 0] (.getting 1 dest done)
    let goesOn := fun (s : State) => s.ops.get? 7 = some (op7 s) ∧ s.group? (op7 s).gid = some (grp s) ∧ (grp s).uid = (op7 s).uid ∧
      (s.part (op7 s).part).stoppedAll = false ∧ (op7 s).dests = regsFrom .s 20 2
    let going := copying 128 [[]] 0
    let last := copying 128 [[], []] 1
    let none' := copying 0 [] 0
    ok s ∧ (s.node 0 1).st = 2 ∧ (s.node 0 1).gen % 4096 = 3 ∧ okB (s.resolveDest (args0 s) 0x50000 1 []) = true ∧ s.weak = [] ∧ okB (s.readSlot 0 0x81040 64) = true ∧
    ok (get 0x300001 0x50001) ∧ ok (get 0x200001 0x50000) ∧ ok full ∧ (full.node 0 1).refcnt = 2 ^ 24 - 1 ∧ ok (get 0x300001 0x40000000) ∧
    code s 0x40000000 1 = 10 ∧ code s 0x20000000 1 = 13 ∧ ok (get 0x300001 0x20000000) ∧
    goesOn going ∧ okB (going.resolveDest (args0 going) 0x50000 1 [[]]) = true ∧ okB (going.readSlot 0 0x81080 64) = true ∧
    goesOn last ∧ okB (last.resolveDest (args0 last) 0x50000 0 [[], []]) = true ∧ goesOn none' ∧ (none'.node 0 1).snapSize / 64 = 0 ∧ ok (rel 0x300001 1) ∧ (s.node 0 1).refcnt ≠ 0 ∧
    ok (rel 0x300001 2) ∧ ok (rel 0x300009 0) ∧ ok (rel 0x200000 0) ∧ (s.node 0 0).refcnt = 0 ∧ (s.node 0 0).gen % 4096 = 2 :=
  ⟨by decide, by decide, by decide, by decide, by decide, by decide, by decide, by decide, by decide, by decide, by decide, by decide, by decide, by decide, by decide, by decide⟩
theorem wit_SnapshotDeposit :
    let ok := fun (s : State) => s.ops.get? 7 = some (op7 s) ∧ s.group? (op7 s).gid = some (grp s) ∧ (grp s).uid = (op7 s).uid ∧
      s.snapArrives (op7 s) (.start []) none = true ∧ (op7 s).dests = regsFrom .s 20 2 ∧ s.hostLost = false
    let dep := fun (ns : Tab Node) (h size : Word) => snapOf ns 3 2 [h, size, 0x50000, 0, 0x60000, 0] (.start [])
    let s := (dep store0 0x300001 64).modPart 0 fun p => p.setCr 0x29 0
    let deep := dep [(0, rootNode), (1, { childNode with depth := 2 ^ 24 - 1 })] 0x300001 64
    let whole := dep ((List.range 8).map fun k => (k, { childNode with st := 3, gen := 3 })) 0x300001 64
    let old := withStore at0 [(0, { rootNode with nchild := 1 }), (1, { childNode with refcnt := 0 })]
    let fill := { Node.reset with st := 1, parent := 0, depth := 1, key := keyOver 0 zeros16, hash2 := hash2Over 5 zeros16, tokBase := 0x82000, snapBase := 0x82040, snapSize := 64 }
    let going := fun (s : State) => s.ops.get? 7 = some (op7 s) ∧ s.group? (op7 s).gid = some (grp s) ∧ (grp s).uid = (op7 s).uid ∧
      (s.part (op7 s).part).stoppedAll = false ∧ (op7 s).dests = regsFrom .s 20 2 ∧ s.hostLost = false ∧ s.weak = []
    let link := fun (ns : Tab Node) (done : Nat) => snapOf ns 3 2 [0x200000, 64, 0x50000, 0, 0x60000, 0] (.copying 2 done)
    let tab := [(0, rootNode), (2, fill)]
    let new := link tab 128
    let mid := link tab 64
    let head := link tab 0
    let lazy' := snapOf tab 3 2 [0x200000, 64, 0x20000000, 0, 0x60000, 0] (.copying 2 64)
    let bad := snapOf tab 3 2 [0x200000, 64, 0x40000000, 0, 0x60000, 0] (.copying 2 64)
    let code := fun (s : State) (va : DWord) => match s.readFlat (args0 s) .load va 64 with | .error c => c.code | .ok _ => 0
    let dup := (link [(0, rootNode), (1, childNode), (2, fill)] 128).modPart 0 fun p => p.setReg 0x808 0xC0000004
    ok s ∧ (s.node 0 1).st = 2 ∧ s.esFree 0 ≠ 0 ∧ s.freeNode 0 = some 2 ∧ ((s.part 0).cr 0x29).extractLsb' 0 21 = 0 ∧ ok (dep store0 0x300001 1) ∧
    ok (dep store0 0x200001 64) ∧ ok deep ∧ (deep.node 0 1).depth = 2 ^ 24 - 1 ∧ ok (dep store0 0x300001 0x1000) ∧ 2 ^ (s.part 0).slotLog - 64 < 0x1000 ∧
    ok whole ∧ whole.esFree 0 = 0 ∧ whole.freeNode 0 = none ∧ whole.evictable 0 = none ∧
    old.evictable 0 = some 1 ∧ (old.node 0 1).parent ≠ 1 ∧ going head ∧ okB (head.readFlat (args0 head) .load 0x60000 64) = true ∧
    (head.node 0 2).tokBase + 64 ≤ (head.part 0).hbmSize ∧ going mid ∧ okB (mid.readFlat (args0 mid) .load 0x50000 64) = true ∧
    (mid.node 0 2).snapBase + 64 ≤ (mid.part 0).hbmSize ∧ going lazy' ∧ code lazy' 0x20000000 = 13 ∧ going bad ∧ code bad 0x40000000 = 10 ∧
    going new ∧ new.candidates 0 0 0 (new.node 0 2).key = [] ∧ okB (new.readSlot 0 0x82000 64) = true ∧ going dup ∧
    dup.candidates 0 0 0 (dup.node 0 2).key = [] ++ 1 :: [] ∧ ((dup.part 0).reg 0x808).getLsbD 30 = true ∧
    dup.confirms 0 1 true 16 (wordsOf 16 []) (dup.node 0 2).hash2 = .ok true ∧ (dup.node 0 1).refcnt ≠ 2 ^ 24 - 1 :=
  ⟨by decide, by decide, by decide, by decide, by decide, by decide, by decide, by decide, by decide,
    by decide, by decide, by decide, by decide, by decide, by decide, by decide, by decide, by decide,
    by decide, by decide, by decide, by decide, by decide, by decide, by decide, by decide⟩
theorem wit_PrefixTrees :
    let ok := fun (s : State) => s.hostLost = false ∧ s.devResetting = false ∧ s.mc.recovery = false ∧ (s.part 0).memEnable = true
    let host := fun (s : State) (w : DWord) => s.modPart 0 fun p => { p.setReg 0x808 w with memEnable := true }
    let new := host (withStore at0 []) 0
    let live := host (withStore at0 store0) 0x80000004
    let going := (host (withStore at0 store0) 4).modPart 0 fun p => { p with discarding := [0] }
    ok new ∧ ((new.part 0).reg 0x808).getLsbD 31 = false ∧ (new.part 0).discarding.contains 0 = false ∧ 4 * 2 ^ 4 ≤ 2 ^ (new.part 0).slotLog ∧
    new.freeNode 0 = some 0 ∧ (0x80000004 : BitVec 64).getLsbD 31 = true ∧ (0x80000004 : BitVec 64).extractLsb' 0 4 = 4 ∧
    (0x80000003 : BitVec 64).getLsbD 31 = true ∧ (0x80000003 : BitVec 64).extractLsb' 0 4 = 3 ∧ ok live ∧ ((live.part 0).reg 0x808).getLsbD 31 = true ∧
    ok going ∧ (going.part 0).discarding.contains 0 = true ∧ going.treeBusy 0 0 = false ∧ going.nodes.wf = true := by decide

/-! Collectives and placement. -/

def withPart (s : State) (f : Part → Part) : State := s.modPart 0 f
/-- A contribution of group 0 with one element, and an instance of ID 0 that it fills. -/
def contrib (op : Nat) (src dst : DWord) : CContrib :=
  { gid := 0, uid := 43, src, dst, count := 1, op, root := false, d := 20, mask := 3, key := 5 }
def collective (cfg : DWord) (cs : List CContrib) (lost : Bool) : Coll := { id := 0, cfg, contribs := cs, stopped := none, lost }
def withColl (x : Coll) : State := withLanes (withPart (lazyPage at0) fun p => { p with colls := [x] }) fun _ l => { l with hold := some (.collective 0) }

theorem wit_CollectiveIssue :
    let srcs := regsFrom Reg.s 24 4 ++ [.s 20]
    let bad := State.regs at0 [] [(20, 0x40)]
    let set := withPart at0 fun p => p.setReg 0x600 0x8000000000000001
    let join := withPart at0 fun p => { p with colls := [collective 1 [] false] }
    Ready at0 (grp at0) srcs [.s 30] ∧ at0.cur.cls = .ordinary ∧ ((grp at0).sr 20).extractLsb' 6 3 = 0 ∧ (at0.part 0).colls = [] ∧
    ((at0.part 0).reg 0x600).getLsbD 63 = false ∧ Ready bad (grp bad) srcs [.s 30] ∧ ((grp bad).sr 20).extractLsb' 6 3 ≠ 0 ∧
    Ready set (grp set) srcs [.s 30] ∧ ((set.part 0).reg 0x600).getLsbD 63 = true ∧ Ready join (grp join) srcs [.s 30] ∧
    (join.part 0).colls = [] ++ collective 1 [] false :: [] ∧ Ready inHandler (grp inHandler) srcs [.s 30] ∧ inHandler.cur.cls ≠ .ordinary :=
  ⟨ready_of (by decide), rfl, by decide, by decide, by decide, ready_of (by decide), by decide, ready_of (by decide), by decide,
    ready_of (by decide), by decide, ready_of (by decide), by decide⟩
theorem wit_CollectiveCompletion :
    let x := collective 0 [contrib 0 0x50000 0x60000] false
    let y := collective 1 [contrib 0 0x50000 0x60000, { contrib 1 0x50000 0x60000 with gid := 17 }] false
    let outer := collective 0x10000 [contrib 0 0x50000 0x60000] false
    let some' := collective 1 [contrib 0 0 0] true
    let code := fun (src : DWord) => match (withColl x).collSources 0 [contrib 0 src 0] with | .error e => e.2.code | .ok _ => 0
    let ok := fun (x : Coll) => ((withColl x).part 0).colls.find? (fun y => y.id == 0) = some x ∧ ((withColl x).part 0).stoppedAll = false ∧
      x.stopped = none ∧ (x.contribs.map (·.gid)).Nodup ∧ (∀ c ∈ x.contribs, c.d < 60) ∧ x.contribs.length = (x.cfg.extractLsb' 0 16).toNat + 1 ∧
      (x.cfg.extractLsb' 16 10).toNat = 0 ∧ (withColl x).hostLost = false
    ok x ∧ collMismatch x.contribs [] = false ∧ okB ((withColl x).collSources 0 x.contribs) = true ∧ okB ((withColl x).collDests 0 x.contribs) = true ∧
    ok (collective 1 [contrib 0 0 0, { contrib 0 0 0 with gid := 17 }] true) ∧ outer.contribs.length = 1 ∧ (withColl outer).hostLost = false ∧
    ((withColl outer).part 0).colls.find? (fun y => y.id == 0) = some outer ∧ (outer.cfg.extractLsb' 16 10).toNat = [(9, [(5 : Word)])].length ∧
    (∀ z ∈ [(9, [(5 : Word)])], z.1 ≠ (withColl outer).mc.pkgId.toNat ∧ z.1 < 1024) ∧ (withColl outer).weak = [] ∧
    collMismatch outer.contribs [(9, [(5 : Word)])] = false ∧ ok y ∧ collMismatch y.contribs [] = true ∧ ok (collective 0 [contrib 0 0x40000000 0] false) ∧ code 0x40000000 = 10 ∧
    ok (collective 0 [contrib 0 0x20000000 0] false) ∧ code 0x20000000 = 13 ∧ ok (collective 0 [contrib 0 0 0] true) ∧
    (withColl x).group? 0 = some (grp (withColl x)) ∧ (grp (withColl x)).uid = 43 ∧
    dieOf 0 = dieOf 17 ∧ dieOf 0 < 4 ∧ (contrib 0 0 0).op ≤ 3 ∧ (contrib 0 0 0).op ≠ (contrib 1 0 0).op ∧
    some'.lost = true ∧ some'.contribs.length ≠ (some'.cfg.extractLsb' 0 16).toNat + 1 ∧
    ((withColl some').part 0).colls.find? (fun y => y.id == 0) = some some' ∧ (contrib 4 0 0).root = false ∧ { contrib 4 0 0 with root := true }.root = true :=
  ⟨by decide, by decide, by decide, by decide, by decide, by decide, by decide, by decide, by decide, by decide, by decide, by decide,
    by decide, by decide, by decide, by decide, by decide, by decide, by decide, by decide⟩
theorem wit_PackageUnreachable :
    let x := collective 0x10000 [contrib 0 0 0] false
    let s := withColl x
    let f := withPart s fun p => { p with stoppedAll := true }
    s.parts = [(0, s.part 0)] ∧ (∀ y ∈ (s.part 0).colls, y.lost = false) ∧ x.cfg.extractLsb' 16 10 ≠ 0 ∧ 9 ≠ s.mc.pkgId.toNat ∧
    [(0, 0)].contains (0, x.id) = true ∧ (x.contribs.map (·.gid)).Nodup ∧
    x.contribs.length = (x.cfg.extractLsb' 0 16).toNat + 1 ∧
    (withColl (collective 0x10001 [contrib 0 0 0] false)).parts.length = 1 ∧ (∀ c ∈ x.contribs, c.d < 60) ∧ (s.part 0).stoppedAll = false ∧ f.parts = [(0, f.part 0)] ∧ (f.part 0).stoppedAll = true := by decide
/-- The grid with the ranges of its clusters and its steals. -/
def gridOf (ranges : List (Nat × Nat × Nat)) (steals : List Steal) : Grid := { launchGrid with ranges, steals }
def withGrid (x : Grid) (clusters : List Nat) : State :=
  withPart { at0 with grids := [(41, x)] } fun p => { p with clusters }
theorem wit_TeamPlacement :
    let x := gridOf [(0, 0, 1)] []
    let s := withGrid x [0, 1, 2, 3]
    s.partOfCluster 0 = some 0 ∧ ((s.part 0).ctxState = 2 ∧ (s.part 0).preempt ≠ 1 ∧ (s.part 0).preempt ≠ 2 ∧ (s.part 0).stoppedAll = false ∧
      (s.part 0).faulted = false ∧ (s.part 0).resetting = false) ∧ (s.cluster 0).nextPlace ≤ (s.part 0).clock ∧
    s.nextPlacement (s.part 0).viewV (s.part 0).clock 0 (s.gridList 0) = some (41, x, 1) ∧ s.grids.get? 41 = some x ∧
    (∃ ents pages, s.readTable 0 ((s.part 0).reg 0x108 &&& ~~~63) 64 64 = { st := s, ents, pages, stop := none } ∧ ents.length = 64 ∧
      ∀ e ∈ ents, e.length = 64) ∧
    (s.allotSlots (s.part 0).viewV 1 x.pair x.groups []).length = x.groups ∧ (s.allotSlots (s.part 0).viewV 1 x.pair x.groups []).Nodup ∧
    x.width ≤ 64 ∧ s.pickCore 0 0 x = some 1 ∧ x.pair = false :=
  ⟨by decide, by decide, by decide, by decide, by decide, ⟨_, _, rfl, by decide, by decide⟩, by decide, by decide, by decide, by decide, by decide⟩
theorem wit_Steals :
    let y := fun (die : Bool) => { die, cluster := 0, due := 0, first := 2, count := 2 : Steal }
    let a := withGrid (gridOf [(0, 0, 0), (1, 0, 4)] [y false]) [0, 1]
    let b := withGrid (gridOf [(0, 0, 0), (1, 0, 4)] []) [0, 1]
    let c := withGrid (gridOf [(0, 0, 0), (48, 0, 4)] [y true]) [0, 48]
    let d := withGrid (gridOf [(0, 0, 0), (48, 0, 4)] []) [0, 48]
    (a.part 0).placing = true ∧ (a.grids.get? 41).map (·.steals) = some [y false] ∧ 0 ∈ (a.part 0).clusters ∧
    (b.grids.get? 41).map (·.steals) = some [] ∧ (b.pickCore (b.part 0).viewV 0 (gridOf [(0, 0, 0), (1, 0, 4)] [])).isSome = true ∧
    (gridOf [(0, 0, 0), (1, 0, 4)] []).left 0 = 0 ∧ (gridOf [(0, 0, 0), (1, 0, 4)] []).runs 1 = [(0, 4)] ∧
    (b.part 0).clusters.Pairwise (· < ·) ∧ (c.grids.get? 41).map (·.steals) = some [y true] ∧ (d.part 0).clusters = [0, 48] ∧
    dieOfCluster 48 = 1 ∧ dieOfCluster 0 = 0 ∧ (d.pickCore (d.part 0).viewV 0 (gridOf [(0, 0, 0), (48, 0, 4)] [])).isSome = true :=
  ⟨by decide, by decide, by decide, by decide, by decide, by decide, by decide, by decide⟩
/-- A package without groups and teams, whose grid has teams in some clusters and on their way. -/
def waitingGrid (x : Grid) (clusters : List Nat) : State := { withGrid { x with resident := 0 } clusters with groups := [], teams := [] }
theorem wit_DistributorsComplete :
    let x := gridOf [(0, 3, 2)] []
    let place := waitingGrid x [0, 1, 2, 3]
    let y := fun (die : Bool) => { die, cluster := 0, due := 0, first := 2, count := 2 : Steal }
    let near := waitingGrid (gridOf [(1, 0, 4)] []) [0, 1]
    let far := waitingGrid (gridOf [(48, 0, 4)] []) [0, 48]
    let arriving := fun (die : Bool) => waitingGrid (gridOf [(1, 0, 4)] [y die]) [0, 1]
    let u := (place.grids.get? 41).getD launchGrid
    (place.partOfCluster 0 = some 0 ∧ (place.part 0).placing = true ∧ (place.cluster 0).nextPlace ≤ (place.part 0).clock ∧
      place.grids = [(41, u)] ∧ u.part = 0 ∧ u.runs 0 = [(3, 2)] ∧ u.cuts.isSome = true ∧ u.stopped = none ∧ place.groups = [] ∧
      place.teams = [] ∧ u.fits (place.part 0).viewV = true ∧ place.hostLost = false ∧ place.weak = []) ∧
    ((List.range 64).all fun i =>
      okB (place.readFlat (engineOf 0) .load ((place.part 0).tidTable + BitVec.ofNat 64 (64 * i)) 64)) = true ∧
    (((arriving false).part 0).placing = true ∧ 0 ∈ ((arriving false).part 0).clusters ∧
      (((arriving false).grids.get? 41).map (·.steals)) = some [y false]) ∧
    ((((arriving true).grids.get? 41).map (·.steals)) = some [y true] ∧ dieOfCluster 0 = 0) ∧
    ((near.part 0).placing = true ∧ 0 ∈ (near.part 0).clusters ∧ 1 ∈ (near.part 0).clusters ∧ dieOfCluster 1 = dieOfCluster 0 ∧
      ((near.grids.get? 41).map fun z => (z.ranges, z.steals, z.fits (near.part 0).viewV)) = some ([(1, 0, 4)], [], true)) ∧
    ((far.part 0).clusters = [0, 48] ∧ dieOfCluster 0 ≠ dieOfCluster 48 ∧ dieOfCluster 48 < 4 ∧
      ((far.grids.get? 41).map fun z => (z.ranges, z.steals, z.fits (far.part 0).viewV)) = some ([(48, 0, 4)], [], true)) :=
  ⟨by decide, by decide, by decide, by decide, by decide, by decide⟩

/-! Queues and packets. -/

/-- Host accesses are open; queue 0 has its descriptor at 0x50000: ring 0x58000, 16 slots. -/
def hosted (s : State) : State :=
  withPart { s with mem := Memory.write s.mem ⟨.hbm, 0, 0x50000⟩ (toBytes 8 0x58000 ++ toBytes 8 4) } fun p =>
    { (p.setReg 0x1000 0x50000) with memEnable := true }
def queueOf (st : Nat) (next write : Nat) (slot : Option (List DWord)) : Queue :=
  { Queue.off with st, ring := 0x58000, write, next, slot }
def withQueue (s : State) (x : Queue) : State := withPart s fun p => { p with queues := [(0, x)] }

theorem wit_QueueControl :
    let ok := fun (s : State) => s.hostLost = false ∧ s.devResetting = false ∧ s.mc.recovery = false ∧ (s.part 0).memEnable = true
    let s := hosted at0
    let un := withPart (hosted at0) fun p => p.setCtx 0 0
    let bad := { s with mem := Memory.write s.mem ⟨.hbm, 0, 0x50008⟩ [3] }
    let on := withQueue (withPart (hosted at0) fun p => p.setReg 0x1000 0x50001) { queueOf 2 0 0 none with disabling := true }
    let act := withQueue (hosted at0) (queueOf 1 0 0 none)
    let word := fun (s : State) (k : Nat) => BitVec.ofNat 64 (ofBytes (((okD [] (s.readFlat (engineOf 0) .load 0x50000 32)).drop (8 * k)).take 8))
    let wrote := fun (s : State) => match s.writeFlat (engineOf 0) ((((s.part 0).reg 0x1000) &&& ~~~63) + 16) (List.replicate 16 0) with
      | .error e => e.code | .ok _ => 0
    let leaves := fun (va : DWord) => withQueue (withPart (lazyPage (hosted at0)) fun p => p.setReg 0x1000 va) { queueOf 2 0 0 none with disabling := true }
    (s.weak = [] ∧ wrote s = 0 ∧ wrote (leaves 0x20000001) = 13 ∧ wrote (leaves 0x40000001) = 10 ∧ ok (leaves 0x20000001) ∧ ok (leaves 0x40000001)) ∧
    ok s ∧ ((s.part 0).reg 0x1000).getLsbD 0 = false ∧ (s.part 0).ctxState = 2 ∧ ok un ∧ (un.part 0).ctxState ≠ 2 ∧
    okB (s.readFlat (engineOf 0) .load 0x50000 32) = true ∧ (word s 1).extractLsb' 0 5 = 4 ∧ (word s 0).toNat % (64 * 2 ^ 4) = 0 ∧ (s.part 0).pktsOf 0 = [] ∧
    ok bad ∧ ((word bad 1).extractLsb' 0 5).toNat < 4 ∧ ok on ∧ ((on.part 0).reg 0x1000).getLsbD 0 = true ∧ ((on.part 0).queue 0).st = 2 ∧
    ((on.part 0).queue 0).disabling = true ∧ (on.part 0).pktsOf 0 = [] ∧ ok act ∧ ((act.part 0).queue 0).st = 1 ∧
    okB (act.readFlat (engineOf 0) .load 0x58000 64) = true ∧ 1 - ((act.part 0).queue 0).read ≤ 2 ^ ((act.part 0).queue 0).log2n ∧
    2 ^ ((act.part 0).queue 0).log2n < 17 - ((act.part 0).queue 0).read :=
  ⟨by decide, by decide, by decide, by decide, by decide, by decide, by decide, by decide, by decide, by decide, by decide, by decide, by decide,
    by decide⟩
/-- Packets: a KERNEL of one team, one whose team needs 32 tiles for each of 5 groups, a SIGNAL, a BARRIER and a COPY. -/
def kernelWords : List DWord := [0x0001000100000001, 1, 0, 0, 0, 0, 0, 0]
def largeWords : List DWord := [0x0001000100480001, 0x10000001, 0, 0, 0, 0, 0, 0]
def signalWords (op : Nat) : List DWord := [BitVec.ofNat 64 (4 + op * 2 ^ 16), 0x60000, 7, 0, 0, 0, 0, 0]
def barrierWords (a : DWord) : List DWord := [2, a, 0, 0, 0, 0, 0, 0]
def copyWords (src : DWord) : List DWord := [0x4000000003, src, 0x60000, 0, 0, 0, 0, 0]
theorem wit_PacketStarts :
    let s := fun (ws : List DWord) => withQueue at0 (queueOf 1 0 1 (some ws))
    let ok := fun (s : State) (ws : List DWord) => (s.part 0).placing = true ∧ s.hostLost = false ∧ (s.part 0).nextStart ≤ (s.part 0).clock ∧
      (s.part 0).pickQueue = some 0 ∧ ((s.part 0).queue 0).slot = some ws ∧ ((s.part 0).queue 0).write ≤ ((s.part 0).queue 0).next + 1
    let k := s kernelWords
    let desc := fun (s : State) => s.writeFlat (engineOf 0) ((s.part 0).descVa 0 + 16) (toBytes 8 0 ++ toBytes 8 (256 + 2))
    let signalled : List DWord := [9, 0, 0, 0, 0, 0, 0, 0x60000]
    (ok (s signalled) signalled ∧ pktOk signalled = false ∧ sigOk (pktSig signalled) = true ∧ okB (desc (s signalled)) = true ∧
      okB ((okD (s signalled) (desc (s signalled))).update64 0 0x60000 fun v => signalNext v (some 1)) = true) ∧
    (ok (s []) [] ∧ pktOk [] = false ∧ okB (desc (s [])) = true) ∧ pktBits kernelWords 5 2 = 0 ∧
    ok k kernelWords ∧ pktOk kernelWords = true ∧ pktType kernelWords = 1 ∧ (k.part 0).tooLarge kernelWords = false ∧
    (∃ ents pages, k.readTable 0 ((k.part 0).reg 0x110) 32 256 = { st := k, ents, pages, stop := none }) ∧
    ok (s largeWords) largeWords ∧ pktOk largeWords = true ∧ (k.part 0).tooLarge largeWords = true ∧
    ok (s (signalWords 0)) (signalWords 0) ∧ pktOk (signalWords 0) = true ∧ pktType (signalWords 0) ≠ 1 ∧
    ok (s [9, 0, 0, 0, 0, 0, 0, 0]) [9, 0, 0, 0, 0, 0, 0, 0] ∧ pktOk [9, 0, 0, 0, 0, 0, 0, 0] = false ∧ pktSig [9, 0, 0, 0, 0, 0, 0, 0] = 0 ∧
    (∀ c ∈ (k.part 0).clusters, dieOfCluster c = 0) ∧ (k.part 0).clusters[1]? = some 1 ∧ (k.part 0).queues.wf = true :=
  ⟨by decide, by decide, by decide, by decide, by decide, by decide, by decide, ⟨_, _, rfl⟩, by decide, by decide, by decide, by decide, by decide, by decide, by decide, by decide⟩
/-- A started packet, and its queue with the READ index it stands at. -/
def pktOf (ws : List DWord) (result : Nat) : Pkt :=
  { queue := 0, index := 0, words := ws, result, slots := [], abort := none, pos := 0, nextRound := 0, stopped := none, grid := 0, id := 9 }
def started (k : Pkt) : State := withPart (withQueue (lazyPage at0) (queueOf 1 1 1 none)) fun p => { p with pkts := [k] }
def found (s : State) (k : Pkt) : Bool := decide (((s.part 0).pkts.find? fun y => y.queue == 0 && y.index == 0) = some k) && !s.hostLost && !(s.part 0).stoppedAll
theorem wit_PacketCompletion :
    let k := fun (sig : DWord) => { pktOf (kernelWords.take 7 ++ [sig]) 1000 with grid := 41 }
    let ok := fun (k : Pkt) => found (started k) k = true ∧ k.stopped = none ∧ k.result ≠ 0 ∧ ((started k).part 0).queue 0 = queueOf 1 1 1 none
    let code := fun (k : Pkt) => match ((started k).pktRelease k).signalTry 0 (pktSig k.words) none with | .error e => e.code | .ok _ => 0
    let later := withQueue (started (k 0)) { queueOf 1 1 1 none with read := 5 }
    let desc := fun (s : State) => okB (s.writeFlat (engineOf 0) ((s.part 0).descVa 0 + 16) (toBytes 8 1 ++ toBytes 8 1))
    (desc (okD State.reset ((started (k 0)).signalTry 0 0 none)) = true ∧ desc (started (k 0x40000000)) = true ∧
      desc (okD State.reset (((started (k 0x60000)).pktRelease (k 0x60000)).signalTry 0 0x60000 none)) = true ∧ pktType (copyWords 0) = 3) ∧
    ok (k 0) ∧ ok (k 0x60000) ∧ code (k 0x60000) = 0 ∧ ok (k 0x20000000) ∧ code (k 0x20000000) = 13 ∧ ok (k 0x40000000) ∧
    code (k 0x40000000) = 10 ∧ found later (k 0) = true ∧ (k 0).index ≠ ((later.part 0).queue 0).read ∧ (queueOf 1 1 1 none).done = [] ∧
    (queueOf 1 1 1 none).read = 0 ∧ 0 < 3 :=
  ⟨by decide, by decide, by decide, by decide, by decide, by decide, by decide, by decide, by decide⟩
theorem wit_BarrierPackets :
    let k := pktOf (barrierWords 0x60000) 0
    let s := started k
    let neg := { s with mem := Memory.write s.mem ⟨.hbm, 0, 0x60000⟩ (List.replicate 8 0xFF) }
    let val := fun (s : State) => BitVec.ofNat 64 (ofBytes (okD [] (s.readFlat (engineOf 0) .load 0x60000 8)))
    let ok := fun (s : State) => found s k = true ∧ (s.part 0).placing = true ∧ ((s.part 0).queue 0).st ≠ 3 ∧
      okB (s.readFlat (engineOf 0) .load 0x60000 8) = true
    ok s ∧ val s = 0 ∧ ok neg ∧ (val neg).getLsbD 63 = true ∧ pktType k.words = 2 ∧ k.result = 0 ∧ k.stopped = none ∧ k.slots = [] ∧
    pktSig k.words = 0 ∧ k.abort = none ∧ neg.weak = [] ∧
    okB (neg.writeFlat (engineOf 0) ((neg.part 0).descVa 0 + 16) (toBytes 8 0 ++ toBytes 8 2)) = true :=
  ⟨by decide, by decide, by decide, by decide⟩
theorem wit_CopyAndSignalPackets :
    let k := fun (src : DWord) => pktOf (copyWords src) 0
    let ok := fun (k : Pkt) => (((started k).part 0).pkts.find? fun y => pktType y.words == 3 && y.result == 0) = some k ∧ found (started k) k = true ∧
      k.stopped = none
    let code := fun (src : DWord) => match (started (k src)).readFlat (engineOn 0 .cp) .load src 64 with | .error e => e.code | .ok _ => 0
    let g := pktOf (signalWords 1) 0
    ok (k 0x50000) ∧ code 0x50000 = 0 ∧ okB ((started (k 0x50000)).writeFlat (engineOn 0 .cp) 0x60000 (List.replicate 64 0)) = true ∧
    ok (k 0x20000000) ∧ code 0x20000000 = 13 ∧ ok (k 0x40000000) ∧ code 0x40000000 = 10 ∧
    found (started g) g = true ∧ (((started g).part 0).pkts.filter (· == g)).length = 1 ∧ g.stopped = none ∧ pktType g.words = 4 ∧ g.result = 0 ∧
    pktSig g.words = 0 ∧ ((started g).part 0).queue 0 = queueOf 1 1 1 none ∧
    okB ((started g).update64 0 0x60000 fun old => if pktBits g.words 16 2 = 0 then 7 else old + 7) = true ∧
    okB ((okD State.reset ((started g).update64 0 0x60000 fun old => if pktBits g.words 16 2 = 0 then 7 else old + 7)).writeFlat (engineOf 0)
      (((started g).part 0).descVa 0 + 16) (toBytes 8 1 ++ toBytes 8 1)) = true :=
  ⟨by decide, by decide, by decide, by decide, by decide, by decide, by decide, by decide, by decide⟩

/-! Stops, debugging and dumps. -/

/-- The package at a cycle. -/
def atNow (s : State) (n : DWord) : State := { s with now := n }
def waving (n : DWord) (die : Nat) : State :=
  withPart (atNow at0 n) fun p => { p with clusters := [0, 48], wave := some { time := 0, die } }
theorem wit_LullWaves :
    let d := withPart at0 fun p => { (p.setCtx 2 0).setReg 0x388 4 with memEnable := true }
    let un := withPart d fun p => p.setCtx 0 0
    let keyed := withPart d fun p => { p with key := 5 }
    ((waving 96 0).part 0).stoppedAll = false ∧ ((waving 96 0).part 0).wave = some { time := 0, die := 0 } ∧
    ((waving 40 0).part 0).wave = some { time := 0, die := 0 } ∧ 3 ∈ ((waving 40 0).part 0).spList ∧ dieOfCluster (3 / 16) = 0 ∧
    ((waving 40 0).sp 3).frozen = false ∧ 770 ∈ ((waving 40 0).part 0).spList ∧ dieOfCluster (770 / 16) ≠ 0 ∧ ((waving 40 0).sp 770).frozen = false ∧
    ((d.part 0).reg 0x390 = 0 ∧ (keyed.part 0).key = 5 ∧ (keyed.part 0).domainBit = true ∧ (keyed.part 0).ctxState = 2 ∧ (keyed.part 0).wave = none ∧
      (keyed.part 0).stoppedAll = false ∧ keyed.devResetting = false ∧ (keyed.part 0).resetting = false) ∧ (waving 96 0).mc.pkgId.toNat < 1024 ∧
    (d.part 0).ctxState = 2 ∧ d.devResetting = false ∧ (d.part 0).resetting = false ∧ (d.part 0).domainBit = true ∧ (d.part 0).wave = none ∧
    d.hostOpen 0 = true ∧ d.mc.pkgId.toNat < 1024 ∧ un.hostOpen 0 = true ∧ (un.part 0).ctxState ≠ 2 :=
  ⟨by decide, by decide, by decide, by decide, by decide, by decide, by decide, by decide, by decide, by decide, by decide⟩
/-- Comparator 2 of core 0 stands at the issuing address; a job has stopped, and its debug slot is to start. -/
def comparing : State :=
  withCore at0 fun c => { c with bks := Store.set (Store.set [] 0x64 0x40000) 0x72 0xC0010001 }
def debugWanted : State :=
  withPart (atNow at0 9) fun p => { (p.setReg 0x380 0x2000).setReg 0x388 1 with dbgStart := some (0, 5, launchPc), stoppedAll := true }
theorem wit_ComparatorsAndDebugSlot :
    let bk := fun n : Nat => (comparing.core 0).bks.get n
    (∃ c, comparing.group? 0 = some (grp comparing) ∧ ordinaryCand 0 (grp comparing) = some c ∧ c.gid = 0 ∧ c.cls = .ordinary ∧ c.rep = false ∧
      (grp comparing).passOnce ≠ some c.pc ∧ (∀ l ∈ (grp comparing).lanes, l.resume = none) ∧ (bk 0x72).getLsbD 31 = true ∧ ((bk 0x65 ++ bk 0x64) &&& ~~~1) = c.pc) ∧
    (bk 0x72).getLsbD 30 = true ∧ (bk 0x72).getLsbD 16 = true ∧ (bk 0x72).getLsbD 0 = true ∧ (∀ n, n < 2 → (bk (0x70 + n)).getLsbD 31 = false) ∧
    (comparing.sp 0).frozen = false ∧ (comparing.sp 0).step = 0 ∧ (comparing.part 0).stoppedAll = false ∧ (comparing.part 0).wave = none ∧
    (debugWanted.part 0).dbgStart = some (0, 5, launchPc) ∧ (debugWanted.part 0).stoppedAll = true ∧ (debugWanted.part 0).resident = true ∧
    (debugWanted.part 0).resetting = false ∧ (debugWanted.part 0).dbgRun = none ∧ (debugWanted.part 0).stopAt < debugWanted.now.toNat :=
  ⟨⟨_, by decide, rfl, rfl, rfl, rfl, by decide, by decide, by decide, by decide⟩, by decide, by decide, by decide, by decide, by decide⟩
/-- An issue of the debug slot's group; a stopped job that is to resume. -/
def debugging : State := inDebug.modGroup 0 fun g => { g with kind := .debug }
def resuming : State :=
  withPart (atNow at0 9) fun p => { p with stoppedAll := true, resumeAt := some 5, memEnable := true }
theorem wit_StepsAndResumes :
    let fz := { debugging with sps := [(0, { Sp.reset with frozen := true })] }
    Ready debugging (grp debugging) [.s 6] [] ∧ Ready debugging (grp debugging) [.s 8, .s 9] [] ∧ debugging.cur.cls = .debug ∧
    (grp debugging).kind = .debug ∧ (∀ x ∈ debugging.ops, spIdOf x.2.gid ≠ 0) ∧ Ready at0 (grp at0) [.s 6] [] ∧ Ready at0 (grp at0) [.s 8, .s 9] [] ∧
    at0.cur.cls ≠ .debug ∧ Ready fz (grp fz) [.s 6] [] ∧ (fz.sp 0).frozen = true ∧ 0 ∈ (fz.part 0).spList ∧ (fz.sp 0).step = 0 ∧ (fz.part 0).faulted = false ∧
    resuming.hostOpen 0 = true ∧ (resuming.part 0).resumeAt = some 5 ∧ (resuming.part 0).stoppedAll = true ∧ (resuming.part 0).faulted = false ∧
    (resuming.part 0).resetting = false ∧ (resuming.part 0).dbgRun = none ∧ (∀ i ∈ (resuming.part 0).spList, (resuming.sp i).step = 0) ∧
    (5 : DWord).toNat ≤ (if resuming.parts.any (fun x => x.2.key != 0) then resuming.now + resuming.dtimeOff else resuming.now).toNat ∧ resuming.ops = [] ∧ (resuming.part 0).heldResumes = [] :=
  ⟨ready_of (by decide), ready_of (by decide), rfl, by decide, by decide, ready_of (by decide), ready_of (by decide), by decide,
    ready_of (by decide), by decide, by decide, by decide, by decide, by decide⟩
/-- The debug slot with a dump buffer, and with a dump of some writes to it under way. -/
def buffered (base len : Word) : State := withPart debugging fun p => (p.setCr 0x84 base).setCr 0x86 len
def runOf (base : DWord) (n : Nat) : DumpRun := { d := 9, result := 2, base, writes := List.replicate n (0, List.replicate 64 0) }
def dumping (x : DumpRun) : State := withPart debugging fun p => { p with dump := some x, dbgRun := some 0 }
theorem wit_Dumps :
    let base := fun (s : State) => ((s.part 0).cr 0x85 ++ (s.part 0).cr 0x84) &&& ~~~(63 : DWord)
    let frozen := { buffered 0x50000 4096 with sps := [(0, { Sp.reset with frozen := true })] }
    let ok := fun (s : State) (x : DumpRun) => (s.part 0).dump = some x ∧ (s.part 0).dbgRun = some 0 ∧ s.group? 0 = some (grp s) ∧ (grp s).part = 0
    let wrote := fun (x : DumpRun) => okB ((dumping x).writeFlat ((dumping x).issuer 0 (grp (dumping x))) (x.base + BitVec.ofNat 64 0) (List.replicate 64 0))
    (Ready debugging (grp debugging) [] [.s 9] ∧ debugging.cur.cls = .debug ∧ Ready at0 (grp at0) [] [.s 9] ∧ at0.cur.cls ≠ .debug) ∧
    (Ready (buffered 0x50000 0) (grp (buffered 0x50000 0)) [] [.s 9] ∧ ((buffered 0x50000 0).part 0).cr 0x86 = 0) ∧
    (Ready (buffered 0x50000 64) (grp (buffered 0x50000 64)) [] [.s 9] ∧ canonical (base (buffered 0x50000 64)) = true ∧
      (((buffered 0x50000 64).part 0).cr 0x86).toNat / 64 * 64 ≠ 0 ∧
      (∀ i ∈ ((buffered 0x50000 64).part 0).spList, ((buffered 0x50000 64).sp i).frozen = false)) ∧
    (Ready frozen (grp frozen) [] [.s 9] ∧ 0 ∈ (frozen.part 0).spList ∧ (frozen.sp 0).frozen = true ∧ ∃ x ∈ frozen.groups, x.1 / 17 = 0 ∧ x.1 % 17 ≠ 16) ∧
    (ok (dumping (runOf 0x50000 0)) (runOf 0x50000 0) ∧ ok (dumping (runOf 0x50000 1)) (runOf 0x50000 1) ∧ wrote (runOf 0x50000 1) = true ∧
      ok (dumping (runOf 0x50000 2)) (runOf 0x50000 2) ∧ wrote (runOf 0x50000 2) = true ∧ ok (dumping (runOf 0x40000000 2)) (runOf 0x40000000 2) ∧
      wrote (runOf 0x40000000 2) = false) :=
  ⟨⟨ready_of (by decide), rfl, ready_of (by decide), by decide⟩, ⟨ready_of (by decide), by decide⟩,
    ⟨ready_of (by decide), by decide, by decide, by decide⟩, ⟨ready_of (by decide), by decide, by decide, by decide⟩, by decide⟩
/-- A debug access of a frozen scheduler partition's group 0. -/
def accessed (s : State) : State :=
  withPart { s with sps := [(0, { Sp.reset with frozen := true })] } fun p => { p with memEnable := true }
theorem wit_DebugRegisterAccess :
    let s := accessed at0
    let b := accessed (withOp at0 .memory [.v 5] .store)
    let ok := fun (s : State) => s.hostOpen 0 = true ∧ s.group? 0 = some (grp s) ∧ (0 / 17 : Nat) ∈ (s.part 0).spList ∧ (s.sp (0 / 17)).frozen = true
    ok s ∧ 3 < (grp s).width ∧ 5 < (grp s).nv ∧ (grp s).has (.s 40) = true ∧ (grp s).nt = 16 ∧ (grp s).lanes.length = 32 ∧
    crListed 0x10 = true ∧ crOfGroup 0x10 = true ∧ crListed 0xFFF = false ∧ s.group? 1 = none ∧ ok b ∧
    (∃ x ∈ b.ops, x.2.gid = 0 ∧ x.2.uid = (grp b).uid ∧ Reg.v 5 ∈ x.2.dests) ∧ (0x8000000000000000 : BitVec 64).getLsbD 63 = true := by decide

/-! Faults, links, drains and resets. -/

theorem wit_FaultQueue :
    let rec1 : FRec := { id := 1, kind := 0, cause := 13, va := 0, pc := 0, chan := 0, engine := 0, whereW := 0, code := 0, time := 0 }
    let w := withPart at0 fun p => { p.setReg 0x300 0x50008 with frecs := [rec1] }
    let h := withPart at0 fun p => { p.setReg 0x300 0x50009 with frecs := [rec1] }
    let r := withPart at0 fun p => { p with memEnable := true, resumable := [3] }
    let f := withPart r fun p => { p with stoppedAll := true }
    let d := f.modGroup 0 fun g => { g with kind := .debug, stopped := some 3 }
    let u := withPart r fun p => { p with frecs := [{ rec1 with id := 3 }] }
    (d.hostOpen 0 = true ∧ (∃ x ∈ d.groups, x.2.kind = .debug ∧ x.2.part = 0 ∧ x.2.stopped = some 3) ∧ (r.part 0).ppWaits = [] ∧
      (∀ x ∈ f.groups, x.2.kind ≠ .debug)) ∧
    u.hostOpen 0 = true ∧ (u.part 0).resumable.contains 3 = true ∧ ((u.part 0).frecs.any fun x => x.id == 3) = true ∧
    ((r.part 0).frecs.any fun x => x.id == 3) = false ∧ ((f.part 0).frecs.any fun x => x.id == 3) = false ∧ (w.part 0).frecs = rec1 :: [] ∧ ((w.part 0).reg 0x300).extractLsb' 12 52 ≠ 0 ∧
    ((w.part 0).reg 0x308).toNat - ((w.part 0).reg 0x310).toNat < 2 ^ 4 ∧ ((w.part 0).reg 0x300).getLsbD 0 = false ∧
    0x50000 + 64 ≤ (w.part 0).hbmSize ∧ (h.part 0).frecs = rec1 :: [] ∧ ((h.part 0).reg 0x300).getLsbD 0 = true ∧ h.hostLost = false ∧
    r.hostOpen 0 = true ∧ (r.part 0).resumable.contains 3 = true ∧ (r.part 0).resumable.contains 4 = false ∧ (r.part 0).stoppedAll = false ∧
    (r.part 0).queues = [] ∧ (∀ x ∈ r.grids, x.2.stopped ≠ some 3) ∧ f.hostOpen 0 = true ∧ (f.part 0).stoppedAll = true :=
  ⟨by decide, by decide, by decide, by decide, by decide, by decide, by decide, by decide, by decide⟩
/-- An access that waits for a peer package. -/
def peerAcc : Acc :=
  { op := 7, uid := 43, part := 0, team := 42, who := [], path := .ls, stream := 0, scope := 1, sync := Lane.none.sync, okind := .uo, acq := false, rel := false
    loc := ⟨.peer, 5, 64⟩, len := 4, lane := 0, boff := 0, va := 0x1000, act := .read, whole := false, page := (0, 0), walk := none, sent := some 3, pc := launchPc, gid := 0, grid := 41 }
theorem wit_LinksAndPeers :
    let s := { atClock at0 5000000 with accs := [(9, peerAcc)] }
    let idle := withQueue at0 (queueOf 1 0 0 none)
    let busy := started (pktOf kernelWords 0)
    let act := withQueue busy (queueOf 1 1 1 none)
    let tier := withPart at0 fun p => { p with tierSize := 4097 }
    let wrote := fun (va : DWord) =>
      let u := withPart (lazyPage { idle with hostLost := true }) fun p => p.setReg 0x1000 va
      match u.writeFlat (engineOf 0) (((u.part 0).reg 0x1000 &&& ~~~(63 : DWord)) + 16) (toBytes 8 0 ++ toBytes 8 (5 * 256 + 3)) with
      | .error e => e.code | .ok _ => 0
    (wrote 0x50001 = 0 ∧ wrote 0x20000001 = 13 ∧ wrote 0x40000001 = 10) ∧
    (s.accs.get? 9 = some peerAcc ∧ peerAcc.loc.space = .peer ∧ peerAcc.sent = some 3 ∧ 3 + 4000000 ≤ (s.part 0).clock ∧ (s.part 0).stoppedAll = false) ∧ (s.part 0).faulted = false ∧ at0.hostLost = false ∧
    at0.devResetting = false ∧ at0.parts = [(0, at0.part 0)] ∧ (at0.part 0).queues = [] ∧ idle.parts = [(0, idle.part 0)] ∧
    (idle.part 0).queues = [(0, queueOf 1 0 0 none)] ∧ (idle.part 0).pktsOf 0 = [] ∧ act.parts = [(0, act.part 0)] ∧
    (act.part 0).queues = [(0, queueOf 1 1 1 none)] ∧ { act with hostLost := true }.queueInHost 0 0 (queueOf 1 1 1 none) = false ∧
    (act.part 0).pktsOf 0 ≠ [] ∧ tier.cxlPorts[1]? = some 1 ∧ tier.cxlPorts[0]? ≠ some 1 ∧ tier.cxlDown.contains 1 = false ∧ tier.parts.wf = true ∧ (tier.parts.get? 0).map (·.tierSize) = some 4097 :=
  ⟨by decide, by decide, by decide, by decide, by decide, by decide, by decide, by decide, by decide, by decide, by decide, by decide⟩
theorem wit_Preemption :
    let open' := fun (deadline : Word) => withPart at0 fun p => { p.setCr 0x50 deadline with memEnable := true }
    let busy := withPart (open' 5) fun p => p.setPreempt 1
    let sliced := withPart (open' 5) fun p => { p.setReg 0x340 0x100000000 with sliceCount := 2000 }
    let drained := withPart { open' 5 with teams := [] } fun p => { p.setPreempt 1 with drainCount := 9 }
    let early := withPart drained fun p => { p with drainCount := 0 }
    (open' 5).hostOpen 0 = true ∧ ((open' 5).part 0).preempt = 0 ∧ ((open' 5).part 0).ctxState = 2 ∧ ((open' 5).part 0).cr 0x50 ≠ 0 ∧
    (open' 0).hostOpen 0 = true ∧ ((open' 0).part 0).preempt = 0 ∧ ((open' 0).part 0).cr 0x50 = 0 ∧ at0.groups.wf = true ∧ at0.teams.wf = true ∧
    at0.grids.wf = true ∧ busy.hostOpen 0 = true ∧ (busy.part 0).preempt ≠ 0 ∧ 1024 ≤ (sliced.part 0).sliceCount ∧
    ((sliced.part 0).reg 0x340).extractLsb' 32 32 = 1 ∧ (drained.part 0).preempt = 1 ∧ ((drained.part 0).cr 0x50).toNat ≤ (drained.part 0).drainCount ∧
    (drained.part 0).stoppedAll = false ∧ drained.teams = [] ∧ (drained.part 0).pkts = [] ∧ (early.part 0).preempt = 1 ∧ early.teams = [] ∧
    (early.part 0).drainCount < ((early.part 0).cr 0x50).toNat ∧ (sliced.part 0).ctxState = 2 ∧ (sliced.part 0).preempt = 0 ∧
    (sliced.part 0).stoppedAll = false ∧ (sliced.part 0).cr 0x50 ≠ 0 :=
  ⟨by decide, by decide, by decide, by decide, by decide, by decide, by decide, by decide, by decide, by decide⟩
theorem wit_PartitionReset :
    let s := withPart at0 fun p => { p with memEnable := true }
    let r := withPart at0 fun p => { p with resetting := true }
    s.groups.wf = true ∧ s.hostOpen 0 = true ∧ (1 : BitVec 32).getLsbD 0 = true ∧ s.hostLost = false ∧ s.devResetting = false ∧
    s.mc.recovery = false ∧ (r.part 0).resetting = true ∧ r.groups.wf = true ∧ r.teams.wf = true ∧ r.sps.wf = true ∧ r.devResetting = false := by decide
theorem wit_DeviceReset :
    let r := { at0 with devResetting := true }
    at0.devResetting = false ∧ at0.parts.wf = true ∧ at0.groups.wf = true ∧ at0.group? 0 = some (grp at0) ∧ r.devResetting = true ∧
    r.mc.booting = false ∧ r.mc.recovery = false ∧ r.mc.flash.2.2 = true ∧ r.mc.counter.toNat ≤ r.mc.flash.2.1.toNat := by decide
theorem wit_IllegalWords : at0.curGroup? = some (grp at0) ∧ at0.cur.len = 4 ∧ ∀ i len, decode (leBytes 4 (0x7B : BitVec 32).toNat) ≠ .instr i len :=
  ⟨by decide, rfl, fun i len h => by
    have e : decode (leBytes 4 (0x7B : BitVec 32).toNat) = .illegal 0x7B := by decide
    cases e.symm.trans h⟩

/-! The host, peers and the management controller. -/

def opened (s : State) : State := withPart s fun p => { p with memEnable := true }
/-- A value of CRACC: GO, WRITE, a core and a register number. -/
def craccOf (write : Bool) (core n : Nat) : BitVec 64 := BitVec.ofNat 64 (2 ^ 63 + (if write then 2 ^ 62 else 0) + core * 2 ^ 48 + n)
theorem wit_HostRegisters :
    let s := opened at0
    let un := withPart s fun p => p.setCtx 0 0
    let inv := withPart s fun p => p.setReg 0x208 1
    let held := { inv with accs := [(9, { peerAcc with page := (0, 2 ^ 29) })] }
    let past := { inv with accs := [(9, { peerAcc with page := (0x40000000, 4096) })] }
    let on := withPart s fun p => p.setReg 0x300 0x1000
    (((s.part 0).reg 0x300 = 0 ∧ (s.part 0).reg 0x308 = (s.part 0).reg 0x310) ∧ (on.part 0).reg 0x300 = 0x1000 ∧ on.hostOpen 0 = true ∧
      ∃ a ∈ held.accs, a.2.part = 0 ∧ a.2.page.2 ≠ 0 ∧ a.2.page.1 = 0) ∧
    ((∀ a ∈ past.accs, a.2.part = 0 → 4096 ≤ a.2.page.1) ∧ past.ops = [] ∧ ((past.part 0).reg 0x208).getLsbD 0 = true ∧
      (past.part 0).reg 0x200 = 0) ∧
    s.hostOpen 0 = true ∧ (s.part 0).ctxState ≠ 0 ∧ un.hostOpen 0 = true ∧ (un.part 0).ctxState = 0 ∧ ((s.part 0).reg 0x1000).getLsbD 0 = false ∧
    at0.hostLost = false ∧ at0.devResetting = false ∧ at0.mc.recovery = false ∧ (at0.part 5).clusters = [] ∧ (at0.part 0).clusters ≠ [] ∧
    ((s.part 0).reg 0x208).getLsbD 0 = false ∧ inv.hostOpen 0 = true ∧ ((inv.part 0).reg 0x208).getLsbD 0 = true ∧ inv.accs = [] ∧
    (craccOf false 0 0x18).getLsbD 63 = true ∧ (craccOf false 0 0x18).getLsbD 62 = false ∧ crListed 0x18 = true ∧ crOfGroup 0x18 = false ∧
    crOfCore 0x18 = false ∧ crClass 0x18 ≠ 1 ∧ (craccOf true 3 0x62).getLsbD 62 = true ∧ (craccOf true 3 0x62).extractLsb' 48 10 = 3 ∧
    crListed 0x62 = true ∧ crOfCore 0x62 = true ∧ 3 ∈ (s.part 0).coreList ∧ crOfGroup 0x10 = true ∧ 99 ∉ (s.part 0).coreList ∧ crClass 0x28 = 1 :=
  ⟨by decide, by decide, by decide, by decide, by decide, by decide, by decide, by decide, by decide, by decide, by decide, by decide⟩
theorem wit_ContextLoading :
    let un := withPart (opened at0) fun p => p.setCtx 0 0
    let few := withPart un fun p => { p with clusters := [0] }
    let far := withPart un fun p => p.setReg 0x100 0x100000
    let on := opened at0
    let fl := withPart on fun p => { p with faulted := true }
    let quiet := { on with teams := [] }
    let going := withPart at0 fun p => p.setCtx 1 0
    let ending := withPart { at0 with teams := [] } fun p => p.setCtx 3 0
    let saved := withPart going fun p => p.setReg 0x350 0x70000
    let spoilt := { saved with poison := [Loc.cell ⟨.hbm, 0, 0x70000⟩ / 64] }
    ((saved.part 0).ctxState = 1 ∧ ((saved.part 0).reg 0x350).extractLsb' 12 52 ≠ 0 ∧ saved.poison = [] ∧ (saved.hbm64 0 0x70000).getLsbD 0 = false ∧
      (spoilt.part 0).ctxState = 1 ∧ (spoilt.part 0).faulted = false ∧ ((spoilt.part 0).reg 0x350).extractLsb' 12 52 ≠ 0 ∧
      spoilt.poison.contains (Loc.cell ⟨.hbm, 0, (((spoilt.part 0).reg 0x350).extractLsb' 12 52).toNat * 4096⟩ / 64) = true) ∧
    un.hostOpen 0 = true ∧ (un.part 0).ctxState = 0 ∧ 4 ≤ (un.part 0).clusters.length ∧ 2 ^ 17 ≤ (un.part 0).hbmSize ∧ few.hostOpen 0 = true ∧
    (few.part 0).ctxState = 0 ∧ (few.part 0).clusters.length < 4 ∧ far.hostOpen 0 = true ∧ (far.part 0).hbmSize < 0x100000 + 2 ^ 17 ∧
    on.hostOpen 0 = true ∧ (on.part 0).ctxState = 2 ∧ (∃ x ∈ on.teams, x.2.part = 0) ∧ fl.hostOpen 0 = true ∧ (fl.part 0).faulted = true ∧
    quiet.hostOpen 0 = true ∧ quiet.teams = [] ∧ (quiet.part 0).pkts = [] ∧ (quiet.part 0).faulted = false ∧
    (going.part 0).ctxState = 1 ∧ (going.part 0).resetting = false ∧ ((going.part 0).reg 0x350).extractLsb' 12 52 = 0 ∧
    (ending.part 0).ctxState = 3 ∧ (ending.part 0).resetting = false ∧ (ending.part 0).faulted = false ∧ ending.groups.wf = true ∧ ending.teams.wf = true :=
  ⟨by decide, by decide, by decide, by decide, by decide, by decide, by decide, by decide, by decide, by decide, by decide⟩
theorem wit_OutsideRequests :
    let s := withPart (opened at0) fun p => { p with key := 7 }
    let bad := { s with poison := [Loc.cell ⟨.hbm, 0, 0x50000⟩ / 64] }
    let v := BitVec.ofNat 64 (ofBytes (Memory.read s.mem ⟨.hbm, 0, 0x50000⟩ 8))
    s.hostOpen 0 = true ∧ [(1 : Byte), 2].length = 2 ∧ 0x50000 + 2 ≤ (s.part 0).hbmSize ∧ (s.part 0).hbmSize < 0x100000 + 2 ∧
    { s with devResetting := true }.devResetting = true ∧ (∀ p ∈ s.parts, p.2.key ≠ 8) ∧ s.devResetting = false ∧
    (s.parts.find? fun p => p.2.key == 7) = some (0, s.part 0) ∧ (0x50000 : BitVec 46).extractLsb' 44 2 = 0 ∧ v = 0 ∧
    (1 : DWord) ≠ v ∧ 0x50000 + 8 ≤ (s.part 0).hbmSize ∧ s.poison = [] ∧ s.weak = [] ∧
    bad.poison.contains (Loc.cell ⟨.hbm, 0, 0x50000⟩ / 64) = true ∧ (∃ x ∈ lineRuns ⟨.hbm, 0, 0x50000⟩ 8, x.1 = ⟨.hbm, 0, 0x50000⟩) ∧
    (bad.part 0).ctxState = 2 ∧ (bad.part 0).faulted = false ∧ { bad with parts := (withPart bad fun p => p.setCtx 0 0).parts }.poison ≠ [] := by decide
theorem wit_ManagementController :
    let boot := { at0 with mc := { Mc.reset with booting := true } }
    let lost := { at0 with mc := { Mc.reset with recovery := true, counter := 4 } }
    boot.mc.booting = true ∧ at0.mc.counter.toNat ≤ (3 : BitVec 6).toNat ∧ lost.mc.recovery = true ∧ (3 : BitVec 6).toNat < lost.mc.counter.toNat ∧
    lost.mc.counter.toNat ≤ (5 : BitVec 6).toNat ∧ at0.mc.alg = 0 ∧ { Mc.reset with alg := 2 }.alg = 1 + 1 := by decide
theorem wit_ManagementSettings :
    let s := withPart at0 fun p => p.setCtx 0 0
    let u := withPart s fun p => p.setReg 0x400 0x500000000
    (at0.part 0).ctxState ≠ 0 ∧ (s.part 0).ctxState = 0 ∧ [1, 5, 6, 7].Pairwise (· < ·) ∧ (∀ c ∈ [1, 5, 6, 7], c < 192) ∧ (∀ x ∈ s.parts, x.1 = 0) ∧
    2 ^ 30 * 192 ≤ [1, 5, 6, 7].length * 2 ^ 39 ∧ 2 ^ 30 + 0 ≤ 2 ^ 39 - 72 * 2 ^ 20 ∧
    (∀ x ∈ u.parts, x.1 ≠ 1 → 0 + 5 ≤ ((x.2.reg 0x400).extractLsb' 0 20).toNat ∨
      ((x.2.reg 0x400).extractLsb' 0 20).toNat + ((x.2.reg 0x400).extractLsb' 32 21).toNat ≤ 5) ∧
    crListed 0x18 = true ∧ crOfGroup 0x18 = false ∧ crOfCore 0x18 = false ∧ crClass 0x18 ≠ 1 ∧ crListed 0x62 = true ∧ crOfCore 0x62 = true ∧
    3 ∈ (s.part 0).coreList ∧ crOfGroup 0x10 = true :=
  ⟨by decide, by decide, by decide, by decide, by decide, by decide, by decide, by decide⟩

/-! Counters and samples. -/

theorem wit_StallAccounting :
    let idle := { at0 with groups := [] }
    let busy := { at0 with sps := [(0, { Sp.reset with busy := 5 })] }
    let frozen := { at0 with sps := [(0, { Sp.reset with frozen := true })] }
    let at' := fun (h : Option Hold) (parked : Bool) => withLanes at0 fun _ l => { l with hold := h, parked }
    let only := fun (s : State) => s.slotResidents 0 = [(0, grp s)] ∧ (s.sp 0).frozen = false ∧ s.spBusy 0 = false
    let rests := fun (s : State) => only s ∧ ordinaryCand 0 (grp s) = none ∧ handlerCand (s.part 0).clock 0 0 (grp s) = none ∧ (grp s).nextIssue = none
    idle.partOfCluster (0 / 4) = some 0 ∧ (idle.sp 0).charged = false ∧ idle.noneEligible 0 = true ∧ (frozen.sp 0).frozen = true ∧
    idle.slotResidents 0 = [] ∧ busy.slotResidents 0 ≠ [] ∧ busy.spBusy 0 = true ∧ only at0 ∧ ordinaryCand 0 (grp at0) ≠ none ∧
    rests (at' (some (.bar 3 0)) false) ∧ rests (at' none true) ∧ rests (at' (some (.collective 2)) false) ∧ (opened at0).hostOpen 0 = true ∧
    3 < ((opened at0).part 0).clusters.length * 16 :=
  ⟨by decide, by decide, by decide, by decide, by decide, by decide, by decide, by decide, by decide, by decide⟩
theorem wit_Sampling :
    let buf := fun (write : Nat) =>
      let s := withPart { at0 with sps := [(0, { Sp.reset with nextSample := 0, issued := some (launchPc, 3) })] } fun p =>
        (p.setCr 0x90 0x50000).setCr 0x92 256
      { s with mem := Memory.write s.mem ⟨.hbm, 0, 0x50000⟩ (toBytes 8 write) }
    let ok := fun (s : State) => s.partOfCluster (0 / 4) = some 0 ∧ 8 ≤ ((s.part 0).cr 0x92).toNat / 16 ∧ (s.part 0).stoppedAll = false ∧
      (s.sp 0).nextSample ≤ (s.part 0).clock ∧ okB (s.readFlat (engineOf 0) .load 0x50000 24) = true ∧ (s.sp 0).issued = some (launchPc, 3)
    let p := fun (period : Word) => ((buf 0).part 0).setCr 0x93 period
    ok (buf 0) ∧ ok (buf 12) ∧ 256 / 16 - 4 ≤ 12 ∧ ok (buf 5) ∧ ((buf 5).part 0).newPeriod 6 = none ∧
    okB ((buf 5).writeFlat (engineOf 0) 0x50090 (List.replicate 16 0)) = true ∧ okB ((buf 5).writeFlat (engineOf 0) 0x50000 (toBytes 8 6)) = true ∧
    okB ((buf 12).writeFlat (engineOf 0) 0x50010 (toBytes 8 1)) = true ∧ (p 4096).lastAdjust = 0 ∧ 3 * 12 < 4 * 10 ∧ ((p 4096).cr 0x93).toNat < 2 ^ 20 ∧
    4 * 2 < 12 ∧ 64 < ((p 4096).cr 0x93).toNat ∧ 4 * 6 ≤ 3 * 12 ∧ 12 ≤ 4 * 6 :=
  ⟨by decide, by decide, by decide, by decide, by decide, by decide, by decide, by decide, by decide⟩

/-! Issues, steps and invariants. -/

theorem wit_OperandChecks :
    let few := at0.modGroup 0 fun g => { g with nv := 8 }
    let empty := at0.modGroup 0 fun g => { g with empty := [.v 2] }
    at0.cur.defer = none ∧ few.curGroup? = some (grp few) ∧ (∃ r ∈ [Reg.v 1, .v 9, .v 3], (grp few).has r = false) ∧
    empty.curGroup? = some (grp empty) ∧ (∀ r ∈ [Reg.v 1, .v 2, .v 3], (grp empty).has r = true) ∧ (grp empty).srcEmpty (.v 2) = true ∧
    (∃ r ∈ [Reg.v 1, .v 2, .v 3], r ≠ .s 62 ∧ (grp empty).isEmpty r = true) ∧
    (let bad := at0.modGroup 0 fun g => { g with bad := [(.v 2, 1)] }
     bad.cur.defer = none ∧ bad.curGroup? = some (grp bad) ∧ (∀ r ∈ [Reg.v 1, .v 2, .v 3], (grp bad).has r = true ∧ (grp bad).isEmpty r = false) ∧
     (bad.part (grp bad).part).faulted = false ∧ maskBit bad.cur.mask 1 = true ∧ (Reg.v 2, 1) ∈ (grp bad).bad) := by decide
theorem wit_IssueChoice :
    let g := grp at0
    let old := grp (withLanes at0 fun j l => { l with age := 64 + j, pc := launchPc + BitVec.ofNat 64 j })
    let waits := grp (at0.modGroup 0 fun g => { g with waitPc := some launchPc })
    let rel := grp ((withLanes at0 fun _ l => { l with rel := true }).modGroup 0 fun g => { g with relq := [launchPc] })
    let held := grp (withLanes at0 fun _ l => { l with hold := some .repack })
    g.rep = none ∧ g.forced = [] ∧ g.lanes.length ≤ 64 ∧ g.waitPc = none ∧ g.relq = [] ∧ (g.lane 0).cand = true ∧
    (old.lane 3).cand = true ∧ 64 ≤ (old.lane 3).age ∧ old.waitPc = none ∧ old.relq = [] ∧ (∀ j, j < held.lanes.length → (held.lane j).cand = false) ∧
    waits.waitPc = some launchPc ∧ waits.lanesAt launchPc ≠ 0 ∧ rel.waitPc = none ∧ rel.relq = launchPc :: [] ∧ rel.lanesAt launchPc ≠ 0 :=
  ⟨by decide, by decide, by decide, by decide, by decide, by decide, by decide, by decide⟩
theorem wit_IssueAges : Ready at0 (grp at0) [.v 1, .v 2] [.v 3] ∧ Ready inHandler (grp inHandler) [.v 1, .v 2] [.v 3] :=
  ⟨ready_of (by decide), ready_of (by decide)⟩
theorem wit_StepRunsDecoded :
    let s := State.reset.withFetchWord 32 0x14080E01
    let s0 := { s with agenda := [] }
    let c := { Cur.idle with pc := launchPc, mask := 0xFFFFFFFF }
    let w := s0.issuer 0 (grp at0)
    let ev := fun (i : Instr) => { s with agenda := [.event i] }
    let idle := { s with agenda := [.event (.cycleWithNoEligibleGroup 0 0)], groups := [] }
    s.agenda = .issue 0 0 :: [] ∧ s0.choose exec (0 * 4 + 0) = some c ∧ (∀ j, j < 0 → s0.choose exec (0 * 4 + j) = none) ∧
      s0.comparator c = none ∧ (s0.group? c.gid).isSome = true ∧ s0.overBudget (grp at0) c = false ∧
      c.rep = false ∧ okB (s0.fetch2 w c.pc) = true ∧ okD [] (s0.fetch2 w c.pc) = [0x01, 0x0E] ∧ okB (s0.fetch2 w (c.pc + 2)) = true ∧
      okD [] (s0.fetch2 w (c.pc + 2)) = [0x08, 0x14] ∧
      decode ([0x01, 0x0E] ++ [0x08, 0x14]) = .instr (.iadd false 20 false 8 7) 4 ∧ s.weak = [] ∧
      (ev (.pcMatch 0 2)).agenda = .event (.pcMatch 0 2) :: [] ∧ (ev (.traceAdmit 0)).agenda = .event (.traceAdmit 0) :: [] ∧
      ({ idle with agenda := [] } : State).choose exec 0 = none ∧ isEvent (.groupRetire 0) = true :=
  ⟨by decide, by decide, by decide, by decide, by decide, by decide, by decide, by decide, by decide, by decide, by decide, by decide, by decide,
    by decide, by decide, by decide⟩
theorem wit_EncodingRoundTrip : Instr.wf (.iadd false 20 false 8 7) = true ∧ encode (.iadd false 20 false 8 7) = some [0x01, 0x0E, 0x08, 0x14] ∧
    decode [0x01, 0x0E, 0x08, 0x14] = .instr (.iadd false 20 false 8 7) 4 := by decide
/-- The hypotheses of `EncodingUnique`. -/
theorem wit_EncodingUnique : decode [0x01, 0x0E, 0x08, 0x14, 0xFF] = .instr (.iadd false 20 false 8 7) 4 := by decide
/-- The hypotheses of the invariants, and a step that answers a next state. -/
theorem wit_Invariants :
    let s := State.reset.withFetchWord 32 0x14080E01
    s.memoryOk = true ∧ s.groups.wf = true ∧ (match step s with | .next _ => true | _ => false) = true := by decide
end Sys2Proof.Tests
end

section
/-! O60: the canonical form of memory and the sorted table of groups. Both are properties of two fields of the state, so one
predicate `State.InForm` speaks of either of them; it has one lemma for each operation of the model, in the order of the model's
files, which cites the lemmas of the operations it is made of. An operation that is a fixed sequence of others needs none. -/

-- One theorem at a time: the lemmas cite each other in long chains, and theorems that wait for each other in parallel cost more
-- threads than the check's memory limit holds.
set_option Elab.async false

namespace Sys2Proof

variable {α β : Type}

/-! Tables stay sorted without repeats. -/

theorem Tab.wfFrom_mono {t : Tab α} {a b : Nat} (hab : a ≤ b) (h : Tab.wfFrom b t = true) : Tab.wfFrom a t = true := by
  cases t with
  | nil => rfl
  | cons c r =>
    simp only [Tab.wfFrom, Bool.and_eq_true, decide_eq_true_eq] at h ⊢
    exact ⟨hab.trans h.1, h.2⟩

theorem Tab.wfFrom_set {t : Tab α} {b i : Nat} {x : α} (hi : b ≤ i) (h : Tab.wfFrom b t = true) :
    Tab.wfFrom b (t.set i x) = true := by
  induction t generalizing b with
  | nil => simp [Tab.set, Tab.wfFrom, hi]
  | cons c r ih =>
    obtain ⟨j, y⟩ := c
    simp only [Tab.wfFrom, Bool.and_eq_true, decide_eq_true_eq] at h
    obtain ⟨hj, hr⟩ := h
    rcases Nat.lt_trichotomy i j with hlt | rfl | hgt
    · simp [Tab.set, Tab.wfFrom, hlt, hi, hr, Nat.succ_le_of_lt hlt]
    · simp [Tab.set, Tab.wfFrom, hi, hr]
    · simp [Tab.set, Tab.wfFrom, hj, ih (Nat.succ_le_of_lt hgt) hr, Nat.lt_asymm hgt, Nat.ne_of_gt hgt]

theorem Tab.wfFrom_erase {t : Tab α} {b i : Nat} (h : Tab.wfFrom b t = true) : Tab.wfFrom b (t.erase i) = true := by
  induction t generalizing b with
  | nil => rfl
  | cons c r ih =>
    obtain ⟨j, y⟩ := c
    simp only [Tab.wfFrom, Bool.and_eq_true, decide_eq_true_eq] at h
    obtain ⟨hj, hr⟩ := h
    simp only [Tab.erase]
    split
    · exact Tab.wfFrom_mono (Nat.le_succ_of_le hj) (ih hr)
    · simp [Tab.wfFrom, hj, ih hr]

theorem Tab.wfFrom_keep {t : Tab α} {b : Nat} {p : Nat → α → Bool} (h : Tab.wfFrom b t = true) :
    Tab.wfFrom b (Tab.keep p t) = true := by
  induction t generalizing b with
  | nil => rfl
  | cons c r ih =>
    obtain ⟨j, y⟩ := c
    simp only [Tab.wfFrom, Bool.and_eq_true, decide_eq_true_eq] at h
    obtain ⟨hj, hr⟩ := h
    simp only [Tab.keep]
    split
    · simp [Tab.wfFrom, hj, ih hr]
    · exact Tab.wfFrom_mono (Nat.le_succ_of_le hj) (ih hr)

theorem Tab.wfFrom_mapVal {t : Tab α} {b : Nat} {f : Nat → α → β} (h : Tab.wfFrom b t = true) :
    Tab.wfFrom b (Tab.mapVal f t) = true := by
  induction t generalizing b with
  | nil => rfl
  | cons c r ih =>
    obtain ⟨j, y⟩ := c
    simp only [Tab.wfFrom, Tab.mapVal, Bool.and_eq_true, decide_eq_true_eq] at h ⊢
    exact ⟨h.1, ih h.2⟩

theorem Tab.wf_set {t : Tab α} {i : Nat} {x : α} (h : t.wf = true) : (t.set i x).wf = true :=
  Tab.wfFrom_set (Nat.zero_le i) h

theorem Tab.wf_erase {t : Tab α} {i : Nat} (h : t.wf = true) : (t.erase i).wf = true := Tab.wfFrom_erase h

theorem Tab.wf_keep {t : Tab α} {p : Nat → α → Bool} (h : t.wf = true) : (Tab.keep p t).wf = true := Tab.wfFrom_keep h

theorem Tab.wf_mapVal {t : Tab α} {f : Nat → α → β} (h : t.wf = true) : (Tab.mapVal f t).wf = true := Tab.wfFrom_mapVal h

theorem Tab.wf_modify {t : Tab α} {i : Nat} {f : α → α} (h : t.wf = true) : (t.modify i f).wf = true := by
  unfold Tab.modify
  split
  · exact Tab.wf_set h
  · exact h

theorem Tab.wf_eraseAll {xs : List (Nat × β)} {t : Tab α} (h : t.wf = true) :
    (xs.foldl (fun m x => m.erase x.1) t).wf = true := by
  induction xs generalizing t with
  | nil => exact h
  | cons x r ih => exact ih (Tab.wf_erase h)

namespace Machine

/-! The two canonical forms, and what keeps them. -/

/-- A canonical form that a state may have: memory lists rising cells without zeros, or the table of groups is sorted without
repeats. -/
inductive Form where
  | memory | groups

/-- What a form asks of memory and of the table of groups. -/
def Form.Ok : Form → Store 8 → Tab Group → Prop
  | .memory, m, _ => Memory.wf m = true
  | .groups, _, gs => gs.wf = true

/-- A state has a form. Only memory and the table of groups count, so that an update of other fields keeps it by unfolding. -/
def State.InForm (s : State) (F : Form) : Prop := F.Ok s.mem s.groups

/-- What a meaning answers has a form: its next state, if it has one. -/
def Out.InForm : Out → Form → Prop
  | .next t, F => t.InForm F
  | .fault _, _ => True
  | .refused _, _ => True

variable {F : Form} {m : Store 8} {gs : Tab Group} {s : State}

theorem Form.Ok.write {l bs} (h : F.Ok m gs) : F.Ok (Memory.write m l bs) gs :=
  match F, h with
  | .memory, h => Memory.wf_write m l bs h
  | .groups, h => h

theorem Form.Ok.drop {p} (h : F.Ok m gs) : F.Ok (Store.drop p m) gs :=
  match F, h with
  | .memory, h => Memory.wf_drop m p h
  | .groups, h => h

/-- An operation on the table of groups that keeps it sorted keeps both forms. -/
theorem Form.Ok.onGroups {gs' : Tab Group} (h : F.Ok m gs) (hg : gs.wf = true → gs'.wf = true) : F.Ok m gs' :=
  match F, h with
  | .memory, h => h
  | .groups, h => hg h

/-- An update of the table of groups that keeps it sorted keeps the form. -/
theorem State.InForm.onGroups {t : State} (h : s.InForm F) (hg : s.groups.wf = true → t.groups.wf = true)
    (hm : t.mem = s.mem := by rfl) : t.InForm F := by
  unfold State.InForm
  rw [hm]
  exact Form.Ok.onGroups h hg

/-- An update of other fields keeps the form. -/
theorem State.InForm.frame {t : State} (h : s.InForm F) (hm : t.mem = s.mem := by rfl) (hg : t.groups = s.groups := by rfl) :
    t.InForm F := by
  unfold State.InForm
  rw [hm, hg]
  exact h

theorem State.InForm.setGroup {i x} (h : s.InForm F) : (s.setGroup i x).InForm F :=
  h.onGroups Tab.wf_set

theorem State.InForm.modGroup {i f} (h : s.InForm F) : (s.modGroup i f).InForm F :=
  h.onGroups Tab.wf_modify

theorem State.InForm.store {l bs} (h : s.InForm F) : (s.store l bs).InForm F := by
  unfold State.store
  split
  · exact Form.Ok.write h
  · exact Form.Ok.write h

theorem State.InForm.clearCells {p} (h : s.InForm F) : (s.clearCells p).InForm F := Form.Ok.drop h

theorem State.InForm.ite {c : Prop} [Decidable c] {a b : State} (ha : a.InForm F) (hb : b.InForm F) :
    (if c then a else b).InForm F := by
  split
  · exact ha
  · exact hb

theorem State.InForm.foldl {α : Type} {f : State → α → State} {xs : List α} (h : s.InForm F)
    (hf : ∀ t x, t.InForm F → (f t x).InForm F) : (xs.foldl f s).InForm F :=
  List.foldlRecOn xs f h fun t ht x _ => hf t x ht

theorem State.InForm.of_map {ε α : Type} {x : Except ε α} {f : α → State} {t : State} (h : ∀ a, (f a).InForm F)
    (he : x.map f = .ok t) : t.InForm F := by
  cases x with
  | error e => cases he
  | ok a => cases he; exact h a

theorem State.InForm.of_fst {α : Type} {p : State × α} {t : State} {x : α} (h : p.1.InForm F) (he : p = (t, x)) :
    t.InForm F := by
  subst he
  exact h

theorem State.InForm.next (h : s.InForm F) : Out.InForm (.next s) F := h

/-- The next state that a meaning answers. -/
theorem Out.InForm.of_eq {x : Out} {t : State} (h : x.InForm F) (he : x = .next t) : t.InForm F := by
  subst he
  exact h

theorem Out.InForm.ite {c : Prop} [Decidable c] {a b : Out} (ha : a.InForm F) (hb : b.InForm F) :
    Out.InForm (if c then a else b) F := by
  split
  · exact ha
  · exact hb

/-! The state's own updates. -/

theorem State.InForm.setSp {i x} (h : s.InForm F) : (s.setSp i x).InForm F := h.frame

theorem State.InForm.setCore {i x} (h : s.InForm F) : (s.setCore i x).InForm F := h.frame

theorem State.InForm.setCluster {i x} (h : s.InForm F) : (s.setCluster i x).InForm F := h.frame

theorem State.InForm.setDie {i x} (h : s.InForm F) : (s.setDie i x).InForm F := h.frame

theorem State.InForm.modDie {i f} (h : s.InForm F) : (s.modDie i f).InForm F := h.setDie

theorem State.InForm.setPart {i x} (h : s.InForm F) : (s.setPart i x).InForm F := h.frame

theorem State.InForm.modPart {i f} (h : s.InForm F) : (s.modPart i f).InForm F := h.setPart

theorem State.InForm.modCore {i f} (h : s.InForm F) : (s.modCore i f).InForm F := h.setCore

theorem State.InForm.modCluster {i f} (h : s.InForm F) : (s.modCluster i f).InForm F := h.setCluster

theorem State.InForm.modSp {i f} (h : s.InForm F) : (s.modSp i f).InForm F := h.setSp

theorem State.InForm.setOp {i o} (h : s.InForm F) : (s.setOp i o).InForm F := h.frame

theorem State.InForm.dropOp {i} (h : s.InForm F) : (s.dropOp i).InForm F := h.frame

theorem State.InForm.setTeam {i t} (h : s.InForm F) : (s.setTeam i t).InForm F := h.frame

theorem State.InForm.modTeam {i f} (h : s.InForm F) : (s.modTeam i f).InForm F := h.frame

theorem State.InForm.setGrid {i g} (h : s.InForm F) : (s.setGrid i g).InForm F := h.frame

theorem State.InForm.modGrid {i f} (h : s.InForm F) : (s.modGrid i f).InForm F := h.frame

theorem State.InForm.takeFresh {n} (h : s.InForm F) : (s.takeFresh n).InForm F := h.frame

/-! Settling stores and releasing tokens. -/

theorem State.InForm.settle {p} (h : s.InForm F) : (s.settle p).InForm F := h.frame

theorem State.InForm.settleStore {stamp} (h : s.InForm F) : (s.settleStore stamp).InForm F := h.frame

theorem State.InForm.onLate {f} (h : s.InForm F) : (s.onLate f).InForm F := h.frame

theorem State.InForm.publish {f ps n team} (h : s.InForm F) : (s.publish f ps n team).InForm F := h.onLate

theorem State.InForm.observe {f xs} (h : s.InForm F) : (s.observe f xs).InForm F := h.onLate

theorem State.InForm.releaseTok {t uo ps n team} (h : s.InForm F) : (s.releaseTok t uo ps n team).InForm F := h.publish

theorem State.InForm.releaseToks {ts uo ps n team} (h : s.InForm F) : (s.releaseToks ts uo ps n team).InForm F :=
  h.foldl fun _ _ ht => ht.releaseTok

/-! Translation and the caches' lines. -/

theorem State.InForm.tlbFill {core part va} (h : s.InForm F) : (s.tlbFill core part va).InForm F := by
  unfold State.tlbFill
  split
  · exact .ite h.modCore h.modCore.modCluster
  · exact h

theorem State.InForm.tlbDrop {f} (h : s.InForm F) : (s.tlbDrop f).InForm F := h.frame

theorem State.InForm.evictTlb {level unit f} (h : s.InForm F) : (s.evictTlb level unit f).InForm F :=
  .ite h.modCore (.ite h.modCluster h.modDie)

theorem State.InForm.correct {l} (h : s.InForm F) : (s.correct l).InForm F := by
  unfold State.correct
  refine .ite ?_ h
  dsimp only
  split
  · exact h.frame.modPart
  · exact h.frame

theorem State.InForm.cleanse {l n} (h : s.InForm F) : (s.cleanse l n).InForm F := h.frame

theorem State.InForm.pieceWrite {part p bs} (h : s.InForm F) : (s.pieceWrite part p bs).InForm F :=
  .ite h (.ite h (.ite h.frame h.store.cleanse))

theorem State.InForm.cleanseLine {l} (h : s.InForm F) : (s.cleanseLine l).InForm F := .ite h.cleanse h

theorem State.InForm.putPieces {part ps bs} (h : s.InForm F) : (s.putPieces part ps bs).InForm F := by
  induction ps generalizing s bs with
  | nil => exact h
  | cons p r ih => exact ih h.pieceWrite

theorem State.InForm.writePieces {part ps bs} (h : s.InForm F) : (s.writePieces part ps bs).InForm F :=
  h.putPieces.foldl fun _ _ ht => .ite ht.cleanseLine ht

theorem State.InForm.writeFlat {w va bs t} (h : s.InForm F) (he : s.writeFlat w va bs = .ok t) : t.InForm F := by
  unfold State.writeFlat at he
  split at he
  · cases he
  · cases he; exact h.writePieces

/-! Operations that many instructions share. -/

theorem State.InForm.record {part kind cause va pc chan engine whereW code} (h : s.InForm F) :
    (s.record part kind cause va pc chan engine whereW code).InForm F :=
  h.modPart

theorem State.InForm.update64 {part va f t} (h : s.InForm F) (he : s.update64 part va f = .ok t) : t.InForm F := by
  unfold State.update64 at he
  split at he
  · cases he
  · split at he
    · cases he
    · cases he; exact h.writePieces

theorem State.InForm.signalTry {part sig code t} (h : s.InForm F) (he : s.signalTry part sig code = .ok t) : t.InForm F := by
  unfold State.signalTry at he
  split at he
  · cases he; exact h
  · exact h.update64 he

theorem State.InForm.ppFault {part c work} (h : s.InForm F) : (s.ppFault part c work).InForm F :=
  .ite h (.ite h.record.modPart h.record)

theorem State.InForm.signal {part sig code} (h : s.InForm F) : (s.signal part sig code).InForm F := by
  unfold State.signal
  split
  next he => exact h.signalTry he
  · exact h.ppFault

theorem State.InForm.descTry {part q x t} (h : s.InForm F) (he : s.descTry part q x = .ok t) : t.InForm F := h.writeFlat he

theorem State.InForm.writeDesc {part q x} (h : s.InForm F) : (s.writeDesc part q x).InForm F := by
  unfold State.writeDesc
  split
  next he => exact h.descTry he
  · exact h.ppFault

theorem State.InForm.setQueue {part q x} (h : s.InForm F) : (s.setQueue part q x).InForm F := h.modPart.writeDesc

theorem State.InForm.freeze {sps} (h : s.InForm F) : (s.freeze sps).InForm F := h.foldl fun _ _ ht => ht.modSp

theorem State.InForm.stopAll {part} (h : s.InForm F) : (s.stopAll part).InForm F := .ite h.modPart.freeze h.modPart.freeze.frame

theorem State.InForm.startWave {part origin cause code} (h : s.InForm F) : (s.startWave part origin cause code).InForm F := by
  unfold State.startWave
  extract_lets s1 p c1 c2 dbg s2
  have h1 : s1.InForm F := by
    unfold s1
    split
    · exact h.freeze
    · exact h
  have h2 : s2.InForm F := .ite h1 h1.modPart
  exact .ite h2.frame h2

theorem State.InForm.abortPkts {part ks} (h : s.InForm F) : (s.abortPkts part ks).InForm F := by
  induction ks generalizing s with
  | nil => exact h
  | cons k r ih => exact .ite (ih h.signal.setQueue) (ih h)

theorem State.InForm.contextFault {part origin cause va pc chan engine code whereW} (h : s.InForm F) :
    (s.contextFault part origin cause va pc chan engine code whereW).InForm F :=
  .ite h (h.abortPkts.record.ite h.abortPkts.record.modPart).modPart.stopAll

theorem State.InForm.faultOf {part r} (h : s.InForm F) : (s.faultOf part r).InForm F := by
  unfold State.faultOf
  split
  · exact .ite h.contextFault h
  · exact h

theorem State.InForm.putQueue {part q x} (h : s.InForm F) : (s.putQueue part q x).InForm F := h.setQueue.faultOf

theorem State.InForm.ppResume {part id} (h : s.InForm F) : (s.ppResume part id).InForm F := by
  unfold State.ppResume
  refine h.modPart.foldl fun _ _ ht => ?_
  split
  · exact ht.signal.faultOf
  · exact ht.writeDesc.faultOf

theorem State.InForm.trapLanes {gid g x} (h : s.InForm F) : (s.trapLanes gid g x).InForm F :=
  .ite (h.setGroup.startWave.ite h.setGroup).contextFault (.ite h.setGroup.startWave h.setGroup)

theorem State.InForm.endDebug {gid g} (h : s.InForm F) : (s.endDebug gid g).InForm F := h.setGroup.modPart

theorem State.InForm.raiseLate {id mask cause code d va} (h : s.InForm F) : (s.raiseLate id mask cause code d va).InForm F := by
  unfold State.raiseLate
  split
  · exact h
  · split
    · exact h.dropOp
    · refine .ite h.dropOp ?_
      split
      · exact h.dropOp.setGroup.contextFault
      · exact .ite h.dropOp.setGroup h.dropOp.trapLanes

theorem State.InForm.raise {g mask cause code d va} (h : s.InForm F) : (s.raise g mask cause code d va).InForm F := by
  unfold State.raise
  split
  · exact h.raiseLate
  · exact h.modSp.trapLanes
  · exact h.setGroup.contextFault
  · exact h.endDebug.record

theorem State.InForm.lazyStop {g va} (h : s.InForm F) : (s.lazyStop g va).InForm F := h.record.modSp.setGroup

theorem State.InForm.causeFor {g mask code va d} (h : s.InForm F) : (s.causeFor g mask code va d).InForm F :=
  .ite h.lazyStop (.ite h.setGroup.contextFault h.raise)

theorem State.InForm.enterHandler {gid g} (h : s.InForm F) : (s.enterHandler gid g).InForm F := by
  unfold State.enterHandler
  split
  · exact h
  · exact h.setGroup

theorem State.InForm.returnTrap {gid g} (h : s.InForm F) : (s.returnTrap gid g).InForm F := h.setGroup

theorem State.InForm.inject {gid g mask x} (h : s.InForm F) : (s.inject gid g mask x).InForm F := by
  unfold State.inject
  split
  · exact h
  · exact h.frame

/-! Instruction fetch. -/

theorem State.InForm.fetched {w pc len} (h : s.InForm F) : (s.fetched w pc len).InForm F := by
  unfold State.fetched
  extract_lets at2
  have hat {t va} (ht : t.InForm F) : (at2 t va).InForm F := by
    unfold at2
    extract_lets s1
    have h1 : s1.InForm F := by
      unfold s1
      split
      · exact ht.tlbFill
      · exact ht
    refine .ite h1 ?_
    split
    · exact h1.foldl fun _ _ hu => hu.correct
    · exact h1
  exact .ite (hat h) (hat (hat h))

theorem State.InForm.addWalk {die part page} (h : s.InForm F) : (s.addWalk die part page).InForm F := .ite h h.modDie

/-! Issue and completion. -/

theorem State.InForm.waitAt {g why} (h : s.InForm F) : (s.waitAt g why).InForm F := by
  unfold State.waitAt
  refine .ite h.frame ?_
  split
  · exact h.setGroup.frame
  · exact h.modGroup.frame

theorem State.InForm.finish {g m x cost} (h : s.InForm F) : (s.finish g m x cost).InForm F := by
  unfold State.finish
  dsimp only
  split
  · exact h.modSp.setGroup
  · exact h.modSp.setGroup
  · split <;> exact h.modSp.setGroup

theorem State.InForm.finishDeferred {id n m} (h : s.InForm F) : (s.finishDeferred id n m).InForm F := by
  unfold State.finishDeferred
  split
  · exact h
  · split
    · exact h.dropOp
    · exact .ite h.dropOp h.setGroup.dropOp

theorem State.InForm.done {g m x cost tx} (h : s.InForm F) : (s.done g m x cost tx).InForm F := by
  unfold State.done
  split
  · exact h.finishDeferred.next
  · refine State.InForm.next ?_
    split
    · exact .ite h.finish h.finish.inject
    · exact h.finish

theorem State.InForm.holdIssue {g cost} (h : s.InForm F) : (s.holdIssue g cost).InForm F := h.modSp.setGroup

theorem State.InForm.deferIssue {g i dests cost hold} (h : s.InForm F) : (s.deferIssue g i dests cost hold).InForm F :=
  .ite h.frame.holdIssue h.frame.finish

theorem State.InForm.atCost {n} (h : s.InForm F) : (s.atCost n).InForm F := h.frame

theorem State.InForm.issue {q cost effect} (h : s.InForm F) (he : ∀ t g, t.InForm F → (effect t g).InForm F) :
    (s.issue q cost effect).InForm F := by
  unfold State.issue
  split
  · split
    · exact he _ _ h
    · trivial
  · split
    · trivial
    · split
      · exact h.atCost.raise
      · exact h.waitAt
      · exact h.deferIssue
      · exact .ite h.setGroup.contextFault (he _ _ h.atCost)

theorem State.InForm.vecOp {i srcs d f old wide} (h : s.InForm F) : (s.vecOp i srcs d f old wide).InForm F :=
  h.issue fun _ _ ht => ht.done

theorem State.InForm.sclOp {i srcs d f old} (h : s.InForm F) : (s.sclOp i srcs d f old).InForm F :=
  h.issue fun _ _ ht => ht.done

theorem State.InForm.scl2Op {i srcs d f} (h : s.InForm F) : (s.scl2Op i srcs d f).InForm F := h.issue fun _ _ ht => ht.done

theorem State.InForm.maskOp {i srcs d f} (h : s.InForm F) : (s.maskOp i srcs d f).InForm F := h.issue fun _ _ ht => ht.done

theorem State.InForm.produce {g cls dests latency kind} (h : s.InForm F) : (s.produce g cls dests latency kind).1.InForm F :=
  h.frame

theorem State.InForm.completeOp {id o f} (h : s.InForm F) : (s.completeOp id o f).InForm F := by
  unfold State.completeOp
  split
  · exact .ite h.setGroup.dropOp h.dropOp
  · exact h.dropOp

/-! Floating-point flags. -/

theorem State.InForm.trapFaults {gid pc len d rep fs} (h : s.InForm F) : (s.trapFaults gid pc len d rep fs).InForm F := by
  induction fs generalizing s with
  | nil => exact h
  | cons c r ih =>
    unfold State.trapFaults
    split
    · exact h
    · exact ih h.trapLanes

theorem State.InForm.finishHeld {n m d fs} (h : s.InForm F) : (s.finishHeld n m d fs).InForm F := by
  unfold State.finishHeld
  split
  · exact h
  · split
    · exact h.dropOp
    · exact .ite h.dropOp h.setGroup.trapFaults.dropOp

theorem State.InForm.doneFloat {g m cost d fs} (h : s.InForm F) : (s.doneFloat g m cost d fs).InForm F :=
  .ite h.finishHeld.next (.ite h.done (h.modSp.setGroup.ite h.finish).trapFaults.next)

theorem State.InForm.vecFloat {i srcs d cost f old} (h : s.InForm F) : (s.vecFloat i srcs d cost f old).InForm F := by
  unfold State.vecFloat
  refine h.issue fun _ _ ht => ?_
  exact ht.doneFloat

theorem State.InForm.flagOp {g cls dests latency ws ex} (h : s.InForm F) : (s.flagOp g cls dests latency ws ex).InForm F :=
  (h.frame.finish.ite h.frame.holdIssue).next

theorem State.InForm.flagDone {id o ws ex c moved} (h : s.InForm F) : (s.flagDone id o ws ex c moved).InForm F := by
  unfold State.flagDone
  split
  · exact h.dropOp
  · exact .ite h.dropOp h.setGroup.trapFaults.dropOp

/-! Reads and writes across lanes. -/

theorem State.InForm.shuffle {i e b f a d h' old} (h : s.InForm F) : (shuffle s i e b f a d h' old).InForm F := h.vecOp

theorem State.InForm.execBallot {f a d} (h : s.InForm F) : (execBallot f a d s).InForm F := h.issue fun _ _ ht => ht.done

theorem State.InForm.reduction {f a d h'} (h : s.InForm F) : (reduction s f a d h').InForm F := by
  unfold Machine.reduction
  refine h.issue fun _ _ ht => ?_
  split
  · dsimp only
    split
    · exact ht.doneFloat
    · exact ht.done

theorem State.InForm.execRdlane {e b f a d} (h : s.InForm F) : (execRdlane e b f a d s).InForm F :=
  h.issue fun _ _ ht => ht.done

theorem State.InForm.execRdx {e b f a d} (h : s.InForm F) : (execRdx e b f a d s).InForm F :=
  h.issue fun _ _ ht => .ite ht.raise.next (.ite (ht.raise.ite ht.waitAt).next ht.done)

theorem State.InForm.execWrx {e b f a d} (h : s.InForm F) : (execWrx e b f a d s).InForm F := h.issue fun _ _ ht => ht.done

theorem State.InForm.execLrd {e b f a d} (h : s.InForm F) : (execLrd e b f a d s).InForm F := h.issue fun _ _ ht => ht.done

theorem State.InForm.execLwr {e b f a d} (h : s.InForm F) : (execLwr e b f a d s).InForm F := h.issue fun _ _ ht => ht.done

theorem State.InForm.laneAddr {i e b d h'} (h : s.InForm F) : (laneAddr s i e b d h').InForm F := h.issue fun _ _ ht => ht.done

/-! The issue of loads, stores and atomics. -/

theorem State.InForm.memFault {g fs d} (h : s.InForm F) : (s.memFault g fs d).InForm F := by
  unfold State.memFault
  dsimp only
  split
  · exact h.causeFor
  · split
    · exact h.causeFor
    · split <;> exact h.causeFor

theorem State.InForm.noteTlb {core part ps} (h : s.InForm F) : (s.noteTlb core part ps).InForm F := by
  unfold State.noteTlb
  refine h.foldl fun _ _ ht => ?_
  refine .ite ht ?_
  split
  · exact ht.addWalk
  · exact ht.tlbFill

theorem State.InForm.pushParts {t act ps} (h : s.InForm F) : (s.pushParts t act ps).InForm F :=
  (h.foldl fun _ _ ht => ht.frame).noteTlb

theorem State.InForm.cacheLines {g policy ps} (h : s.InForm F) : (s.cacheLines g policy ps).InForm F := .ite h h.modCore

theorem State.InForm.pushAll {g t r ls act} (h : s.InForm F) : (s.pushAll g t r ls act).InForm F :=
  h.foldl fun _ _ ht => ht.pushParts

theorem State.InForm.startLoad {g r ls t dests cost kind act} (h : s.InForm F) :
    (s.startLoad g r ls t dests cost kind act).InForm F :=
  h.cacheLines.frame.pushAll.finish

theorem State.InForm.execLd {sp o q a d z} (h : s.InForm F) : (execLd sp o q a d z s).InForm F :=
  h.issue fun _ _ ht => .ite ht.memFault.next ht.startLoad.next

theorem State.InForm.execLds {sp o q a d z} (h : s.InForm F) : (execLds sp o q a d z s).InForm F :=
  h.issue fun _ _ ht => .ite ht.memFault.next ht.startLoad.next

theorem State.InForm.startStore {g r ls t cost data} (h : s.InForm F) : (s.startStore g r ls t cost data).InForm F :=
  h.takeFresh.pushAll.finish

theorem State.InForm.execSt {sp o q a d z} (h : s.InForm F) : (execSt sp o q a d z s).InForm F :=
  h.issue fun _ _ ht => .ite ht.memFault.next ht.startStore.next

theorem State.InForm.execSts {sp o q a d z} (h : s.InForm F) : (execSts sp o q a d z s).InForm F :=
  h.issue fun _ _ ht => .ite ht.memFault.next ht.startStore.next

theorem State.InForm.atomOp {w regs sp o q a d p x nv} (h : s.InForm F) : (atomOp s w regs sp o q a d p x nv).InForm F :=
  h.issue fun _ _ ht => .ite ht.memFault.next ht.startLoad.next

theorem State.InForm.tileFault {g fs d} (h : s.InForm F) : (s.tileFault g fs d).InForm F := by
  unfold State.tileFault
  dsimp only
  split
  · exact h.causeFor
  · exact h

theorem State.InForm.execTld {q sc t} (h : s.InForm F) : (execTld q sc t s).InForm F :=
  h.issue fun _ _ ht => .ite ht.tileFault.next ht.frame.pushAll.finish.next

theorem State.InForm.execTst {q sc t} (h : s.InForm F) : (execTst q sc t s).InForm F :=
  h.issue fun _ _ ht => .ite ht.tileFault.next ht.startStore.next

/-! The performing of accesses. -/

theorem State.InForm.noteHost {part l va} (h : s.InForm F) : (s.noteHost part l va).InForm F := .ite h.record.modPart h

theorem State.InForm.noteRead {w va n} (h : s.InForm F) : (s.noteRead w va n).InForm F := by
  unfold State.noteRead
  refine .ite h ?_
  split
  · exact h.foldl fun _ _ ht => ht.noteHost.correct
  · exact h

theorem State.InForm.noteLong {w fuel va n} (h : s.InForm F) : (s.noteLong w fuel va n).InForm F := by
  induction fuel generalizing s va n with
  | zero => exact h
  | succ fuel ih => exact .ite h (ih h.noteRead)

theorem State.InForm.cleanseLast {a} (h : s.InForm F) : (s.cleanseLast a).InForm F := .ite h.cleanseLine h

theorem State.InForm.orderedBefore {i a} (h : s.InForm F) : (s.orderedBefore i a).InForm F :=
  .ite h (.ite h.publish (.ite h.publish h))

theorem State.InForm.returned {i a ext} (h : s.InForm F) : (s.returned i a ext).InForm F := .ite h (h.publish.ite h).observe

theorem State.InForm.performPart {a ext} (h : s.InForm F) : (s.performPart a ext).InForm F := by
  unfold State.performPart
  refine .ite (.ite (h.noteHost.correct.ite h).frame (.ite h.noteHost.correct h)) ?_
  split
  · exact .ite (h.noteHost.correct.ite h).frame (.ite h.noteHost.correct h)
  · exact ((h.noteHost.correct.ite h).frame.ite (.ite h.noteHost.correct h)).pieceWrite.cleanseLast
  · exact .ite (.ite (h.noteHost.correct.ite h).frame (.ite h.noteHost.correct h))
      ((h.noteHost.correct.ite h).frame.ite (.ite h.noteHost.correct h)).pieceWrite

theorem State.InForm.perform {i a ext} (h : s.InForm F) : (s.perform i a ext).InForm F := h.orderedBefore.returned.performPart

theorem State.InForm.sendPeer {i a} (h : s.InForm F) : (s.sendPeer i a).InForm F := h.frame

theorem State.InForm.performStep {i a ext t} (h : s.InForm F) (he : s.performStep i a ext = some t) : t.InForm F := by
  unfold State.performStep at he
  obtain ⟨-, he⟩ := Option.ite_none_left_eq_some.mp he
  split at he
  · cases he; exact h.sendPeer
  · obtain ⟨-, he⟩ := Option.ite_none_left_eq_some.mp he
    cases he; exact h.frame.perform

theorem State.InForm.badOp {id o va} (h : s.InForm F) : (s.badOp id o va).InForm F := h.dropOp.contextFault

theorem State.InForm.fill {id o} (h : s.InForm F) : (s.fill id o).InForm F := by
  unfold State.fill
  split
  · exact h.badOp
  · exact h.completeOp

theorem State.InForm.execLoadFill {op} (h : s.InForm F) : (execLoadFill op s).InForm F := by
  unfold Machine.execLoadFill
  split
  · trivial
  · split
    · exact .ite h.fill.next trivial
    · exact .ite h.fill.next trivial
    · trivial

theorem State.InForm.execTldComplete {op} (h : s.InForm F) : (execTldComplete op s).InForm F := by
  unfold Machine.execTldComplete
  split
  · trivial
  · split
    · exact .ite h.fill.next trivial
    · trivial

theorem State.InForm.execCompareComplete {op} (h : s.InForm F) : (execCompareComplete op s).InForm F := by
  unfold Machine.execCompareComplete
  split
  · trivial
  · refine .ite trivial ?_
    split
    · exact h.fill.next
    · exact h.flagDone.next
    · trivial

theorem State.InForm.execSfuComplete {op} (h : s.InForm F) : (execSfuComplete op s).InForm F := by
  unfold Machine.execSfuComplete
  split
  · trivial
  · refine .ite trivial ?_
    split
    · exact h.flagDone.next
    · trivial

theorem State.InForm.answerWalk {die part page} (h : s.InForm F) : (s.answerWalk die part page).InForm F :=
  h.frame.foldl fun _ _ ht => ht.tlbFill

theorem State.InForm.execPageWalkComplete {part va} (h : s.InForm F) : (execPageWalkComplete part va s).InForm F := by
  unfold Machine.execPageWalkComplete
  dsimp only
  split
  · trivial
  · refine .ite trivial ?_
    refine State.InForm.next ?_
    refine .answerWalk ?_
    split
    · exact .ite h.modDie h.modDie.modDie
    · exact h.modDie

theorem State.InForm.execPatrolScrub {part space line found} (h : s.InForm F) :
    (execPatrolScrub part space line found s).InForm F := by
  unfold Machine.execPatrolScrub
  dsimp only
  split
  · trivial
  · exact .ite (h.ite h.frame).correct.next (.ite h.frame.modPart.next h.correct.next)

/-! Snap trees and snap operations. -/

theorem State.InForm.setNode {part k n} (h : s.InForm F) : (s.setNode part k n).InForm F := h.frame

theorem State.InForm.snapOp {sub d results srcs} (h : s.InForm F) : (snapOp s sub d results srcs).InForm F :=
  h.issue fun _ _ ht => ht.frame.finish.next

theorem State.InForm.snapFill {id o d ws} (h : s.InForm F) : (s.snapFill id o d ws).InForm F := h.completeOp

theorem State.InForm.snapFail {id o d status} (h : s.InForm F) : (s.snapFail id o d status).InForm F := h.snapFill

theorem State.InForm.letNode {part st} (h : s.InForm F) : (s.letNode part st).InForm F := by
  unfold State.letNode
  split
  · exact h
  · exact h.setNode
  · exact h.setNode

theorem State.InForm.snapCause {id o sub d args st c} (h : s.InForm F) : (s.snapCause id o sub d args st c).InForm F :=
  .ite h.record.setOp (.ite h.contextFault (.ite h.letNode.snapFail.contextFault h.letNode.snapFail))

theorem State.InForm.execSnaphashComplete {op} (h : s.InForm F) : (execSnaphashComplete op s).InForm F := by
  unfold Machine.execSnaphashComplete
  split
  · trivial
  · refine .ite trivial ?_
    refine .ite h.snapFail.next ?_
    refine .ite h.snapFail.next ?_
    split
    · exact h.snapCause.next
    · exact h.noteLong.snapFill.next

theorem State.InForm.mismatch {part n} (h : s.InForm F) : (s.mismatch part n).InForm F := h.modPart

theorem State.InForm.pin {part k} (h : s.InForm F) : (s.pin part k).InForm F := h.setNode

theorem State.InForm.execSnapfindSearch {op} (h : s.InForm F) : (execSnapfindSearch op s).InForm F := by
  unfold Machine.execSnapfindSearch
  split
  · trivial
  · refine .ite trivial ?_
    refine .ite h.snapFail.next ?_
    refine .ite h.snapFail.next ?_
    dsimp only
    split
    · exact h.snapCause.next
    · exact .ite h.noteLong.mismatch.snapFail.next h.noteLong.mismatch.pin.snapFill.next

theorem State.InForm.getStep {op o d args k dest done} (h : s.InForm F) : (s.getStep op o d args k dest done).InForm F := by
  unfold State.getStep
  dsimp only
  split
  · exact h.snapCause
  · split
    · exact h.snapCause
    · next he =>
      refine .ite (State.InForm.setOp ?_) (State.InForm.completeOp (.setNode ?_)) <;>
      · split at he
        · exact .of_map (fun _ => h.writePieces) he
        · cases he; exact h

theorem State.InForm.execSnapgetCopy {op} (h : s.InForm F) : (execSnapgetCopy op s).InForm F := by
  unfold Machine.execSnapgetCopy
  split
  · trivial
  · exact .ite trivial h.getStep.next
  · exact .ite trivial
      (.ite h.snapFail.next (.ite h.snapFail.next (.ite h.snapFail.next (.ite h.snapFail.next h.setNode.getStep.next))))

theorem State.InForm.evict {part k} (h : s.InForm F) : (s.evict part k).InForm F := h.setNode.setNode

theorem State.InForm.evictLow {part fuel} (h : s.InForm F) : (s.evictLow part fuel).InForm F := by
  induction fuel generalizing s with
  | zero => exact h
  | succ fuel ih =>
    refine .ite ?_ h
    split
    · exact ih h.evict
    · exact h

theorem State.InForm.takeNode {part make t k} (h : s.InForm F) (he : s.takeNode part make = some (t, k)) : t.InForm F := by
  unfold State.takeNode at he
  dsimp only at he
  split at he
  · cases he
  · cases he
    refine .evictLow (.setNode (.ite ?_ h))
    split
    · exact h.evict
    · exact h

theorem State.InForm.execSnapdepAllocate {op} (h : s.InForm F) : (execSnapdepAllocate op s).InForm F := by
  unfold Machine.execSnapdepAllocate
  split
  · trivial
  · refine .ite trivial ?_
    refine .ite h.snapFail.next ?_
    refine .ite h.snapFail.next ?_
    refine .ite h.snapFail.next ?_
    refine .ite h.snapFail.next ?_
    dsimp only
    split
    · exact h.snapFail.next
    next he_1 => exact (h.takeNode he_1).setOp.next

theorem State.InForm.putSlot {part off bs} (h : s.InForm F) : (s.putSlot part off bs).InForm F := h.store.cleanse

theorem State.InForm.depCopy {op o d args c done g} (h : s.InForm F) : (s.depCopy op o d args c done g).InForm F := by
  unfold State.depCopy
  dsimp only
  split
  · exact h.snapCause
  · exact .ite h.snapCause h.noteRead.putSlot.setNode.setOp

theorem State.InForm.depLink {op o d args c done g} (h : s.InForm F) : (s.depLink op o d args c done g).InForm F := by
  unfold State.depLink
  dsimp only
  split
  · exact h.snapCause
  · split
    · exact h.snapCause
    · exact .ite h.setNode.mismatch.snapFail h.setNode.mismatch.pin.snapFill
    · exact h.mismatch.setNode.setNode.pin.snapFill

theorem State.InForm.execSnapdepLink {op} (h : s.InForm F) : (execSnapdepLink op s).InForm F := by
  unfold Machine.execSnapdepLink
  split
  · exact .ite trivial (h.depCopy.ite h.depLink).next
  · trivial

theorem State.InForm.execSnaprelApply {op} (h : s.InForm F) : (execSnaprelApply op s).InForm F := by
  unfold Machine.execSnaprelApply
  split
  · trivial
  · exact .ite trivial (.ite h.snapFail.next (.ite h.snapFail.next (.ite h.snapFail.next h.setNode.snapFill.next)))

theorem State.InForm.execTreeCreate {part tree value} (h : s.InForm F) : (execTreeCreate part tree value s).InForm F := by
  unfold Machine.execTreeCreate
  refine .ite trivial ?_
  refine .ite h.next ?_
  split
  · exact h.next
  · exact h.setNode.modPart.next

theorem State.InForm.execTreeDiscard {part tree} (h : s.InForm F) : (execTreeDiscard part tree s).InForm F :=
  .ite trivial h.modPart.next

theorem State.InForm.freeTree {part tree} (h : s.InForm F) : (s.freeTree part tree).InForm F :=
  h.foldl fun _ _ ht => .ite ht.setNode ht

theorem State.InForm.execTreeDiscardFree {part tree} (h : s.InForm F) : (execTreeDiscardFree part tree s).InForm F :=
  .ite trivial h.freeTree.modPart.next

/-! Conversions. -/

theorem State.InForm.narrowOp {b fmts srcs d h'} (h : s.InForm F) : (narrowOp s b fmts srcs d h').InForm F :=
  h.issue fun _ _ ht => .ite ht.raise.next ht.doneFloat

/-! Control flow. -/

theorem State.InForm.branch {o srcs cost cond} (h : s.InForm F) : (branch s o srcs cost cond).InForm F :=
  h.issue fun _ _ ht => ht.done

theorem State.InForm.execJmp {o a} (h : s.InForm F) : (execJmp o a s).InForm F := h.issue fun _ _ ht => ht.done

theorem State.InForm.execCall {o a} (h : s.InForm F) : (execCall o a s).InForm F := h.issue fun _ _ ht => ht.done

theorem State.InForm.execJmpv {o a} (h : s.InForm F) : (execJmpv o a s).InForm F := h.issue fun _ _ ht => ht.done

theorem State.InForm.execRstmeet {a} (h : s.InForm F) : (execRstmeet a s).InForm F := h.issue fun _ _ ht => ht.done

theorem State.InForm.execSetmeet {o a} (h : s.InForm F) : (execSetmeet o a s).InForm F := h.issue fun _ _ ht => ht.done

theorem State.InForm.execTrap {c} (h : s.InForm F) : (execTrap c s).InForm F := h.issue fun _ _ ht => ht.raise.next

theorem State.InForm.execBreakI {c} (h : s.InForm F) : (execBreakI c s).InForm F :=
  h.issue fun _ _ ht => .ite ht.finish.startWave.next ht.raise.next

theorem State.InForm.execRtrap (h : s.InForm F) : (execRtrap s).InForm F := h.issue fun _ _ ht => ht.modSp.returnTrap.next

theorem State.InForm.execRep {w x y z c} (h : s.InForm F) : (execRep w x y z c s).InForm F := by
  unfold Machine.execRep
  refine h.issue fun _ _ ht => ?_
  dsimp only
  split
  · exact ht.addWalk.waitAt.next
  · exact ht.causeFor.next
  · exact ht.raise.next
  · split
    · exact ht.fetched.raise.next
    · split <;> exact ht.fetched.finish.next

theorem State.InForm.execRepack (h : s.InForm F) : (execRepack s).InForm F :=
  h.issue fun _ _ ht => .ite ht.raise.next ht.finish.next

theorem State.InForm.execYield (h : s.InForm F) : (execYield s).InForm F := h.issue fun _ _ ht => ht.finish.next

theorem State.InForm.execSleep {n} (h : s.InForm F) : (execSleep n s).InForm F := h.issue fun _ _ ht => ht.finish.next

theorem State.InForm.execWaitf {c a} (h : s.InForm F) : (execWaitf c a s).InForm F :=
  h.issue fun _ _ ht => .ite ht.raise.next (.ite ht.waitAt.next ht.done)

theorem State.InForm.execSleepExpiry {gid} (h : s.InForm F) : (execSleepExpiry gid s).InForm F := by
  unfold Machine.execSleepExpiry
  split
  · exact .ite h.setGroup.next trivial
  · trivial

theorem State.InForm.execYieldExpiry {gid} (h : s.InForm F) : (execYieldExpiry gid s).InForm F := by
  unfold Machine.execYieldExpiry
  split
  · exact .ite trivial h.setGroup.next
  · trivial

/-! Fences, waits and barriers. -/

theorem State.InForm.fence {busy order} (h : s.InForm F) (ho : ∀ t g, t.InForm F → (order t g).1.InForm F) :
    (fence s busy order).InForm F :=
  h.issue fun _ _ ht => .ite ht.waitAt.next (ho _ _ ht).done

theorem State.InForm.execFenceS {p m} (h : s.InForm F) : (execFenceS p m s).InForm F := h.fence fun _ _ ht => ht.publish

theorem State.InForm.execFenceP {p b a} (h : s.InForm F) : (execFenceP p b a s).InForm F := h.fence fun _ _ ht => ht.publish

theorem State.InForm.execFenceA (h : s.InForm F) : (execFenceA s).InForm F := h.fence fun _ _ ht => ht.publish

theorem State.InForm.arrival {e b stay} (h : s.InForm F) : (arrival s e b stay).InForm F := by
  unfold Machine.arrival
  refine h.issue fun _ _ ht => ?_
  split
  · exact ht.raise.next
  · trivial
  · exact (ht.ite ht.setTeam).finish.next

theorem State.InForm.execWait {e b} (h : s.InForm F) : (execWait e b s).InForm F := by
  unfold Machine.execWait
  refine h.issue fun _ _ ht => ?_
  split
  · exact ht.raise.next
  · trivial
  · exact ht.finish.next

theorem State.InForm.execBarrierPhaseComplete {team n} (h : s.InForm F) : (execBarrierPhaseComplete team n s).InForm F := by
  unfold Machine.execBarrierPhaseComplete
  split
  · trivial
  · exact .ite trivial (h.releaseToks.foldl fun _ _ ht => ht.setGroup).setTeam.next

theorem State.InForm.parkHeld {gid mask cause d} (h : s.InForm F) : (s.parkHeld gid mask cause d).InForm F := by
  unfold State.parkHeld
  refine h.foldl fun _ _ ht => ?_
  split
  · exact ht
  · exact .ite ht ht.trapLanes

theorem State.InForm.barmTest {gid n fuel} (h : s.InForm F) : (s.barmTest gid n fuel).InForm F := by
  induction fuel generalizing s with
  | zero => exact h
  | succ fuel ih =>
    unfold State.barmTest
    split
    · exact h
    · refine .ite h ?_
      split
      · exact ih h.parkHeld
      · exact .ite h.publish.setGroup h

theorem State.InForm.barmAll {gid} (h : s.InForm F) : (s.barmAll gid).InForm F := h.foldl fun _ _ ht => ht.barmTest

theorem State.InForm.execBarm {e b f a} (h : s.InForm F) : (execBarm e b f a s).InForm F := by
  unfold Machine.execBarm
  refine h.issue fun _ _ ht => ?_
  split
  · exact ht.raise.next
  · exact ht.finish.parkHeld.barmTest.next

theorem State.InForm.zephyrOp {fn srcs d bv val} (h : s.InForm F) : (zephyrOp s fn srcs d bv val).InForm F :=
  h.issue fun _ _ ht => .ite ht.raise.next ht.finish.next

theorem State.InForm.execZephyrArrivalRecord {gid} (h : s.InForm F) : (execZephyrArrivalRecord gid s).InForm F := by
  unfold Machine.execZephyrArrivalRecord
  split
  · trivial
  · extract_lets p
    split
    · trivial
    · refine .ite trivial ?_
      extract_lets s1
      have h1 : s1.InForm F := h.releaseTok.setGroup
      split
      · exact h1.modPart.next
      · exact .ite h1.parkHeld.next h1.modPart.next

theorem State.InForm.zDeliver {z saw a} (h : s.InForm F) : (s.zDeliver z saw a).InForm F := by
  unfold State.zDeliver
  split
  · exact h
  · exact .ite h h.setGroup

theorem State.InForm.execZephyrComplete {part id} (h : s.InForm F) : (execZephyrComplete part id s).InForm F := by
  unfold Machine.execZephyrComplete
  dsimp only
  split
  · trivial
  · exact .ite trivial (h.modPart.foldl fun _ _ ht => ht.zDeliver).next

theorem State.InForm.execMemoryAccessPerform {acc ext} (h : s.InForm F) : (execMemoryAccessPerform acc ext s).InForm F := by
  unfold Machine.execMemoryAccessPerform
  split
  · trivial
  · split
    · trivial
    next he_1 => exact ((h.performStep he_1).foldl fun _ _ ht => ht.barmAll).next

/-! The matrix unit. -/

theorem State.InForm.execCdecl {f a d} (h : s.InForm F) : (execCdecl f a d s).InForm F :=
  h.issue fun _ _ ht => .ite ht.raise.next (.ite ht.raise.next ht.done)

theorem State.InForm.execCrst {d} (h : s.InForm F) : (execCrst d s).InForm F := h.issue fun _ _ ht => ht.done

theorem State.InForm.execCqry {a d} (h : s.InForm F) : (execCqry a d s).InForm F := h.issue fun _ _ ht => ht.done

theorem State.InForm.mmaIssue {g c x sel b a t} (h : s.InForm F) : (s.mmaIssue g c x sel b a t).InForm F :=
  h.frame.modCore.finish

theorem State.InForm.execMma {f c b a t} (h : s.InForm F) : (execMma f c b a t s).InForm F := by
  unfold Machine.execMma
  refine h.issue fun _ _ ht => ?_
  refine .ite ht.raise.next ?_
  refine .ite ht.raise.next ?_
  refine .ite ht.raise.next ?_
  refine .ite ht.raise.next ?_
  refine .ite ht.raise.next ?_
  split
  · exact .ite ht.modSp.setGroup.parkHeld.next ht.raise.next
  · exact .ite (.ite ht.mmaIssue.next ht.waitAt.next) ht.finish.next

theorem State.InForm.execMmaStart {core} (h : s.InForm F) : (execMmaStart core s).InForm F := by
  unfold Machine.execMmaStart
  dsimp only
  split
  · trivial
  · split
    · exact .ite trivial h.setOp.modCore.modGroup.next
    · trivial

theorem State.InForm.mmaEnd {core op o} (h : s.InForm F) : (s.mmaEnd core op o).InForm F := h.dropOp.modCore.modGroup

theorem State.InForm.execMmaComplete {core op} (h : s.InForm F) : (execMmaComplete core op s).InForm F := by
  unfold Machine.execMmaComplete
  split
  · trivial
  · split
    · exact .ite trivial h.mmaEnd.next
    · trivial

/-! Control registers. -/

theorem State.InForm.crWriteShared {part core n x} (h : s.InForm F) : (s.crWriteShared part core n x).InForm F :=
  .ite h.modCore h.modPart

theorem State.InForm.execSrd {n d} (h : s.InForm F) : (execSrd n d s).InForm F :=
  .ite (h.issue fun _ _ ht => ht.done) (h.issue fun _ _ ht => ht.done)

theorem State.InForm.execCrd {n sc} (h : s.InForm F) : (execCrd n sc s).InForm F :=
  h.issue fun _ _ ht => .ite ht.waitAt.next ht.done

theorem State.InForm.execCwr {n sc} (h : s.InForm F) : (execCwr n sc s).InForm F :=
  h.issue fun _ _ ht => .ite ht.waitAt.next (.ite ht.done ht.crWriteShared.done)

/-! Spawning and bins. -/

theorem State.InForm.formGroup {team t gid gnum first pc v0} (h : s.InForm F) :
    (s.formGroup team t gid gnum first pc v0).InForm F :=
  h.setGroup.takeFresh

theorem State.InForm.flushPlacements {part core} (h : s.InForm F) : (s.flushPlacements part core).InForm F := h.modCore

theorem State.InForm.placeThreads {part core p} (h : s.InForm F) : (s.placeThreads part core p).InForm F :=
  h.modCore.flushPlacements

theorem State.InForm.execSpawn {a d} (h : s.InForm F) : (execSpawn a d s).InForm F := by
  unfold Machine.execSpawn
  refine h.issue fun _ _ ht => ?_
  dsimp only
  split
  · exact ht.waitAt.next
  · exact .ite ht.waitAt.next ht.modCore.finish.next

theorem State.InForm.execBinTimerExpiry {core bin} (h : s.InForm F) : (execBinTimerExpiry core bin s).InForm F := by
  unfold Machine.execBinTimerExpiry
  split
  · trivial
  · split
    · trivial
    · exact .ite trivial h.modCore.next

theorem State.InForm.execBinGroupForm {core bin} (h : s.InForm F) : (execBinGroupForm core bin s).InForm F := by
  unfold Machine.execBinGroupForm
  split
  · trivial
  · split
    · trivial
    · dsimp only
      split
      · trivial
      · exact .ite trivial h.releaseToks.formGroup.modGroup.setTeam.modCore.flushPlacements.next

/-! Rays. -/

theorem State.InForm.waitPool {g view} (h : s.InForm F) : (s.waitPool g view).InForm F := h.frame.waitAt

theorem State.InForm.addRay {cluster clock r} (h : s.InForm F) : (s.addRay cluster clock r).1.InForm F := h.setCluster

theorem State.InForm.submitRays {g id cut d budget js} (h : s.InForm F) : (s.submitRays g id cut d budget js).1.InForm F := by
  induction js with
  | nil => exact h
  | cons j r ih =>
    unfold State.submitRays
    dsimp only
    split
    · exact ih
    · split
      · exact ih
      · exact ih.addRay

theorem State.InForm.traceOp {spawn b a d} (h : s.InForm F) : (traceOp s spawn b a d).InForm F := by
  unfold Machine.traceOp
  refine h.issue fun _ _ ht => .ite ht.waitPool.next ?_
  exact ht.produce.submitRays.frame.finish.next

theorem State.InForm.noteReads {w rs} (h : s.InForm F) : (s.noteReads w rs).InForm F := by
  refine .ite h ?_
  induction rs with
  | nil => exact h
  | cons x r ih => exact ih.foldl fun _ _ ht => ht.noteRead

theorem State.InForm.endRayFault {cluster r x} (h : s.InForm F) : (s.endRayFault cluster r x).InForm F :=
  .ite h.record.contextFault h.record

theorem State.InForm.serveEntry {cluster room e} (h : s.InForm F) : (s.serveEntry cluster room e).1.InForm F := by
  unfold State.serveEntry
  split
  · exact h
  · dsimp only
    split
    · exact h.modCluster
    · split
      · exact h.noteReads.modCluster
      · split
        · exact h.noteReads.modCluster.record
        · exact h.noteReads.modCluster.endRayFault

theorem State.InForm.serveAll {cluster take es count} (h : s.InForm F) : (s.serveAll cluster take es count).1.InForm F := by
  induction es generalizing s count with
  | nil => exact h
  | cons e r ih =>
    unfold State.serveAll
    split
    · exact ih h.serveEntry
    · exact ih h

theorem State.InForm.execTradeQueueServe {cluster} (h : s.InForm F) : (execTradeQueueServe cluster s).InForm F := by
  unfold Machine.execTradeQueueServe
  dsimp only
  split
  · trivial
  · exact .ite trivial h.serveAll.modCluster.next

theorem State.InForm.placeShading {core level view entry team mat t} (h : s.InForm F) :
    (s.placeShading core level view entry team mat t).InForm F :=
  h.modCore

theorem State.InForm.endTraceRay {cluster n r} (h : s.InForm F) : (s.endTraceRay cluster n r).InForm F := by
  unfold State.endTraceRay
  split
  · exact h.modCluster
  · split
    · dsimp only
      split
      · exact h.setOp.modGroup.modCluster.placeShading
      · exact h.setOp.modGroup.modCluster
    · exact h

theorem State.InForm.givePixel {cluster slot k x} (h : s.InForm F) : (s.givePixel cluster slot k x).InForm F := h.modCluster

theorem State.InForm.endViewRay {cluster n r} (h : s.InForm F) : (s.endViewRay cluster n r).InForm F := by
  unfold State.endViewRay
  dsimp only
  split
  · exact h.setCluster
  · exact .ite h.setCluster.modCluster.givePixel
      (.ite h.setCluster.modCluster.givePixel h.setCluster.modCluster.modCluster.placeShading)

theorem State.InForm.execRayComplete {cluster ray} (h : s.InForm F) : (execRayComplete cluster ray s).InForm F := by
  unfold Machine.execRayComplete
  split
  · trivial
  · exact .ite trivial (.ite h.endViewRay.next h.endTraceRay.next)

theorem State.InForm.execTraceRecordFill {op} (h : s.InForm F) : (execTraceRecordFill op s).InForm F := by
  unfold Machine.execTraceRecordFill
  split
  · trivial
  · split
    · exact .ite trivial h.modCluster.completeOp.next
    · trivial

theorem State.InForm.execShadingGroupForm {core level} (h : s.InForm F) : (execShadingGroupForm core level s).InForm F := by
  unfold Machine.execShadingGroupForm
  split
  · trivial
  · dsimp only
    split
    · trivial
    · exact .ite trivial h.modCore.setGroup.takeFresh.next

/-! The ends of threads. -/

theorem State.InForm.shadeEnd {kind l x} (h : s.InForm F) : (s.shadeEnd kind l x).InForm F := by
  unfold State.shadeEnd
  split
  · exact h.givePixel
  · exact h.frame
  · exact h

theorem State.InForm.touchBarriers {team} (h : s.InForm F) : (s.touchBarriers team).InForm F := by
  unfold State.touchBarriers
  split
  · exact h
  · exact h.setTeam

theorem State.InForm.endThreads {g value} (h : s.InForm F) : (s.endThreads g value).InForm F := by
  unfold State.endThreads
  exact .touchBarriers (.barmAll (h.finish.foldl fun _ _ ht => ht.shadeEnd))

theorem State.InForm.endAfterAccesses {g value} (h : s.InForm F) : (s.endAfterAccesses g value).InForm F :=
  .ite h.waitAt.next h.publish.endThreads.next

theorem State.InForm.execExit (h : s.InForm F) : (execExit s).InForm F :=
  h.issue fun _ _ ht => .ite ht.endDebug.next (.ite ht.endAfterAccesses ht.endThreads.next)

theorem State.InForm.execTret (h : s.InForm F) : (execTret s).InForm F := h.issue fun _ _ ht => ht.endAfterAccesses

theorem State.InForm.execVret {d} (h : s.InForm F) : (execVret d s).InForm F := h.issue fun _ _ ht => ht.endAfterAccesses

/-! Task counters. -/

theorem State.InForm.execTidset {b a} (h : s.InForm F) : (execTidset b a s).InForm F := by
  unfold Machine.execTidset
  refine h.issue fun _ _ ht => ?_
  refine .ite ht.raise.next ?_
  dsimp only
  split
  · exact ht.memFault.next
  · refine .ite ht.noteTlb.waitAt.next ?_
    split
    · exact ht.causeFor.next
    · exact .ite ht.raise.next (ht.noteTlb.foldl fun _ _ hu => hu.orderedBefore.returned.noteHost.correct).takeFresh.modTeam.done

theorem State.InForm.execTidrd {a d} (h : s.InForm F) : (execTidrd a d s).InForm F :=
  h.issue fun _ _ ht => .ite ht.raise.next ht.done

theorem State.InForm.taskZero {team t n x} (h : s.InForm F) : (s.taskZero team t n x).InForm F := by
  unfold State.taskZero
  dsimp only
  split
  · exact h.setTeam.placeThreads
  · exact h.setTeam

theorem State.InForm.decTask {team n k code toks} (h : s.InForm F) : (s.decTask team n k code toks).InForm F := by
  unfold State.decTask
  split
  · exact h
  · exact .ite h (.ite h.taskZero h.setTeam)

theorem State.InForm.execTdef {b a d} (h : s.InForm F) : (execTdef b a d s).InForm F := by
  unfold Machine.execTdef
  refine h.issue fun _ _ ht => ?_
  dsimp only
  split
  · trivial
  · split
    · exact ht.raise.next
    · exact .ite ht.raise.next (.ite ht.raise.next (.ite ht.raise.next (ht.takeFresh.taskZero.ite ht.takeFresh.setTeam).done))

theorem State.InForm.execTdec {b a d} (h : s.InForm F) : (execTdec b a d s).InForm F := by
  unfold Machine.execTdec
  refine h.issue fun _ _ ht => ?_
  dsimp only
  split
  · trivial
  · exact .ite ht.raise.next ht.decTask.done

theorem State.InForm.execTwait {b a d} (h : s.InForm F) : (execTwait b a d s).InForm F := by
  unfold Machine.execTwait
  refine h.issue fun _ _ ht => ?_
  dsimp only
  split
  · trivial
  · refine .ite ht.raise.next ?_
    refine .ite ht.done ?_
    refine .ite (.ite ht.releaseToks.done ht.waitAt.next) ?_
    split
    · exact ht.done
    · exact ht.waitAt.next
    · exact ht.waitAt.next

theorem State.InForm.execTwaitLimitExpiry {gid} (h : s.InForm F) : (execTwaitLimitExpiry gid s).InForm F := by
  unfold Machine.execTwaitLimitExpiry
  split
  · trivial
  · split
    · exact .ite trivial h.setGroup.next
    · trivial

/-! The placing of teams. -/

theorem State.InForm.procFault {part e} (h : s.InForm F) : (s.procFault part e).InForm F := .ite h.contextFault h.record

theorem State.InForm.gridStop {part grid e} (h : s.InForm F) : (s.gridStop part grid e).InForm F :=
  .ite h.record.modGrid h.procFault

theorem State.InForm.readTable {part va size n} (h : s.InForm F) : (s.readTable part va size n).st.InForm F := by
  unfold State.readTable
  refine List.foldlRecOn (motive := fun t : Tabled => t.st.InForm F) _ _ h fun t ht i _ => ?_
  split
  · exact ht
  · dsimp only
    split
    · exact ht.noteRead
    · split
      · exact ht
      · exact .ite ht ht.record

theorem State.InForm.loadCuts {part grid} (h : s.InForm F) : (s.loadCuts part grid).InForm F := by
  unfold State.loadCuts
  dsimp only
  split
  · exact h.gridStop
  · exact h.readTable.modGrid

theorem State.InForm.placeTeam {part v cluster grid x core window} (h : s.InForm F) :
    (s.placeTeam part v cluster grid x core window).InForm F :=
  (h.takeFresh.setTeam.foldl fun _ _ ht => ht.formGroup).setGrid.modCluster

theorem State.InForm.execTeamPlace {cluster} (h : s.InForm F) : (execTeamPlace cluster s).InForm F := by
  unfold Machine.execTeamPlace
  split
  · trivial
  · refine .ite trivial ?_
    split
    · trivial
    · dsimp only
      split
      · exact h.gridStop.next
      · exact h.readTable.placeTeam

theorem State.InForm.execClusterSteal {cluster grid} (h : s.InForm F) : (execClusterSteal cluster grid s).InForm F := by
  unfold Machine.execClusterSteal
  split
  · trivial
  · refine .ite trivial ?_
    split
    · exact h.setGrid.next
    · dsimp only
      split
      · exact .ite h.setGrid.next trivial
      · trivial

theorem State.InForm.execDieSteal {part die grid} (h : s.InForm F) : (execDieSteal part die grid s).InForm F := by
  unfold Machine.execDieSteal
  split
  · trivial
  · refine .ite trivial ?_
    split
    · exact h.setGrid.next
    · refine .ite trivial ?_
      dsimp only
      split
      · exact h.setGrid.next
      · trivial

/-! Queues and packets. -/

theorem State.InForm.abortQueue {part q code} (h : s.InForm F) : (s.abortQueue part q code).InForm F := h.putQueue

theorem State.InForm.modQueue {part q f} (h : s.InForm F) : (s.modQueue part q f).InForm F := h.modPart

theorem State.InForm.prefetch {part q} (h : s.InForm F) : (s.prefetch part q).InForm F := by
  unfold State.prefetch
  refine .ite h ?_
  split
  · exact h.noteRead.modQueue
  · exact .ite h.record.modQueue h.procFault.modQueue

theorem State.InForm.readQueue {part q again} (h : s.InForm F) : (s.readQueue part q again).InForm F := by
  unfold State.readQueue
  split
  · exact .ite h.record.modQueue h.procFault.abortQueue
  · exact .ite h.noteRead.putQueue h.noteRead.putQueue.prefetch

theorem State.InForm.execQueueEnable {part queue} (h : s.InForm F) : (execQueueEnable part queue s).InForm F :=
  .ite trivial (.ite h.next h.modPart.readQueue.next)

theorem State.InForm.execQueueReenable {part queue} (h : s.InForm F) : (execQueueReenable part queue s).InForm F :=
  .ite trivial (.ite h.next h.readQueue.next)

theorem State.InForm.execQueueDisable {part queue} (h : s.InForm F) : (execQueueDisable part queue s).InForm F :=
  .ite trivial h.modPart.modQueue.next

theorem State.InForm.execQueueDisableDone {part queue} (h : s.InForm F) : (execQueueDisableDone part queue s).InForm F :=
  .ite trivial h.putQueue.next

theorem State.InForm.execQdoor {part queue value} (h : s.InForm F) : (execQdoor part queue value s).InForm F :=
  .ite trivial (.ite h.next (.ite h.abortQueue.next h.modQueue.prefetch.next))

theorem State.InForm.rouseBarriers {part} (h : s.InForm F) : (s.rouseBarriers part).InForm F := h.modPart

theorem State.InForm.startGrid {part q x ws ranges} (h : s.InForm F) : (s.startGrid part q x ws ranges).InForm F := by
  unfold State.startGrid
  exact h.takeFresh.setGrid.loadCuts

theorem State.InForm.pktAcquire {ws} (h : s.InForm F) : (s.pktAcquire ws).InForm F := .ite h h.publish

theorem State.InForm.startPkt {part q x ws} (h : s.InForm F) : (s.startPkt part q x ws).InForm F :=
  (h.pktAcquire.modPart.modQueue.startGrid.ite h.pktAcquire.modPart.modQueue.takeFresh).prefetch

theorem State.InForm.execPacketStart {part} (h : s.InForm F) : (execPacketStart part s).InForm F := by
  unfold Machine.execPacketStart
  refine .ite trivial ?_
  split
  · trivial
  · refine .ite h.startPkt.next ?_
    refine .ite h.modQueue.abortQueue.next ?_
    split
    next he_1 => exact (h.modQueue.abortQueue.signalTry he_1).rouseBarriers.next
    · exact (h.modQueue.abortQueue.ppFault.ite h.modQueue.abortQueue.procFault).next

theorem State.InForm.stopIdle {part q} (h : s.InForm F) : (s.stopIdle part q).InForm F := .ite h.putQueue h

theorem State.InForm.retirePkt {part k} (h : s.InForm F) : (s.retirePkt part k).InForm F := h.modPart.putQueue.stopIdle

theorem State.InForm.modPkt {part k f} (h : s.InForm F) : (s.modPkt part k f).InForm F := h.modPart

theorem State.InForm.pktRelease {k} (h : s.InForm F) : (s.pktRelease k).InForm F := .ite h.publish h

theorem State.InForm.completePkt {part k} (h : s.InForm F) : (s.completePkt part k).InForm F := by
  unfold State.completePkt
  split
  next he => exact (h.pktRelease.signalTry he).retirePkt.rouseBarriers
  · exact .ite h.record.modPkt (.ite h.pktRelease.procFault.retirePkt h.pktRelease.procFault)

theorem State.InForm.runSignal {part k} (h : s.InForm F) : (s.runSignal part k).InForm F := by
  unfold State.runSignal
  dsimp only
  split
  next he => exact (h.update64 he).modPkt.rouseBarriers.completePkt
  · exact .ite h.record.modPkt h.procFault.modPkt.rouseBarriers.completePkt

theorem State.InForm.execPacketComplete {part queue index} (h : s.InForm F) :
    (execPacketComplete part queue index s).InForm F := by
  unfold Machine.execPacketComplete
  dsimp only
  split
  · trivial
  · exact .ite trivial (.ite h.runSignal.next (.ite trivial h.completePkt.next))

theorem State.InForm.abortBarrier {part k v sat} (h : s.InForm F) : (s.abortBarrier part k v sat).InForm F := by
  unfold State.abortBarrier
  refine .ite h.modPart.abortQueue ?_
  split
  next he => exact (h.update64 he).modPart.abortQueue.rouseBarriers
  · exact .ite h.record.modPkt (.ite h.procFault.modPart.abortQueue h.procFault)

theorem State.InForm.barrierRound {part k n i sat} (h : s.InForm F) : (s.barrierRound part k n i sat).InForm F := by
  induction n generalizing s i sat with
  | zero => exact h.modPkt
  | succ n ih =>
    unfold State.barrierRound
    dsimp only
    refine .ite (ih h) ?_
    split
    · exact .ite h.record.modPkt (.ite h.procFault h.procFault.abortBarrier)
    · exact .ite (ih h.noteRead) (.ite h.noteRead.abortBarrier (ih h.noteRead))

theorem State.InForm.execBarrierPacketRound {part queue index} (h : s.InForm F) :
    (execBarrierPacketRound part queue index s).InForm F := by
  unfold Machine.execBarrierPacketRound
  dsimp only
  split
  · trivial
  · refine .ite trivial ?_
    split
    · exact h.abortBarrier.next
    · exact h.barrierRound.next

theorem State.InForm.pktCopyFault {part k e} (h : s.InForm F) : (s.pktCopyFault part k e).InForm F :=
  .ite h.record.modPkt (.ite h.contextFault h.record.modPkt)

theorem State.InForm.execPacketCopySector {part} (h : s.InForm F) : (execPacketCopySector part s).InForm F := by
  unfold Machine.execPacketCopySector
  dsimp only
  split
  · trivial
  · refine .ite trivial ?_
    split
    · exact h.pktCopyFault.next
    · split
      · exact h.pktCopyFault.next
      next he_2 => exact (h.noteRead.writeFlat he_2).modPkt.next

/-! The retiring of groups, teams and grids. -/

theorem State.InForm.execGroupRetire {gid} (h : s.InForm F) : (execGroupRetire gid s).InForm F := by
  unfold Machine.execGroupRetire
  split
  · trivial
  · exact .ite trivial (h.onGroups Tab.wf_erase).next

theorem State.InForm.freeScratch {team} (h : s.InForm F) : (s.freeScratch team).InForm F := h.clearCells

theorem State.InForm.execTeamRetire {team} (h : s.InForm F) : (execTeamRetire team s).InForm F := by
  unfold Machine.execTeamRetire
  split
  · trivial
  · exact .ite trivial h.frame.freeScratch.modGrid.next

theorem State.InForm.execGridEnd {grid} (h : s.InForm F) : (execGridEnd grid s).InForm F := by
  unfold Machine.execGridEnd
  split
  · trivial
  · refine .ite trivial ?_
    dsimp only
    split
    · exact h.frame.next
    · exact h.frame.modPkt.completePkt.next

theorem State.InForm.parkRepack {cause gs} (h : s.InForm F) : (s.parkRepack cause gs).InForm F :=
  h.foldl fun _ _ ht => ht.foldl fun _ _ hu => hu.parkHeld

theorem State.InForm.regroup {team t gs slots fs} (h : s.InForm F) : (s.regroup team t gs slots fs).InForm F :=
  ((h.onGroups Tab.wf_eraseAll).foldl fun _ _ ht => ht.takeFresh.setGroup).setTeam.touchBarriers

theorem State.InForm.execRepackFire {team} (h : s.InForm F) : (execRepackFire team s).InForm F := by
  unfold Machine.execRepackFire
  split
  · trivial
  · exact .ite trivial (.ite h.parkRepack.next (.ite h.parkRepack.next (.ite trivial h.regroup.next)))

/-! Drains, preemption and closing. -/

theorem State.InForm.resetSignals {part ks} (h : s.InForm F) : (s.resetSignals part ks).InForm F :=
  h.foldl fun _ _ ht => ht.signal

theorem State.InForm.disableQueues {part} (h : s.InForm F) : (s.disableQueues part).InForm F :=
  (h.foldl fun _ _ ht => .ite ht ht.setQueue).modPart

theorem State.InForm.freeScratches {part} (h : s.InForm F) : (s.freeScratches part).InForm F :=
  h.foldl fun _ _ ht => .ite ht.freeScratch ht

theorem State.InForm.letNodes {part} (h : s.InForm F) : (s.letNodes part).InForm F := by
  unfold State.letNodes
  refine h.foldl fun _ _ ht => ?_
  split
  · exact .ite ht.letNode ht
  · exact ht

theorem State.InForm.discardWork {part} (h : s.InForm F) : (s.discardWork part).InForm F :=
  (h.letNodes.freeScratches.onGroups Tab.wf_keep).modPart

theorem State.InForm.forcedReset {part} (h : s.InForm F) : (s.forcedReset part).InForm F := by
  unfold State.forcedReset
  have h1 := ((h.modPart (i := part) (f := fun p => { p with resumable := [], heldResumes := [], ppWaits := [] })).resetSignals
    (part := part) (ks := (s.part part).pkts)).disableQueues (part := part)
  exact (h1.ite h1.discardWork).modPart.record

theorem State.InForm.requestDrain {part} (h : s.InForm F) : (s.requestDrain part).InForm F :=
  .ite h (.ite h.modPart.forcedReset h.modPart)

theorem State.InForm.execPreemptRequest {part} (h : s.InForm F) : (execPreemptRequest part s).InForm F :=
  .ite h.requestDrain.next trivial

theorem State.InForm.execTimeSliceExpiry {part} (h : s.InForm F) : (execTimeSliceExpiry part s).InForm F :=
  .ite trivial h.requestDrain.next

theorem State.InForm.execDrainDeadlineExpiry {part} (h : s.InForm F) : (execDrainDeadlineExpiry part s).InForm F :=
  .ite trivial h.forcedReset.next

theorem State.InForm.writeHbm {part off ws} (h : s.InForm F) : (s.writeHbm part off ws).InForm F := by
  induction ws generalizing s off with
  | nil => exact h
  | cons w r ih => exact ih (.ite h.store h)

theorem State.InForm.execDrainComplete {part} (h : s.InForm F) : (execDrainComplete part s).InForm F :=
  .ite trivial h.writeHbm.writeHbm.modPart.next

theorem State.InForm.loadQueues {part n off} (h : s.InForm F) : (s.loadQueues part n off).1.InForm F := by
  induction n generalizing s off with
  | zero => exact h
  | succ n ih => exact ih h.modQueue

theorem State.InForm.loadPkts {part n off} (h : s.InForm F) : (s.loadPkts part n off).1.InForm F := by
  induction n generalizing s off with
  | zero => exact h
  | succ n ih => exact ih h.takeFresh.modPart

theorem State.InForm.loadGrids {part n off} (h : s.InForm F) : (s.loadGrids part n off).1.InForm F := by
  induction n generalizing s off with
  | zero => exact h
  | succ n ih =>
    unfold State.loadGrids
    refine ih ?_
    split
    · exact h
    · exact h.takeFresh.setGrid.modPkt.loadCuts

theorem State.InForm.correctRun {part off n} (h : s.InForm F) : (s.correctRun part off n).InForm F := h.frame.modPart

theorem State.InForm.restore {part} (h : s.InForm F) : (s.restore part).InForm F := by
  unfold State.restore
  refine .ite h (.ite h.contextFault (.ite h ?_))
  split
  next he1 =>
    split
    next he2 =>
      split
      next he3 =>
        have h1 := h.loadQueues.of_fst he1
        have h2 := h1.loadPkts.of_fst he2
        exact .ite h.contextFault (h2.loadGrids.of_fst he3).writeHbm.correctRun

theorem State.InForm.lullBy {part gid cls pc code} (h : s.InForm F) : (s.lullBy part gid cls pc code).InForm F :=
  .ite h h.startWave

theorem State.InForm.execLull (h : s.InForm F) : (execLull s).InForm F := h.issue fun _ _ ht => ht.finish.lullBy.next

theorem State.InForm.execZsig {e b f a} (h : s.InForm F) : (execZsig e b f a s).InForm F :=
  h.issue fun _ _ ht => .ite ht.finish.lullBy.next (.ite (.ite ht.finish.requestDrain.next ht.raise.next) ht.raise.next)

/-! Fault records and handlers. -/

theorem State.InForm.execFaultRecordWrite {part} (h : s.InForm F) : (execFaultRecordWrite part s).InForm F := by
  unfold Machine.execFaultRecordWrite
  dsimp only
  split
  · exact h.store.frame.cleanse.modPart.next
  · trivial

theorem State.InForm.queueAgain {part q} (h : s.InForm F) : (s.queueAgain part q).InForm F :=
  .ite h.prefetch (.ite h.readQueue h)

theorem State.InForm.resumeWork {part id} (h : s.InForm F) : (s.resumeWork part id).InForm F :=
  .ite (((h.onGroups Tab.wf_mapVal).modPart.foldl fun _ _ ht => ht.queueAgain).foldl fun _ _ ht => ht.loadCuts).ppResume.rouseBarriers
    (((h.onGroups Tab.wf_mapVal).modPart.foldl fun _ _ ht => ht.queueAgain).foldl fun _ _ ht => ht.loadCuts)

theorem State.InForm.execFqresume {part value} (h : s.InForm F) : (execFqresume part value s).InForm F :=
  .ite trivial (.ite h.next (.ite h.modPart.next h.resumeWork.next))

theorem State.InForm.execHandlerEntry {gid} (h : s.InForm F) : (execHandlerEntry gid s).InForm F := by
  unfold Machine.execHandlerEntry
  split
  · trivial
  · refine .ite trivial ?_
    split
    · exact h.contextFault.next
    · exact h.enterHandler.next

theorem State.InForm.loseQueue {part q} (h : s.InForm F) : (s.loseQueue part q).InForm F := .ite h (.ite h.putQueue h.stopIdle)

theorem State.InForm.execHostLinkLost (h : s.InForm F) : (execHostLinkLost s).InForm F :=
  .ite trivial (h.frame.foldl fun _ _ ht => ht.foldl fun _ _ hu => hu.loseQueue).next

theorem State.InForm.execCxlLinkDown {port} (h : s.InForm F) : (execCxlLinkDown port s).InForm F :=
  .ite trivial (h.frame.foldl fun _ _ ht => .ite ht.record ht).next

/-! Resets. -/

theorem State.InForm.beginReset {part} (h : s.InForm F) : (s.beginReset part).InForm F :=
  (h.onGroups Tab.wf_keep).modPart.freeze

theorem State.InForm.execPreset {part value} (h : s.InForm F) : (execPreset part value s).InForm F :=
  .ite trivial (.ite h.beginReset.next h.next)

theorem State.InForm.execVfFunctionLevelReset {part} (h : s.InForm F) : (execVfFunctionLevelReset part s).InForm F :=
  .ite trivial h.beginReset.next

theorem State.InForm.dropTrees {part} (h : s.InForm F) : (s.dropTrees part).InForm F :=
  h.foldl fun _ _ ht => .ite ht.freeTree ht

theorem State.InForm.resetPart {part} (h : s.InForm F) : (s.resetPart part).InForm F :=
  h.resetSignals.disableQueues.dropTrees.discardWork.clearCells.tlbDrop.onGroups Tab.wf_keep

theorem State.InForm.execPartitionResetComplete {part} (h : s.InForm F) : (execPartitionResetComplete part s).InForm F :=
  .ite h.resetPart.next trivial

theorem State.InForm.beginDeviceReset (h : s.InForm F) : s.beginDeviceReset.InForm F :=
  h.frame.foldl fun _ _ ht => ht.beginReset

theorem State.InForm.execDeviceReset (h : s.InForm F) : (execDeviceReset s).InForm F := .ite trivial h.beginDeviceReset.next

theorem State.InForm.execDeviceResetComplete (h : s.InForm F) : (execDeviceResetComplete s).InForm F :=
  .ite trivial (Form.Ok.drop (h.foldl fun _ _ ht => ht.resetPart))

theorem State.InForm.execDevicePowerOn (F : Form) : (execDevicePowerOn s).InForm F :=
  match F with
  | .memory => rfl
  | .groups => rfl

/-! Matching of program counters. -/

theorem State.InForm.execPcMatch {gid cmp} (h : s.InForm F) : (execPcMatch gid cmp s).InForm F := by
  unfold Machine.execPcMatch
  split
  · trivial
  · split
    · trivial
    · exact .ite trivial h.setGroup.startWave.next

/-! Tiles. -/

theorem State.InForm.tileRead {i sc v t at'} (h : s.InForm F) : (tileRead s i sc v t at').InForm F :=
  h.issue fun _ _ ht => .ite ht.raise.next ht.done

theorem State.InForm.tileWrite {i sc v t at'} (h : s.InForm F) : (tileWrite s i sc v t at').InForm F :=
  h.issue fun _ _ ht => .ite ht.raise.next ht.done

theorem State.InForm.execTzero {t} (h : s.InForm F) : (execTzero t s).InForm F := h.issue fun _ _ ht => ht.done

theorem State.InForm.execTmov {sc t} (h : s.InForm F) : (execTmov sc t s).InForm F :=
  h.issue fun _ _ ht => .ite ht.raise.next (.ite ht.waitAt.next ht.done)

/-! Views. -/

theorem State.InForm.execView {b a r t} (h : s.InForm F) : (execView b a r t s).InForm F := by
  unfold Machine.execView
  refine h.issue fun _ _ ht => ?_
  refine .ite ht.done ?_
  split
  · exact ht.done
  · exact .ite ht.done (.ite ht.waitPool.next ht.frame.modCluster.finish.next)

theorem State.InForm.execViewRayCast {cluster} (h : s.InForm F) : (execViewRayCast cluster s).InForm F := by
  unfold Machine.execViewRayCast
  dsimp only
  split
  · trivial
  · exact .ite trivial h.addRay.modCluster.takeFresh.next

theorem State.InForm.execViewComplete {cluster slot} (h : s.InForm F) : (execViewComplete cluster slot s).InForm F := by
  unfold Machine.execViewComplete
  split
  · trivial
  · dsimp only
    split
    · trivial
    · exact .ite trivial h.modCluster.completeOp.next

/-! Admission and illegal instructions. -/

theorem State.InForm.afterIssue {c} (h : s.InForm F) : (s.afterIssue c).InForm F := (h.ite h.modSp).onGroups Tab.wf_mapVal

theorem Out.InForm.issueMade {c x t} (h : Out.InForm x F) (he : Machine.issueMade c x = some t) : t.InForm F := by
  unfold Machine.issueMade at he
  split at he
  · split at he
    · cases he
    · cases he; exact State.InForm.afterIssue h
  · cases he

theorem State.InForm.execTraceAdmit {gid} (h : s.InForm F) : (execTraceAdmit gid s).InForm F := by
  unfold Machine.execTraceAdmit
  dsimp only
  split
  · split
    · next he => exact ((State.InForm.traceOp h.frame).issueMade he).next
    · trivial
  · split
    · next he => exact ((State.InForm.traceOp h.frame).issueMade he).next
    · trivial
  · trivial

theorem State.InForm.execViewSlotGrant {gid} (h : s.InForm F) : (execViewSlotGrant gid s).InForm F := by
  unfold Machine.execViewSlotGrant
  dsimp only
  split
  · split
    · next he => exact ((State.InForm.execView h.frame).issueMade he).next
    · trivial
  · trivial

theorem State.InForm.illegal {len} (h : s.InForm F) : (s.illegal len).InForm F := by
  unfold State.illegal
  split
  · trivial
  · exact h.frame.raise.next

theorem State.InForm.execIllegalInstruction {word} (h : s.InForm F) : (execIllegalInstruction word s).InForm F := by
  unfold Machine.execIllegalInstruction
  split
  · trivial
  · exact h.illegal

/-! Collectives. -/

theorem State.InForm.collOp {cast b a d} (h : s.InForm F) : (collOp s cast b a d).InForm F :=
  h.issue fun _ _ ht => .ite ht.done (.ite ht.done ht.modPart.takeFresh.finish.next)

theorem State.InForm.writesFor {op} (h : s.InForm F) : (s.writesFor op).InForm F := h.frame

theorem State.InForm.collPartial {part res c} (h : s.InForm F) : (s.collPartial part res c).InForm F := by
  unfold State.collPartial
  refine .takeFresh ?_
  refine h.writesFor.foldl fun _ _ ht => ?_
  refine .ite ?_ ht
  split
  next he => exact ht.writeFlat he
  · exact ht

theorem State.InForm.collDeliver {id status c} (h : s.InForm F) : (s.collDeliver id status c).InForm F := by
  unfold State.collDeliver
  split
  · exact h
  · exact .ite h h.setGroup

theorem State.InForm.collEnd {part x status} (h : s.InForm F) : (s.collEnd part x status).InForm F :=
  h.modPart.foldl fun _ _ ht => ht.collDeliver

theorem State.InForm.collSend {part x status ws} (h : s.InForm F) : (s.collSend part x status ws).InForm F := .ite h h.frame

theorem State.InForm.collFault {part x c e res} (h : s.InForm F) : (s.collFault part x c e res).InForm F :=
  .ite h.record.modPart
    (.ite (h.foldl fun _ _ ht => ht.collPartial).collSend.collEnd.contextFault (h.foldl fun _ _ ht => ht.collPartial).collSend.collEnd)

theorem State.InForm.collLost {part x} (h : s.InForm F) : (s.collLost part x).InForm F :=
  ((h.takeFresh.foldl fun _ _ ht => ht.collPartial).ite h).collEnd

theorem State.InForm.execCollectiveComplete {part id there} (h : s.InForm F) :
    (execCollectiveComplete part id there s).InForm F := by
  unfold Machine.execCollectiveComplete
  dsimp only
  split
  · trivial
  · refine .ite trivial ?_
    refine .ite h.collLost.next ?_
    refine .ite trivial ?_
    refine .ite h.collSend.collEnd.next ?_
    split
    · exact h.collFault.next
    · split
      · exact (h.foldl fun _ _ ht => ht.noteLong).collFault.next
      · exact .ite ((h.foldl fun _ _ ht => ht.noteLong).foldl fun _ _ ht => ht.collPartial).collSend.collEnd.next
          ((h.foldl fun _ _ ht => ht.noteLong).foldl fun _ _ ht => ht.writesFor.writePieces).collSend.collEnd.next

theorem State.InForm.execParticipatingPackageUnreachable {l} (h : s.InForm F) :
    (execParticipatingPackageUnreachable l s).InForm F :=
  .ite trivial (h.frame.foldl fun _ _ ht => .ite ht (ht.foldl fun _ _ hu => hu.collLost)).next

/-! Copies. -/

theorem State.InForm.copyOp {form ch k d a} (h : s.InForm F) : (copyOp s form ch k d a).InForm F := by
  unfold Machine.copyOp
  refine h.issue fun _ _ ht => ?_
  refine .ite ht.raise.next ?_
  refine .ite ht.raise.next ?_
  split
  · exact ht.raise.next
  · trivial
  · exact .ite ht.raise.next (.ite ht.raise.next (.ite ht.waitAt.next ht.takeFresh.modCore.done))

theorem State.InForm.execWpos {a d} (h : s.InForm F) : (execWpos a d s).InForm F :=
  h.issue fun _ _ ht => .ite ht.raise.next (ht.modGroup.ite ht).done

theorem State.InForm.noteCopy {x ps} (h : s.InForm F) : (s.noteCopy x ps).InForm F := by
  unfold State.noteCopy
  refine h.foldl fun _ _ ht => ?_
  refine .ite ?_ ht.noteRead
  dsimp only
  split
  · exact ht.noteRead.noteRead
  · exact ht.noteRead

theorem State.InForm.multicast {x ps bss} (h : s.InForm F) : (s.multicast x ps bss).InForm F := by
  unfold State.multicast
  refine h.foldl fun _ _ ht => ?_
  split
  · exact ht.foldl fun _ _ hu => hu.writePieces
  · exact ht

theorem State.InForm.performCopy {x} (h : s.InForm F) : (s.performCopy x).InForm F := h.publish

theorem State.InForm.endCopy {core chan c x code} (h : s.InForm F) : (s.endCopy core chan c x code).InForm F := by
  unfold State.endCopy
  dsimp only
  split
  · exact h.performCopy.modCore.decTask
  · exact h.performCopy.modCore

theorem State.InForm.copyFault {part core chan c x e} (h : s.InForm F) : (s.copyFault part core chan c x e).InForm F :=
  .ite h.record.modCore (.ite h.contextFault h.record.endCopy)

theorem State.InForm.prefLines {x ps} (h : s.InForm F) : (s.prefLines x ps).InForm F := .ite h h.modCore

theorem State.InForm.execCopySectorDeliver {core chan} (h : s.InForm F) : (execCopySectorDeliver core chan s).InForm F := by
  unfold Machine.execCopySectorDeliver
  dsimp only
  split
  · trivial
  · refine .ite trivial ?_
    split
    · exact .ite h.noteCopy.modCore.next h.copyFault.next
    · refine .ite h.prefLines.noteCopy.modCore.next ?_
      refine .ite h.multicast.noteCopy.modCore.next ?_
      split
      · exact h.copyFault.next
      · exact (h.foldl fun _ _ ht => ht.writePieces).noteCopy.modCore.next

theorem State.InForm.execCopyComplete {core chan} (h : s.InForm F) : (execCopyComplete core chan s).InForm F := by
  unfold Machine.execCopyComplete
  dsimp only
  split
  · trivial
  · refine .ite trivial ?_
    refine State.InForm.next ?_
    refine .endCopy ?_
    refine h.performCopy.foldl fun _ _ ht => ?_
    split
    · exact ht.decTask
    · exact ht

/-! The debug slot and the stops. -/

theorem State.InForm.execLullWaveStop {part} (h : s.InForm F) : (execLullWaveStop part s).InForm F := by
  unfold Machine.execLullWaveStop
  dsimp only
  split
  · trivial
  · exact .ite (h.freeze.ite h).stopAll.next (.ite (h.freeze.ite h).next trivial)

theorem State.InForm.execHaltFlitArrive {part cause cause2 stamp} (h : s.InForm F) :
    (execHaltFlitArrive part cause cause2 stamp s).InForm F :=
  .ite h.next h.modPart.stopAll.next

theorem State.InForm.execDebugSlotStart {part} (h : s.InForm F) : (execDebugSlotStart part s).InForm F := by
  unfold Machine.execDebugSlotStart
  dsimp only
  split
  · trivial
  · exact .ite trivial h.setGroup.takeFresh.modPart.next

theorem State.InForm.heldFill {id o} (h : s.InForm F) : (s.heldFill id o).InForm F := by
  unfold State.heldFill
  split
  · exact .ite h.fill h
  · exact .ite h.fill h
  · exact .ite h.fill h
  · exact .ite h.mmaEnd h
  · exact h

theorem State.InForm.fillHeld {mine} (h : s.InForm F) : (s.fillHeld mine).InForm F := h.foldl fun _ _ ht => .ite ht.heldFill ht

theorem State.InForm.beginStep {part a} (h : s.InForm F) : (s.beginStep part a).InForm F := .ite h.fillHeld.modSp h

theorem State.InForm.execDstep {a} (h : s.InForm F) : (execDstep a s).InForm F := h.issue fun _ _ ht => ht.finish.beginStep.next

theorem State.InForm.takeResume {part t} (h : s.InForm F) : (s.takeResume part t).InForm F := .ite h.modPart h

theorem State.InForm.requestResume {part t} (h : s.InForm F) : (s.requestResume part t).InForm F :=
  .ite h.takeResume.frame h.takeResume

theorem State.InForm.resumeArrives {part t job key} (h : s.InForm F) : (s.resumeArrives part t job key).InForm F :=
  (h.takeResume.ite h).next

theorem State.InForm.execDres {a} (h : s.InForm F) : (execDres a s).InForm F :=
  h.issue fun _ _ ht => ht.finish.endDebug.requestResume.next

theorem State.InForm.resumeHeld {part} (h : s.InForm F) : (s.resumeHeld part).InForm F :=
  h.modPart.foldl fun _ _ ht => ht.resumeWork

theorem State.InForm.unfreeze {part late} (h : s.InForm F) : (s.unfreeze part late).InForm F :=
  (h.modPart.onGroups Tab.wf_mapVal).resumeHeld

theorem State.InForm.execJobResume {part} (h : s.InForm F) : (execJobResume part s).InForm F := by
  unfold Machine.execJobResume
  dsimp only
  split
  · trivial
  · exact .ite trivial (.ite h.fillHeld.modPart.next h.fillHeld.unfreeze.next)

theorem State.InForm.execDbgcmdLull {part} (h : s.InForm F) : (execDbgcmdLull part s).InForm F :=
  .ite trivial (.ite h.startWave.next h.next)

theorem State.InForm.execDbgcmdDstep {part value} (h : s.InForm F) : (execDbgcmdDstep part value s).InForm F :=
  .ite trivial h.beginStep.next

theorem State.InForm.execDbgcmdDres {part value} (h : s.InForm F) : (execDbgcmdDres part value s).InForm F :=
  .ite trivial h.requestResume.next

theorem State.InForm.dbgSet {gid g x a} (h : s.InForm F) : (s.dbgSet gid g x a).InForm F := by
  unfold State.dbgSet
  split
  · exact h.setGroup
  · exact h.setGroup
  · exact h.setGroup
  · exact h.setGroup
  · exact h.setGroup
  · exact h.setGroup
  · exact .ite h.setGroup h.crWriteShared

theorem State.InForm.dbgForce {gid g a} (h : s.InForm F) : (s.dbgForce gid g a).InForm F := by
  unfold State.dbgForce
  split
  · exact h.frame.setGroup
  · exact h

theorem State.InForm.dbgEnd {part value status} (h : s.InForm F) : (s.dbgEnd part value status).InForm F := h.modPart

theorem State.InForm.execDbgRegRead {part value} (h : s.InForm F) : (execDbgRegRead part value s).InForm F := by
  unfold Machine.execDbgRegRead
  refine .ite trivial ?_
  split
  · exact h.dbgEnd.next
  · exact h.modPart.dbgEnd.next

theorem State.InForm.execDbgRegWrite {part value} (h : s.InForm F) : (execDbgRegWrite part value s).InForm F := by
  unfold Machine.execDbgRegWrite
  refine .ite trivial ?_
  split
  · exact h.dbgEnd.next
  · exact .ite h.dbgEnd.next h.dbgSet.dbgEnd.next

theorem State.InForm.execDbgRegForceWrite {part value} (h : s.InForm F) : (execDbgRegForceWrite part value s).InForm F := by
  unfold Machine.execDbgRegForceWrite
  refine .ite trivial ?_
  split
  · exact h.dbgEnd.next
  · exact h.dbgForce.dbgSet.dbgEnd.next

/-! Dumps. -/

theorem State.InForm.execDump {d} (h : s.InForm F) : (execDump d s).InForm F := h.issue fun _ _ ht => ht.finish.modPart.next

theorem State.InForm.endDump {part gid d x} (h : s.InForm F) : (s.endDump part gid d x).InForm F := h.modGroup.modPart

theorem State.InForm.dumpWrite {part gid g x w rest} (h : s.InForm F) : (s.dumpWrite part gid g x w rest).InForm F := by
  unfold State.dumpWrite
  split
  next he => exact .ite (h.writeFlat he).endDump (h.writeFlat he).modPart
  · exact h.modPart.record.endDump

theorem State.InForm.execDumpComplete {part} (h : s.InForm F) : (execDumpComplete part s).InForm F := by
  unfold Machine.execDumpComplete
  dsimp only
  split
  · split
    · trivial
    · split
      · exact h.endDump.next
      · exact h.dumpWrite.next
  · trivial

/-! Integer instructions. -/

theorem State.InForm.opVV {i e b f a d h'} (h : s.InForm F) : (opVV s i e b f a d h').InForm F := h.vecOp

theorem State.InForm.opVI {i e b f a d h'} (h : s.InForm F) : (opVI s i e b f a d h').InForm F := h.vecOp

theorem State.InForm.opDVI {i e b f a d h'} (h : s.InForm F) : (opDVI s i e b f a d h').InForm F := h.vecOp

theorem State.InForm.opV {i f a d h'} (h : s.InForm F) : (opV s i f a d h').InForm F := h.vecOp

theorem State.InForm.opH {i a d f h'} (h : s.InForm F) : (opH s i a d f h').InForm F := h.vecOp

theorem State.InForm.opH1 {i a d f h'} (h : s.InForm F) : (opH1 s i a d f h').InForm F := h.vecOp

theorem State.InForm.cmpK {i srcs d c} (h : s.InForm F) : (cmpK s i srcs d c).InForm F := by
  unfold Machine.cmpK
  refine h.issue fun _ _ ht => ?_
  dsimp only
  split
  · exact ht.done
  · exact ht.produce.finish.next

theorem State.InForm.cmpVV {i e b f a d c} (h : s.InForm F) : (cmpVV s i e b f a d c).InForm F := h.cmpK

theorem State.InForm.cmpVI {i e b f a d c} (h : s.InForm F) : (cmpVI s i e b f a d c).InForm F := h.cmpK

/-! Floating-point instructions. -/

theorem State.InForm.floatVV {i e b f a d h' old} (h : s.InForm F) : (floatVV s i e b f a d h' old).InForm F := h.vecFloat

theorem State.InForm.floatVS {i e b f a d h' old} (h : s.InForm F) : (floatVS s i e b f a d h' old).InForm F := h.vecFloat

theorem State.InForm.floatH {i a d f h'} (h : s.InForm F) : (floatH s i a d f h').InForm F := h.vecFloat

theorem State.InForm.floatV {i f a d h'} (h : s.InForm F) : (floatV s i f a d h').InForm F := h.vecFloat

theorem State.InForm.floatD {i e b f a d h' old} (h : s.InForm F) : (floatD s i e b f a d h' old).InForm F := h.vecFloat

theorem State.InForm.cmpFloat {e b f a d c} (h : s.InForm F) : (cmpFloat s e b f a d c).InForm F :=
  h.issue fun _ _ ht => ht.flagOp

/-! The host's accesses. -/

theorem State.InForm.execTlbinvGo {part value} (h : s.InForm F) : (execTlbinvGo part value s).InForm F :=
  .ite trivial (.ite h.next h.modPart.next)

theorem State.InForm.execTlbinvComplete {part} (h : s.InForm F) : (execTlbinvComplete part s).InForm F :=
  .ite trivial h.tlbDrop.modPart.next

theorem State.InForm.execContextLoad {part} (h : s.InForm F) : (execContextLoad part s).InForm F :=
  .ite trivial (.ite h.modPart.next (.ite h.modPart.next (.ite h.modPart.next h.modPart.next)))

theorem State.InForm.execContextLoadDone {part} (h : s.InForm F) : (execContextLoadDone part s).InForm F :=
  .ite trivial h.modPart.tlbDrop.restore.modPart.next

theorem State.InForm.execContextUnload {part} (h : s.InForm F) : (execContextUnload part s).InForm F :=
  .ite trivial (.ite h.modPart.next (.ite h.modPart.next (.ite h.modPart.next h.modPart.next)))

theorem State.InForm.execContextUnloadDone {part} (h : s.InForm F) : (execContextUnloadDone part s).InForm F :=
  .ite trivial h.disableQueues.discardWork.frame.modPart.next

theorem State.InForm.craccEnd {part value status} (h : s.InForm F) : (s.craccEnd part value status).InForm F := h.modPart

theorem State.InForm.execCraccRead {part value} (h : s.InForm F) : (execCraccRead part value s).InForm F :=
  .ite trivial (h.modPart.ite h).craccEnd.next

theorem State.InForm.execCraccWrite {part value} (h : s.InForm F) : (execCraccWrite part value s).InForm F :=
  .ite trivial (h.crWriteShared.ite h).craccEnd.next

theorem State.InForm.execBarRegisterWrite {part offset value} (h : s.InForm F) :
    (execBarRegisterWrite part offset value s).InForm F := by
  unfold Machine.execBarRegisterWrite
  refine .ite trivial ?_
  split
  · trivial
  · exact h.setPart.next

theorem State.InForm.hostBarRead {part off} (h : s.InForm F) : (s.hostBarRead part off).InForm F := .ite trivial h.frame.next

theorem State.InForm.execConfigurationWrite {part memEnable} (h : s.InForm F) :
    (execConfigurationWrite part memEnable s).InForm F :=
  .ite trivial (.ite h.next h.modPart.next)

theorem State.InForm.correctLines {l n} (h : s.InForm F) : (s.correctLines l n).InForm F := h.foldl fun _ _ ht => ht.correct

theorem State.InForm.putRuns {rs bs} (h : s.InForm F) : (s.putRuns rs bs).InForm F := by
  induction rs generalizing s bs with
  | nil => exact h
  | cons x r ih => exact ih (.ite h.store.cleanse h)

theorem State.InForm.writeRun {l bs} (h : s.InForm F) : (s.writeRun l bs).InForm F := h.putRuns

theorem State.InForm.outsideBad {part} (h : s.InForm F) : (s.outsideBad part).InForm F := .ite h.contextFault h.record

theorem State.InForm.execHostRequestToDeviceMemory {part space offset write data size} (h : s.InForm F) :
    (execHostRequestToDeviceMemory part space offset write data size s).InForm F := by
  unfold Machine.execHostRequestToDeviceMemory
  refine .ite trivial ?_
  split
  · exact h.next
  · exact .ite h.writeRun.next (.ite h.frame.outsideBad.next h.correctLines.frame.next)

theorem State.InForm.execPeerRequest {key kind offset data size} (h : s.InForm F) :
    (execPeerRequest key kind offset data size s).InForm F := by
  unfold Machine.execPeerRequest
  refine .ite h.frame.next ?_
  split
  · exact h.frame.next
  · split
    · exact h.frame.next
    · exact .ite (.ite h.frame.outsideBad.next (h.ite h.correctLines).frame.next)
        (.ite (.ite h.writeRun.frame.next trivial)
          (.ite trivial
            (.ite h.frame.outsideBad.next (.ite (h.ite h.correctLines).frame.next (h.ite h.correctLines).writeRun.frame.next))))

theorem State.InForm.execPeerRefusal {acc} (h : s.InForm F) : (execPeerRefusal acc s).InForm F := by
  unfold Machine.execPeerRefusal
  split
  · trivial
  · exact .ite trivial h.frame.contextFault.next

theorem State.InForm.execPeerResponseTimeout {acc} (h : s.InForm F) : (execPeerResponseTimeout acc s).InForm F := by
  unfold Machine.execPeerResponseTimeout
  split
  · trivial
  · split
    · trivial
    · exact .ite trivial h.frame.contextFault.next

/-! Scalar instructions. -/

theorem State.InForm.opSI {i e b f a d h'} (h : s.InForm F) : (opSI s i e b f a d h').InForm F := h.sclOp

theorem State.InForm.opSI64 {i e b f a d h'} (h : s.InForm F) : (opSI64 s i e b f a d h').InForm F := h.scl2Op

theorem State.InForm.opKK {i e b f a d h'} (h : s.InForm F) : (opKK s i e b f a d h').InForm F := h.maskOp

/-! Messages between lanes. -/

theorem State.InForm.runDeferred {i} (h : s.InForm F) : (runDeferred i s).InForm F := by
  unfold Machine.runDeferred
  split
  · exact h.opVI
  · exact h.opVI
  · exact h.opVI
  · exact h.opVI
  · exact h.opVI
  · exact h.opVI
  · exact h.opVI
  · exact h.opVI
  · exact h.opVI
  · exact h.opVI
  · exact h.opVI
  · exact h.opVI
  · exact h.cmpVI
  · exact h.cmpVI
  · exact h.cmpVI
  · exact h.cmpVI
  · exact h.opVI
  · exact h.opVI
  · exact h.opDVI
  · exact h.opDVI
  · exact h.floatVS
  · exact h.floatVS
  · exact h.floatVS
  · exact h.floatVS
  · exact h.floatVS
  · exact h.floatVS
  · exact h.floatVS
  · exact h.floatVS
  · exact h.shuffle
  · exact h.shuffle
  · exact h.shuffle
  · exact h.shuffle
  · exact h.vecOp
  · exact h.execRdlane
  · exact h.execLrd
  · exact h.laneAddr
  · exact h.laneAddr
  · exact h.opSI
  · exact h.opSI
  · exact h.opSI
  · exact h.opSI
  · exact h.opSI
  · exact h.opSI
  · exact h.opSI
  · exact h.opSI
  · exact h.opSI
  · exact h.opSI
  · exact h.opSI
  · exact h.opSI
  · exact h.opSI64
  · exact h.opSI64
  · exact h.opSI64
  · exact h.opSI64
  · exact h.maskOp
  · exact h.execRdx
  · exact h.execLwr
  · exact h.tileRead
  · exact h.tileRead
  · exact h.tileWrite
  · exact h.tileWrite
  · exact h.execTmov
  · exact h.execTidrd
  · exact h.execTdec
  · exact h.execWpos
  · trivial

theorem State.InForm.claimFor {id o payload src} (h : s.InForm F) : (s.claimFor id o payload src).InForm F := by
  unfold State.claimFor
  dsimp only
  split
  · split
    · next he =>
      refine State.InForm.next (State.InForm.frame (.ite ?_ (h.frame.runDeferred.of_eq he)))
      exact h.frame
    · exact h.frame.runDeferred
  · exact h.next

theorem State.InForm.retryReads (h : s.InForm F) : s.retryReads.InForm F := by
  refine h.foldl fun _ _ ht => ?_
  split
  · refine .ite ht ?_
    split
    · next he => exact ht.claimFor.of_eq he
    · exact ht
  · exact ht

theorem State.InForm.execFlitArrive {flit} (h : s.InForm F) : (execFlitArrive flit s).InForm F := by
  unfold Machine.execFlitArrive
  split
  · trivial
  · refine .ite trivial ?_
    dsimp only
    split
    · exact h.frame.releaseTok.next
    · split
      · exact h.frame.releaseTok.setGroup.claimFor
      · exact .ite trivial h.frame.releaseTok.setGroup.setGroup.next

/-! The management controller. -/

theorem State.InForm.reply {code ws} (h : s.InForm F) : (s.reply code ws).InForm F := h.frame

theorem State.InForm.replyError (h : s.InForm F) : s.replyError.InForm F := h.reply

theorem State.InForm.execMcBoot (h : s.InForm F) : (execMcBoot s).InForm F := .ite trivial h.frame.next

theorem State.InForm.execPldmFirmwareUpdate {image version signed} (h : s.InForm F) :
    (execPldmFirmwareUpdate image version signed s).InForm F :=
  .ite h.frame.reply.next h.replyError.next

theorem State.InForm.execRecoveryImageLoad {image version signed} (h : s.InForm F) :
    (execRecoveryImageLoad image version signed s).InForm F :=
  .ite trivial (.ite h.frame.reply.reply.next h.replyError.next)

theorem State.InForm.execNegotiateAlgorithms {brainpool p384 sha384} (h : s.InForm F) :
    (execNegotiateAlgorithms brainpool p384 sha384 s).InForm F :=
  .ite h.frame.reply.next (.ite h.frame.reply.next h.replyError.next)

theorem State.InForm.execGetCertificate {slot} (h : s.InForm F) : (execGetCertificate slot s).InForm F :=
  .ite h.reply.next h.replyError.next

theorem State.InForm.execChallenge {slot nonce} (h : s.InForm F) : (execChallenge slot nonce s).InForm F :=
  .ite h.reply.next h.replyError.next

theorem State.InForm.execGetMeasurements {index} (h : s.InForm F) : (execGetMeasurements index s).InForm F :=
  .ite h.reply.next (.ite h.reply.next (.ite h.reply.next h.replyError.next))

theorem State.InForm.execMcSetPartitionConfig {part clusters hbmSize tierSize} (h : s.InForm F) :
    (execMcSetPartitionConfig part clusters hbmSize tierSize s).InForm F :=
  .ite h.replyError.next h.modPart.reply.next

theorem State.InForm.execMcSetDomainKey {part key} (h : s.InForm F) : (execMcSetDomainKey part key s).InForm F :=
  .ite h.replyError.next h.modPart.reply.next

theorem State.InForm.execMcSetEsnodes {part first count} (h : s.InForm F) : (execMcSetEsnodes part first count s).InForm F :=
  .ite h.replyError.next h.modPart.reply.next

theorem State.InForm.execMcCrAccess {part write core num data} (h : s.InForm F) :
    (execMcCrAccess part write core num data s).InForm F :=
  .ite h.reply.next (.ite h.crWriteShared.reply.next h.reply.next)

/-! Counters and samples. -/

theorem State.InForm.chargeIdle {part sp} (h : s.InForm F) : (s.chargeIdle part sp).InForm F := h.modPart.modSp

theorem State.InForm.execCycleWithNoEligibleGroup {core sp} (h : s.InForm F) :
    (execCycleWithNoEligibleGroup core sp s).InForm F := by
  unfold Machine.execCycleWithNoEligibleGroup
  dsimp only
  split
  · trivial
  · exact .ite trivial h.chargeIdle.next

theorem State.InForm.execStallCounterClear {part block value} (h : s.InForm F) :
    (execStallCounterClear part block value s).InForm F :=
  .ite trivial (.ite h.modPart.next h.next)

theorem State.InForm.writeSample {part bs t x} (h : s.InForm F) (he : s.writeSample part bs = some (t, x)) : t.InForm F := by
  unfold State.writeSample at he
  dsimp only at he
  split at he
  · cases he
  · split at he
    · split at he
      · next ht => cases he; exact h.writeFlat ht
      · cases he
    · split at he
      · cases he
      · next ht =>
        split at he
        · next hu => cases he; exact (h.writeFlat ht).writeFlat hu
        · cases he

theorem State.InForm.adjustPeriod {part sp fill} (h : s.InForm F) : (s.adjustPeriod part sp fill).InForm F := by
  unfold State.adjustPeriod
  dsimp only
  split
  · exact h
  · split
    · next he => exact h.modPart.writeSample he
    · exact h.modPart

theorem State.InForm.execSampleTake {core sp} (h : s.InForm F) : (execSampleTake core sp s).InForm F := by
  unfold Machine.execSampleTake
  dsimp only
  split
  · trivial
  · refine .ite trivial ?_
    split
    · exact h.modSp.next
    next he_1 => exact (h.modSp.writeSample he_1).next
    next he_1 => exact (h.modSp.writeSample he_1).adjustPeriod.next

/-! Rasterization. -/

theorem State.InForm.execRast {b a d} (h : s.InForm F) : (execRast b a d s).InForm F :=
  h.issue fun _ _ ht => ht.frame.modCore.finish.next

theorem State.InForm.execRastComplete {core} (h : s.InForm F) : (execRastComplete core s).InForm F := by
  unfold Machine.execRastComplete
  split
  · trivial
  · split
    · exact h.modCore.next
    · split
      · exact .ite trivial h.modCore.completeOp.next
      · trivial

/-! The special-function unit. -/

theorem State.InForm.sfuOp {f a d lat h'} (h : s.InForm F) : (sfuOp s f a d lat h').InForm F :=
  h.issue fun _ _ ht => .ite ht.waitAt.next (ht.ite ht.modSp).flagOp

/-! The cycle and the agenda. -/

theorem State.InForm.onFetch {g c pc k} (h : s.InForm F) (hk : ∀ t i len w, t.InForm F → (k t i len w).InForm F) :
    (s.onFetch g c pc k).InForm F := by
  unfold State.onFetch
  dsimp only
  split
  · exact h.frame.causeFor.modGroup.next
  · exact h.addWalk.frame.waitAt.next
  · exact .ite h.fetched.frame.execIllegalInstruction h.fetched.frame.illegal
  · exact hk _ _ _ _ h.fetched

theorem State.InForm.runRepeat {run g c r} (h : s.InForm F) (hr : ∀ i t, t.InForm F → (run i t).InForm F) :
    (s.runRepeat run g c r).InForm F := by
  refine h.onFetch fun _ _ _ _ ht => ?_
  split
  · exact hr _ _ ht.frame
  · exact ht.frame.raise.next

theorem State.InForm.runFetched {run g c} (h : s.InForm F) (hr : ∀ i t, t.InForm F → (run i t).InForm F) :
    (s.runFetched run g c).InForm F :=
  h.onFetch fun _ _ _ _ ht => hr _ _ ht.frame

theorem State.InForm.runIssue {run c} (h : s.InForm F) (hr : ∀ i t, t.InForm F → (run i t).InForm F) :
    (s.runIssue run c).InForm F := by
  unfold State.runIssue
  dsimp only
  split
  · trivial
  · refine .ite h.frame.contextFault.next ?_
    split
    · exact State.InForm.runRepeat h.frame hr
    · exact State.InForm.runFetched h.frame hr

theorem State.InForm.makeIssue {run c} (h : s.InForm F) (hr : ∀ i t, t.InForm F → (run i t).InForm F) :
    (s.makeIssue run c).InForm F := by
  unfold State.makeIssue
  split
  · exact h.execPcMatch
  · split
    · next he => exact ((h.runIssue hr).of_eq he).afterIssue.next
    · exact h.runIssue hr

theorem State.InForm.noteWait {run c} (h : s.InForm F) : (s.noteWait run c).InForm F := by
  unfold State.noteWait
  split
  · refine .ite ?_ h
    split
    · exact h.frame.setGroup
    · exact h
  · exact h

theorem State.InForm.noteWaits {run sp} (h : s.InForm F) : (s.noteWaits run sp).InForm F :=
  h.foldl fun _ _ ht => ht.noteWait

theorem State.InForm.noteYields {run sp} (h : s.InForm F) : (s.noteYields run sp).InForm F :=
  .ite h (h.onGroups Tab.wf_mapVal)

theorem State.InForm.endStep {sp} (h : s.InForm F) : (s.endStep sp).InForm F :=
  .ite h (.ite (.ite h h.modSp) (.ite h h.fillHeld.modSp))

theorem State.InForm.heldWaits {run sp} (h : s.InForm F) : (s.heldWaits run sp).InForm F :=
  h.foldl fun _ _ ht => .ite ht.modGroup ht

theorem State.InForm.tickSp {run part sp} (h : s.InForm F) : (s.tickSp run part sp).InForm F := by
  unfold State.tickSp
  have h1 : (if (s.sp sp).issued.isSome || !s.spBusy sp then (s.noteYields run sp).noteWaits run sp
      else s.heldWaits run sp).InForm F := .ite h.noteYields.noteWaits h.heldWaits
  exact (h1.modPart.ite (h1.ite h1.chargeIdle)).endStep.modSp

theorem State.InForm.tick {run} (h : s.InForm F) : (s.tick run).InForm F :=
  (h.retryReads.foldl fun _ _ ht => ht.foldl fun _ _ hu => hu.tickSp).frame

/-- Every meaning of a list answers a state in form. -/
def Events (s : State) (F : Form) (fs : List Meaning) : Prop := ∀ f ∈ fs, (f s).InForm F

theorem Events.nil : Events s F [] := nofun

theorem Events.cons {f fs} (hf : Out.InForm (f s) F) (h : Events s F fs) : Events s F (f :: fs) := by
  intro g hg
  rcases List.mem_cons.mp hg with rfl | hg
  · exact hf
  · exact h g hg

theorem Events.append {as bs} (ha : Events s F as) (hb : Events s F bs) : Events s F (as ++ bs) := by
  intro g hg
  rcases List.mem_append.mp hg with hg | hg
  · exact ha g hg
  · exact hb g hg

theorem Events.map {α : Type} {xs : List α} {f : α → Meaning} (h : ∀ x, Out.InForm (f x s) F) : Events s F (xs.map f) := by
  intro g hg
  obtain ⟨x, -, rfl⟩ := List.mem_map.mp hg
  exact h x

theorem Events.flatMap {α : Type} {xs : List α} {f : α → List Meaning} (h : ∀ x, Events s F (f x)) :
    Events s F (xs.flatMap f) := by
  intro g hg
  obtain ⟨x, -, hx⟩ := List.mem_flatMap.mp hg
  exact h x g hx

theorem Events.one {f : Meaning} (hf : Out.InForm (f s) F) : Events s F [f] := .cons hf .nil

theorem Events.ite {c : Prop} [Decidable c] {as bs} (ha : Events s F as) (hb : Events s F bs) :
    Events s F (if c then as else bs) := by
  split
  · exact ha
  · exact hb

theorem State.InForm.firstEvent {fs t} (h : Events s F fs) (he : firstEvent s fs = some t) : t.InForm F := by
  induction fs with
  | nil => cases he
  | cons f r ih =>
    unfold Machine.firstEvent at he
    split at he
    · next hf => cases he; exact (h f List.mem_cons_self).of_eq hf
    · exact ih (fun f hf => h f (List.mem_cons_of_mem _ hf)) he

theorem State.InForm.opEvents (h : s.InForm F) : Events s F s.opEvents := by
  refine .flatMap fun x => ?_
  split
  · exact .one h.execLoadFill
  · exact .one h.execLoadFill
  · exact .one h.execTldComplete
  · exact .one h.execCompareComplete
  · refine .one ?_
    split
    · exact h.execSfuComplete
    · exact h.execCompareComplete
  · exact .one h.execMmaComplete
  · exact .one h.execTraceRecordFill
  · exact .one h.execSnaphashComplete
  · exact .one h.execSnapfindSearch
  · exact .one h.execSnapgetCopy
  · exact .cons h.execSnapdepAllocate (.one h.execSnapdepLink)
  · exact .one h.execSnaprelApply
  · exact .nil

theorem State.InForm.accEvents (h : s.InForm F) : Events s F s.accEvents := by
  refine .append (.flatMap fun x => .ite (.one ?_) (.one h.execMemoryAccessPerform))
    (.flatMap fun x => .map fun w => h.execPageWalkComplete)
  split
  · exact h.execPeerRefusal
  · exact h.execPeerResponseTimeout

theorem State.InForm.unitEvents (h : s.InForm F) : Events s F s.unitEvents :=
  .append
    (.flatMap fun _ => .append (.append (.append (.cons h.execMmaStart (.one h.execRastComplete))
      (.flatMap fun _ => .ite .nil (.cons h.execCopyComplete (.one h.execCopySectorDeliver))))
      (.flatMap fun _ => .cons h.execBinTimerExpiry (.one h.execBinGroupForm)))
      (.ite .nil (.map fun _ => h.execShadingGroupForm)))
    (.flatMap fun _ => .append (.append (.map fun _ => h.execRayComplete) (.map fun _ => h.execViewComplete))
      (.cons h.execTradeQueueServe (.one h.execViewRayCast)))

theorem State.InForm.groupEvents (h : s.InForm F) : Events s F s.groupEvents :=
  .append
    (.append (.map fun _ => h.execFlitArrive)
      (.flatMap fun _ => .cons h.execGroupRetire (.cons h.execSleepExpiry (.cons h.execYieldExpiry (.cons h.execHandlerEntry
        (.cons h.execTwaitLimitExpiry (.one h.execZephyrArrivalRecord)))))))
    (.flatMap fun _ => .append (.map fun _ => h.execBarrierPhaseComplete) (.cons h.execRepackFire (.one h.execTeamRetire)))

theorem State.InForm.gridEvents (h : s.InForm F) : Events s F s.gridEvents :=
  .append (.map fun _ => h.execGridEnd)
    (.flatMap fun _ => .ite
      (.append (.map fun _ => h.execTeamPlace)
        (.flatMap fun _ => .append (.map fun _ => h.execClusterSteal) (.map fun _ => h.execDieSteal)))
      .nil)


theorem State.InForm.partEvents (h : s.InForm F) : Events s F s.partEvents :=
  .flatMap fun _ =>
    .append (.append (.append (.append (.append (.append
      (.cons h.execLullWaveStop (.cons h.execPartitionResetComplete (.cons h.execJobResume (.cons h.execDebugSlotStart
        (.cons h.execDumpComplete (.cons h.execContextLoadDone (.cons h.execContextUnloadDone (.cons h.execTlbinvComplete
          (.cons h.execFaultRecordWrite (.cons h.execTimeSliceExpiry (.one h.execDrainDeadlineExpiry)))))))))))
      (.map fun _ => h.execZephyrComplete))
      (.map fun _ => h.execCollectiveComplete))
      (.flatMap fun _ => .cons h.execPacketComplete (.ite (.one h.execBarrierPacketRound) .nil)))
      (.cons h.execPacketCopySector (.cons h.execPacketStart (.one h.execDrainComplete))))
      (.map fun _ => h.execQueueDisableDone))
      (.map fun _ => h.execTreeDiscardFree)

theorem State.InForm.events (h : s.InForm F) : Events s F s.events :=
  .append (.append (.append (.append (.append (.append (.cons h.execMcBoot (.one h.execDeviceResetComplete)) h.partEvents)
    h.accEvents) h.opEvents) h.unitEvents) h.groupEvents) h.gridEvents

theorem State.InForm.sampleEvents (h : s.InForm F) : Events s F s.sampleEvents :=
  .flatMap fun _ => .ite (.map fun _ => h.execSampleTake) .nil

theorem State.InForm.onward {run} (h : s.InForm F) (hr : ∀ i t, t.InForm F → (run i t).InForm F) : (s.onward run).InForm F := by
  unfold State.onward
  split
  · next he => exact (State.InForm.firstEvent h.events he).next
  · split
    · exact h.makeIssue hr
    · split
      · next he => exact (State.InForm.firstEvent h.sampleEvents he).next
      · exact h.settle.tick.next

theorem State.InForm.hostWrite {part off data} (h : s.InForm F) : (s.hostWrite part off data).InForm F :=
  .ite trivial h.store.next

theorem State.InForm.parityError {gid r lane} (h : s.InForm F) : (s.parityError gid r lane).InForm F := by
  unfold State.parityError
  split
  · trivial
  · exact .ite trivial h.setGroup.modPart.next

theorem State.InForm.decayLine {space owner line one} (h : s.InForm F) : (s.decayLine space owner line one).InForm F := by
  unfold State.decayLine
  dsimp only
  split
  · trivial
  · exact .ite h.next (.ite h.frame.next h.frame.modPart.next)

theorem State.InForm.readSoft {part} (h : s.InForm F) : (s.readSoft part).InForm F := h.frame.next

theorem State.InForm.clearSoft {part} (h : s.InForm F) : (s.clearSoft part).InForm F := h.modPart.next

theorem State.InForm.setDomainTime {time} (h : s.InForm F) : (s.setDomainTime time).InForm F := .ite h.frame.next trivial

theorem State.InForm.lag {run i reach} (h : s.InForm F) (hr : ∀ i t, t.InForm F → (run i t).InForm F) :
    (s.lag run i reach).InForm F := by
  unfold State.lag
  split
  · trivial
  · split
    · next he => exact State.InForm.frame ((hr _ _ h.frame).of_eq he)
    · exact hr _ _ h.frame

theorem State.InForm.runEvent {run i} (h : s.InForm F) (hr : ∀ i t, t.InForm F → (run i t).InForm F) :
    (s.runEvent run i).InForm F := by
  unfold State.runEvent
  dsimp only
  split
  · split
    · exact hr _ _ h.frame
    · trivial
  · split
    · exact hr _ _ h.frame
    · trivial
  · exact .ite (hr _ _ h) trivial
  · exact .ite trivial (hr _ _ h)
  · exact .ite (hr _ _ h) trivial

theorem State.InForm.act {run a} (h : s.InForm F) (hr : ∀ i t, t.InForm F → (run i t).InForm F) : (s.act run a).InForm F := by
  unfold State.act
  split
  · exact h.runEvent hr
  · split
    · exact .ite trivial (h.makeIssue hr)
    · exact h.noteWaits.next
  · exact .ite trivial h.tick.next
  · exact h.hostWrite
  · exact h.parityError
  · exact h.decayLine
  · exact h.readSoft
  · exact h.clearSoft
  · exact h.setDomainTime
  · exact h.resumeArrives
  · exact h.hostBarRead
  · exact h.lag hr
  · exact h.publish.next
  · exact h.settleStore.next
  · exact h.evictTlb.next

theorem State.InForm.advance {run} (h : s.InForm F) (hr : ∀ i t, t.InForm F → (run i t).InForm F) :
    (s.advance run).InForm F := by
  unfold State.advance
  split
  · exact State.InForm.act h.frame hr
  · exact h.onward hr

/-! The dispatch and the step. -/

/-- Every instruction and every event keeps the forms. -/
theorem State.InForm.exec {i} (h : s.InForm F) : Out.InForm (Machine.exec i s) F := by
  unfold Machine.exec
  cases i with
  | movH => exact h.opH1
  | notH => exact h.opH1
  | iaddH => exact h.opH
  | isubH => exact h.opH
  | imulH => exact h.opH
  | andH => exact h.opH
  | orH => exact h.opH
  | xorH => exact h.opH
  | shlH => exact h.opH
  | shrH => exact h.opH
  | sarH => exact h.opH
  | faddH => exact h.floatH
  | fsubH => exact h.floatH
  | fmulH => exact h.floatH
  | fmaxH => exact h.floatH
  | fminH => exact h.floatH
  | iadd => exact h.opVV
  | isub => exact h.opVV
  | iadds => exact h.opVV
  | isubs => exact h.opVV
  | iaddi => exact h.opVI
  | isubi => exact h.opVI
  | iaddsi => exact h.opVI
  | isubsi => exact h.opVI
  | imul => exact h.opVV
  | imulhi => exact h.opVV
  | imulhin => exact h.opVV
  | imad => exact h.vecOp
  | and => exact h.opVV
  | or => exact h.opVV
  | xor => exact h.opVV
  | andn => exact h.opVV
  | andI => exact h.opVI
  | orI => exact h.opVI
  | xorI => exact h.opVI
  | andnI => exact h.opVI
  | shl => exact h.opVI
  | shr => exact h.opVI
  | sar => exact h.opVI
  | rol => exact h.opVI
  | min => exact h.opVV
  | max => exact h.opVV
  | minn => exact h.opVV
  | maxn => exact h.opVV
  | icmpEq => exact h.cmpVV
  | icmpNe => exact h.cmpVV
  | icmpLt => exact h.cmpVV
  | icmpLe => exact h.cmpVV
  | icmpLtn => exact h.cmpVV
  | icmpLen => exact h.cmpVV
  | icmpTst => exact h.cmpVV
  | icmpTstn => exact h.cmpVV
  | icmpEqI => exact h.cmpVI
  | icmpNeI => exact h.cmpVI
  | icmpLtI => exact h.cmpVI
  | icmpLeI => exact h.cmpVI
  | popc => exact h.opV
  | clz => exact h.opV
  | brev => exact h.opV
  | ctz => exact h.opV
  | bfxn => exact h.opVI
  | bfxs => exact h.opVI
  | bfi => exact h.opDVI
  | bshuf => exact h.opDVI
  | sel => exact h.vecOp
  | fadd => exact h.floatVV
  | fsub => exact h.floatVV
  | fmin => exact h.floatVV
  | fmax => exact h.floatVV
  | fmul => exact h.floatVV
  | ffma => exact h.floatVV
  | ffms => exact h.floatVV
  | ffnma => exact h.floatVV
  | faddS => exact h.floatVS
  | fsubS => exact h.floatVS
  | fminS => exact h.floatVS
  | fmaxS => exact h.floatVS
  | fmulS => exact h.floatVS
  | ffmaS => exact h.floatVS
  | ffmsS => exact h.floatVS
  | ffnmaS => exact h.floatVS
  | fcmpEq => exact h.cmpFloat
  | fcmpLt => exact h.cmpFloat
  | fcmpLe => exact h.cmpFloat
  | fcmpUno => exact h.cmpFloat
  | fabs => exact h.floatV
  | fneg => exact h.floatV
  | ffloor => exact h.floatV
  | fceil => exact h.floatV
  | rcp => exact h.sfuOp
  | rsq => exact h.sfuOp
  | ex2 => exact h.sfuOp
  | lg2 => exact h.sfuOp
  | sin => exact h.sfuOp
  | cos => exact h.sfuOp
  | sqrt => exact h.sfuOp
  | tanh => exact h.sfuOp
  | hadd2 => exact h.floatVV
  | hmul2 => exact h.floatVV
  | hfma2 => exact h.floatVV
  | hmax2 => exact h.floatVV
  | badd2 => exact h.floatVV
  | bmul2 => exact h.floatVV
  | bfma2 => exact h.floatVV
  | bmax2 => exact h.floatVV
  | dadd => exact h.floatD
  | dmul => exact h.floatD
  | dfma => exact h.floatD
  | dmin => exact h.floatD
  | cvt => exact h.vecFloat
  | pack8 => exact h.narrowOp
  | unpk8 => exact h.narrowOp
  | pack4 => exact h.narrowOp
  | unpk4 => exact h.narrowOp
  | shfl => exact h.shuffle
  | shflx => exact h.shuffle
  | shflu => exact h.shuffle
  | shfld => exact h.shuffle
  | ballot => exact h.execBallot
  | vredAdd => exact h.reduction
  | vredFadd => exact h.reduction
  | vredFmax => exact h.reduction
  | bcast => exact h.vecOp
  | rdlane => exact h.execRdlane
  | rdx => exact h.execRdx
  | wrx => exact h.execWrx
  | lrd => exact h.execLrd
  | lwr => exact h.execLwr
  | lmeet => exact h.laneAddr
  | lpc => exact h.laneAddr
  | kand => exact h.opKK
  | kor => exact h.opKK
  | kxor => exact h.opKK
  | kandn => exact h.opKK
  | k2s => exact h.scl2Op
  | s2k => exact h.maskOp
  | kpopc => exact h.sclOp
  | kffs => exact h.sclOp
  | srd => exact h.execSrd
  | crd => exact h.execCrd
  | cwr => exact h.execCwr
  | moviV => exact h.vecOp
  | moviS => exact h.sclOp
  | movihS => exact h.sclOp
  | addiS => exact h.sclOp
  | sadd => exact h.opSI
  | ssub => exact h.opSI
  | smul => exact h.opSI
  | sand => exact h.opSI
  | sor => exact h.opSI
  | sxor => exact h.opSI
  | sshl => exact h.opSI
  | sshr => exact h.opSI
  | seq => exact h.opSI
  | sne => exact h.opSI
  | slt => exact h.opSI
  | sltn => exact h.opSI
  | sadd64 => exact h.opSI64
  | ssub64 => exact h.opSI64
  | smulw => exact h.opSI64
  | sshl64 => exact h.opSI64
  | br => exact h.branch
  | brz => exact h.branch
  | brnz => exact h.branch
  | brneg => exact h.branch
  | brk => exact h.branch
  | brkn => exact h.branch
  | brv => exact h.branch
  | brvz => exact h.branch
  | setmeet => exact h.execSetmeet
  | jmp => exact h.execJmp
  | call => exact h.execCall
  | jmpv => exact h.execJmpv
  | rstmeet => exact h.execRstmeet
  | exit => exact h.execExit
  | trap => exact h.execTrap
  | breakI => exact h.execBreakI
  | rtrap => exact h.execRtrap
  | rep => exact h.execRep
  | repack => exact h.execRepack
  | yield => exact h.execYield
  | sleep => exact h.execSleep
  | waitf => exact h.execWaitf
  | bar => exact h.arrival
  | barm => exact h.execBarm
  | arrive => exact h.arrival
  | wait => exact h.execWait
  | fenceS => exact h.execFenceS
  | fenceP => exact h.execFenceP
  | fenceA => exact h.execFenceA
  | zbar => exact h.zephyrOp
  | zbcast => exact h.zephyrOp
  | zred => exact h.zephyrOp
  | zsig => exact h.execZsig
  | cdecl => exact h.execCdecl
  | crst => exact h.execCrst
  | cqry => exact h.execCqry
  | ld => exact h.execLd
  | st => exact h.execSt
  | lds => exact h.execLds
  | sts => exact h.execSts
  | atom32 => exact h.atomOp
  | atom64 => exact h.atomOp
  | tld => exact h.execTld
  | tst => exact h.execTst
  | trdr => exact h.tileRead
  | trdc => exact h.tileRead
  | twrr => exact h.tileWrite
  | twrc => exact h.tileWrite
  | tzero => exact h.execTzero
  | tmov => exact h.execTmov
  | cpy => exact h.copyOp
  | cpymc => exact h.copyOp
  | cpysp => exact h.copyOp
  | cpyg => exact h.copyOp
  | pref => exact h.copyOp
  | mma => exact h.execMma
  | view => exact h.execView
  | vret => exact h.execVret
  | trace => exact h.traceOp
  | traces => exact h.traceOp
  | tret => exact h.execTret
  | rast => exact h.execRast
  | snaphash => exact h.snapOp
  | snapfind => exact h.snapOp
  | snapget => exact h.snapOp
  | snapdep => exact h.snapOp
  | snaprel => exact h.snapOp
  | tidset => exact h.execTidset
  | tidrd => exact h.execTidrd
  | wpos => exact h.execWpos
  | tdef => exact h.execTdef
  | tdec => exact h.execTdec
  | twait => exact h.execTwait
  | spawn => exact h.execSpawn
  | cred => exact h.collOp
  | cbcast => exact h.collOp
  | lull => exact h.execLull
  | dump => exact h.execDump
  | dstep => exact h.execDstep
  | dres => exact h.execDres
  | loadFill => exact h.execLoadFill
  | memoryAccessPerform => exact h.execMemoryAccessPerform
  | pageWalkComplete => exact h.execPageWalkComplete
  | patrolScrub => exact h.execPatrolScrub
  | compareComplete => exact h.execCompareComplete
  | sfuComplete => exact h.execSfuComplete
  | tldComplete => exact h.execTldComplete
  | mmaStart => exact h.execMmaStart
  | mmaComplete => exact h.execMmaComplete
  | rastComplete => exact h.execRastComplete
  | traceAdmit => exact h.execTraceAdmit
  | tradeQueueServe => exact h.execTradeQueueServe
  | rayComplete => exact h.execRayComplete
  | traceRecordFill => exact h.execTraceRecordFill
  | viewSlotGrant => exact h.execViewSlotGrant
  | viewRayCast => exact h.execViewRayCast
  | viewComplete => exact h.execViewComplete
  | shadingGroupForm => exact h.execShadingGroupForm
  | snaphashComplete => exact h.execSnaphashComplete
  | snapfindSearch => exact h.execSnapfindSearch
  | snapgetCopy => exact h.execSnapgetCopy
  | snapdepAllocate => exact h.execSnapdepAllocate
  | snapdepLink => exact h.execSnapdepLink
  | snaprelApply => exact h.execSnaprelApply
  | flitArrive => exact h.execFlitArrive
  | copySectorDeliver => exact h.execCopySectorDeliver
  | copyComplete => exact h.execCopyComplete
  | twaitLimitExpiry => exact h.execTwaitLimitExpiry
  | binTimerExpiry => exact h.execBinTimerExpiry
  | binGroupForm => exact h.execBinGroupForm
  | barrierPhaseComplete => exact h.execBarrierPhaseComplete
  | repackFire => exact h.execRepackFire
  | zephyrArrivalRecord => exact h.execZephyrArrivalRecord
  | zephyrComplete => exact h.execZephyrComplete
  | collectiveComplete => exact h.execCollectiveComplete
  | groupRetire => exact h.execGroupRetire
  | teamRetire => exact h.execTeamRetire
  | gridEnd => exact h.execGridEnd
  | sleepExpiry => exact h.execSleepExpiry
  | yieldExpiry => exact h.execYieldExpiry
  | handlerEntry => exact h.execHandlerEntry
  | pcMatch => exact h.execPcMatch
  | packetStart => exact h.execPacketStart
  | packetComplete => exact h.execPacketComplete
  | barrierPacketRound => exact h.execBarrierPacketRound
  | packetCopySector => exact h.execPacketCopySector
  | teamPlace => exact h.execTeamPlace
  | clusterSteal => exact h.execClusterSteal
  | dieSteal => exact h.execDieSteal
  | faultRecordWrite => exact h.execFaultRecordWrite
  | lullWaveStop => exact h.execLullWaveStop
  | haltFlitArrive => exact h.execHaltFlitArrive
  | debugSlotStart => exact h.execDebugSlotStart
  | jobResume => exact h.execJobResume
  | dumpComplete => exact h.execDumpComplete
  | sampleTake => exact h.execSampleTake
  | timeSliceExpiry => exact h.execTimeSliceExpiry
  | drainComplete => exact h.execDrainComplete
  | drainDeadlineExpiry => exact h.execDrainDeadlineExpiry
  | tlbinvGo => exact h.execTlbinvGo
  | tlbinvComplete => exact h.execTlbinvComplete
  | queueEnable => exact h.execQueueEnable
  | queueReenable => exact h.execQueueReenable
  | queueDisable => exact h.execQueueDisable
  | queueDisableDone => exact h.execQueueDisableDone
  | qdoor => exact h.execQdoor
  | treeCreate => exact h.execTreeCreate
  | treeDiscard => exact h.execTreeDiscard
  | treeDiscardFree => exact h.execTreeDiscardFree
  | fqresume => exact h.execFqresume
  | preemptRequest => exact h.execPreemptRequest
  | preset => exact h.execPreset
  | vfFunctionLevelReset => exact h.execVfFunctionLevelReset
  | partitionResetComplete => exact h.execPartitionResetComplete
  | deviceReset => exact h.execDeviceReset
  | deviceResetComplete => exact h.execDeviceResetComplete
  | hostLinkLost => exact h.execHostLinkLost
  | cxlLinkDown => exact h.execCxlLinkDown
  | peerRequest => exact h.execPeerRequest
  | peerRefusal => exact h.execPeerRefusal
  | peerResponseTimeout => exact h.execPeerResponseTimeout
  | dbgcmdLull => exact h.execDbgcmdLull
  | dbgcmdDstep => exact h.execDbgcmdDstep
  | dbgcmdDres => exact h.execDbgcmdDres
  | dbgRegRead => exact h.execDbgRegRead
  | dbgRegWrite => exact h.execDbgRegWrite
  | dbgRegForceWrite => exact h.execDbgRegForceWrite
  | contextLoad => exact h.execContextLoad
  | contextLoadDone => exact h.execContextLoadDone
  | contextUnload => exact h.execContextUnload
  | contextUnloadDone => exact h.execContextUnloadDone
  | craccRead => exact h.execCraccRead
  | craccWrite => exact h.execCraccWrite
  | stallCounterClear => exact h.execStallCounterClear
  | barRegisterWrite => exact h.execBarRegisterWrite
  | mcBoot => exact h.execMcBoot
  | pldmMonitoring => exact h.reply.next
  | pldmFirmwareUpdate => exact h.execPldmFirmwareUpdate
  | recoveryImageLoad => exact h.execRecoveryImageLoad
  | getVersion => exact h.reply.next
  | getCapabilities => exact h.reply.next
  | negotiateAlgorithms => exact h.execNegotiateAlgorithms
  | getDigests => exact h.reply.next
  | getCertificate => exact h.execGetCertificate
  | challenge => exact h.execChallenge
  | getMeasurements => exact h.execGetMeasurements
  | mcSetPartitionConfig => exact h.execMcSetPartitionConfig
  | mcSetDomainKey => exact h.execMcSetDomainKey
  | mcSetPackageId => exact h.frame.reply.next
  | mcSetEsnodes => exact h.execMcSetEsnodes
  | mcDeviceReset => exact h.beginDeviceReset.next
  | mcCrAccess => exact h.execMcCrAccess
  | illegalInstruction => exact h.execIllegalInstruction
  | cycleWithNoEligibleGroup => exact h.execCycleWithNoEligibleGroup
  | participatingPackageUnreachable => exact h.execParticipatingPackageUnreachable
  | hostRequestToDeviceMemory => exact h.execHostRequestToDeviceMemory
  | configurationWrite => exact h.execConfigurationWrite
  | devicePowerOn => exact .execDevicePowerOn F

/-- A step that answers a next state keeps the forms. -/
theorem State.InForm.step {t} (h : s.InForm F) (he : Machine.step s = .next t) : t.InForm F :=
  (h.advance fun _ _ ht => State.InForm.exec ht).of_eq he

end Machine

/-- Settles O60: each form is one that every operation of the model keeps, from the writes of memory and of the
table of groups up to `exec` and `State.advance`. -/
theorem stepKeepsForms : Obligations.StepKeepsForms :=
  ⟨fun _ _ h he => Machine.State.InForm.step (F := .memory) h he, fun _ _ h he => Machine.State.InForm.step (F := .groups) h he⟩

end Sys2Proof
end

section
/-! O50: the host's registers. An event that answers the state with one partition replaced does what a statement says of that
partition; what is left is the partition that `Part.barWrite` and the commands of BAR0 answer. -/

namespace Sys2Proof.Machine

/-! What the update of a partition changes. -/

@[simp] theorem State.part_setPart_same (s : State) (i : Nat) (x : Part) : (s.setPart i x).part i = x :=
  Tab.getD_set_same s.parts i x Part.reset

theorem State.onlyPart_setPart (s : State) (i : Nat) (x : Part) : OnlyPart s (s.setPart i x) i :=
  fun k hk => Tab.getD_set_other s.parts i k x Part.reset hk

theorem Same.refl (s : State) (c : Comp) : Same s s c := by
  cases c
  case poison => exact ⟨rfl, rfl⟩
  case time => exact ⟨rfl, rfl⟩
  case late => rfl
  case mc => rfl
  all_goals exact fun _ => rfl

theorem Keeps.refl (s : State) (may : List Comp) : Keeps s s may := fun c _ => Same.refl s c

theorem Keeps.setPart {s t : State} {may : List Comp} {i : Nat} {x : Part} (h : Keeps s t may)
    (hmay : .parts ∈ may := by decide) : Keeps s (t.setPart i x) may := by
  intro c hc
  have hsame := h c hc
  cases c
  case parts => exact absurd hmay hc
  all_goals exact hsame

theorem Keeps.setCore {s t : State} {may : List Comp} {i : Nat} {x : Core} (h : Keeps s t may)
    (hmay : .cores ∈ may := by decide) : Keeps s (t.setCore i x) may := by
  intro c hc
  have hsame := h c hc
  cases c
  case cores => exact absurd hmay hc
  all_goals exact hsame

theorem Keeps.tlbDrop {s t : State} {may : List Comp} {f : Tlb → Bool} (h : Keeps s t may)
    (hmay : .cores ∈ may ∧ .clusters ∈ may ∧ .dies ∈ may := by decide) : Keeps s (t.tlbDrop f) may := by
  obtain ⟨hcores, hclusters, hdies⟩ := hmay
  intro c hc
  have hsame := h c hc
  cases c
  case cores => exact absurd hcores hc
  case clusters => exact absurd hclusters hc
  case dies => exact absurd hdies hc
  all_goals exact hsame

/-- An event that answers the state as it is. -/
theorem Does.nothing {i : Instr} {s : State} (he : exec i s = .next s) : Does i s [] fun _ => True :=
  ⟨s, he, Keeps.refl s [], trivial⟩

/-- An event that answers the state with one partition replaced. -/
theorem Does.setPart {i : Instr} {s : State} {part : Nat} {x : Part} (he : exec i s = .next (s.setPart part x)) :
    Does i s [.parts] fun t => OnlyPart s t part ∧ t.part part = x :=
  ⟨_, he, (Keeps.refl s _).setPart, s.onlyPart_setPart part x, s.part_setPart_same part x⟩

/-- An event that replaces a partition by itself. -/
theorem Does.samePart {i : Instr} {s : State} {part : Nat} (he : exec i s = .next (s.setPart part (s.part part))) :
    Does i s [.parts] fun t => ∀ k, t.part k = s.part k := by
  refine ⟨_, he, (Keeps.refl s _).setPart, fun k => ?_⟩
  by_cases hk : k = part
  · subst hk
    exact s.part_setPart_same k _
  · exact s.onlyPart_setPart part _ k hk

/-! Bits of a register. -/

theorem bitsOf_eq_extractLsb' {w : Nat} (x : BitVec w) (lo n : Nat) : bitsOf x lo n = (x.extractLsb' lo n).toNat := by
  rw [bitsOf, BitVec.extractLsb'_toNat, Nat.shiftRight_eq_div_pow]

theorem bitsOf_eq_zero_iff {w : Nat} (x : BitVec w) (lo n : Nat) : bitsOf x lo n = 0 ↔ x.extractLsb' lo n = 0 := by
  rw [bitsOf_eq_extractLsb']
  exact BitVec.toNat_inj (y := 0#n)

/-! Writes of BAR0's plain registers. -/

/-- A mask of all bits writes the whole register. -/
theorem Part.wr_allOnes (p : Part) (off : Nat) (v : DWord) : p.wr off 0xFFFFFFFFFFFFFFFF#64 v = p.setReg off v := by
  have hmask : 0xFFFFFFFFFFFFFFFF#64 = BitVec.allOnes 64 := rfl
  rw [Part.wr, hmask, BitVec.not_allOnes, BitVec.and_zero, BitVec.zero_or, BitVec.and_allOnes]

variable {p : Part} {v : DWord}

theorem Part.barWrite_plain : ∀ x ∈ [(0x148, 0xFFFFFFFF), (0x350, 0xFFFFFFFFFFFFF000), (0x380, 0xFFFFFFFFFFFFFFFE), (0x388, 7),
    (0x390, -1), (0x3A8, (-1 : DWord))], p.barWrite x.1 v = some (p.wr x.1 x.2 v) := by
  simp [Part.barWrite, Part.wr_allOnes]

/-- The registers that a loaded context locks. -/
theorem Part.barWrite_context : ∀ x ∈ [(0x100, 0x00FFFFFFFFFE0000), (0x108, 0xFFFFFFFFFFFFFFC0),
    (0x110, (0xFFFFFFFFFFFFE000 : DWord))], p.barWrite x.1 v = some (if p.ctxState = 0 then p.wr x.1 x.2 v else p) := by
  simp [Part.barWrite]

theorem Part.barWrite_ignored : ∀ off ∈ [0x104, 0x120, 0x150, 0x308, 0x320, 0x348, 0x3B0, 0x400, 0x410],
    p.barWrite off v = some p := by
  simp [Part.barWrite]

/-- The registers of the blocks lie behind the last one with a branch of its own. -/
theorem block_ne {a k n off : Nat} (ha : 0x600 ≤ a) (hk : off ≤ 0x408) : a + k * n ≠ off := by omega

theorem Part.barWrite_block600 {n : Nat} (hn : n < 64) :
    p.barWrite (0x600 + 8 * n) v = some (p.wr (0x600 + 8 * n) 0x8000FFFF03FFFFFF v) := by
  have hin : 0x600 + 8 * n < 0x800 ∧ (0x600 + 8 * n) % 8 = 0 := by omega
  simp [Part.barWrite, hin, block_ne]

/-- BASE of a queue that is not enabled. -/
theorem Part.barWrite_queueBase {q : Nat} (hq : q < 64) (hoff : p.enabled q = false) (hv : v.getLsbD 0 = false) :
    p.barWrite (0x1000 + 16 * q) v = some (p.wr (0x1000 + 16 * q) 0xFFFFFFFFFFFFFFC0 v) := by
  have hin : ¬ 0x1000 + 16 * q < 0x800 ∧ ¬ 0x1000 + 16 * q < 0xC00 ∧ 0x1000 + 16 * q < 0x1400 ∧ (0x1000 + 16 * q) % 16 = 0 ∧
      (0x1000 + 16 * q - 0x1000) / 16 = q := by omega
  rw [BitVec.getLsbD_eq_getElem (by decide)] at hv
  simp [Part.barWrite, hin, block_ne, hoff, hv]

/-! The base of the fault ring. -/

theorem Part.fqOn_iff : p.fqOn = true ↔ (p.reg 0x300).extractLsb' 12 52 ≠ 0 ∨ (p.reg 0x300).extractLsb' 1 4 ≠ 0 := by
  simp [Part.fqOn, bitsOf_eq_zero_iff]

theorem Part.fqRead_eq_fqWrite_iff : p.fqRead = p.fqWrite ↔ p.reg 0x308 = p.reg 0x310 := by
  rw [Part.fqRead, Part.fqWrite, BitVec.toNat_inj, eq_comm]

theorem Part.barWrite_faultBase :
    p.barWrite 0x300 v = some (if p.reg 0x308 = p.reg 0x310 then (p.wr 0x300 0xFFFFFFFFFFFFF01F v).fqSet p else p) := by
  simp [Part.barWrite, Part.fqRead_eq_fqWrite_iff]

/-- A ring stays configured, or none is. -/
theorem Part.fqSet_eq_self {q : Part} (h : p.fqOn = true ∨ q.fqOn = false) : q.fqSet p = q := by
  rcases h with h | h <;> simp [Part.fqSet, h]

/-- A ring is configured where there was none. -/
theorem Part.fqSet_of_new {q : Part} (hp : p.fqOn = false) (hq : q.fqOn = true) :
    q.fqSet p = { q with frecs := [], resumable := q.resumable.filter fun i => !q.frecs.any fun r => r.id == i } := by
  simp [Part.fqSet, hp, hq]

@[simp] theorem Part.reg_wr_same (p : Part) (off : Nat) (mask v : DWord) :
    (p.wr off mask v).reg off = (p.reg off &&& ~~~mask) ||| (v &&& mask) :=
  Store.get_set_same p.bar off _

theorem Part.fqOn_wr_iff (p : Part) (mask v : DWord) : (p.wr 0x300 mask v).fqOn = true ↔
    ((p.reg 0x300 &&& ~~~mask) ||| (v &&& mask)).extractLsb' 12 52 ≠ 0 ∨
      ((p.reg 0x300 &&& ~~~mask) ||| (v &&& mask)).extractLsb' 1 4 ≠ 0 := by
  rw [Part.fqOn_iff, Part.reg_wr_same]

/-! BAR_REGISTER_WRITE. -/

variable {s : State} {part off : Nat}

theorem exec_barRegisterWrite {q : Part} (ho : s.hostOpen part = true) (hw : (s.part part).barWrite off v = some q) :
    exec (.barRegisterWrite part off v) s = .next (s.setPart part q) := by
  change execBarRegisterWrite part off v s = _
  simp [execBarRegisterWrite, ho, hw]

theorem Does.barWrite {q : Part} (ho : s.hostOpen part = true) (hw : (s.part part).barWrite off v = some q) :
    Does (.barRegisterWrite part off v) s [.parts] fun t => OnlyPart s t part ∧ t.part part = q :=
  Does.setPart (exec_barRegisterWrite ho hw)

theorem Does.barIgnored (ho : s.hostOpen part = true) (hw : (s.part part).barWrite off v = some (s.part part)) :
    Does (.barRegisterWrite part off v) s [.parts] fun t => ∀ i, t.part i = s.part i :=
  Does.samePart (exec_barRegisterWrite ho hw)

/-! Reads of BAR0. -/

theorem State.barRead_unaligned (s : State) (part : Nat) (h : off % 8 ≠ 0) : s.barRead part off = 0 := if_pos h

theorem State.barRead_fqStat (s : State) (part : Nat) : s.barRead part 0x320 = s.fqStat part := by simp [State.barRead]

theorem State.barRead_plain (s : State) (part : Nat) (h8 : off % 8 = 0) (h320 : off ≠ 0x320) (h410 : off ≠ 0x410)
    (hlow : off < 0x4000) : s.barRead part off = (s.part part).reg off := by
  simp [State.barRead, h8, h320, h410, Nat.not_le.mpr hlow]

/-- Two flags in bits 1 and 0. -/
theorem getLsbD_two_flags (a b : Bool) :
    ((if a then 2 else 0) + (if b then 1 else 0) : DWord).getLsbD 1 = a ∧
      ((if a then 2 else 0) + (if b then 1 else 0) : DWord).getLsbD 0 = b := by
  cases a <;> cases b <;> decide

theorem State.fqStat_faulted (s : State) (part : Nat) : (s.fqStat part).getLsbD 1 = (s.part part).faulted :=
  (getLsbD_two_flags _ _).1

theorem State.fqStat_waits (s : State) (part : Nat) : (s.fqStat part).getLsbD 0 = true ↔
    (s.part part).frecs ≠ [] ∧ (s.part part).fqOn = true ∧ (s.fqPlace part).isNone = true := by
  rw [State.fqStat, (getLsbD_two_flags _ _).2]
  simp [and_assoc]

/-- A configured ring has no place for a record: it is full, its host is lost, or it lies beyond the share. -/
theorem State.fqPlace_isNone_iff (s : State) (part : Nat) (hon : (s.part part).fqOn = true) :
    (s.fqPlace part).isNone = true ↔ 2 ^ (s.part part).fqLog ≤ (s.part part).fqWrite - (s.part part).fqRead ∨
      (((s.part part).reg 0x300).getLsbD 0 = true ∧ s.hostLost = true) ∨
      (((s.part part).reg 0x300).getLsbD 0 = false ∧ (s.part part).hbmSize <
        bitsOf ((s.part part).reg 0x300) 12 52 * 4096 + 64 * ((s.part part).fqWrite % 2 ^ (s.part part).fqLog) + 64) := by
  have hset : ¬ (bitsOf ((s.part part).reg 0x300) 12 52 = 0 ∧ bitsOf ((s.part part).reg 0x300) 1 4 = 0) := by
    rw [Part.fqOn, Bool.or_eq_true, bne_iff_ne, bne_iff_ne] at hon
    exact fun h => hon.elim (fun hb => hb h.1) fun hl => hl h.2
  unfold State.fqPlace
  dsimp only
  rw [if_neg hset]
  by_cases hfull : 2 ^ (s.part part).fqLog ≤ (s.part part).fqWrite - (s.part part).fqRead
  · simp [hfull]
  · rw [if_neg hfull]
    cases ((s.part part).reg 0x300).getLsbD 0
    · by_cases hfits : bitsOf ((s.part part).reg 0x300) 12 52 * 4096 +
          64 * ((s.part part).fqWrite % 2 ^ (s.part part).fqLog) + 64 ≤ (s.part part).hbmSize
      · simp [hfull, hfits]
      · simp [hfull, hfits, Nat.lt_of_not_le hfits]
    · cases s.hostLost <;> simp [hfull]

/-! Memory-enable and TLBINV. -/

theorem exec_configurationWrite {on : Bool} (hlost : s.hostLost = false) (hreset : s.devResetting = false)
    (hrec : s.mc.recovery = false) (hpart : part < 48) : exec (.configurationWrite part on) s =
      .next (if (s.part part).clusters = [] then s else s.modPart part fun p => { p with memEnable := on }) := by
  change execConfigurationWrite part on s = _
  by_cases hnone : (s.part part).clusters = []
  · simp [execConfigurationWrite, hlost, hreset, hrec, Nat.not_le.mpr hpart, Part.count, hnone]
  · simp [execConfigurationWrite, hlost, hreset, hrec, Nat.not_le.mpr hpart, Part.count, hnone]

theorem exec_tlbinvGo (ho : s.hostOpen part = true) (hv : v.getLsbD 0 = true) : exec (.tlbinvGo part v) s =
    .next (if (s.part part).tlbBusy then s
      else s.modPart part fun p => (p.setReg 0x200 (v &&& 0x00FFFFFFFFFFF006)).setReg 0x208 1) := by
  change execTlbinvGo part v s = _
  cases hbusy : (s.part part).tlbBusy
  · simp only [execTlbinvGo, ho, hv, hbusy]; rfl
  · simp only [execTlbinvGo, ho, hv, hbusy]; rfl

/-! TLBINV_COMPLETE. -/

/-- The bytes of a page of the kind that TLBINV names (03 R78). -/
def tlbSize (v : DWord) : Nat := match (v.extractLsb' 1 2).toNat with | 0 => 2 ^ 12 | 1 => 2 ^ 21 | _ => 2 ^ 29

/-- A page lies outside what TLBINV names: it has no bytes, or the range is not the whole space and ends before the page or begins
after it (03 R78). -/
def tlbApart (v : DWord) (base n : Nat) : Prop :=
  let first := (v.extractLsb' 12 44).toNat * 4096 / tlbSize v * tlbSize v
  n = 0 ∨ (v.extractLsb' 1 2 ≠ 3 ∧ (base % 2 ^ 56 + n ≤ first ∨ first + tlbSize v ≤ base % 2 ^ 56))

theorem tlbSize_lt (v : DWord) : tlbSize v < 2 ^ 64 := by
  unfold tlbSize
  split <;> decide

theorem tlbRange_eq (v : DWord) : tlbRange v = if v.extractLsb' 1 2 = 3 then (0, 2 ^ 64)
    else ((v.extractLsb' 12 44).toNat * 4096 / tlbSize v * tlbSize v, tlbSize v) := by
  have hcode : (v.extractLsb' 1 2).toNat = 3 ↔ v.extractLsb' 1 2 = 3 := BitVec.toNat_inj (y := 3#2)
  simp only [tlbRange, bitsOf_eq_extractLsb', hcode]
  rfl

theorem not_pageMeets_whole (pg : Nat × Nat) : pageMeets (0, 2 ^ 64) pg = false ↔ pg.2 = 0 := by simp [pageMeets]

theorem not_pageMeets_iff_of_lt {r : Nat × Nat} (pg : Nat × Nat) (hr : r.2 < 2 ^ 64) :
    pageMeets r pg = false ↔ pg.2 = 0 ∨ pg.1 % 2 ^ 56 + pg.2 ≤ r.1 ∨ r.1 + r.2 ≤ pg.1 % 2 ^ 56 := by
  have hwhole : (r.2 == 2 ^ 64) = false := by simpa using Nat.ne_of_lt hr
  rw [pageMeets, va56, hwhole, Bool.false_or, Bool.and_eq_false_iff, Bool.and_eq_false_iff, bne_eq_false_iff_eq,
    decide_eq_false_iff_not, decide_eq_false_iff_not, Nat.not_lt, Nat.not_lt]
  exact or_congr_right or_comm

theorem not_pageMeets_iff (v : DWord) (pg : Nat × Nat) : pageMeets (tlbRange v) pg = false ↔ tlbApart v pg.1 pg.2 := by
  rw [tlbRange_eq, tlbApart]
  by_cases hall : v.extractLsb' 1 2 = 3
  · rw [if_pos hall, not_pageMeets_whole]
    simp [hall]
  · rw [if_neg hall, not_pageMeets_iff_of_lt pg (tlbSize_lt v)]
    simp only [ne_eq, hall, not_false_eq_true, true_and]

/-- The translations that stay: those of other partitions and of pages outside the range. -/
theorem filter_not_meets (part : Nat) (v : DWord) (l : List Tlb)
    {dec : DecidablePred fun e : Tlb => e.part ≠ part ∨ tlbApart v e.base e.size} :
    (l.filter fun e => !(e.part == part && e.meets (tlbRange v))) =
      l.filter fun e => @decide (e.part ≠ part ∨ tlbApart v e.base e.size) (dec e) := by
  refine List.filter_congr fun e _ => ?_
  rw [Bool.eq_iff_iff, decide_eq_true_iff, Bool.not_eq_true', Bool.and_eq_false_iff, beq_eq_false_iff_ne, Tlb.meets,
    not_pageMeets_iff]

theorem State.core_tlbDrop (s : State) (f : Tlb → Bool) (c : Nat) :
    (s.tlbDrop f).core c = { s.core c with tlb := (s.core c).tlb.filter fun t => !f t } := by
  simp only [State.core, State.tlbDrop, Tab.getD, Tab.get?_mapVal]
  cases s.cores.get? c <;> rfl

theorem State.cluster_tlbDrop (s : State) (f : Tlb → Bool) (c : Nat) :
    (s.tlbDrop f).cluster c = { s.cluster c with tlb := (s.cluster c).tlb.filter fun t => !f t } := by
  simp only [State.cluster, State.tlbDrop, Tab.getD, Tab.get?_mapVal]
  cases s.clusters.get? c <;> rfl

theorem State.die_tlbDrop (s : State) (f : Tlb → Bool) (c : Nat) :
    (s.tlbDrop f).die c = { s.die c with tlb := (s.die c).tlb.filter fun t => !f t } := by
  simp only [State.die, State.tlbDrop, Tab.getD, Tab.get?_mapVal]
  cases s.dies.get? c <;> rfl

theorem Idle.tlbinvComplete (h : ∃ a ∈ s.accs, a.2.part = part ∧ ¬ tlbApart ((s.part part).reg 0x200) a.2.page.1 a.2.page.2) :
    Idle (.tlbinvComplete part) s "TLBINV_COMPLETE" := by
  obtain ⟨a, ha, hpart, hmeets⟩ := h
  rw [← not_pageMeets_iff, Bool.not_eq_false] at hmeets
  have hany : s.accs.any (fun a => a.2.part == part && pageMeets (tlbRange ((s.part part).reg 0x200)) a.2.page) = true :=
    List.any_eq_true.mpr ⟨a, ha, by simp [hpart, hmeets]⟩
  change execTlbinvComplete part s = _
  simp [execTlbinvComplete, hany]

theorem exec_tlbinvComplete (hbusy : (s.part part).tlbBusy = true)
    (haccs : ∀ a ∈ s.accs, a.2.part = part → tlbApart ((s.part part).reg 0x200) a.2.page.1 a.2.page.2)
    (hops : ∀ o ∈ s.ops, o.2.part = part → ∀ sub d args st x, o.2.kind ≠ .snap sub d args st x) :
    exec (.tlbinvComplete part) s = .next ((s.tlbDrop fun t => t.part == part &&
      t.meets (tlbRange ((s.part part).reg 0x200))).modPart part fun p => p.setReg 0x208 0) := by
  have ha : s.accs.any (fun a => a.2.part == part && pageMeets (tlbRange ((s.part part).reg 0x200)) a.2.page) = false := by
    simp only [List.any_eq_false, Bool.and_eq_true, beq_iff_eq, not_and, Bool.not_eq_true]
    exact fun a ha hp => (not_pageMeets_iff _ _).mpr (haccs a ha hp)
  have ho : s.ops.any (fun o => o.2.part == part && o.2.usedBy (tlbRange ((s.part part).reg 0x200))) = false := by
    simp only [List.any_eq_false, Bool.and_eq_true, beq_iff_eq, not_and, Bool.not_eq_true]
    intro o ho hp
    unfold Op.usedBy
    split
    · next hk => exact absurd hk (hops o ho hp _ _ _ _ _)
    · rfl
  change execTlbinvComplete part s = _
  simp [execTlbinvComplete, hbusy, ha, ho]

/-! The window to control registers. -/

/-- The status of an access, as CRACC_STATUS shows it. -/
theorem State.ofNat_craccStatus (s : State) (part core n : Nat) (write : Bool) : BitVec.ofNat 64 (s.craccStatus part core n write) =
    if crListed n = false ∨ crOfGroup n = true then 1 else if crOfCore n = true ∧ core ∉ (s.part part).coreList then 2
    else if write = true ∧ crClass n = 1 then 3 else 0 := by
  have hcore : (crOfCore n && !(s.part part).coreList.contains core) = true ↔
      crOfCore n = true ∧ core ∉ (s.part part).coreList := by simp
  simp only [State.craccStatus, hcore, Bool.or_eq_true, Bool.not_eq_true', Bool.and_eq_true, beq_iff_eq, apply_ite (BitVec.ofNat 64)]
  rfl

theorem State.craccStatus_eq_zero_iff (s : State) (part core n : Nat) (write : Bool) :
    s.craccStatus part core n write = 0 ↔ BitVec.ofNat 64 (s.craccStatus part core n write) = 0 := by
  unfold State.craccStatus
  split_ifs <;> decide

/-- The number of a register and the core that a value of CRACC names. -/
def craccReg (v : DWord) : Nat := (v.extractLsb' 0 12).toNat
def craccCore (v : DWord) : Nat := (v.extractLsb' 48 10).toNat

theorem exec_craccRead (ho : s.hostOpen part = true) (hgo : v.getLsbD 63 = true) (hread : v.getLsbD 62 = false) :
    exec (.craccRead part v) s = .next ((if s.craccStatus part (craccCore v) (craccReg v) false = 0
      then s.modPart part fun p => p.setReg 0x148 ((s.crShared part (craccCore v) (craccReg v)).setWidth 64)
      else s).craccEnd part v (s.craccStatus part (craccCore v) (craccReg v) false)) := by
  change execCraccRead part v s = _
  simp only [execCraccRead, ho, hgo, hread, bitsOf_eq_extractLsb']
  rfl

theorem exec_craccWrite (ho : s.hostOpen part = true) (hgo : v.getLsbD 63 = true) (hwrite : v.getLsbD 62 = true) :
    exec (.craccWrite part v) s = .next ((if s.craccStatus part (craccCore v) (craccReg v) true = 0
      then s.crWriteShared part (craccCore v) (craccReg v) (lo32 ((s.part part).reg 0x148))
      else s).craccEnd part v (s.craccStatus part (craccCore v) (craccReg v) true)) := by
  change execCraccWrite part v s = _
  simp only [execCraccWrite, ho, hgo, hwrite, bitsOf_eq_extractLsb']
  rfl

/-- The partition at the end of an access through CRACC. -/
def Part.craccEnded (p : Part) (v status : DWord) : Part := (p.setReg 0x140 (v &&& 0x43FF000000000FFF)).setReg 0x150 status

/-- An access that ends in one partition. -/
theorem Does.craccEnd {i : Instr} {x : Part} {status : Nat} (he : exec i s = .next ((s.setPart part x).craccEnd part v status)) :
    Does i s [.parts] fun t => OnlyPart s t part ∧ t.part part = x.craccEnded v (BitVec.ofNat 64 status) := by
  refine ⟨_, he, (Keeps.refl s _).setPart.setPart, fun k hk => ?_, ?_⟩
  · exact ((s.setPart part x).onlyPart_setPart part _ k hk).trans (s.onlyPart_setPart part x k hk)
  · rw [State.craccEnd, State.modPart, State.part_setPart_same, State.part_setPart_same]
    rfl

/-- An access that only says why it was not made. -/
theorem Does.craccRefused {i : Instr} {status : Nat} (he : exec i s = .next (s.craccEnd part v status)) :
    Does i s [.parts] fun t => OnlyPart s t part ∧ t.part part = (s.part part).craccEnded v (BitVec.ofNat 64 status) :=
  Does.setPart he

/-! The clauses. -/

/-- The base of an empty fault ring. -/
theorem Does.faultBase (ho : s.hostOpen part = true) (hempty : (s.part part).reg 0x308 = (s.part part).reg 0x310) :
    Does (.barRegisterWrite part 0x300 v) s [.parts] fun t => OnlyPart s t part ∧
      t.part part = ((s.part part).wr 0x300 0xFFFFFFFFFFFFF01F v).fqSet (s.part part) :=
  Does.barWrite ho (by rw [Part.barWrite_faultBase, if_pos hempty])

theorem Does.configurationWrite {on : Bool} (hlost : s.hostLost = false) (hreset : s.devResetting = false)
    (hrec : s.mc.recovery = false) (hpart : part < 48) :
    ((s.part part).clusters = [] → Does (.configurationWrite part on) s [] fun _ => True) ∧
    ((s.part part).clusters ≠ [] → Does (.configurationWrite part on) s [.parts] fun t => OnlyPart s t part ∧
      t.part part = { s.part part with memEnable := on }) := by
  have he := exec_configurationWrite (on := on) hlost hreset hrec hpart
  constructor
  · intro hnone
    rw [if_pos hnone] at he
    exact Does.nothing he
  · intro hsome
    rw [if_neg hsome] at he
    exact Does.setPart he

theorem Does.tlbinvGo (ho : s.hostOpen part = true) (hv : v.getLsbD 0 = true) :
    ((s.part part).tlbBusy = true → Does (.tlbinvGo part v) s [] fun _ => True) ∧
    ((s.part part).tlbBusy = false → Does (.tlbinvGo part v) s [.parts] fun t => OnlyPart s t part ∧
      t.part part = ((s.part part).setReg 0x200 (v &&& 0x00FFFFFFFFFFF006)).setReg 0x208 1) := by
  have he := exec_tlbinvGo ho hv
  constructor
  · intro hbusy
    rw [if_pos hbusy] at he
    exact Does.nothing he
  · intro hbusy
    rw [if_neg (Bool.not_eq_true _ ▸ hbusy)] at he
    exact Does.setPart he

theorem Does.craccRead (ho : s.hostOpen part = true) (hgo : v.getLsbD 63 = true) (hread : v.getLsbD 62 = false) :
    let status := BitVec.ofNat 64 (s.craccStatus part (craccCore v) (craccReg v) false)
    (status ≠ 0 → Does (.craccRead part v) s [.parts] fun t => OnlyPart s t part ∧
      t.part part = (s.part part).craccEnded v status) ∧
    (status = 0 → Does (.craccRead part v) s [.parts] fun t => OnlyPart s t part ∧ t.part part =
      ((s.part part).setReg 0x148 ((s.crShared part (craccCore v) (craccReg v)).setWidth 64)).craccEnded v 0) := by
  have he := exec_craccRead ho hgo hread
  constructor
  · intro hbad
    rw [if_neg (mt (s.craccStatus_eq_zero_iff part _ _ _).mp hbad)] at he
    exact Does.craccRefused he
  · intro hgood
    rw [if_pos ((s.craccStatus_eq_zero_iff part _ _ _).mpr hgood)] at he
    exact hgood ▸ Does.craccEnd he

theorem Does.craccWrite (ho : s.hostOpen part = true) (hgo : v.getLsbD 63 = true) (hwrite : v.getLsbD 62 = true) :
    let n := craccReg v
    let core := craccCore v
    let c := s.core core
    let status := BitVec.ofNat 64 (s.craccStatus part core n true)
    let x := lo32 ((s.part part).reg 0x148)
    (status ≠ 0 → Does (.craccWrite part v) s [.parts] fun t => OnlyPart s t part ∧
      t.part part = (s.part part).craccEnded v status) ∧
    (status = 0 → crOfCore n = false → Does (.craccWrite part v) s [.parts] fun t => OnlyPart s t part ∧
      t.part part = ((s.part part).setCr n (crNext n ((s.part part).cr n) x)).craccEnded v 0) ∧
    (status = 0 → crOfCore n = true → Does (.craccWrite part v) s [.parts, .cores] fun t => OnlyPart s t part ∧
      OnlyCore s t core ∧ t.part part = (s.part part).craccEnded v 0 ∧
      t.core core = { c with bks := c.bks.set n (crNext n (c.bks.get n) x) }) := by
  intro n core c status x
  have he := exec_craccWrite ho hgo hwrite
  refine ⟨fun hbad => ?_, fun hgood hpart => ?_, fun hgood hcore => ?_⟩
  · rw [if_neg (mt (s.craccStatus_eq_zero_iff part _ _ _).mp hbad)] at he
    exact Does.craccRefused he
  · rw [if_pos ((s.craccStatus_eq_zero_iff part _ _ _).mpr hgood), State.crWriteShared, if_neg (Bool.eq_false_iff.mp hpart)] at he
    exact hgood ▸ Does.craccEnd he
  · rw [if_pos ((s.craccStatus_eq_zero_iff part _ _ _).mpr hgood), State.crWriteShared, if_pos hcore] at he
    refine ⟨_, he, (Keeps.refl s _).setCore.setPart, State.onlyPart_setPart _ part _, ?_, ?_, ?_⟩
    · exact fun k hk => Tab.getD_set_other s.cores _ k _ Core.reset hk
    · rw [State.craccEnd, State.modPart, State.part_setPart_same]
      exact congrArg ((s.part part).craccEnded v) hgood
    · exact Tab.getD_set_same s.cores _ _ Core.reset

end Sys2Proof.Machine

namespace Sys2Proof
open Machine

/-- Settles O50: each event is enabled by its hypotheses and answers the state with one partition replaced; the partition is the one that
`Part.barWrite`, TLBINV or CRACC makes. -/
theorem hostRegisters : Obligations.HostRegisters := by
  refine ⟨fun s part v ho => ?_, fun s part off => ?_, fun s part on hlost hreset hrec hpart => ?_, fun s part v ho hv => ?_,
    fun s part => ?_, fun s part v ho hgo => ?_⟩
  · refine ⟨?_, ?_, ?_, ?_, ?_, ?_, ?_⟩
    · exact fun x hx => Does.barWrite ho (Part.barWrite_plain x hx)
    · intro x hx
      have hw := Part.barWrite_context (p := s.part part) (v := v) x hx
      constructor
      · intro hfree
        rw [if_pos hfree] at hw
        exact Does.barWrite ho hw
      · intro hloaded
        rw [if_neg hloaded] at hw
        exact Does.barIgnored ho hw
    · exact fun n hn => Does.barWrite ho (Part.barWrite_block600 hn)
    · exact fun q hq hoff hv => Does.barWrite ho (Part.barWrite_queueBase hq hoff hv)
    · exact fun off hoff => Does.barIgnored ho (Part.barWrite_ignored off hoff)
    · exact fun hfull => Does.barIgnored ho (by rw [Part.barWrite_faultBase, if_neg hfull])
    · intro hempty
      have hdoes := Does.faultBase (v := v) ho hempty
      have hnew := (s.part part).fqOn_wr_iff 0xFFFFFFFFFFFFF01F v
      constructor
      · intro hstays
        rw [Part.fqSet_eq_self (hstays.imp Part.fqOn_iff.mpr fun hnone => Bool.eq_false_iff.mpr (hnone ∘ hnew.mp))] at hdoes
        exact hdoes
      · intro hoff hon
        rw [Part.fqSet_of_new (Bool.eq_false_iff.mpr (hoff ∘ Part.fqOn_iff.mp)) (hnew.mpr hon)] at hdoes
        exact hdoes
  · refine ⟨s.barRead_unaligned part, ?_, ?_, s.barRead_plain part⟩
    · rw [s.barRead_fqStat]
      exact s.fqStat_faulted part
    · have hplace := s.fqPlace_isNone_iff part
      simp only [Part.fqLog, bitsOf_eq_extractLsb'] at hplace
      rw [s.barRead_fqStat, s.fqStat_waits]
      constructor
      · rintro ⟨hrecs, hon, hnone⟩
        exact ⟨hrecs, Part.fqOn_iff.mp hon, (hplace hon).mp hnone⟩
      · rintro ⟨hrecs, hon, hfull⟩
        have hon := Part.fqOn_iff.mpr hon
        exact ⟨hrecs, hon, (hplace hon).mpr hfull⟩
  · exact Does.configurationWrite hlost hreset hrec hpart
  · exact Does.tlbinvGo ho hv
  · intro p v size first apart kept hbusy
    refine ⟨Idle.tlbinvComplete, fun haccs hops => ?_⟩
    refine ⟨_, exec_tlbinvComplete hbusy haccs hops, (Keeps.refl s _).tlbDrop.setPart, State.onlyPart_setPart _ part _,
      State.part_setPart_same _ part _, fun c => ⟨?_, ?_, ?_⟩⟩
    · exact (s.core_tlbDrop _ c).trans (congrArg (fun l => { s.core c with tlb := l }) (filter_not_meets part v _))
    · exact (s.cluster_tlbDrop _ c).trans (congrArg (fun l => { s.cluster c with tlb := l }) (filter_not_meets part v _))
    · exact (s.die_tlbDrop _ c).trans (congrArg (fun l => { s.die c with tlb := l }) (filter_not_meets part v _))
  · intro p n core write bad ended
    have hbad : BitVec.ofNat 64 (s.craccStatus part core n write) = bad := s.ofNat_craccStatus part core n write
    refine ⟨fun hread => ?_, fun hwrite => ?_⟩
    · rw [← hbad, hread]
      exact Does.craccRead ho hgo hread
    · rw [← hbad, hwrite]
      exact Does.craccWrite ho hgo hwrite

end Sys2Proof
end

section
/-! O57: the encoding. A word is the list of its fields, lowest first: one lemma for each placement of operands says which fields it
makes. What an instruction's word holds then decides every row of the decoder, and a row that matches reads the fields that
the encoder places. -/

namespace Sys2Proof

/-! Words as lists of fields. -/

/-- The bits of a word from bit lo on, given as pairs of a length and a value, lowest first; no bit above them is set. -/
def HasFields (w : Nat) : Nat → List (Nat × Nat) → Prop
  | lo, [] => w < 2 ^ lo
  | lo, (n, v) :: r => fld w lo n = v ∧ HasFields w (lo + n) r

/-- The number that such pairs make. -/
def joinFields : List (Nat × Nat) → Nat
  | [] => 0
  | (n, v) :: r => v + 2 ^ n * joinFields r

/-- The fields of given lengths that a number holds from bit lo on. -/
def cutFields (v : Nat) : Nat → List Nat → List (Nat × Nat)
  | _, [] => []
  | lo, n :: r => (n, fld v lo n) :: cutFields v (lo + n) r

/-- An operand as a field. -/
def operand {n : Nat} (x : BitVec n) : Nat × Nat := (n, x.toNat)

/-- A flag as a field of one bit. -/
def flagField (b : Bool) : Nat × Nat := (1, b.toNat)

section
variable {w v lo n : Nat} {l r : List (Nat × Nat)} {x : BitVec n} {b : Bool}

@[simp] theorem hasFields_nil : HasFields w lo [] ↔ w < 2 ^ lo := .rfl
@[simp] theorem hasFields_cons : HasFields w lo ((n, v) :: r) ↔ fld w lo n = v ∧ HasFields w (lo + n) r := .rfl
@[simp] theorem hasFields_operand_cons : HasFields w lo (operand x :: r) ↔ fld w lo n = x.toNat ∧ HasFields w (lo + n) r := .rfl
@[simp] theorem hasFields_flagField_cons : HasFields w lo (flagField b :: r) ↔ fld w lo 1 = b.toNat ∧ HasFields w (lo + 1) r := .rfl
@[simp] theorem joinFields_nil : joinFields [] = 0 := rfl
@[simp] theorem joinFields_cons : joinFields ((n, v) :: r) = v + 2 ^ n * joinFields r := rfl
@[simp] theorem joinFields_operand_cons : joinFields (operand x :: r) = x.toNat + 2 ^ n * joinFields r := rfl
@[simp] theorem joinFields_flagField_cons : joinFields (flagField b :: r) = b.toNat + 2 * joinFields r := rfl
@[simp] theorem cutFields_nil : cutFields v lo [] = [] := rfl
@[simp] theorem cutFields_cons {r : List Nat} : cutFields v lo (n :: r) = (n, fld v lo n) :: cutFields v (lo + n) r := rfl
@[simp] theorem operand_lt (x : BitVec n) : (operand x).2 < 2 ^ (operand x).1 := x.isLt
@[simp] theorem flagField_lt (b : Bool) : (flagField b).2 < 2 ^ (flagField b).1 := b.toNat_lt
@[simp] theorem put_eq (x : BitVec n) (lo : Nat) : put x lo = x.toNat * 2 ^ lo := rfl
@[simp] theorem flag_eq (b : Bool) (lo : Nat) : flag b lo = b.toNat * 2 ^ lo := by cases b <;> simp [flag]

theorem fld_lt (w lo n : Nat) : fld w lo n < 2 ^ n := Nat.mod_lt _ (Nat.two_pow_pos n)

/-- A field of a literal, which `simp` then computes. -/
@[simp] theorem fld_ofNat (k lo n : Nat) : fld (no_index (OfNat.ofNat k)) lo n = OfNat.ofNat k / 2 ^ lo % 2 ^ n := by rw [fld]

theorem fld_zero_one (w : Nat) : fld w 0 1 = w % 2 := by simp [fld]

theorem div_pow_eq_fld_add (w lo n : Nat) : w / 2 ^ lo = fld w lo n + 2 ^ n * (w / 2 ^ (lo + n)) := by
  rw [fld, Nat.pow_add, ← Nat.div_div_eq_div_mul]
  exact (Nat.mod_add_div _ _).symm

theorem fld_add (w lo m n : Nat) : fld w lo (m + n) = fld w lo m + 2 ^ m * fld w (lo + m) n := by
  rw [fld, Nat.pow_add, Nat.mod_mul, Nat.div_div_eq_div_mul, ← Nat.pow_add]
  rfl

theorem hasFields_iff_joinFields (hl : ∀ p ∈ l, p.2 < 2 ^ p.1) : HasFields w lo l ↔ w / 2 ^ lo = joinFields l := by
  induction l generalizing lo with
  | nil => simp [Nat.div_eq_zero_iff]
  | cons p r ih =>
    obtain ⟨n, v⟩ := p
    obtain ⟨hv, hr⟩ := List.forall_mem_cons.mp hl
    rw [hasFields_cons, joinFields_cons, ih hr]
    constructor
    · rintro ⟨rfl, hrest⟩
      rw [← hrest, ← div_pow_eq_fld_add]
    · intro h
      rw [fld, Nat.pow_add, ← Nat.div_div_eq_div_mul, h, Nat.add_mul_mod_self_left, Nat.mod_eq_of_lt hv,
        Nat.add_mul_div_left _ _ (Nat.two_pow_pos n), Nat.div_eq_of_lt hv, Nat.zero_add]
      exact ⟨rfl, rfl⟩

theorem joinFields_cutFields_append (v lo : Nat) (lens : List Nat) (l : List (Nat × Nat)) :
    joinFields (cutFields v lo lens ++ l) = fld v lo lens.sum + 2 ^ lens.sum * joinFields l := by
  induction lens generalizing lo with
  | nil => simp [fld, Nat.mod_one]
  | cons n r ih =>
    rw [cutFields_cons, List.cons_append, joinFields_cons, ih, List.sum_cons, fld_add, Nat.pow_add]
    ring

theorem lt_of_mem_cutFields {lens : List Nat} {p : Nat × Nat} (h : p ∈ cutFields v lo lens) : p.2 < 2 ^ p.1 := by
  induction lens generalizing lo with
  | nil => cases h
  | cons n r ih =>
    rcases List.mem_cons.mp h with rfl | h
    · exact fld_lt v lo n
    · exact ih h

/-- A word made of a number, cut into fields, and of further fields above it. -/
theorem eq_iff_hasFields {base : Nat} {lens : List Nat} (hb : base < 2 ^ lens.sum) (hl : ∀ p ∈ l, p.2 < 2 ^ p.1)
    (hv : v = base + 2 ^ lens.sum * joinFields l) : v = w ↔ HasFields w 0 (cutFields base 0 lens ++ l) := by
  have hbase : fld base 0 lens.sum = base := by rw [fld, Nat.pow_zero, Nat.div_one, Nat.mod_eq_of_lt hb]
  have hlt : ∀ p ∈ cutFields base 0 lens ++ l, p.2 < 2 ^ p.1 :=
    fun p hp => (List.mem_append.mp hp).elim lt_of_mem_cutFields (hl p)
  rw [hasFields_iff_joinFields hlt, joinFields_cutFields_append, hbase, ← hv, Nat.pow_zero, Nat.div_one]
  exact eq_comm

/-- A word without operands. -/
theorem eq_iff_hasFields_of_lt (v : Nat) (hv : v < 2 ^ 32) : v = w ↔ HasFields w 0 (cutFields v 0 [1, 6, 2, 4, 19]) := by
  rw [eq_iff_hasFields (lens := [1, 6, 2, 4, 19]) (l := []) hv (by simp) (by simp), List.append_nil]

end

section
/-! What each placement of operands makes: a word is the one placed when its fields are the operands, its fixed fields those of the
row's base, and the bits between them 0. -/

variable {base w : Nat}

@[simp] theorem packA5D5F1_eq_iff (hb : base < 2 ^ 5) (a d f) : packA5D5F1 base a d f = w ↔
    HasFields w 0 (cutFields base 0 [1, 4] ++ [flagField f, operand d, operand a]) :=
  eq_iff_hasFields hb (by simp) (by simp [packA5D5F1]; ring)

@[simp] theorem packE1B7F1A7D7_eq_iff (hb : base < 2 ^ 9) (e b f a d) : packE1B7F1A7D7 base e b f a d = w ↔
    HasFields w 0 (cutFields base 0 [1, 6, 2] ++ [operand d, operand a, flagField f, operand b, flagField e]) :=
  eq_iff_hasFields hb (by simp) (by simp [packE1B7F1A7D7]; ring)

@[simp] theorem packE1B7F1A7D4_eq_iff (hb : base < 2 ^ 9) (e b f a d) : packE1B7F1A7D4 base e b f a d = w ↔
    HasFields w 0 (cutFields base 0 [1, 6, 2] ++ [operand d, (3, 0), operand a, flagField f, operand b, flagField e]) :=
  eq_iff_hasFields hb (by simp) (by simp [packE1B7F1A7D4]; ring)

@[simp] theorem packF1A7D7_eq_iff (hb : base < 2 ^ 9) (f a d) : packF1A7D7 base f a d = w ↔
    HasFields w 0 (cutFields base 0 [1, 6, 2] ++ [operand d, operand a, flagField f, (8, 0)]) :=
  eq_iff_hasFields hb (by simp) (by simp [packF1A7D7]; ring)

@[simp] theorem packE1B7K3A7D7_eq_iff (hb : base < 2 ^ 7) (e b k a d) : packE1B7K3A7D7 base e b k a d = w ↔
    HasFields w 0 (cutFields base 0 [1, 6] ++ [(2, k.toNat % 4), operand d, operand a, (1, k.toNat / 4), operand b, flagField e]) :=
  eq_iff_hasFields hb (by simp; omega) (by simp [packE1B7K3A7D7]; ring)

@[simp] theorem packE1B6F1A7D7_eq_iff (hb : base < 2 ^ 9) (e b f a d) : packE1B6F1A7D7 base e b f a d = w ↔
    HasFields w 0 (cutFields base 0 [1, 6, 2] ++ [operand d, operand a, flagField f, operand b, (1, 0), flagField e]) :=
  eq_iff_hasFields hb (by simp) (by simp [packE1B6F1A7D7]; ring)

@[simp] theorem packE1B6F1A6D6_eq_iff (hb : base < 2 ^ 9) (e b f a d) : packE1B6F1A6D6 base e b f a d = w ↔
    HasFields w 0 (cutFields base 0 [1, 6, 2] ++ [(1, 0), operand d, (1, 0), operand a, flagField f, (1, 0), operand b, flagField e]) :=
  eq_iff_hasFields hb (by simp) (by simp [packE1B6F1A6D6]; ring)

@[simp] theorem packB7F1A7D7R2_eq_iff (hb : base < 2 ^ 7) (b f a d r) : packB7F1A7D7R2 base b f a d r = w ↔
    HasFields w 0 (cutFields base 0 [1, 6] ++ [operand r, operand d, operand a, flagField f, operand b, (1, 0)]) :=
  eq_iff_hasFields hb (by simp) (by simp [packB7F1A7D7R2]; ring)

@[simp] theorem packB6F1A5D7_eq_iff (hb : base < 2 ^ 7) (b f a d) : packB6F1A5D7 base b f a d = w ↔
    HasFields w 0 (cutFields base 0 [1, 6] ++ [(2, 0), operand d, (2, 0), operand a, flagField f, operand b, (2, 0)]) :=
  eq_iff_hasFields hb (by simp) (by simp [packB6F1A5D7]; ring)

@[simp] theorem packB6F1A7D5_eq_iff (hb : base < 2 ^ 9) (b f a d) : packB6F1A7D5 base b f a d = w ↔
    HasFields w 0 (cutFields base 0 [1, 6, 2] ++ [(2, 0), operand d, operand a, flagField f, operand b, (2, 0)]) :=
  eq_iff_hasFields hb (by simp) (by simp [packB6F1A7D5]; ring)

@[simp] theorem packB6F1A4D7_eq_iff (hb : base < 2 ^ 9) (b f a d) : packB6F1A4D7 base b f a d = w ↔
    HasFields w 0 (cutFields base 0 [1, 6, 2] ++ [operand d, (3, 0), operand a, flagField f, operand b, (2, 0)]) :=
  eq_iff_hasFields hb (by simp) (by simp [packB6F1A4D7]; ring)

@[simp] theorem packB6F1A7D4_eq_iff (hb : base < 2 ^ 9) (b f a d) : packB6F1A7D4 base b f a d = w ↔
    HasFields w 0 (cutFields base 0 [1, 6, 2] ++ [(3, 0), operand d, operand a, flagField f, operand b, (2, 0)]) :=
  eq_iff_hasFields hb (by simp) (by simp [packB6F1A7D4]; ring)

@[simp] theorem packF1A7D4_eq_iff (hb : base < 2 ^ 7) (f a d) : packF1A7D4 base f a d = w ↔
    HasFields w 0 (cutFields base 0 [1, 6] ++ [(2, 0), operand d, (3, 0), operand a, flagField f, (8, 0)]) :=
  eq_iff_hasFields hb (by simp) (by simp [packF1A7D4]; ring)

@[simp] theorem packF1A7D6_eq_iff (hb : base < 2 ^ 9) (f a d) : packF1A7D6 base f a d = w ↔
    HasFields w 0 (cutFields base 0 [1, 6, 2] ++ [operand d, (1, 0), operand a, flagField f, (8, 0)]) :=
  eq_iff_hasFields hb (by simp) (by simp [packF1A7D6]; ring)

@[simp] theorem packE1B7F1A7D6_eq_iff (hb : base < 2 ^ 9) (e b f a d) : packE1B7F1A7D6 base e b f a d = w ↔
    HasFields w 0 (cutFields base 0 [1, 6, 2] ++ [operand d, (1, 0), operand a, flagField f, operand b, flagField e]) :=
  eq_iff_hasFields hb (by simp) (by simp [packE1B7F1A7D6]; ring)

@[simp] theorem packE1B6F1A7D6_eq_iff (hb : base < 2 ^ 7) (e b f a d) : packE1B6F1A7D6 base e b f a d = w ↔
    HasFields w 0 (cutFields base 0 [1, 6] ++ [(2, 0), operand d, (1, 0), operand a, flagField f, operand b, (1, 0), flagField e]) :=
  eq_iff_hasFields hb (by simp) (by simp [packE1B6F1A7D6]; ring)

@[simp] theorem packE1B6F1A6D7_eq_iff (hb : base < 2 ^ 9) (e b f a d) : packE1B6F1A6D7 base e b f a d = w ↔
    HasFields w 0 (cutFields base 0 [1, 6, 2] ++ [operand d, operand a, (1, 0), flagField f, operand b, (1, 0), flagField e]) :=
  eq_iff_hasFields hb (by simp) (by simp [packE1B6F1A6D7]; ring)

@[simp] theorem packE1B6D5_eq_iff (hb : base < 2 ^ 9) (e b d) : packE1B6D5 base e b d = w ↔
    HasFields w 0 (cutFields base 0 [1, 6, 2] ++ [(1, 0), operand d, (9, 0), operand b, (1, 0), flagField e]) :=
  eq_iff_hasFields hb (by simp) (by simp [packE1B6D5]; ring)

@[simp] theorem packE1B4F1A4D4_eq_iff (hb : base < 2 ^ 9) (e b f a d) : packE1B4F1A4D4 base e b f a d = w ↔
    HasFields w 0 (cutFields base 0 [1, 6, 2] ++ [operand d, (3, 0), operand a, (3, 0), flagField f, operand b, (3, 0), flagField e]) :=
  eq_iff_hasFields hb (by simp) (by simp [packE1B4F1A4D4]; ring)

@[simp] theorem packF1A4D5_eq_iff (hb : base < 2 ^ 7) (f a d) : packF1A4D5 base f a d = w ↔
    HasFields w 0 (cutFields base 0 [1, 6] ++ [(2, 0), (1, 0), operand d, (1, 0), operand a, (3, 0), flagField f, (8, 0)]) :=
  eq_iff_hasFields hb (by simp) (by simp [packF1A4D5]; ring)

@[simp] theorem packF1A5D4_eq_iff (hb : base < 2 ^ 9) (f a d) : packF1A5D4 base f a d = w ↔
    HasFields w 0 (cutFields base 0 [1, 6, 2] ++ [operand d, (4, 0), operand a, (1, 0), flagField f, (8, 0)]) :=
  eq_iff_hasFields hb (by simp) (by simp [packF1A5D4]; ring)

@[simp] theorem packF1A4D6_eq_iff (hb : base < 2 ^ 9) (f a d) : packF1A4D6 base f a d = w ↔
    HasFields w 0 (cutFields base 0 [1, 6, 2] ++ [operand d, (1, 0), operand a, (3, 0), flagField f, (8, 0)]) :=
  eq_iff_hasFields hb (by simp) (by simp [packF1A4D6]; ring)

@[simp] theorem packN10D7_eq_iff (hb : base < 2 ^ 7) (n d) : packN10D7 base n d = w ↔
    HasFields w 0 (cutFields base 0 [1, 6] ++ [operand d, operand n, (8, 0)]) :=
  eq_iff_hasFields hb (by simp) (by simp [packN10D7]; ring)

@[simp] theorem packN12S6_eq_iff (hb : base < 2 ^ 8) (n s) : packN12S6 base n s = w ↔
    HasFields w 0 (cutFields base 0 [1, 6, 1] ++ [operand s, operand n, (6, 0)]) :=
  eq_iff_hasFields hb (by simp) (by simp [packN12S6]; ring)

@[simp] theorem packI18D7_eq_iff (hb : base < 2 ^ 7) (i d) : packI18D7 base i d = w ↔
    HasFields w 0 (cutFields base 0 [1, 6] ++ [operand d, operand i]) :=
  eq_iff_hasFields hb (by simp) (by simp [packI18D7]; ring)

@[simp] theorem packI18D6_eq_iff (hb : base < 2 ^ 7) (i d) : packI18D6 base i d = w ↔
    HasFields w 0 (cutFields base 0 [1, 6] ++ [operand d, (1, 0), operand i]) :=
  eq_iff_hasFields hb (by simp) (by simp [packI18D6]; ring)

/-- MOVIH.S sets a bit above its field d. -/
@[simp] theorem packI18D6_high_eq_iff (i d) : packI18D6 0x2047 i d = w ↔
    HasFields w 0 (cutFields 0x47 0 [1, 6] ++ [operand d, (1, 1), operand i]) :=
  eq_iff_hasFields (by decide) (by simp) (by simp [packI18D6]; ring)

@[simp] theorem packE1B7F1A6D6_eq_iff (hb : base < 2 ^ 9) (e b f a d) : packE1B7F1A6D6 base e b f a d = w ↔
    HasFields w 0 (cutFields base 0 [1, 6, 2] ++ [operand d, (1, 0), operand a, (1, 0), flagField f, operand b, flagField e]) :=
  eq_iff_hasFields hb (by simp) (by simp [packE1B7F1A6D6]; ring)

@[simp] theorem packE1B7F1A5D5_eq_iff (hb : base < 2 ^ 9) (e b f a d) : packE1B7F1A5D5 base e b f a d = w ↔
    HasFields w 0 (cutFields base 0 [1, 6, 2] ++ [(1, 0), operand d, (2, 0), operand a, (1, 0), flagField f, operand b, flagField e]) :=
  eq_iff_hasFields hb (by simp) (by simp [packE1B7F1A5D5]; ring)

@[simp] theorem packO16_eq_iff (hb : base < 2 ^ 7) (o) : packO16 base o = w ↔
    HasFields w 0 (cutFields base 0 [1, 6] ++ [(2, 0), (7, 0), operand o]) :=
  eq_iff_hasFields hb (by simp) (by simp [packO16]; ring)

@[simp] theorem packO16A6_eq_iff (hb : base < 2 ^ 9) (o a) : packO16A6 base o a = w ↔
    HasFields w 0 (cutFields base 0 [1, 6, 2] ++ [operand a, (1, 0), operand o]) :=
  eq_iff_hasFields hb (by simp) (by simp [packO16A6]; ring)

@[simp] theorem packO16A4_eq_iff (hb : base < 2 ^ 9) (o a) : packO16A4 base o a = w ↔
    HasFields w 0 (cutFields base 0 [1, 6, 2] ++ [operand a, (3, 0), operand o]) :=
  eq_iff_hasFields hb (by simp) (by simp [packO16A4]; ring)

@[simp] theorem packO16A7_eq_iff (hb : base < 2 ^ 9) (o a) : packO16A7 base o a = w ↔
    HasFields w 0 (cutFields base 0 [1, 6, 2] ++ [operand a, operand o]) :=
  eq_iff_hasFields hb (by simp) (by simp [packO16A7]; ring)

@[simp] theorem packO16A6'_eq_iff (hb : base < 2 ^ 9) (o a) : packO16A6' base o a = w ↔
    HasFields w 0 (cutFields base 0 [1, 6, 2] ++ [(1, 0), operand a, operand o]) :=
  eq_iff_hasFields hb (by simp) (by simp [packO16A6']; ring)

@[simp] theorem packO16A5_eq_iff (hb : base < 2 ^ 9) (o a) : packO16A5 base o a = w ↔
    HasFields w 0 (cutFields base 0 [1, 6, 2] ++ [(1, 0), operand a, (1, 0), operand o]) :=
  eq_iff_hasFields hb (by simp) (by simp [packO16A5]; ring)

@[simp] theorem packA6_eq_iff (hb : base < 2 ^ 9) (a) : packA6 base a = w ↔
    HasFields w 0 (cutFields base 0 [1, 6, 2] ++ [(1, 0), operand a, (16, 0)]) :=
  eq_iff_hasFields hb (by simp) (by simp [packA6]; ring)

@[simp] theorem packC16_eq_iff (hb : base < 2 ^ 9) (c) : packC16 base c = w ↔
    HasFields w 0 (cutFields base 0 [1, 6, 2] ++ [(7, 0), operand c]) :=
  eq_iff_hasFields hb (by simp) (by simp [packC16]; ring)

@[simp] theorem packW2X1Y1Z1C6_eq_iff (hb : base < 2 ^ 7) (wd x y z c) : packW2X1Y1Z1C6 base wd x y z c = w ↔
    HasFields w 0 (cutFields base 0 [1, 6] ++ [operand c, flagField z, flagField y, flagField x, operand wd, (14, 0)]) :=
  eq_iff_hasFields hb (by simp) (by simp [packW2X1Y1Z1C6]; ring)

@[simp] theorem packN16_eq_iff (hb : base < 2 ^ 9) (n) : packN16 base n = w ↔
    HasFields w 0 (cutFields base 0 [1, 6, 2] ++ [(7, 0), operand n]) :=
  eq_iff_hasFields hb (by simp) (by simp [packN16]; ring)

@[simp] theorem packC2A7_eq_iff (hb : base < 2 ^ 9) (c a) : packC2A7 base c a = w ↔
    HasFields w 0 (cutFields base 0 [1, 6, 2] ++ [operand a, operand c, (14, 0)]) :=
  eq_iff_hasFields hb (by simp) (by simp [packC2A7]; ring)

@[simp] theorem packE1B7_eq_iff (hb : base < 2 ^ 9) (e b) : packE1B7 base e b = w ↔
    HasFields w 0 (cutFields base 0 [1, 6, 2] ++ [(15, 0), operand b, flagField e]) :=
  eq_iff_hasFields hb (by simp) (by simp [packE1B7]; ring)

@[simp] theorem packE1B7F1A4_eq_iff (hb : base < 2 ^ 9) (e b f a) : packE1B7F1A4 base e b f a = w ↔
    HasFields w 0 (cutFields base 0 [1, 6, 2] ++ [(7, 0), operand a, (3, 0), flagField f, operand b, flagField e]) :=
  eq_iff_hasFields hb (by simp) (by simp [packE1B7F1A4]; ring)

@[simp] theorem packP2M16_eq_iff (hb : base < 2 ^ 7) (p m) : packP2M16 base p m = w ↔
    HasFields w 0 (cutFields base 0 [1, 6] ++ [(2, 0), operand m, operand p, (5, 0)]) :=
  eq_iff_hasFields hb (by simp) (by simp [packP2M16]; ring)

@[simp] theorem packP2B3A3_eq_iff (hb : base < 2 ^ 9) (p b a) : packP2B3A3 base p b a = w ↔
    HasFields w 0 (cutFields base 0 [1, 6, 2] ++ [operand a, operand b, operand p, (15, 0)]) :=
  eq_iff_hasFields hb (by simp) (by simp [packP2B3A3]; ring)

@[simp] theorem packE1B6F1A6D6'_eq_iff (hb : base < 2 ^ 9) (e b f a d) : packE1B6F1A6D6' base e b f a d = w ↔
    HasFields w 0 (cutFields base 0 [1, 6, 2] ++ [operand d, (1, 0), operand a, (1, 0), flagField f, operand b, (1, 0), flagField e]) :=
  eq_iff_hasFields hb (by simp) (by simp [packE1B6F1A6D6']; ring)

@[simp] theorem packE1B7F1A6_eq_iff (hb : base < 2 ^ 9) (e b f a) : packE1B7F1A6 base e b f a = w ↔
    HasFields w 0 (cutFields base 0 [1, 6, 2] ++ [(7, 0), operand a, (1, 0), flagField f, operand b, flagField e]) :=
  eq_iff_hasFields hb (by simp) (by simp [packE1B7F1A6]; ring)

@[simp] theorem packF1A4D3_eq_iff (hb : base < 2 ^ 7) (f a d) : packF1A4D3 base f a d = w ↔
    HasFields w 0 (cutFields base 0 [1, 6] ++ [(2, 0), operand d, (4, 0), operand a, (3, 0), flagField f, (8, 0)]) :=
  eq_iff_hasFields hb (by simp) (by simp [packF1A4D3]; ring)

@[simp] theorem packD3_eq_iff (hb : base < 2 ^ 9) (d) : packD3 base d = w ↔
    HasFields w 0 (cutFields base 0 [1, 6, 2] ++ [operand d, (20, 0)]) :=
  eq_iff_hasFields hb (by simp) (by simp [packD3]; ring)

@[simp] theorem packA3D6_eq_iff (hb : base < 2 ^ 9) (a d) : packA3D6 base a d = w ↔
    HasFields w 0 (cutFields base 0 [1, 6, 2] ++ [operand d, (1, 0), operand a, (13, 0)]) :=
  eq_iff_hasFields hb (by simp) (by simp [packA3D6]; ring)

@[simp] theorem packS2O2Q4A7D7Z3_eq_iff (hb : base < 2 ^ 7) (s o q a d z) : packS2O2Q4A7D7Z3 base s o q a d z = w ↔
    HasFields w 0 (cutFields base 0 [1, 6] ++ [operand z, operand d, operand a, operand q, operand o, operand s]) :=
  eq_iff_hasFields hb (by simp) (by simp [packS2O2Q4A7D7Z3]; ring)

@[simp] theorem packS2O2Q4A7D7P3_eq_iff (hb : base < 2 ^ 7) (s o q a d p) : packS2O2Q4A7D7P3 base s o q a d p = w ↔
    HasFields w 0 (cutFields base 0 [1, 6] ++ [operand p, operand d, operand a, operand q, operand o, operand s]) :=
  eq_iff_hasFields hb (by simp) (by simp [packS2O2Q4A7D7P3]; ring)

@[simp] theorem packQ4S5T4_eq_iff (hb : base < 2 ^ 9) (q s t) : packQ4S5T4 base q s t = w ↔
    HasFields w 0 (cutFields base 0 [1, 6, 2] ++ [(1, 0), operand t, (8, 0), operand s, operand q, (1, 0)]) :=
  eq_iff_hasFields hb (by simp) (by simp [packQ4S5T4]; ring)

@[simp] theorem packS6V7T4_eq_iff (hb : base < 2 ^ 10) (s v t) : packS6V7T4 base s v t = w ↔
    HasFields w 0 (cutFields base 0 [1, 6, 2, 1] ++ [operand t, operand v, operand s, (5, 0)]) :=
  eq_iff_hasFields hb (by simp) (by simp [packS6V7T4]; ring)

@[simp] theorem packT4_eq_iff (hb : base < 2 ^ 10) (t) : packT4 base t = w ↔
    HasFields w 0 (cutFields base 0 [1, 6, 2, 1] ++ [operand t, (18, 0)]) :=
  eq_iff_hasFields hb (by simp) (by simp [packT4]; ring)

@[simp] theorem packS6T4_eq_iff (hb : base < 2 ^ 10) (s t) : packS6T4 base s t = w ↔
    HasFields w 0 (cutFields base 0 [1, 6, 2, 1] ++ [operand t, (7, 0), operand s, (5, 0)]) :=
  eq_iff_hasFields hb (by simp) (by simp [packS6T4]; ring)

@[simp] theorem packC3K6D6S6_eq_iff (hb : base < 2 ^ 9) (c k d s) : packC3K6D6S6 base c k d s = w ↔
    HasFields w 0 (cutFields base 0 [1, 6, 2] ++ [(1, 0), operand s, operand d, operand k, operand c, (1, 0)]) :=
  eq_iff_hasFields hb (by simp) (by simp [packC3K6D6S6]; ring)

@[simp] theorem packC3K6S6_eq_iff (hb : base < 2 ^ 10) (c k s) : packC3K6S6 base c k s = w ↔
    HasFields w 0 (cutFields base 0 [1, 6, 2, 1] ++ [operand s, (6, 0), operand k, operand c, (1, 0)]) :=
  eq_iff_hasFields hb (by simp) (by simp [packC3K6S6]; ring)

@[simp] theorem packF4C3B7A7T4_eq_iff (hb : base < 2 ^ 7) (f c b a t) : packF4C3B7A7T4 base f c b a t = w ↔
    HasFields w 0 (cutFields base 0 [1, 6] ++ [operand t, operand a, operand b, operand c, operand f]) :=
  eq_iff_hasFields hb (by simp) (by simp [packF4C3B7A7T4]; ring)

@[simp] theorem packB6A6R3T4_eq_iff (hb : base < 2 ^ 7) (b a r t) : packB6A6R3T4 base b a r t = w ↔
    HasFields w 0 (cutFields base 0 [1, 6] ++ [(2, 0), (4, 0), operand t, operand r, operand a, operand b]) :=
  eq_iff_hasFields hb (by simp) (by simp [packB6A6R3T4]; ring)

@[simp] theorem packD7_eq_iff (hb : base < 2 ^ 9) (d) : packD7 base d = w ↔
    HasFields w 0 (cutFields base 0 [1, 6, 2] ++ [(4, 0), operand d, (12, 0)]) :=
  eq_iff_hasFields hb (by simp) (by simp [packD7]; ring)

@[simp] theorem packB6A6D7_eq_iff (hb : base < 2 ^ 13) (b a d) : packB6A6D7 base b a d = w ↔
    HasFields w 0 (cutFields base 0 [1, 6, 2, 4] ++ [operand d, operand a, operand b]) :=
  eq_iff_hasFields hb (by simp) (by simp [packB6A6D7]; ring)

@[simp] theorem packB6A5D5_eq_iff (hb : base < 2 ^ 13) (b a d) : packB6A5D5 base b a d = w ↔
    HasFields w 0 (cutFields base 0 [1, 6, 2, 4] ++ [(1, 0), operand d, (2, 0), operand a, operand b]) :=
  eq_iff_hasFields hb (by simp) (by simp [packB6A5D5]; ring)

@[simp] theorem packB5A6D5_eq_iff (hb : base < 2 ^ 13) (b a d) : packB5A6D5 base b a d = w ↔
    HasFields w 0 (cutFields base 0 [1, 6, 2, 4] ++ [(1, 0), operand d, (1, 0), operand a, (1, 0), operand b]) :=
  eq_iff_hasFields hb (by simp) (by simp [packB5A6D5]; ring)

@[simp] theorem packB5A5D5_eq_iff (hb : base < 2 ^ 13) (b a d) : packB5A5D5 base b a d = w ↔
    HasFields w 0 (cutFields base 0 [1, 6, 2, 4] ++ [(1, 0), operand d, (2, 0), operand a, (1, 0), operand b]) :=
  eq_iff_hasFields hb (by simp) (by simp [packB5A5D5]; ring)

@[simp] theorem packB6A6D5_eq_iff (hb : base < 2 ^ 13) (b a d) : packB6A6D5 base b a d = w ↔
    HasFields w 0 (cutFields base 0 [1, 6, 2, 4] ++ [(1, 0), operand d, (1, 0), operand a, operand b]) :=
  eq_iff_hasFields hb (by simp) (by simp [packB6A6D5]; ring)

@[simp] theorem packB6A5_eq_iff (hb : base < 2 ^ 13) (b a) : packB6A5 base b a = w ↔
    HasFields w 0 (cutFields base 0 [1, 6, 2, 4] ++ [(8, 0), operand a, operand b]) :=
  eq_iff_hasFields hb (by simp) (by simp [packB6A5]; ring)

@[simp] theorem packA6D6_eq_iff (hb : base < 2 ^ 13) (a d) : packA6D6 base a d = w ↔
    HasFields w 0 (cutFields base 0 [1, 6, 2, 4] ++ [operand d, (1, 0), operand a, (6, 0)]) :=
  eq_iff_hasFields hb (by simp) (by simp [packA6D6]; ring)

@[simp] theorem packB6A6D6_eq_iff (hb : base < 2 ^ 13) (b a d) : packB6A6D6 base b a d = w ↔
    HasFields w 0 (cutFields base 0 [1, 6, 2, 4] ++ [operand d, (1, 0), operand a, operand b]) :=
  eq_iff_hasFields hb (by simp) (by simp [packB6A6D6]; ring)

@[simp] theorem packA5D7_eq_iff (hb : base < 2 ^ 13) (a d) : packA5D7 base a d = w ↔
    HasFields w 0 (cutFields base 0 [1, 6, 2, 4] ++ [operand d, (1, 0), operand a, (6, 0)]) :=
  eq_iff_hasFields hb (by simp) (by simp [packA5D7]; ring)

@[simp] theorem packB6A5D6_eq_iff (hb : base < 2 ^ 13) (b a d) : packB6A5D6 base b a d = w ↔
    HasFields w 0 (cutFields base 0 [1, 6, 2, 4] ++ [operand d, (2, 0), operand a, operand b]) :=
  eq_iff_hasFields hb (by simp) (by simp [packB6A5D6]; ring)

@[simp] theorem packD6_eq_iff (hb : base < 2 ^ 13) (d) : packD6 base d = w ↔
    HasFields w 0 (cutFields base 0 [1, 6, 2, 4] ++ [operand d, (13, 0)]) :=
  eq_iff_hasFields hb (by simp) (by simp [packD6]; ring)

@[simp] theorem packA6'_eq_iff (hb : base < 2 ^ 13) (a) : packA6' base a = w ↔
    HasFields w 0 (cutFields base 0 [1, 6, 2, 4] ++ [(7, 0), operand a, (6, 0)]) :=
  eq_iff_hasFields hb (by simp) (by simp [packA6']; ring)

@[simp] theorem packA5_eq_iff (hb : base < 2 ^ 13) (a) : packA5 base a = w ↔
    HasFields w 0 (cutFields base 0 [1, 6, 2, 4] ++ [(8, 0), operand a, (6, 0)]) :=
  eq_iff_hasFields hb (by simp) (by simp [packA5]; ring)

end

/-! Fields as the decoder takes them. -/

theorem toNat_ofNat_fld (w lo n : Nat) : (BitVec.ofNat n (fld w lo n)).toNat = fld w lo n := by
  rw [BitVec.toNat_ofNat, Nat.mod_eq_of_lt (fld_lt w lo n)]

@[simp] theorem toNat_bit (w lo : Nat) : (bit w lo).toNat = fld w lo 1 := by
  have hlt := fld_lt w lo 1
  rw [bit]
  interval_cases fld w lo 1 <;> rfl

/-- The mask of SEL lies in two fields of its word. -/
theorem toNat_selMask (w : Nat) : (BitVec.ofNat 3 (fld w 7 2 + 4 * fld w 23 1)).toNat % 4 = fld w 7 2 ∧
    (BitVec.ofNat 3 (fld w 7 2 + 4 * fld w 23 1)).toNat / 4 = fld w 23 1 := by
  have hlow := fld_lt w 7 2
  have hhigh := fld_lt w 23 1
  rw [BitVec.toNat_ofNat]
  omega

/-- A field is its lower part and its upper part. -/
theorem fld_eq_iff (w lo m n v : Nat) : fld w lo (m + n) = v ↔ fld w lo m = v % 2 ^ m ∧ fld w (lo + m) n = v / 2 ^ m := by
  have hlt := fld_lt w lo m
  rw [fld_add]
  constructor
  · rintro rfl
    rw [Nat.add_mul_mod_self_left, Nat.mod_eq_of_lt hlt, Nat.add_mul_div_left _ _ (Nat.two_pow_pos m), Nat.div_eq_of_lt hlt,
      Nat.zero_add]
    exact ⟨rfl, rfl⟩
  · rintro ⟨hlow, hhigh⟩
    rw [hlow, hhigh, Nat.mod_add_div]

/-! The rows of majors 0x2D to 0x31 and 0x3E test fields of several lengths from bit 9 on; each holds the 4 bits that all of 0x3E test. -/

theorem fld_9_5_eq_iff (w v : Nat) : fld w 9 5 = v ↔ fld w 9 4 = v % 16 ∧ fld w 13 1 = v / 16 := fld_eq_iff w 9 4 1 v
theorem fld_9_11_eq_iff (w v : Nat) : fld w 9 11 = v ↔ fld w 9 4 = v % 16 ∧ fld w 13 7 = v / 16 := fld_eq_iff w 9 4 7 v
theorem fld_9_12_eq_iff (w v : Nat) : fld w 9 12 = v ↔ fld w 9 4 = v % 16 ∧ fld w 13 8 = v / 16 := fld_eq_iff w 9 4 8 v
theorem fld_9_23_eq_iff (w v : Nat) : fld w 9 23 = v ↔ fld w 9 4 = v % 16 ∧ fld w 13 19 = v / 16 := fld_eq_iff w 9 4 19 v

/-! What the decoder reads is encoded as the word it was read from. -/

/-- An instruction read from a word, if there is one, has that word. -/
def Encodes (w : Nat) (o : Option Instr) : Prop := ∀ i, o = some i → encodeWord i = some w

theorem Encodes.none {w : Nat} : Encodes w none := fun _ h => by cases h

theorem Encodes.some {w v : Nat} {i : Instr} (h : encodeWord i = some v) (hv : v = w) : Encodes w (some i) := by
  rintro _ ⟨⟩
  rw [h, hv]

/-- A row of a decoder and the rows after it. -/
theorem Encodes.ite {w : Nat} {c : Bool} {t e : Option Instr} (ht : c = true → Encodes w t) (he : Encodes w e) :
    Encodes w (if c then t else e) := by
  cases c
  · exact he
  · exact ht rfl

theorem encodes_decodeRaw32 {w : Nat} (hlt : w < 2 ^ 32) (hlong : fld w 0 1 = 1) : Encodes w (decodeRaw32 w) := by
  unfold decodeRaw32
  split
  all_goals repeat' refine .ite (fun hrow => ?_) ?_
  any_goals exact .none
  all_goals refine .some rfl ?_
  case h_13 => simp_all [toNat_ofNat_fld, toNat_selMask, -BitVec.toNat_ofNat]
  all_goals simp_all [toNat_ofNat_fld, -BitVec.toNat_ofNat, fld_9_5_eq_iff, fld_9_11_eq_iff, fld_9_12_eq_iff, fld_9_23_eq_iff,
    eq_iff_hasFields_of_lt 0x5B, eq_iff_hasFields_of_lt 0x1DB, eq_iff_hasFields_of_lt 0x5F, eq_iff_hasFields_of_lt 0xDF,
    eq_iff_hasFields_of_lt 0x163, eq_iff_hasFields_of_lt 0x37D, eq_iff_hasFields_of_lt 0x107D]

theorem encodes_decodeH {w : Nat} (hlt : w < 2 ^ 16) (hshort : fld w 0 1 = 0) : Encodes w (some (decodeH w)) := by
  have hop := fld_lt w 1 4
  unfold decodeH
  split
  all_goals refine .some rfl ?_
  all_goals simp_all [toNat_ofNat_fld, -BitVec.toNat_ofNat]
  omega

theorem wf_decodeH (w : Nat) : (decodeH w).wf = true := by
  unfold decodeH
  split <;> rfl

/-! What an instruction is encoded as is read as that instruction. -/

/-- The word of an instruction, if it has one, is of its length and is read as the instruction. -/
def ReadBack (i : Instr) : Prop := ∀ w, encodeWord i = some w →
  fld w 0 1 = 0 ∧ w < 2 ^ 16 ∧ decodeH w = i ∨ fld w 0 1 = 1 ∧ w < 2 ^ 32 ∧ decodeRaw32 w = some i

theorem ReadBack.of_eq_none {i : Instr} (he : encodeWord i = none) : ReadBack i := fun w hw => by simp [he] at hw

theorem ReadBack.short {i : Instr} {v : Nat} (he : encodeWord i = some v)
    (h : ∀ w, v = w → fld w 0 1 = 0 ∧ w < 2 ^ 16 ∧ decodeH w = i) : ReadBack i :=
  fun w hw => .inl (h w (Option.some.inj (he.symm.trans hw)))

theorem ReadBack.long {i : Instr} {v : Nat} (he : encodeWord i = some v)
    (h : ∀ w, v = w → fld w 0 1 = 1 ∧ w < 2 ^ 32 ∧ decodeRaw32 w = some i) : ReadBack i :=
  fun w hw => .inr (h w (Option.some.inj (he.symm.trans hw)))

/-- A chain of rows reads an instruction in its first row, or in the rest where that row does not match. -/
theorem ite_eq_some_of {c : Bool} {t e : Option Instr} {i : Instr} (h : c = true ∧ t = some i ∨ c = false ∧ e = some i) :
    (if c then t else e) = some i := by
  rcases h with ⟨rfl, h⟩ | ⟨rfl, h⟩
  · exact h
  · exact h

theorem some_eq_some_of {i j : Instr} (h : j = i) : some j = some i := congrArg some h

theorem readBack (i : Instr) : ReadBack i := by
  cases i
  any_goals exact .of_eq_none rfl
  case exit | rtrap | repack | yield | fenceA | tret | lull =>
    refine .long rfl fun w hw => ?_
    subst hw
    decide
  case movH | notH | iaddH | isubH | imulH | andH | orH | xorH | shlH | shrH | sarH | faddH | fsubH | fmulH | fmaxH | fminH =>
    refine .short rfl fun w hw => ?_
    simp at hw
    simp [decodeH, bit, hw]
  all_goals
    refine .long rfl fun w hw => ?_
    simp at hw
    obtain ⟨hlong, hmajor, hw⟩ := hw
    refine ⟨hlong, by simp [hw], ?_⟩
    rw [decodeRaw32, hmajor]
  any_goals apply ite_eq_some_of
  any_goals apply some_eq_some_of
  case sel => simp [hw, bit, Nat.mod_add_div]
  all_goals simp [hw, bit, fld_9_5_eq_iff, fld_9_11_eq_iff, fld_9_12_eq_iff, fld_9_23_eq_iff]

/-! Words as bytes. -/

theorem leNat_leBytes (n v : Nat) : leNat (leBytes n v) = v % 2 ^ (8 * n) := by
  induction n generalizing v with
  | zero => simp [leBytes, leNat, Nat.mod_one]
  | succ n ih =>
    rw [leBytes, leNat, ih, BitVec.toNat_ofNat, Nat.mul_succ, Nat.add_comm, Nat.add_comm (8 * n), Nat.pow_add, Nat.mod_mul,
      Nat.add_comm]

theorem leNat_leBytes_of_lt {n v : Nat} (h : v < 2 ^ (8 * n)) : leNat (leBytes n v) = v := by
  rw [leNat_leBytes, Nat.mod_eq_of_lt h]

theorem leBytes_leNat (bs : List Byte) : leBytes bs.length (leNat bs) = bs := by
  induction bs with
  | nil => rfl
  | cons b r ih =>
    have hb := b.isLt
    have hdiv : (b.toNat + 256 * leNat r) / 256 = leNat r := by omega
    have hlow : BitVec.ofNat 8 (b.toNat + 256 * leNat r) = b := by
      refine BitVec.eq_of_toNat_eq ?_
      rw [BitVec.toNat_ofNat]
      omega
    rw [List.length_cons, leNat, leBytes, hdiv, hlow, ih]

theorem leNat_lt (bs : List Byte) : leNat bs < 2 ^ (8 * bs.length) := by
  induction bs with
  | nil => simp [leNat]
  | cons b r ih =>
    have hb := b.isLt
    rw [leNat, List.length_cons, Nat.mul_succ, Nat.pow_add]
    omega

theorem lengthOf_eq_two_iff (b : Byte) : lengthOf b = 2 ↔ b.toNat % 2 = 0 := by
  unfold lengthOf
  split <;> simp_all

/-! What the bytes at the head of a list are read as. -/

theorem decode_short {b0 b1 : Byte} {r : List Byte} (h : b0.toNat % 2 = 0) :
    decode (b0 :: b1 :: r) = .instr (decodeH (leNat [b0, b1])) 2 := by
  simp only [decode, if_pos ((lengthOf_eq_two_iff b0).mpr h)]

theorem decode_long {b0 b1 b2 b3 : Byte} {r : List Byte} {i : Instr} {len : Nat} (h : b0.toNat % 2 = 1) :
    decode (b0 :: b1 :: b2 :: b3 :: r) = .instr i len ↔ decode32 (leNat [b0, b1, b2, b3]) = some i ∧ len = 4 := by
  have hlong : lengthOf b0 ≠ 2 := by
    rw [Ne, lengthOf_eq_two_iff]
    omega
  simp only [decode, if_neg hlong]
  cases decode32 (leNat [b0, b1, b2, b3]) <;> simp [eq_comm]

/-- A word of four bytes that lacks some of them is not read. -/
theorem decode_ne_instr {b0 : Byte} {bs : List Byte} {i : Instr} {len : Nat} (h : b0.toNat % 2 = 1) (hlen : bs.length < 3) :
    decode (b0 :: bs) ≠ .instr i len := by
  have hlong : lengthOf b0 ≠ 2 := by
    rw [Ne, lengthOf_eq_two_iff]
    omega
  match bs, hlen with
  | [], _ => simp [decode]
  | [_], _ | [_, _], _ => simp [decode, hlong]

theorem decode32_eq_some_iff {w : Nat} {i : Instr} : decode32 w = some i ↔ decodeRaw32 w = some i ∧ i.wf = true := by
  simp only [decode32, keepWf, Option.bind_eq_some_iff, Option.ite_none_right_eq_some, Option.some.injEq]
  constructor
  · rintro ⟨_, hraw, hwf, rfl⟩
    exact ⟨hraw, hwf⟩
  · rintro ⟨hraw, hwf⟩
    exact ⟨i, hraw, hwf, rfl⟩

theorem encode_eq_some_iff {i : Instr} {bs : List Byte} :
    encode i = some bs ↔ ∃ w, encodeWord i = some w ∧ leBytes (if w % 2 = 0 then 2 else 4) w = bs := by
  rw [encode, Option.map_eq_some_iff]

/-- The bytes of an instruction's encoding are read as it. -/
theorem decode_of_encode {i : Instr} {bs : List Byte} (hwf : i.wf = true) (h : encode i = some bs) :
    decode bs = .instr i bs.length := by
  obtain ⟨w, hw, rfl⟩ := encode_eq_some_iff.mp h
  rcases readBack i w hw with ⟨heven, hlt, hread⟩ | ⟨hodd, hlt, hread⟩
  · rw [fld_zero_one] at heven
    have hval : leNat (leBytes 2 w) = w := leNat_leBytes_of_lt hlt
    have hb0 : (BitVec.ofNat 8 w).toNat % 2 = 0 := by
      rw [BitVec.toNat_ofNat]
      omega
    rw [if_pos heven]
    exact (decode_short hb0).trans (by rw [show leNat [_, _] = w from hval, hread]; rfl)
  · rw [fld_zero_one] at hodd
    have hval : leNat (leBytes 4 w) = w := leNat_leBytes_of_lt hlt
    have hb0 : (BitVec.ofNat 8 w).toNat % 2 = 1 := by
      rw [BitVec.toNat_ofNat]
      omega
    rw [if_neg (by omega)]
    refine (decode_long hb0).mpr ⟨?_, rfl⟩
    rw [show leNat [_, _, _, _] = w from hval]
    exact decode32_eq_some_iff.mpr ⟨hread, hwf⟩

theorem encode_of_encodeWord_leNat {i : Instr} {bs : List Byte} (h : encodeWord i = some (leNat bs))
    (hlen : bs.length = if leNat bs % 2 = 0 then 2 else 4) : encode i = some bs :=
  encode_eq_some_iff.mpr ⟨_, h, by rw [← hlen, leBytes_leNat]⟩

/-- What bytes are read as is legal, and is encoded as them. -/
theorem encode_of_decode {bs : List Byte} {i : Instr} {len : Nat} (h : decode bs = .instr i len) :
    i.wf = true ∧ encode i = some (bs.take len) := by
  match bs with
  | [] | [_] => simp [decode] at h
  | b0 :: b1 :: r =>
    have hlt : leNat [b0, b1] < 2 ^ 16 := leNat_lt [b0, b1]
    have hval : leNat [b0, b1] % 2 = b0.toNat % 2 := by
      rw [leNat]
      omega
    rcases Nat.mod_two_eq_zero_or_one b0.toNat with heven | hodd
    · rw [decode_short heven, Fetched.instr.injEq] at h
      obtain ⟨rfl, rfl⟩ := h
      rw [heven] at hval
      refine ⟨wf_decodeH _, encode_of_encodeWord_leNat (bs := [b0, b1]) ?_ (if_pos hval).symm⟩
      exact encodes_decodeH hlt (by rw [fld_zero_one, hval]) _ rfl
    · match r with
      | [] | [_] => exact absurd h (decode_ne_instr hodd (by simp))
      | b2 :: b3 :: r =>
        obtain ⟨hraw, rfl⟩ := (decode_long hodd).mp h
        obtain ⟨hraw, hwf⟩ := decode32_eq_some_iff.mp hraw
        have hlt : leNat [b0, b1, b2, b3] < 2 ^ 32 := leNat_lt [b0, b1, b2, b3]
        have hval : leNat [b0, b1, b2, b3] % 2 = 1 := by
          rw [leNat]
          omega
        refine ⟨hwf, encode_of_encodeWord_leNat (bs := [b0, b1, b2, b3]) ?_ (if_neg (by simp [hval])).symm⟩
        exact encodes_decodeRaw32 hlt (by rw [fld_zero_one, hval]) _ hraw

/-- Settles O57: `readBack` reads every instruction's word, and `encodes_decodeRaw32` and `encodes_decodeH` encode what is read. -/
theorem encodingRoundTrip : Obligations.EncodingRoundTrip :=
  ⟨fun _ _ => decode_of_encode, fun _ _ _ => encode_of_decode⟩

end Sys2Proof
end

section
/-! O58 and O59: words of the spec, and the state that device reset leaves. -/

namespace Sys2Proof.Machine

theorem State.part_reset (p : Nat) : State.reset.part p = Part.reset := rfl

theorem Part.cr_reset (n : Nat) : Part.reset.cr n = crReset n := rfl

/-- The registers of the lull and dump that a partition holds start at 0. -/
theorem crReset_eq_zero_of_mem_debug {n : Nat} (hlow : 0x80 ≤ n) (hhigh : n ≤ 0x92) : crReset n = 0 := by
  unfold crReset
  repeat rw [if_neg (by omega)]

end Sys2Proof.Machine

namespace Sys2Proof
open Machine

/-- Settles O58, by evaluating the decoder at each word. -/
theorem wordsOfTheSpec : Obligations.WordsOfTheSpec := by
  unfold Obligations.WordsOfTheSpec Parts.WordsOfTheSpec
  decide

/-- Settles O59: a part, a core or a node that the package after reset does not list is as reset leaves it. -/
theorem resetState : Obligations.ResetState := by
  refine ⟨⟨fun p => ?_, fun _ _ _ _ => rfl, rfl, fun _ _ => rfl, fun _ => rfl⟩, rfl, rfl⟩
  simp only [State.part_reset, Part.cr_reset]
  exact ⟨rfl, rfl, rfl, rfl, rfl, rfl, rfl, rfl, rfl, rfl, fun n hlow hhigh => crReset_eq_zero_of_mem_debug hlow hhigh⟩

end Sys2Proof
end

section
/-! O12: special and control registers. SRD and CRD write one register from no source, so one lemma says what each does with the value
that it reads; a write of a shared control register changes one entry of one table. -/

namespace Sys2Proof.Machine

variable {s : State} {g : Group}

/-! The latched clock word through an issue. -/

theorem Group.clockHi_onMask (g : Group) (m : Mask) (f : Lane → Lane) : (g.onMask m f).clockHi = g.clockHi := rfl

theorem Group.clockHi_readsFirst (g : Group) (m : Mask) (rs ws : List Reg) : (g.readsFirst m rs ws).clockHi = g.clockHi := by
  have hfold : ∀ (l : List Acquire) (g : Group), (l.foldl (fun (g : Group) a => g.onMask (m &&& a.lanes) fun l => match a.op with
      | none => l.acquire allStreams
      | some op => l.sees op (2 ^ 64)) g).clockHi = g.clockHi := by
    intro l
    induction l with
    | nil => exact fun _ => rfl
    | cons a r ih => exact fun g => (ih _).trans (g.clockHi_onMask _ _)
  exact hfold _ g

theorem Group.clockHi_reads (g : Group) (m : Mask) (rs ws : List Reg) (own : Bool) :
    (g.reads m rs ws own).clockHi = g.clockHi := by
  refine (Group.clockHi_readsFirst _ m rs ws).trans ?_
  split <;> rfl

theorem Group.clockHi_splitRep (g : Group) (r : Rep) (m : Mask) : (g.splitRep r m).clockHi = g.clockHi := by
  unfold Group.splitRep
  dsimp only
  split
  · split <;> rfl
  · rfl

theorem Group.clockHi_stepLanes (g : Group) (c : Cur) (m : Mask) (x : Goes) : (g.stepLanes c m x).clockHi = g.clockHi := by
  unfold Group.stepLanes
  split
  · rfl
  · split
    · split
      · rfl
      · exact g.clockHi_splitRep _ _
    · rfl

theorem State.clockHi_finish (s : State) (g : Group) (m : Mask) (x : Goes) (cost : Nat) :
    ((s.finish g m x cost).group? s.cur.gid).map (·.clockHi) = some g.clockHi := by
  unfold State.finish
  dsimp only
  split
  · simp only [State.group?, State.setGroup, Tab.get?_set_same, Option.map_some]
    exact congrArg some (Group.clockHi_stepLanes _ _ _ _)
  · simp only [State.group?, State.setGroup, Tab.get?_set_same, Option.map_some]
    exact congrArg some (Group.clockHi_stepLanes _ _ _ _)
  · split <;> simp only [State.group?, State.setGroup, Tab.get?_set_same, Option.map_some]

theorem State.clockHi_done {t : State} {h : Group} {m : Mask} {x : Goes} {cost : Nat} {tx : Option Word} (hd : s.cur.defer = none)
    (he : s.done g m x cost tx = .next t) (hg : t.group? s.cur.gid = some h) : h.clockHi = g.clockHi := by
  have hfin := s.clockHi_finish g m x cost
  have hgroups : t.groups = (s.finish g m x cost).groups := by
    unfold State.done at he
    rw [hd] at he
    cases he
    cases tx with
    | none => rfl
    | some w =>
      dsimp only
      split
      · rfl
      · exact (State.inject_spec _ _ _ _ _).2.1
  rw [State.group?, ← hgroups] at hfin
  rw [State.group?] at hg
  rw [hg] at hfin
  exact Option.some.inj hfin

/-! An instruction that reads no register and writes one. -/

/-- Its effect is made on the group as it stands, but for what its threads follow. -/
theorem State.issue_dest {d : Reg} (hr : Ready s g [] [d]) (cost : Group → Nat) (effect : State → Group → Out) :
    ∃ g', SyncOnly g g' ∧ g'.clockHi = g.clockHi ∧ s.issue { dests := [d] } cost effect = effect (s.atCost (cost g)) g' := by
  refine ⟨_, g.taken_sync { dests := [d] } s.cur.mask, Group.clockHi_reads _ _ _ _ _, ?_⟩
  exact s.issue_ready g { dests := [d] } cost effect hr rfl rfl rfl (by simp [Group.readsBad, Need'.reads])

/-- A scalar that a group like `g` has been given is the frame's destination. -/
theorem State.done_scalar {g1 : Group} {d n : Nat} (x : Word) (hr : Ready s g [] [.s d]) (hg : SameData g g1) :
    ∃ t h, (s.atCost n).done ((s.atCost n).writeS s.cur.gid g1 d x) s.cur.mask .on 1 (if d = 61 then some x else none) = .next t ∧
      Frame s t g h [.s d] ∧ ScalarHolds s t g h d x ∧ h.clockHi = g1.clockHi := by
  obtain ⟨t, h, he, hframe, hdata, htx⟩ := (s.atCost n).done_spec g ((s.atCost n).writeS s.cur.gid g1 d x) s.cur.mask .on 1
    (if d = 61 then some x else none) [.s d] [] hr.fresh
    ((SameRegs.of_data hg _ _).trans ((s.atCost n).writeS_same s.cur.gid g1 d x _ _ (by simp)))
  have hclock : h.clockHi = g1.clockHi := by
    rw [State.clockHi_done (s := s.atCost n) hr.fresh he hframe.group]
    unfold State.writeS
    split_ifs <;> rfl
  refine ⟨t, h, he, .claimed (.refl g) hframe, ⟨fun hd => ?_, fun hd => ?_, fun hd hk => ?_⟩, hclock⟩
  · rw [hdata.s, State.writeS_get _ _ _ _ _ hd]
  · rw [hdata.msgDst, State.writeS_msgDst, if_pos hd, hg.kind, hg.msgDst, hg.part]
    rfl
  · obtain ⟨a, ha⟩ := Option.isSome_iff_exists.mp (hr.operands.tx (by simp [hd]) hk).2
    obtain ⟨f, hf, hpay, hsrc, hdst⟩ := htx x g a (if_pos hd) (by rw [State.writeS_kind, hg.kind]; exact hk) hr.group
      (by rw [State.writeS_part, hg.part]; exact ha)
    exact ⟨f, hf, hpay, by rw [hsrc, State.writeS_part, hg.part]; rfl, by rw [hdst, ha]⟩

/-! SRD. -/

/-- The value that SRD reads of a scalar special register. -/
def State.srdValue (s : State) (g : Group) (n : Nat) : Word :=
  if n = 11 then lo32 s.now else if n = 12 then g.clockHi.getD (hi32 s.now) else BitVec.ofNat 32 (s.special s.cur.gid g n)

theorem State.special_sync {g' : Group} (hs : SyncOnly g g') (gid n : Nat) : s.special gid g' n = s.special gid g n := by
  simp only [State.special, Group.sr, hs.team, hs.level, hs.data.kind, hs.data.width, hs.data.s, hs.data.part]
  rfl

theorem Completes.srd {n : BitVec 10} {d : BitVec 7} (hn : ¬ n.toNat ≤ 1) (hr : Ready s g [] [.s d.toNat]) :
    Completes (.srd n d) s g [.s d.toNat] fun t h => ScalarHolds s t g h d.toNat (s.srdValue g n.toNat) ∧
      h.clockHi = if n.toNat = 11 then some (hi32 s.now) else g.clockHi := by
  change ∃ t h, execSrd n d s = .next t ∧ _
  unfold execSrd
  rw [if_neg hn]
  obtain ⟨g', hsync, hclock, hissue⟩ := State.issue_dest hr costOne _
  rw [hissue]
  have hvalue : (s.atCost (costOne g)).srdValue g' n.toNat = s.srdValue g n.toNat := by
    rw [State.srdValue, State.srdValue, hclock, State.special_sync hsync]
    rfl
  have hdata : SameData g (if n.toNat = 11 then { g' with clockHi := some (hi32 s.now) } else g') := by
    split
    · exact hsync.data.trans (by constructor <;> rfl)
    · exact hsync.data
  obtain ⟨t, h, he, hframe, hholds, hlatch⟩ := State.done_scalar (n := costOne g) (s.srdValue g n.toNat) hr hdata
  refine ⟨t, h, ?_, hframe, hholds, ?_⟩
  · rw [← hvalue] at he
    exact he
  · rw [hlatch, ← hclock]
    split <;> rfl

theorem SclResult.srd {n : BitVec 10} {d : BitVec 7} {x : Word} (hn : ¬ n.toNat ≤ 1) (hr : Ready s g [] [.s d.toNat])
    (hx : s.srdValue g n.toNat = x) : SclResult (.srd n d) s g d.toNat x := by
  obtain ⟨t, h, he, hframe, hholds, -⟩ := Completes.srd hn hr
  exact ⟨t, h, he, hframe, hx ▸ hholds⟩

theorem VecResult.srd {n : BitVec 10} {d : BitVec 7} (hn : n.toNat ≤ 1) (hr : Ready s g [] [.v d.toNat]) :
    VecResult (.srd n d) s g d.toNat fun j => if n = 0 then BitVec.ofNat 32 j else (g.lane j).orig := by
  change ∃ t h, execSrd n d s = .next t ∧ _
  unfold execSrd
  rw [if_pos hn]
  obtain ⟨g', hsync, -, hissue⟩ := State.issue_dest hr costLane _
  rw [hissue]
  obtain ⟨t, h, he, hframe, hdata, -⟩ := (s.atCost (costLane g)).done_spec g' _ s.cur.mask .on (costLane g') none [.v d.toNat] []
    hr.fresh (g'.writeV_same d.toNat s.cur.mask (fun j => if n = 0 then BitVec.ofNat 32 j else (g'.lane j).orig) _ _ (by simp))
  refine ⟨t, h, he, .claimed hsync hframe, fun j hj => ?_⟩
  obtain ⟨y, hlane⟩ := hsync.lane j
  have hwritten := g'.vr_writeV d.toNat s.cur.mask (fun j => if n = 0 then BitVec.ofNat 32 j else (g'.lane j).orig) j hj
  rw [Group.vr, ← hdata.v] at hwritten
  rw [Group.vr, hwritten, hlane]
  simp only [Group.vr, hsync.data.v]

/-- The place of a team in its grid, and the grid's dimensions, for a group outside the debug slot. -/
theorem State.special_of_team {tm : Team} {gr : Grid} (hk : g.kind ≠ .debug) (ht : s.teams.get? g.team = some tm)
    (hg : s.grids.get? tm.grid = some gr) (gid n : Nat) : s.special gid g n =
      if n = 2 then g.width else if n = 3 then (g.sr 2).toNat
      else if n = 4 then tm.index % pktBits gr.packet 32 16
      else if n = 5 then tm.index / pktBits gr.packet 32 16 % pktBits gr.packet 48 16
      else if n = 6 then tm.index / pktBits gr.packet 32 16 / pktBits gr.packet 48 16
      else if n = 7 then pktBits gr.packet 32 16 else if n = 8 then pktBits gr.packet 48 16
      else if n = 9 then pktBits gr.packet 64 16 else if n = 10 then g.level
      else if n = 13 then dieOf gid * 256 + quadOfCluster (clusterOf gid) % 4 * 64 + clusterOf gid % 12 * 4 + coreOf gid % 4
      else if n = 14 then spOf gid else if n = 15 then (s.part g.part).relCluster (clusterOf gid)
      else (s.part g.part).clusters.length := by
  have hhere : (g.kind != .debug) = true := by simpa using hk
  simp only [State.special, ht, hg, hhere, Option.bind_some, Option.map_some, Option.getD_some, Grid.dims, Part.count, if_true]

theorem specialRegisters : Parts.SpecialRegisters := by
  refine fun s g => ⟨fun d hr => ⟨.srd (by decide) hr, .srd (by decide) hr⟩, fun d _ hr tm gr hk ht hg => ?_⟩
  intro X Y Z R
  have hR : ∀ (n : BitVec 10) (x : Nat), 1 < n.toNat → n.toNat ≠ 11 → n.toNat ≠ 12 → s.special s.cur.gid g n.toNat = x → R n x := by
    intro n x hn hlo hhi hx
    refine .srd (by omega) hr ?_
    rw [State.srdValue, if_neg hlo, if_neg hhi, hx]
  have hspecial := State.special_of_team hk ht hg s.cur.gid
  have hclock : ∀ x, g.clockHi.getD (hi32 s.now) = x → SclResult (.srd 12 d) s g d.toNat x := fun x hx => .srd (by decide) hr hx
  refine ⟨?_, ?_, ?_, ?_, ?_, ?_, ?_, ?_, ?_, ?_, ?_, ?_, ?_, Completes.srd (by decide) hr, fun x hx => hclock x (by rw [hx]; rfl),
    fun hnone => hclock _ (by rw [hnone]; rfl)⟩
  all_goals exact hR _ _ (by decide) (by decide) (by decide) (hspecial _)

/-! CRD and CWR. -/

/-- A register of group scope keeps its reserved bits: the budget and the period, which have rules of their own, are shared. -/
theorem crNext_of_group {n : Nat} (hg : crOfGroup n = true) (old x : Word) :
    crNext n old x = (old &&& ~~~(crWritable n)) ||| (x &&& crWritable n) := by
  simp only [crOfGroup, Bool.or_eq_true, Bool.and_eq_true, decide_eq_true_eq] at hg
  rw [crNext, if_neg (by omega), if_neg (by omega)]

theorem crForbidden_read_iff {c : Cls} {n : Nat} : crForbidden c n false = true ↔ crClass n = 2 ∧ c ≠ .debug := by
  simp [crForbidden]

theorem crForbidden_write_iff {c : Cls} {n : Nat} :
    crForbidden c n true = true ↔ crClass n = 1 ∨ crClass n = 2 ∧ c ≠ .debug := by
  simp [crForbidden, or_comm]

theorem crClass_lt (n : Nat) : crClass n < 3 := by
  unfold crClass
  split_ifs <;> decide

/-- An issue that a privilege forbids raises its cause before its effect. -/
theorem State.issue_priv (hd : s.cur.defer = none) (hg : s.curGroup? = some g) {q : Need'} (hl : q.legal = .all) (hp : q.priv = true)
    (cost : Group → Nat) (effect : State → Group → Out) :
    s.issue q cost effect = .next ((s.atCost (cost g)).raise g s.cur.mask 2 0 ((q.dests ++ q.late).head?) 0) := by
  have hcheck : s.check g q = .trap 2 := by
    rw [State.check, hl, if_neg (by simp [Legal.ok]), if_pos hp]
  unfold State.issue
  rw [hd]
  simp only [hg, hcheck]

theorem Raises.crd {n : BitVec 12} {c : BitVec 6} (hr : Ready s g [] [.s c.toNat]) (hp : crForbidden s.cur.cls n.toNat false = true) :
    Raises (.crd n c) s g 2 := by
  have he : execCrd n c s = _ := s.issue_priv
    (q := { priv := crForbidden s.cur.cls n.toNat false, dests := [.s c.toNat] }) hr.fresh hr.group rfl hp costOne _
  exact ⟨_, _, g, .inl rfl, he⟩

theorem Raises.cwr {n : BitVec 12} {c : BitVec 6} (hr : Ready s g [.s c.toNat] []) (hp : crForbidden s.cur.cls n.toNat true = true) :
    Raises (.cwr n c) s g 2 := by
  have he : execCwr n c s = _ := s.issue_priv
    (q := { priv := crForbidden s.cur.cls n.toNat true, srcs := [srcS c false] }) hr.fresh hr.group rfl hp costOne _
  exact ⟨_, _, g, .inl rfl, he⟩

/-- Groups with the same data read the same control registers. -/
theorem State.crRead_same {g' : Group} (hs : SameData g g') (core n : Nat) : s.crRead core g' n = s.crRead core g n := by
  rw [State.crRead, State.crRead, Group.cr, hs.crs, hs.part]
  rfl

theorem SclResult.crd {n : BitVec 12} {c : BitVec 6} (hr : Ready s g [] [.s c.toNat])
    (hp : crForbidden s.cur.cls n.toNat false = false) (hflags : n.toNat = 0x10 ∨ n.toNat = 0x11 → s.flagsOpen s.cur.gid g.uid = false) :
    SclResult (.crd n c) s g c.toNat (s.crRead (coreOf s.cur.gid) g n.toNat) := by
  change ∃ t h, execCrd n c s = .next t ∧ _
  unfold execCrd
  rw [hp]
  obtain ⟨g', hsync, -, hissue⟩ := State.issue_dest hr costOne _
  rw [hissue]
  have hopen : ¬ ((n.toNat = 0x10 ∨ n.toNat = 0x11) ∧ (s.atCost (costOne g)).flagsOpen s.cur.gid g'.uid = true) := by
    rintro ⟨hn, ho⟩
    rw [hsync.data.uid] at ho
    exact Bool.false_ne_true ((hflags hn).symm.trans ho)
  obtain ⟨t, h, he, hframe, hholds, -⟩ := State.done_scalar (n := costOne g) (s.crRead (coreOf s.cur.gid) g n.toNat) hr hsync.data
  rw [← State.crRead_same hsync.data] at he
  exact ⟨t, h, (if_neg hopen).trans he, hframe, hholds⟩

/-- A shared register after a write of one of them. -/
theorem State.crRead_crWriteShared {core n : Nat} (x : Word) (hn : crOfGroup n = false) (m : Nat) :
    (s.crWriteShared g.part core n x).crRead core g m =
      if m = n then crNext n (s.crRead core g n) x else s.crRead core g m := by
  unfold State.crWriteShared State.crRead
  by_cases hm : m = n
  · subst hm
    by_cases hc : crOfCore m = true
    · simp [hn, hc, State.modCore, State.setCore, State.core]
    · simp [hn, hc, State.modPart, Part.cr, Part.setCr]
  · by_cases hc : crOfCore n = true
    · simp [hm, hc, State.modCore, State.setCore, State.core, State.part, Store.get_set_other]
    · have hentry : ((s.modPart g.part fun p => p.setCr n (crNext n (p.cr n) x)).part g.part).cr m = (s.part g.part).cr m := by
        rw [State.modPart, State.part_setPart_same, Part.cr, Part.setCr, Tab.get?_set_other _ _ _ _ hm]
        rfl
      rw [if_neg hm, if_neg hc, hentry]
      rfl

theorem State.crRead_congr {t : State} (hparts : t.parts = s.parts) (hcores : t.cores = s.cores) (core n : Nat) :
    t.crRead core g n = s.crRead core g n := by
  rw [State.crRead, State.crRead, State.core, State.core, State.part, State.part, hparts, hcores]

theorem SameData.sr {g' : Group} (hs : SameData g g') (n : Nat) : g'.sr n = g.sr n := by
  rw [Group.sr, Group.sr, hs.s, hs.kind, hs.msgDst, hs.rx, hs.msgSrc]

theorem State.crWriteShared_fields (part core n : Nat) (x : Word) :
    (s.crWriteShared part core n x).mem = s.mem ∧ (s.crWriteShared part core n x).cur = s.cur := by
  unfold State.crWriteShared
  split <;> exact ⟨rfl, rfl⟩

/-- The write that a CWR makes, once its class allows it and flags have been raised. -/
theorem State.cwr_write {n : BitVec 12} {c : BitVec 6} (hr : Ready s g [.s c.toNat] [])
    (hp : crForbidden s.cur.cls n.toNat true = false) (hflags : n.toNat = 0x10 ∨ n.toNat = 0x11 → s.flagsOpen s.cur.gid g.uid = false) :
    ∃ g', SyncOnly (g.claim [.s c.toNat]) g' ∧ exec (.cwr n c) s =
      if crOfGroup n.toNat then (s.atCost (costOne g)).done (g'.setCr n.toNat (crNext n.toNat (g'.cr n.toNat) (g'.sr c.toNat)))
        s.cur.mask .on 1 none
      else ((s.atCost (costOne g)).crWriteShared g'.part (coreOf s.cur.gid) n.toNat (g'.sr c.toNat)).done g' s.cur.mask .on 1 none := by
  have hsync := g.taken_sync { priv := crForbidden s.cur.cls n.toNat true, srcs := [srcS c false] } s.cur.mask
  refine ⟨_, hsync, ?_⟩
  change execCwr n c s = _
  unfold execCwr
  rw [s.issue_ready g { priv := crForbidden s.cur.cls n.toNat true, srcs := [srcS c false] } costOne _ hr rfl hp rfl hr.operands.sound]
  refine if_neg ?_
  rintro ⟨hn, ho⟩
  rw [hsync.data.uid, Group.claim_uid] at ho
  exact Bool.false_ne_true ((hflags hn).symm.trans ho)

theorem Completes.cwr {n : BitVec 12} {c : BitVec 6} (hr : Ready s g [.s c.toNat] [])
    (hp : crForbidden s.cur.cls n.toNat true = false) (hflags : n.toNat = 0x10 ∨ n.toNat = 0x11 → s.flagsOpen s.cur.gid g.uid = false)
    (hgroup : crOfGroup n.toNat = true) :
    Completes (.cwr n c) s (g.claim [.s c.toNat]) [] (fun _ h => h.cr n.toNat =
      crNext n.toNat ((g.claim [.s c.toNat]).cr n.toNat) ((g.claim [.s c.toNat]).sr c.toNat)) [n.toNat] := by
  obtain ⟨g', hsync, he⟩ := State.cwr_write hr hp hflags
  rw [if_pos hgroup] at he
  obtain ⟨t, h, hdone, hframe, hdata, -⟩ := (s.atCost (costOne g)).done_spec g' _ s.cur.mask .on 1 none [] [n.toNat] hr.fresh
    (g'.setCr_same n.toNat (crNext n.toNat (g'.cr n.toNat) (g'.sr c.toNat)) [] _ (by simp))
  refine ⟨t, h, he.trans hdone, .claimed hsync hframe, ?_⟩
  have hcr : g'.cr n.toNat = (g.claim [.s c.toNat]).cr n.toNat := by rw [Group.cr, Group.cr, hsync.data.crs]
  calc h.cr n.toNat = (g'.setCr n.toNat (crNext n.toNat (g'.cr n.toNat) (g'.sr c.toNat))).cr n.toNat := by
        rw [Group.cr, Group.cr, hdata.crs]
    _ = crNext n.toNat (g'.cr n.toNat) (g'.sr c.toNat) := g'.cr_setCr _ _
    _ = _ := by rw [hcr, hsync.data.sr]

/-- CWR of a register that the group shares. -/
theorem State.cwr_shared {n : BitVec 12} {c : BitVec 6} (hr : Ready s g [.s c.toNat] [])
    (hp : crForbidden s.cur.cls n.toNat true = false) (hflags : n.toNat = 0x10 ∨ n.toNat = 0x11 → s.flagsOpen s.cur.gid g.uid = false)
    (hshared : crOfGroup n.toNat = false) :
    ∃ t h, exec (.cwr n c) s = .next t ∧ SameMemory s t ∧ t.group? s.cur.gid = some h ∧ SameRegs (g.claim [.s c.toNat]) h [] [] ∧
      ∀ m, t.crRead (coreOf s.cur.gid) h m =
        if m = n.toNat then crNext n.toNat (s.crRead (coreOf s.cur.gid) (g.claim [.s c.toNat]) n.toNat)
          ((g.claim [.s c.toNat]).sr c.toNat)
        else s.crRead (coreOf s.cur.gid) (g.claim [.s c.toNat]) m := by
  obtain ⟨g', hsync, he⟩ := State.cwr_write hr hp hflags
  rw [if_neg (by simp [hshared])] at he
  obtain ⟨hmem, hcur⟩ := (s.atCost (costOne g)).crWriteShared_fields g'.part (coreOf s.cur.gid) n.toNat (g'.sr c.toNat)
  obtain ⟨t, h, hdone, hframe, hdata, -⟩ := State.done_spec
    ((s.atCost (costOne g)).crWriteShared g'.part (coreOf s.cur.gid) n.toNat (g'.sr c.toNat)) g' g' s.cur.mask .on 1 none [] []
    (by rw [hcur]; exact hr.fresh) (.of_data (.rfl' g') _ _)
  refine ⟨t, h, he.trans hdone, fun cell => ?_, ?_, .trans (.of_data hsync.data _ _) hframe.regs, fun m => ?_⟩
  · rw [hframe.memory, hmem]
    rfl
  · have hgroup := hframe.group
    rw [hcur] at hgroup
    exact hgroup
  · rw [State.crRead_congr hframe.units.parts hframe.units.cores, State.crRead_same hdata, State.crRead_crWriteShared _ hshared,
      hsync.data.sr, State.crRead_same hsync.data, State.crRead_same hsync.data]
    rfl

theorem controlRegisters : Parts.ControlRegisters := by
  refine fun s g n c hflags => ⟨fun hr => ⟨fun hpriv => .crd hr (crForbidden_read_iff.2 hpriv), fun hallowed => .crd hr ?_ hflags⟩,
    fun hr => ⟨fun hpriv => .cwr hr (crForbidden_write_iff.2 hpriv), fun hallowed => ?_⟩⟩
  · rw [Bool.eq_false_iff, Ne, crForbidden_read_iff]
    tauto
  · have hp : crForbidden s.cur.cls n.toNat true = false := by
      rw [Bool.eq_false_iff, Ne, crForbidden_write_iff]
      rintro (h1 | ⟨h2, hdebug⟩)
      · omega
      · exact hallowed.elim (fun h0 => by omega) fun h => hdebug h.2
    refine ⟨fun hgroup => ?_, fun hshared => ?_⟩
    · rw [← crNext_of_group hgroup]
      exact .cwr hr hp hflags hgroup
    · obtain ⟨t, h, he, hmem, hg, hregs, hread⟩ := State.cwr_shared hr hp hflags hshared
      exact ⟨t, h, he, hmem, hg, hregs, (hread _).trans (if_pos rfl), fun m hm => (hread m).trans (if_neg hm)⟩

end Sys2Proof.Machine

namespace Sys2Proof

/-- Settles O12: SRD from what one register write leaves, CRD and CWR by the class of the register. -/
theorem specialAndControlRegisters : Obligations.SpecialAndControlRegisters :=
  ⟨Machine.specialRegisters, Machine.controlRegisters⟩

end Sys2Proof
end

section
/-! O16: a REP that one of its repeats forbids. The target has been fetched by then, and the cause is raised in the state that the fetch
leaves; `Raises` speaks of the state before it, in which no TLB has taken a translation. -/

namespace Sys2Proof.Machine

variable {s : State} {g : Group}

/-- A trap that a handler takes touches no core. -/
theorem State.raise_cores (mask : Mask) (cause : Nat) (code : Word) (d : Option Reg) (va : DWord) (hd : s.cur.defer = none)
    (hc : s.cur.cls = .ordinary) (hh : s.handles g.part) : (s.raise g mask cause code d va).cores = s.cores := by
  obtain ⟨hvec, hlull⟩ := hh
  unfold State.raise
  rw [hd, hc]
  change (if ((s.part g.part).trapVec = 0) then _ else _ : State).cores = _
  rw [if_neg hvec]
  change (if (s.part g.part).lullTrap then _ else _ : State).cores = _
  rw [if_neg (by simp [hlull])]
  rfl

theorem Group.taken_part (g : Group) (q : Need') (m : Mask) : (g.taken q m).part = g.part :=
  (g.taken_sync q m).data.part.trans (g.claim_part _)

/-- Where a handler takes the trap, an instruction that raises its cause in the state it finds leaves every core as it was. -/
theorem Raises.cores {i : Instr} {cause : Nat} (hr : Raises i s g cause) (hd : s.cur.defer = none) (hc : s.cur.cls = .ordinary)
    (hh : s.handles g.part) : ∃ t, exec i s = .next t ∧ t.cores = s.cores := by
  obtain ⟨d, n, h, hgroup, he⟩ := hr
  have hpart : h.part = g.part := by
    obtain rfl | ⟨q, rfl⟩ := hgroup
    · rfl
    · exact g.taken_part q _
  exact ⟨_, he, State.raise_cores (s := s.atCost n) _ _ _ _ _ hd hc (hpart ▸ hh)⟩

/-- Lanes 0 and 1 of the launched group stand at a REP, with the H word IADD v0, v16 behind it. The page's translation is in the TLB of
the cluster and not in that of the core. -/
def beforeRep : State :=
  let s := State.reset.launch (0x0404 * 2 ^ 32)
  { s.modPart 0 fun p => p.setCr 0x40 0x1000 with
    agenda := []
    cur := { Cur.idle with pc := launchPc, mask := 3 }
    cores := []
    clusters := [(0, { Cluster.reset with tlb := [launchTlb] })] }

/-- Its group. -/
def repGroup : Group := launchGroup (State.reset.fresh + 42) (State.reset.fresh + 41)

theorem ready_beforeRep : Ready beforeRep repGroup [] [] :=
  ⟨rfl, rfl, ⟨by simp, by simp, by simp, by simp, by decide⟩⟩

/-- The fetch of the word behind the REP hits in the cluster's TLB. -/
theorem fetch_beforeRep : (beforeRep.atCost 1).fetch (beforeRep.issuer beforeRep.cur.gid repGroup) (beforeRep.cur.pc + 4) =
    .instr (.iaddH 0 16 false) 2 0x0404 := by decide

/-- A REP of that word which steps its source b, a field that an H word does not have: the core's TLB has taken the translation. -/
theorem exec_beforeRep : ∃ t, exec (.rep 0 true false false 0) beforeRep = .next t ∧ (t.core 0).tlb = [launchTlb] :=
  ⟨_, rfl, by decide⟩

end Sys2Proof.Machine

namespace Sys2Proof

open Machine

/-- Refutes O16: the REP of `beforeRep` is refused with cause 1 once its target has been fetched, and the fetch has filled the core's TLB.
The statement's `Raises` has the cause raised in the state before the fetch, in which that TLB is empty. -/
theorem not_repeatBegins : ¬ Obligations.RepeatBegins := by
  intro h
  obtain ⟨-, -, -, hfetched⟩ := h beforeRep repGroup 0 true false false 0 ready_beforeRep rfl
  obtain ⟨hrefused, -⟩ := hfetched _ 2 0x0404 fetch_beforeRep
  obtain ⟨t, he, hcores⟩ := (hrefused 1 (by decide)).cores rfl rfl ⟨by decide, by decide⟩
  obtain ⟨u, hu, htlb⟩ := exec_beforeRep
  obtain rfl : t = u := by
    rw [he] at hu
    injection hu
  have hempty : (t.core 0).tlb = [] := by rw [State.core, hcores]; rfl
  exact absurd (htlb.symm.trans hempty) (by decide)

end Sys2Proof
end

section
/-! O18: issuing loads, atomics and tile loads. An issue leaves accesses in the queue and entries in the TLBs and the L1 data cache;
`Queued` says what each of its steps adds, and composes; `State.finish_queued` ends the issue. Stores use the same rules (O19). -/

namespace Sys2Proof.Machine

variable {s t u : State} {g g' : Group} {gid : Nat} {xs ys : List Acc}

/-! The units of a slot. -/

theorem coreOf_div_four (gid : Nat) : coreOf gid / 4 = clusterOf gid := Nat.div_div_eq_div_mul gid 68 4

theorem dieOfCore_coreOf (gid : Nat) : dieOfCore (coreOf gid) = dieOf gid := by
  unfold dieOfCore coreOf dieOf dieOfCluster clusterOf
  rw [Nat.div_div_eq_div_mul, Nat.div_div_eq_div_mul]

/-! Components that stay. -/

theorem Same.trans {c : Comp} (h : Same s t c) (k : Same t u c) : Same s u c := by
  cases c
  case late | mc => exact Eq.trans k h
  case poison | time => exact ⟨k.1.trans h.1, k.2.trans h.2⟩
  all_goals exact fun i => (k i).trans (h i)

theorem Keeps.trans {may : List Comp} (h : Keeps s t may) (k : Keeps t u may) : Keeps s u may :=
  fun c hc => (h c hc).trans (k c hc)

/-- What an issue that queues accesses may change. -/
def issueComps : List Comp := [.groups, .sps, .cores, .clusters, .dies, .ops, .accs]

/-- A step of such an issue. The number that the next access or operation takes is no component. -/
theorem Keeps.issueStep {groups : Tab Group} {sps : Tab Sp} {cores : Tab Core} {clusters : Tab Cluster} {dies : Tab Die} {ops : Tab Op}
    {accs : Tab Acc} {fresh : Nat} (h : Keeps s t issueComps) :
    Keeps s { t with groups, sps, cores, clusters, dies, ops, accs, fresh } issueComps := by
  intro c hc
  have hsame := h c hc
  cases c
  case groups | sps | cores | clusters | dies | ops | accs => exact absurd (by decide) hc
  all_goals exact hsame

/-! Queueing accesses. -/

/-- `t` follows `s` by queueing some accesses of a slot under new numbers, and by what their translations and reads leave in the slot's
TLBs, L1 data cache and die (03 R66, R77). -/
structure Queued (gid : Nat) (s t : State) (xs : List Acc) : Prop where
  keeps : Keeps s t issueComps
  cur : t.cur = s.cur
  groups : t.groups = s.groups
  ops : t.ops = s.ops
  core : OnlyCore s t (coreOf gid) ∧ ∃ a b, t.core (coreOf gid) = { s.core (coreOf gid) with tlb := a, l1 := b }
  cluster : OnlyCluster s t (clusterOf gid) ∧ ∃ a, t.cluster (clusterOf gid) = { s.cluster (clusterOf gid) with tlb := a }
  die : OnlyDie s t (dieOf gid)
  fresh : s.fresh ≤ t.fresh
  kept : ∀ i, i < s.fresh → t.accs.get? i = s.accs.get? i
  made : ∀ a ∈ xs, ∃ i, s.fresh ≤ i ∧ i < t.fresh ∧ t.accs.get? i = some a
  only : ∀ i a, t.accs.get? i = some a → s.accs.get? i = some a ∨ a ∈ xs

/-- A step that queues nothing. -/
theorem Queued.caches (hkeeps : Keeps s t issueComps)
    (hrest : t.cur = s.cur ∧ t.groups = s.groups ∧ t.ops = s.ops ∧ t.fresh = s.fresh ∧ t.accs = s.accs)
    (hcore : OnlyCore s t (coreOf gid) ∧ ∃ a b, t.core (coreOf gid) = { s.core (coreOf gid) with tlb := a, l1 := b })
    (hcluster : OnlyCluster s t (clusterOf gid) ∧ ∃ a, t.cluster (clusterOf gid) = { s.cluster (clusterOf gid) with tlb := a })
    (hdie : OnlyDie s t (dieOf gid)) : Queued gid s t [] := by
  obtain ⟨hcur, hgroups, hops, hfresh, haccs⟩ := hrest
  exact ⟨hkeeps, hcur, hgroups, hops, hcore, hcluster, hdie, hfresh.ge, fun _ _ => by rw [haccs], fun _ ha => absurd ha List.not_mem_nil,
    fun _ _ h => .inl (haccs ▸ h)⟩

theorem Queued.refl (gid : Nat) (s : State) : Queued gid s s [] :=
  .caches (.refl s _) ⟨rfl, rfl, rfl, rfl, rfl⟩ ⟨fun _ _ => rfl, _, _, rfl⟩ ⟨fun _ _ => rfl, _, rfl⟩ fun _ _ => rfl

theorem Queued.trans (h : Queued gid s t xs) (k : Queued gid t u ys) : Queued gid s u (xs ++ ys) where
  keeps := h.keeps.trans k.keeps
  cur := k.cur.trans h.cur
  groups := k.groups.trans h.groups
  ops := k.ops.trans h.ops
  core := by
    obtain ⟨hother, a, b, hcore⟩ := h.core
    obtain ⟨kother, c, d, kcore⟩ := k.core
    exact ⟨fun i hi => (kother i hi).trans (hother i hi), c, d, by rw [kcore, hcore]⟩
  cluster := by
    obtain ⟨hother, a, hcluster⟩ := h.cluster
    obtain ⟨kother, b, kcluster⟩ := k.cluster
    exact ⟨fun i hi => (kother i hi).trans (hother i hi), b, by rw [kcluster, hcluster]⟩
  die i hi := (k.die i hi).trans (h.die i hi)
  fresh := h.fresh.trans k.fresh
  kept i hi := (k.kept i (hi.trans_le h.fresh)).trans (h.kept i hi)
  made a ha := by
    rcases List.mem_append.mp ha with ha | ha
    · obtain ⟨i, hlow, hhigh, hget⟩ := h.made a ha
      exact ⟨i, hlow, hhigh.trans_le k.fresh, (k.kept i hhigh).trans hget⟩
    · obtain ⟨i, hlow, hhigh, hget⟩ := k.made a ha
      exact ⟨i, h.fresh.trans hlow, hhigh, hget⟩
  only i a hget := by
    rcases k.only i a hget with hget | ha
    · exact (h.only i a hget).imp_right (List.mem_append_left ys)
    · exact .inr (List.mem_append_right xs ha)

/-- Steps that each queue the accesses of one element of a list. -/
theorem Queued.foldl {α : Type} {f : State → α → State} {acc : α → List Acc} (hf : ∀ s x, Queued gid s (f s x) (acc x))
    (l : List α) (s : State) : Queued gid s (l.foldl f s) (l.flatMap acc) := by
  induction l generalizing s with
  | nil => exact .refl gid s
  | cons x r ih => exact (hf s x).trans (ih (f s x))

theorem Queued.setCore (gid : Nat) (s : State) (a : List Tlb) (b : List Nat) :
    Queued gid s (s.setCore (coreOf gid) { s.core (coreOf gid) with tlb := a, l1 := b }) [] :=
  .caches (Keeps.refl s _).issueStep ⟨rfl, rfl, rfl, rfl, rfl⟩
    ⟨fun i hi => Tab.getD_set_other _ _ i _ _ hi, a, b, Tab.getD_set_same _ _ _ _⟩ ⟨fun _ _ => rfl, _, rfl⟩ fun _ _ => rfl

theorem Queued.setCluster (gid : Nat) (s : State) (a : List Tlb) :
    Queued gid s (s.setCluster (clusterOf gid) { s.cluster (clusterOf gid) with tlb := a }) [] :=
  .caches (Keeps.refl s _).issueStep ⟨rfl, rfl, rfl, rfl, rfl⟩ ⟨fun _ _ => rfl, _, _, rfl⟩
    ⟨fun i hi => Tab.getD_set_other _ _ i _ _ hi, a, Tab.getD_set_same _ _ _ _⟩ fun _ _ => rfl

theorem Queued.setDie (gid : Nat) (s : State) (x : Die) : Queued gid s (s.setDie (dieOf gid) x) [] :=
  .caches (Keeps.refl s _).issueStep ⟨rfl, rfl, rfl, rfl, rfl⟩ ⟨fun _ _ => rfl, _, _, rfl⟩ ⟨fun _ _ => rfl, _, rfl⟩
    fun i hi => Tab.getD_set_other _ _ i _ _ hi

/-- One access takes the next number. -/
theorem Queued.push (gid : Nat) (s : State) (a : Acc) :
    Queued gid s { s with accs := s.accs.set s.fresh a, fresh := s.fresh + 1 } [a] where
  keeps := (Keeps.refl s _).issueStep
  cur := rfl
  groups := rfl
  ops := rfl
  core := ⟨fun _ _ => rfl, _, _, rfl⟩
  cluster := ⟨fun _ _ => rfl, _, rfl⟩
  die _ _ := rfl
  fresh := Nat.le_succ _
  kept _ hi := Tab.get?_set_other _ _ _ _ (Nat.ne_of_lt hi)
  made x hx := by
    obtain rfl := List.mem_singleton.mp hx
    exact ⟨s.fresh, le_rfl, Nat.lt_succ_self _, Tab.get?_set_same _ _ _⟩
  only i x hget := by
    rw [Tab.get?_set] at hget
    split at hget
    · exact .inr (List.mem_singleton.mpr (Option.some.inj hget).symm)
    · exact .inl hget

/-! TLBs, walks and the L1 data cache. -/

theorem Queued.tlbFill (gid : Nat) (s : State) (part : Nat) (va : DWord) : Queued gid s (s.tlbFill (coreOf gid) part va) [] := by
  unfold State.tlbFill
  split
  · next n tr _ =>
    dsimp only
    split
    · exact .setCore gid s _ _
    · rw [coreOf_div_four]
      exact (Queued.setCore gid s (tlbPush 64 tr (s.core (coreOf gid)).tlb) _).trans (.setCluster gid _ _)
  · exact .refl gid s

theorem Queued.addWalk (gid : Nat) (s : State) (part page : Nat) :
    Queued gid s (s.addWalk (dieOfCore (coreOf gid)) part page) [] := by
  unfold State.addWalk
  rw [dieOfCore_coreOf]
  split
  · exact .refl gid s
  · exact .setDie gid s _

theorem Queued.noteTlb (gid : Nat) (s : State) (part : Nat) (ps : List Piece) :
    Queued gid s (s.noteTlb (coreOf gid) part ps) [] := by
  have hfold := Queued.foldl (gid := gid) (acc := fun _ : Piece => []) (fun (s : State) (p : Piece) => by
    show Queued gid s (if p.page.2 = 0 then s else match p.walk with
      | some page => s.addWalk (dieOfCore (coreOf gid)) part page
      | none => s.tlbFill (coreOf gid) part p.va) []
    split
    · exact .refl gid s
    · split
      · exact .addWalk gid s part _
      · exact .tlbFill gid s part p.va) ps s
  rw [List.flatMap_eq_nil_iff.mpr fun _ _ => rfl] at hfold
  exact hfold

theorem Queued.cacheLines (s : State) (g : Group) (policy : Nat) (ps : List Piece) :
    Queued s.cur.gid s (s.cacheLines g policy ps) [] := by
  unfold State.cacheLines
  dsimp only
  split
  · exact .refl _ s
  · exact .setCore s.cur.gid s _ _

/-! The parts of an issue. -/

/-- The access that a piece of one lane's range becomes: `t` is what the lane's parts have in common. -/
def Piece.access (p : Piece) (t : Acc) (act : Piece → Act) (ps : List Piece) : Acc :=
  { t with
    okind := p.okind, loc := p.loc, len := p.len, boff := p.boff, va := p.va, act := act p
    whole := wholeLine ps p, page := p.page, walk := p.walk }

/-- What the parts of one of an issue's accesses have in common: the lane, its threads and what they follow. -/
def Acc.ofLane (t : Acc) (g : Group) (ls : Nat → List Nat) (j : Nat) : Acc :=
  { t with lane := j, who := if t.path = .ls then g.whoOf (ls j) else [], sync := g.syncOf (ls j) }

theorem Queued.pushParts (s : State) (t : Acc) (act : Piece → Act) (ps : List Piece) :
    Queued t.gid s (s.pushParts t act ps) (ps.map fun p => p.access t act ps) := by
  have hfold := Queued.foldl (fun s p => Queued.push t.gid s (p.access t act ps)) ps s
  have hall := hfold.trans (.noteTlb t.gid _ t.part ps)
  rwa [List.append_nil, ← List.map_eq_flatMap] at hall

/-- Every part of every access of an issue is queued. -/
theorem Queued.pushAll (s : State) (g : Group) (t : Acc) (r : Resolved) (ls : Nat → List Nat) (act : Nat → Piece → Act) :
    Queued t.gid s (s.pushAll g t r ls act)
      (r.flatMap fun x => (piecesOf x.2).map fun p => p.access (t.ofLane g ls x.1) (act x.1) (piecesOf x.2)) :=
  Queued.foldl (fun s x => Queued.pushParts s (t.ofLane g ls x.1) (act x.1) (piecesOf x.2)) r s

/-! The end of an issue that queues accesses. -/

/-- The next number is taken: by an operation, which then stands among `ops`, or by a store, which leaves none. -/
def State.numbered (s : State) (ops : Tab Op) : State := { s with ops, fresh := s.fresh + 1 }

theorem State.cacheLines_numbered (s : State) (ops : Tab Op) (g : Group) (policy : Nat) (ps : List Piece) :
    (s.cacheLines g policy ps).numbered ops = (s.numbered ops).cacheLines g policy ps :=
  apply_ite (State.numbered · ops) _ _ _

theorem Keeps.finish (s : State) (g : Group) (m : Mask) (x : Goes) (cost : Nat) : Keeps s (s.finish g m x cost) issueComps := by
  unfold State.finish
  dsimp only
  split
  · exact (Keeps.refl s _).issueStep
  · exact (Keeps.refl s _).issueStep
  · split
    · exact (Keeps.refl s _).issueStep
    · exact (Keeps.refl s _).issueStep

theorem GoesTo.of_cur {h : Group} {f : Nat → DWord} (hc : t.cur = s.cur) (hg : GoesTo t g h f) : GoesTo s g h f := by
  unfold GoesTo at hg ⊢
  rwa [hc] at hg

/-- What the parts of an issue's accesses have in common, the operation's number being the next. -/
def State.accOf (s : State) (g : Group) (path : Path) (q : BitVec 4) (acq rel : Bool) : Acc := s.accBase g s.fresh path q acq rel

/-- A queued access stands for its piece. -/
theorem PartOf.access (s : State) (g : Group) (path : Path) (q : BitVec 4) (acq rel : Bool) (ls lanes : Nat → List Nat) (j : Nat)
    (act : Piece → Act) (ps : List Piece) (p : Piece) (hl : path = .ls → ls = lanes) :
    PartOf s g (p.access ((s.accOf g path q acq rel).ofLane g ls j) act ps) s.fresh j p ⟨path, q.toNat, acq, rel, lanes⟩ (act p) := by
  refine ⟨rfl, rfl, rfl, rfl, rfl, rfl, rfl, rfl, rfl, rfl, rfl, ?_, rfl, rfl, rfl, rfl, rfl, rfl, rfl, ?_⟩
  · exact congrArg (· + 1) (bitsOf_eq_extractLsb' (g.cr q.toNat) 2 2)
  · show (if path = .ls then g.whoOf (ls j) else []) = if path = .ls then _ else []
    split
    · next hp => rw [hl hp]; rfl
    · rfl

section Issued

variable {dests : List Reg} {lanes : List Nat} {ps : Nat → List Piece} {w : Way} {act : Nat → Piece → Act} {ops : Tab Op}
  {g1 h : Group}

/-- An issue that has queued exactly the accesses of its lanes, and then ends with its registers written. -/
theorem State.finish_queued (cost : Nat) (hops : ∀ i, i ≠ s.fresh → ops.get? i = s.ops.get? i)
    (hq : Queued s.cur.gid (s.numbered ops) t xs) (hr : SameRegs g g1 dests []) (hlen : g1.lanes.length = g.lanes.length)
    (hpc : ∀ j, (g1.lane j).pc = (g.lane j).pc) (hh : g1.handling = g.handling)
    (hmade : ∀ j ∈ lanes, ∀ p ∈ ps j, ∃ a ∈ xs, PartOf s g a s.fresh j p w (act j p))
    (honly : ∀ a ∈ xs, ∃ j ∈ lanes, ∃ p ∈ ps j, PartOf s g a s.fresh j p w (act j p)) :
    ∃ h, Accesses s (t.finish g1 s.cur.mask .on cost) g h dests lanes ps w act ∧ SameData g1 h ∧
      (t.finish g1 s.cur.mask .on cost).ops = ops := by
  have hcur : t.cur = s.cur := hq.cur
  obtain ⟨h, hf⟩ := t.finish_spec g1 s.cur.mask .on cost
  have hgroups : (t.finish g1 s.cur.mask .on cost).groups = t.groups.set s.cur.gid h := by rw [hf.groups, hcur]
  have hgroup : (t.finish g1 s.cur.mask .on cost).group? s.cur.gid = some h := by rw [State.group?, hgroups, Tab.get?_set_same]
  refine ⟨h, ?_, hf.data, hf.ops.trans hq.ops⟩
  exact {
    keeps := ((Keeps.refl s _).issueStep.trans hq.keeps).trans (Keeps.finish t g1 s.cur.mask .on cost)
    others := fun i hi => by
      rw [State.group?, hgroups, Tab.get?_set_other _ _ _ _ hi, hq.groups]
      rfl
    group := hgroup
    regs := hr.trans (.of_data hf.data dests [])
    goes := by
      have hgoes := t.finish_goes g g1 h .on cost rfl hlen hpc hh (by rw [hcur]; exact hgroup)
      rw [hcur] at hgoes
      exact .of_cur hcur hgoes
    core := by
      simp only [OnlyCore, State.core, hf.cores]
      exact hq.core
    cluster := by
      simp only [OnlyCluster, State.cluster, hf.clusters]
      exact hq.cluster
    die := fun i hi => by
      rw [State.die, hf.dies]
      exact hq.die i hi
    ops := fun i hi => by
      rw [hf.ops, hq.ops]
      exact hops i hi
    kept := fun i hi => by
      rw [hf.accs]
      exact hq.kept i (Nat.lt_succ_of_lt hi)
    made := fun j hj p hp => by
      obtain ⟨a, ha, hpart⟩ := hmade j hj p hp
      obtain ⟨i, hlow, -, hget⟩ := hq.made a ha
      exact ⟨i, a, hlow, hf.accs ▸ hget, hpart⟩
    only := fun i a hget => by
      rw [hf.accs] at hget
      exact (hq.only i a hget).imp_right (honly a) }

/-- The accesses of an issue whose lanes resolved are queued, and it ends with its registers written: `t` is the state once the next number
is taken. -/
theorem State.finish_accesses {path : Path} {q : BitVec 4} {acq rel : Bool} {ls who : Nat → List Nat} (cost : Nat)
    (hops : ∀ i, i ≠ s.fresh → ops.get? i = s.ops.get? i) (hq : Queued s.cur.gid (s.numbered ops) t [])
    (hr : SameRegs g g1 dests []) (hlen : g1.lanes.length = g.lanes.length) (hpc : ∀ j, (g1.lane j).pc = (g.lane j).pc)
    (hh : g1.handling = g.handling) (hls : path = .ls → ls = who) :
    let u := (t.pushAll g (s.accOf g path q acq rel) (lanes.map fun j => (j, .ok (ps j))) ls act).finish g1 s.cur.mask .on cost
    ∃ h, Accesses s u g h dests lanes ps ⟨path, q.toNat, acq, rel, who⟩ act ∧ SameData g1 h ∧ u.ops = ops := by
  have hpart := fun j p => PartOf.access s g path q acq rel ls who j (act j) (ps j) p hls
  refine State.finish_queued cost hops (hq.trans (Queued.pushAll t g (s.accOf g path q acq rel) _ ls act)) hr hlen hpc hh
    (fun j hj p hp => ⟨_, ?_, hpart j p⟩) fun a ha => ?_
  · rw [List.nil_append, List.mem_flatMap]
    exact ⟨_, List.mem_map_of_mem hj, List.mem_map_of_mem hp⟩
  · rw [List.nil_append, List.mem_flatMap] at ha
    obtain ⟨x, hx, ha⟩ := ha
    obtain ⟨j, hj, rfl⟩ := List.mem_map.mp hx
    obtain ⟨p, hp, rfl⟩ := List.mem_map.mp ha
    exact ⟨j, hj, p, hp, hpart j p⟩

end Issued

/-! The group that an effect acts on has the registers, the threads and the scratchpad of the group that issues. -/

theorem SyncOnly.vr (hs : SyncOnly g g') (n j : Nat) : g'.vr n j = g.vr n j := by rw [Group.vr, Group.vr, hs.data.v]

theorem SyncOnly.tw (hs : SyncOnly g g') (n j : Nat) : g'.tw n j = g.tw n j := by rw [Group.tw, Group.tw, hs.data.t]

theorem SyncOnly.pc (hs : SyncOnly g g') (j : Nat) : (g'.lane j).pc = (g.lane j).pc := by
  obtain ⟨y, hy⟩ := hs.lane j
  rw [hy]

theorem SyncOnly.eaV (hs : SyncOnly g g') (sp : BitVec 2) (a : BitVec 7) (j : Nat) :
    g'.eaV sp a j = laneAddress g sp a.toNat j := by
  simp only [Group.eaV, Group.vr64, pair64, laneAddress, hs.vr]

theorem SyncOnly.eaS (hs : SyncOnly g g') (sp : BitVec 2) (a : BitVec 7) : g'.eaS sp a = scalarAddress g sp a.toNat := by
  simp only [Group.eaS, Group.sr64, pair64, scalarAddress, hs.data.sr]

theorem SyncOnly.tileRow (hs : SyncOnly g g') (n i : Nat) :
    Machine.tileRow g' n i = scalarAddress g 0 n + BitVec.ofInt 64 (i * (g.sr (n + 2)).toInt) := by
  simp only [Machine.tileRow, Group.sr64, pair64, scalarAddress, hs.data.sr, if_pos]

theorem SyncOnly.issuer (hs : SyncOnly g g') (s : State) (n gid : Nat) : (s.atCost n).issuer gid g' = s.issuer gid g := by
  simp only [State.issuer, hs.data.kind, hs.data.part, hs.team, State.atCost_teams]

theorem State.resolveFlat_atCost (s : State) (n : Nat) (w : Issuer) (need : Need) (va : DWord) (len : Nat) :
    (s.atCost n).resolveFlat w need va len = s.resolveFlat w need va len := rfl

theorem SyncOnly.resolveAcc (hs : SyncOnly g g') (s : State) (n : Nat) (sp : BitVec 2) (need : Need) (ea : DWord) (len : Nat) (qual : Bool)
    (atomic : Option (Nat × Nat)) :
    (s.atCost n).resolveAcc g' sp need ea len qual atomic = s.resolveAcc g sp need ea len qual atomic := by
  simp only [State.resolveAcc, State.atCost_cur_gid, hs.issuer]
  rfl

theorem PartOf.claimed {a : Acc} {op j n : Nat} {p : Piece} {w : Way} {act : Act} (hs : SyncOnly g g')
    (hp : PartOf (s.atCost n) g' a op j p w act) : PartOf s g a op j p w act := by
  have hlane : ∀ k, (g'.lane k).tid = (g.lane k).tid ∧ (g'.lane k).passes = (g.lane k).passes := by
    intro k
    obtain ⟨y, hy⟩ := hs.lane k
    rw [hy]
    exact ⟨rfl, rfl⟩
  simpa only [PartOf, hs.data.uid, hs.data.part, hs.team, Group.cr, hs.data.crs, hlane, State.atCost_cur_gid] using hp

theorem GoesTo.claimed {h : Group} {f : Nat → DWord} {n : Nat} (hs : SyncOnly g g') (hg : GoesTo (s.atCost n) g' h f) :
    GoesTo s g h f := by
  simpa only [GoesTo, hs.length, hs.handling, hs.pc, State.atCost_cur_mask, State.atCost_cur_cls, State.atCost_cur_rep] using hg

theorem Accesses.claimed {dests : List Reg} {lanes : List Nat} {ps : Nat → List Piece} {w : Way} {act : Nat → Piece → Act} {h : Group}
    {n : Nat} (hs : SyncOnly g g') (ha : Accesses (s.atCost n) t g' h dests lanes ps w act) :
    Accesses s t g h dests lanes ps w act where
  keeps c hc := by
    have hsame := ha.keeps c hc
    cases c <;> exact hsame
  others := ha.others
  group := ha.group
  regs := .trans (.of_data hs.data dests []) ha.regs
  goes := .claimed hs ha.goes
  core := ha.core
  cluster := ha.cluster
  die := ha.die
  ops := ha.ops
  kept := ha.kept
  made j hj p hp := by
    obtain ⟨i, a, hi, hget, hpart⟩ := ha.made j hj p hp
    exact ⟨i, a, hi, hget, hpart.claimed hs⟩
  only i a hget := (ha.only i a hget).imp_right fun ⟨j, hj, p, hp, hpart⟩ => ⟨j, hj, p, hp, hpart.claimed hs⟩

/-! What the threads of an issue follow from then on. -/

theorem Group.modLanes_sync (g : Group) (f : Nat → Lane → Lane) (hf : ∀ j l, ∃ y, f j l = { l with sync := y }) :
    SyncOnly g (g.modLanes f) where
  data := g.modLanes_same f
  length := g.length_modLanes f
  lane j := by
    unfold Group.lane Group.modLanes
    rw [mapLanes_get, Nat.zero_add]
    cases g.lanes[j]? with
    | none => exact ⟨_, rfl⟩
    | some l => exact hf j l
  handling := rfl
  rep := rfl
  parked := rfl
  team := rfl
  gnum := rfl
  level := rfl
  zwaits := rfl
  enterAt := rfl

theorem Lane.follows_sync (l : Lane) (t : Acc) (ps : List Piece) : ∃ y, l.follows t ps = { l with sync := y } := by
  unfold Lane.follows
  split
  · exact ⟨_, rfl⟩
  · split
    · exact ⟨_, rfl⟩
    · split <;> exact ⟨_, rfl⟩

theorem Group.follow_sync (g : Group) (t : Acc) (r : Resolved) (ls : Nat → List Nat) : SyncOnly g (g.follow t r ls) := by
  refine g.modLanes_sync _ fun j l => ?_
  induction r generalizing l with
  | nil => exact ⟨_, rfl⟩
  | cons x r ih =>
    obtain ⟨y, hy⟩ : ∃ y, (if (ls x.1).contains j then l.follows t (piecesOf x.2) else l) = { l with sync := y } := by
      split
      · exact l.follows_sync t _
      · exact ⟨_, rfl⟩
    obtain ⟨z, hz⟩ := ih { l with sync := y }
    exact ⟨z, by rw [List.foldl_cons, hy, hz]⟩

/-! Starting a load and a store. -/

theorem State.cacheLines_cores (s : State) (g : Group) (policy : Nat) (ps : List Piece) :
    s.cacheLines g policy ps = { s with cores := (s.cacheLines g policy ps).cores } := by
  unfold State.cacheLines
  dsimp only
  split <;> rfl

section Start

variable {dests : List Reg} {lanes : List Nat} {ps : Nat → List Piece} {act : Nat → Piece → Act} {ls : Nat → List Nat}

theorem faultsOf_ok (lanes : List Nat) (ps : Nat → List Piece) : faultsOf (lanes.map fun j => (j, .ok (ps j))) = [] := by
  rw [faultsOf, List.filterMap_eq_nil_iff]
  intro x hx
  obtain ⟨j, -, rfl⟩ := List.mem_map.mp hx
  rfl

theorem State.produce_cacheLines (s : State) (g : Group) (policy : Nat) (pieces : List Piece) (cls : PClass) (dests : List Reg)
    (lat : Nat) (kind : OpKind) : (s.cacheLines g policy pieces).produce g cls dests lat kind =
      ((s.cacheLines g policy pieces).numbered (s.ops.set s.fresh (s.opOf g cls dests lat kind)), g.markEmpty dests) := by
  rw [s.cacheLines_cores]
  rfl

/-- A load in the order of its steps: it reads lines, takes a number for its operation, queues its accesses, and ends. -/
theorem State.startLoad_eq (s : State) (g : Group) (r : Resolved) (ls : Nat → List Nat) (a : Acc) (dests : List Reg) (cost : Nat)
    (kind : OpKind) (act : Nat → Piece → Act) : ∃ policy pieces lat, s.startLoad g r ls a dests cost kind act =
      (((s.cacheLines g policy pieces).numbered (s.ops.set s.fresh (s.opOf g .memory dests lat kind))).pushAll g
        { a with op := s.fresh } r ls act).finish ((g.markEmpty dests).follow a r ls) s.cur.mask .on cost := by
  refine ⟨g.policyOf a.stream, r.flatMap fun x => piecesOf x.2,
    s.issueLatency g true (g.policyOf a.stream) (r.flatMap fun x => piecesOf x.2), ?_⟩
  unfold State.startLoad
  dsimp only
  rw [State.produce_cacheLines]

theorem State.startLoad_accesses (s : State) (g : Group) (path : Path) (q : BitVec 4) (acq rel : Bool) (cost : Nat) (kind : OpKind) :
    let u := s.startLoad g (lanes.map fun j => (j, .ok (ps j))) ls (s.accBase g 0 path q acq rel) dests cost kind act
    ∃ h lat, Accesses s u g h dests lanes ps ⟨path, q.toNat, acq, rel, ls⟩ act ∧ SameData (g.markEmpty dests) h ∧
      u.ops = s.ops.set s.fresh (s.opOf g .memory dests lat kind) := by
  have hfollow := (g.markEmpty dests).follow_sync (s.accBase g 0 path q acq rel) (lanes.map fun j => (j, .ok (ps j))) ls
  obtain ⟨policy, pieces, lat, hu⟩ := s.startLoad_eq g (lanes.map fun j => (j, .ok (ps j))) ls (s.accBase g 0 path q acq rel) dests
    cost kind act
  have hlines : Queued s.cur.gid (s.numbered (s.ops.set s.fresh (s.opOf g .memory dests lat kind)))
      ((s.cacheLines g policy pieces).numbered (s.ops.set s.fresh (s.opOf g .memory dests lat kind))) [] := by
    rw [State.cacheLines_numbered]
    exact .cacheLines (s.numbered _) g policy pieces
  obtain ⟨h, ha, hd, ho⟩ := State.finish_accesses cost (fun i hi => Tab.get?_set_other _ _ _ _ hi) hlines
    ((g.markEmpty_same dests dests [] fun _ hr => hr).trans (.of_data hfollow.data dests [])) hfollow.length hfollow.pc hfollow.handling
    fun _ => rfl
  rw [hu]
  exact ⟨h, lat, ha, hfollow.data.trans hd, ho⟩

theorem State.startStore_accesses (s : State) (g : Group) (path : Path) (q : BitVec 4) (rel : Bool) (who : Nat → List Nat) (cost : Nat)
    (data : Nat → List Byte) (hls : path = .ls → ls = who) :
    let u := s.startStore g (lanes.map fun j => (j, .ok (ps j))) ls (s.accBase g 0 path q false rel) cost data
    ∃ h, Accesses s u g h [] lanes ps ⟨path, q.toNat, false, rel, who⟩ (fun j p => .write (pieceData (data j) p)) ∧
      u.ops = s.ops := by
  have hfollow := g.follow_sync (s.accBase g 0 path q false rel) (lanes.map fun j => (j, .ok (ps j))) ls
  obtain ⟨h, ha, -, ho⟩ := State.finish_accesses (t := s.takeFresh 1) (act := fun j p => .write (pieceData (data j) p)) (rel := rel)
    (lanes := lanes) (ps := ps) (acq := false) (q := q) cost
    (fun _ _ => rfl) (.refl _ (s.takeFresh 1)) (.of_data hfollow.data [] []) hfollow.length hfollow.pc hfollow.handling hls
  exact ⟨h, ha, ho⟩

end Start

/-! An issue of the group `g'` on the way to its end is one of the group `g` that claimed its flit. -/

section Issued

variable {i : Instr} {dests : List Reg} {lanes : List Nat} {ps : Nat → List Piece} {act : Nat → Piece → Act} {ls : Nat → List Nat}
  {path : Path} {q : BitVec 4} {acq rel : Bool} {n cost : Nat}

theorem LoadIssued.of_accesses {w : Way} {kind : OpKind} {h : Group} {lat : Nat} (hs : SyncOnly g g') (he : exec i s = .next u)
    (ha : Accesses (s.atCost n) u g' h dests lanes ps w act) (hd : SameData (g'.markEmpty dests) h)
    (ho : u.ops = s.ops.set s.fresh ((s.atCost n).opOf g' .memory dests lat kind)) : LoadIssued i s g dests lanes ps w act kind := by
  refine ⟨u, h, he, ha.claimed hs, fun r hr => ?_, fun k j _ => ?_, fun k => ?_, fun k j _ => ?_,
    (s.atCost n).opOf g' .memory dests lat kind, ?_, rfl, rfl, rfl, hs.data.uid, hs.data.part, rfl, rfl, rfl⟩
  · rw [hd.empty]
    exact List.mem_append_right _ hr
  · rw [← hs.vr, Group.vr, hd.v]
    rfl
  · rw [← hs.data.s, hd.s]
    rfl
  · rw [← hs.tw, Group.tw, hd.t]
    rfl
  · rw [ho, Tab.get?_set_same]

theorem LoadIssued.of_start {kind : OpKind} (hs : SyncOnly g g')
    (he : exec i s = .next ((s.atCost n).startLoad g' (lanes.map fun j => (j, .ok (ps j))) ls ((s.atCost n).accBase g' 0 path q acq rel)
      dests cost kind act)) : LoadIssued i s g dests lanes ps ⟨path, q.toNat, acq, rel, ls⟩ act kind := by
  obtain ⟨h, lat, ha, hd, ho⟩ := (s.atCost n).startLoad_accesses g' path q acq rel cost kind
  exact .of_accesses hs he ha hd ho

/-- A load that goes past the L1 data cache: its threads follow nothing new. -/
theorem LoadIssued.of_produce {who : Nat → List Nat} {kind : OpKind} {lat : Nat} (hs : SyncOnly g g') (hls : path = .ls → ls = who)
    (he : exec i s = .next ((((s.atCost n).produce g' .memory dests lat kind).1.pushAll g' ((s.atCost n).accOf g' path q acq rel)
      (lanes.map fun j => (j, .ok (ps j))) ls act).finish (g'.markEmpty dests) s.cur.mask .on cost)) :
    LoadIssued i s g dests lanes ps ⟨path, q.toNat, acq, rel, who⟩ act kind := by
  obtain ⟨h, ha, hd, ho⟩ := State.finish_accesses (s := s.atCost n) (t := ((s.atCost n).produce g' .memory dests lat kind).1)
    (g := g') (lanes := lanes) (ps := ps) (act := act) (q := q) (acq := acq) (rel := rel)
    cost (fun k hk => Tab.get?_set_other _ _ _ _ hk) (.refl _ _) (g'.markEmpty_same dests dests [] fun _ hr => hr) rfl
    (fun _ => rfl) rfl hls
  exact .of_accesses hs he ha hd ho

theorem StoreIssued.of_start {who : Nat → List Nat} {data : Nat → List Byte} (hs : SyncOnly g g') (hls : path = .ls → ls = who)
    (he : exec i s = .next ((s.atCost n).startStore g' (lanes.map fun j => (j, .ok (ps j))) ls ((s.atCost n).accBase g' 0 path q false rel)
      cost data)) :
    StoreIssued i s g lanes ps ⟨path, q.toNat, false, rel, who⟩ fun j p => .write (pieceData (data j) p) := by
  obtain ⟨h, ha, ho⟩ := (s.atCost n).startStore_accesses g' path q rel who cost data hls
  exact ⟨_, h, he, ha.claimed hs, congrArg (Tab.get? · s.fresh) ho⟩

end Issued

/-! The operands of an access. -/

theorem srcVs_regs (d n : Nat) (e : Bool) : (srcVs d n e).map (·.reg) = regsFrom .v d n := by
  simp [srcVs, upTo, regsFrom]

theorem srcSs_regs (d n : Nat) (e : Bool) : (srcSs d n e).map (·.reg) = regsFrom .s d n := by
  simp [srcSs, upTo, regsFrom]

theorem regVs_eq (d n : Nat) : regVs d n = regsFrom .v d n := by simp [regVs, upTo, regsFrom]

theorem regSs_eq (d n : Nat) : regSs d n = regsFrom .s d n := by simp [regSs, upTo, regsFrom]

theorem regsFrom_one (reg : Nat → Reg) (d : Nat) : regsFrom reg d 1 = [reg d] := rfl

theorem regsFrom_two (reg : Nat → Reg) (d : Nat) : regsFrom reg d 2 = [reg d, reg (d + 1)] := rfl

theorem addrSrcsV_regs (sp : BitVec 2) (a : BitVec 7) : (addrSrcsV sp a).map (·.reg) = addressRegs .v sp a.toNat := by
  rw [addrSrcsV, srcVs_regs, addressRegs]
  split
  · exact regsFrom_two .v _
  · exact regsFrom_one .v _

theorem addrSrcsS_regs (sp : BitVec 2) (a : BitVec 7) : (addrSrcsS sp a).map (·.reg) = addressRegs .s sp a.toNat := by
  rw [addrSrcsS, srcSs_regs, addressRegs]
  split
  · exact regsFrom_two .s _
  · exact regsFrom_one .s _

theorem s62_notMem_regsFrom_v (d n : Nat) : Reg.s 62 ∉ regsFrom .v d n := by simp [regsFrom]

theorem s62_notMem_addressRegs_v (sp : BitVec 2) (a : Nat) : Reg.s 62 ∉ addressRegs .v sp a := by
  unfold addressRegs
  split <;> simp

/-- An access whose operands are ready has its effect. -/
theorem State.issue_access {srcs : List Src} {late : List Reg} (hr : Ready s g (srcs.map (·.reg)) late) (cost : Group → Nat)
    (effect : State → Group → Out) :
    s.issue { srcs, late } cost effect = effect (s.atCost (cost g)) (g.taken { srcs, late } s.cur.mask) := by
  rw [← List.append_nil (srcs.map (·.reg))] at hr
  exact s.issue_ready g { srcs, late } cost effect hr rfl rfl rfl hr.operands.sound

/-- Its effect is made on the group that has claimed its flit, but for what its threads follow. -/
theorem Ready.access {srcs : List Src} {late rs : List Reg} (hr : Ready s g rs late) (hsrcs : srcs.map (·.reg) = rs) :
    ∃ g', SyncOnly (g.claim rs) g' ∧ ∀ cost effect, s.issue { srcs, late } cost effect = effect (s.atCost (cost g)) g' := by
  subst hsrcs
  exact ⟨_, g.taken_sync { srcs, late } s.cur.mask, fun cost effect => State.issue_access hr cost effect⟩

/-- What the effect's accesses resolve to. -/
theorem SyncOnly.resolve_lanes (hs : SyncOnly g g') (s : State) (n : Nat) (lanes : List Nat) (sp : BitVec 2) (need : Need) (a : BitVec 7)
    (len : Nat) (qual : Bool) (atomic : Option (Nat × Nat)) :
    (lanes.map fun j => (j, (s.atCost n).resolveAcc g' sp need (g'.eaV sp a j) len qual atomic)) =
      lanes.map fun j => (j, s.resolveAcc g sp need (laneAddress g sp a.toNat j) len qual atomic) := by
  simp only [hs.resolveAcc, hs.eaV]

theorem map_ok {β : Type} {lanes : List Nat} {f : Nat → Except β (List Piece)} {ps : Nat → List Piece}
    (h : ∀ j ∈ lanes, f j = .ok (ps j)) : (lanes.map fun j => (j, f j)) = lanes.map fun j => (j, .ok (ps j)) :=
  List.map_congr_left fun j hj => by rw [h j hj]

/-! LD, LDS, ATOM32, ATOM64 and TLD (04 R85, R86, R89; 08 R189, R191). -/

section Loads

variable {sp o : BitVec 2} {q : BitVec 4} {a d : BitVec 7} {z p : BitVec 3}

theorem LoadIssued.ld {ps : Nat → List Piece} (hr : Ready s g (addressRegs .v sp a.toNat) (regsFrom .v d.toNat (sizeRegs z)))
    (hps : ∀ j ∈ lanesOf s.cur.mask,
      s.resolveAcc g sp .load (laneAddress g sp a.toNat j) (sizeBytes z) (o != 0) none = .ok (ps j)) :
    LoadIssued (.ld sp o q a d z) s g (regsFrom .v d.toNat (sizeRegs z)) (lanesOf s.cur.mask) ps
      ⟨.ls, q.toNat, o == 1, false, fun j => [j]⟩ (fun _ _ => .read) (.load false (z == 1 || z == 3) (sizeBytes z) d.toNat []) := by
  obtain ⟨g', hs, he⟩ := hr.access (addrSrcsV_regs sp a)
  rw [g.claim_none _ (s62_notMem_addressRegs_v sp a.toNat)] at hs
  refine .of_start hs (n := costLane g) (cost := costLane g') ?_
  show execLd sp o q a d z s = _
  unfold execLd
  rw [regVs_eq, he]
  dsimp only
  rw [State.atCost_cur_mask, hs.resolve_lanes, map_ok hps, faultsOf_ok]
  rfl

theorem LoadIssued.lds {ps : List Piece} (hr : Ready s g (addressRegs .s sp a.toNat) (regsFrom .s d.toNat (sizeRegs z)))
    (hps : s.resolveAcc (g.claim (addressRegs .s sp a.toNat)) sp .load
      (scalarAddress (g.claim (addressRegs .s sp a.toNat)) sp a.toNat) (sizeBytes z) (o != 0) none = .ok ps) :
    LoadIssued (.lds sp o q a d z) s (g.claim (addressRegs .s sp a.toNat)) (regsFrom .s d.toNat (sizeRegs z)) [0] (fun _ => ps)
      ⟨.ls, q.toNat, o == 1, false, fun _ => lanesOf s.cur.mask⟩ (fun _ _ => .read)
      (.load true (z == 1 || z == 3) (sizeBytes z) d.toNat []) := by
  obtain ⟨g', hs, he⟩ := hr.access (addrSrcsS_regs sp a)
  refine .of_start hs (n := costOne g) (cost := 1) ?_
  show execLds sp o q a d z s = _
  unfold execLds
  rw [regSs_eq, he]
  dsimp only
  rw [hs.eaS, hs.resolveAcc, hps]
  rfl

theorem LoadIssued.atomOp {i : Instr} {w regs : Nat} {x nv : Group → Nat → DWord} {ps : Nat → List Piece}
    (he : exec i s = atomOp s w regs sp o q a d p x nv) (hx : ∀ g', SyncOnly g g' → x g' = x g ∧ nv g' = nv g)
    (hr : Ready s g (addressRegs .v sp a.toNat ++ regsFrom .v d.toNat regs) (regsFrom .v d.toNat (w / 4)))
    (hps : ∀ j ∈ lanesOf s.cur.mask,
      s.resolveAcc g sp .atomic (laneAddress g sp a.toNat j) w (o != 0) (some (p.toNat, w)) = .ok (ps j)) :
    LoadIssued i s g (regsFrom .v d.toNat (w / 4)) (lanesOf s.cur.mask) ps
      ⟨.ls, q.toNat, o.getLsbD 0, o.getLsbD 1, fun j => [j]⟩ (fun j _ => .atomic p.toNat w (x g j) (nv g j)) (.atom w d.toNat []) := by
  obtain ⟨g', hs, hissue⟩ := hr.access (srcs := addrSrcsV sp a ++ srcVs d.toNat regs false)
    (by rw [List.map_append, addrSrcsV_regs, srcVs_regs])
  rw [g.claim_none _ (by simp [s62_notMem_addressRegs_v, s62_notMem_regsFrom_v])] at hs
  obtain ⟨hxeq, hnveq⟩ := hx g' hs
  refine .of_start hs (n := costLane g) (cost := costLane g') (he.trans ?_)
  unfold Machine.atomOp
  rw [regVs_eq, hissue]
  dsimp only
  rw [State.atCost_cur_mask, hs.resolve_lanes, map_ok hps, hxeq, hnveq, faultsOf_ok]
  rfl

theorem LoadIssued.tld {sc : BitVec 5} {t : BitVec 4} {ps : Nat → List Piece} (hr : Ready s g (regsFrom .s (2 * sc.toNat) 3) [.t t.toNat])
    (hps : ∀ i : Nat, i < 32 → s.resolveFlat (s.issuer s.cur.gid (g.claim (regsFrom .s (2 * sc.toNat) 3))) .load
      (scalarAddress (g.claim (regsFrom .s (2 * sc.toNat) 3)) 0 (2 * sc.toNat) +
        BitVec.ofInt 64 (i * ((g.claim (regsFrom .s (2 * sc.toNat) 3)).sr (2 * sc.toNat + 2)).toInt)) 128 = .ok (ps i)) :
    LoadIssued (.tld q sc t) s (g.claim (regsFrom .s (2 * sc.toNat) 3)) [.t t.toNat] (List.range 32) ps
      ⟨.mx, q.toNat, false, false, fun _ => []⟩ (fun _ _ => .read) (.tile t.toNat []) := by
  obtain ⟨g', hs, he⟩ := hr.access (srcSs_regs (2 * sc.toNat) 3 false)
  have hres : tileResolve (s.atCost (costOne g)) g' .load sc = (List.range 32).map fun j => (j, .ok (ps j)) :=
    map_ok fun i hi => by
      rw [State.atCost_cur_gid, hs.issuer, hs.tileRow, State.resolveFlat_atCost]
      exact hps i (List.mem_range.mp hi)
  refine .of_produce hs (n := costOne g) (cost := 1) (ls := fun _ => lanesOf s.cur.mask) (lat := ?lat) nofun ?_
  show execTld q sc t s = _
  unfold execTld
  rw [tileSrcs, he, hres]
  dsimp only
  rw [faultsOf_ok]
  rfl

end Loads

/-- 04 R85 to R89; 08 R189, R191. -/
theorem loadIssue : Parts.LoadIssue := by
  refine ⟨fun s g sp o q a d z ps hr hps => .ld hr hps, fun s g sp o q a d z ps hr hps => .lds hr hps,
    fun s g sp o q a d p ps hr hps => ?_, fun s g sp o q a d p ps hr hps => ?_, fun s g q sc t ps hr hps => .tld hr hps⟩
  · refine .atomOp (w := 4) (regs := if p = 7 then 2 else 1) (x := fun g j => (g.vr d.toNat j).setWidth 64)
      (nv := fun g j => (g.vr (d.toNat + 1) j).setWidth 64) rfl (fun g' hs => ?_) hr hps
    simp only [hs.vr, and_self]
  · refine .atomOp (w := 8) (regs := if p = 7 then 4 else 2) (x := fun g j => g.vr64 d.toNat j)
      (nv := fun g j => g.vr64 (d.toNat + 2) j) rfl (fun g' hs => ?_) hr hps
    simp only [Group.vr64, hs.vr, and_self]

end Sys2Proof.Machine

namespace Sys2Proof

/-- Settles O18: the accesses that each instruction queues, from what its steps queue. -/
theorem loadIssue : Obligations.LoadIssue := Machine.loadIssue

end Sys2Proof
end

section
/-! O19: stores, whose accesses are queued as those of loads are; the fault rule of an issue; and fences, one lemma for the three of them:
a fence waits, or raises the stores of a test and lets its lanes follow it. -/

namespace Sys2Proof.Machine

variable {s t u : State} {g g' g1 h : Group} {i : Instr}

/-! ST, STS and TST (04 R85 to R88; 08 R189, R190). -/

section Stores

variable {sp o : BitVec 2} {q : BitVec 4} {a d : BitVec 7} {z : BitVec 3}

/-- ST, as what its lanes' addresses resolve to decides. -/
theorem exec_st {r : Resolved} (hr : Ready s g (addressRegs .v sp a.toNat ++ regsFrom .v d.toNat (sizeRegs z)) [])
    (hg : g' = g.taken { srcs := addrSrcsV sp a ++ srcVs d.toNat (sizeRegs z) false } s.cur.mask)
    (hres : r = (lanesOf s.cur.mask).map fun j =>
      (j, s.resolveAcc g sp .store (laneAddress g sp a.toNat j) (sizeBytes z) (o != 0) none)) :
    SyncOnly g g' ∧ exec (.st sp o q a d z) s =
      if !(faultsOf r).isEmpty then .next ((s.atCost (costLane g)).memFault g' (faultsOf r) none)
      else .next ((s.atCost (costLane g)).startStore g' r (fun j => [j]) ((s.atCost (costLane g)).accBase g' 0 .ls q false (o == 2))
        (costLane g') fun j => regBytes (sizeBytes z) fun k => g.vr (d.toNat + k) j) := by
  have hregs : (addrSrcsV sp a ++ srcVs d.toNat (sizeRegs z) false).map (·.reg) =
      addressRegs .v sp a.toNat ++ regsFrom .v d.toNat (sizeRegs z) := by rw [List.map_append, addrSrcsV_regs, srcVs_regs]
  rw [← hregs] at hr
  have hs : SyncOnly g g' := by
    have htaken := g.taken_sync { srcs := addrSrcsV sp a ++ srcVs d.toNat (sizeRegs z) false } s.cur.mask
    rwa [← hg, hregs, g.claim_none _ (by simp [s62_notMem_addressRegs_v, s62_notMem_regsFrom_v])] at htaken
  refine ⟨hs, ?_⟩
  show execSt sp o q a d z s = _
  unfold execSt
  rw [State.issue_access hr, ← hg]
  dsimp only
  rw [State.atCost_cur_mask, hs.resolve_lanes, ← hres]
  simp only [hs.vr]

theorem StoreIssued.st {r : Resolved} {ps : Nat → List Piece}
    (hr : Ready s g (addressRegs .v sp a.toNat ++ regsFrom .v d.toNat (sizeRegs z)) [])
    (hres : r = (lanesOf s.cur.mask).map fun j =>
      (j, s.resolveAcc g sp .store (laneAddress g sp a.toNat j) (sizeBytes z) (o != 0) none))
    (hps : ∀ x ∈ r, x.2 = .ok (ps x.1)) :
    StoreIssued (.st sp o q a d z) s g (lanesOf s.cur.mask) ps ⟨.ls, q.toNat, false, o == 2, fun j => [j]⟩
      fun j p => .write (pieceData (regBytes (sizeBytes z) fun k => g.vr (d.toNat + k) j) p) := by
  have hok : r = (lanesOf s.cur.mask).map fun j => (j, .ok (ps j)) := by
    rw [hres]
    exact map_ok fun j hj => hps (j, _) (hres ▸ List.mem_map_of_mem hj)
  obtain ⟨hs, he⟩ := exec_st (q := q) hr rfl hres
  rw [hok, faultsOf_ok] at he
  exact .of_start (data := fun j => regBytes (sizeBytes z) fun k => g.vr (d.toNat + k) j) hs (fun _ => rfl) he

theorem StoreIssued.sts {ps : List Piece} (hr : Ready s g (addressRegs .s sp a.toNat ++ regsFrom .s d.toNat (sizeRegs z)) [])
    {g1 : Group} (hg : g1 = g.claim (addressRegs .s sp a.toNat ++ regsFrom .s d.toNat (sizeRegs z)))
    (hps : s.resolveAcc g1 sp .store (scalarAddress g1 sp a.toNat) (sizeBytes z) (o != 0) none = .ok ps) :
    StoreIssued (.sts sp o q a d z) s g1 [0] (fun _ => ps) ⟨.ls, q.toNat, false, o == 2, fun _ => lanesOf s.cur.mask⟩
      fun _ p => .write (pieceData (regBytes (sizeBytes z) fun k => g1.sr (d.toNat + k)) p) := by
  obtain ⟨g', hs, he⟩ := hr.access (srcs := addrSrcsS sp a ++ srcSs d.toNat (sizeRegs z) false)
    (by rw [List.map_append, addrSrcsS_regs, srcSs_regs])
  rw [← hg] at hs
  refine .of_start (ls := fun _ => lanesOf s.cur.mask) (data := fun _ => regBytes (sizeBytes z) fun k => g1.sr (d.toNat + k)) hs
    (n := costOne g) (cost := 1) (fun _ => rfl) ?_
  show execSts sp o q a d z s = _
  unfold execSts
  rw [he]
  dsimp only
  rw [hs.eaS, hs.resolveAcc, hps]
  simp only [hs.data.sr]
  rfl

/-- Row i of a tile as it goes to memory. -/
theorem tileRow_bytes (f : Nat → Word) : ((List.range 32).flatMap fun j => toBytes 4 (f j).toNat) = regBytes 128 f := by
  rw [regBytes, List.take_of_length_le]
  rw [List.length_flatMap]
  simp [toBytes]

theorem StoreIssued.tst {sc : BitVec 5} {t : BitVec 4} {ps : Nat → List Piece}
    (hr : Ready s g (.t t.toNat :: regsFrom .s (2 * sc.toNat) 3) []) {g1 : Group} (hg : g1 = g.claim (regsFrom .s (2 * sc.toNat) 3))
    (hps : ∀ i : Nat, i < 32 → s.resolveFlat (s.issuer s.cur.gid g1) .store
      (scalarAddress g1 0 (2 * sc.toNat) + BitVec.ofInt 64 (i * (g1.sr (2 * sc.toNat + 2)).toInt)) 128 = .ok (ps i)) :
    StoreIssued (.tst q sc t) s g1 (List.range 32) ps ⟨.mx, q.toNat, false, false, fun _ => []⟩
      fun i p => .write (pieceData (regBytes 128 fun k => g1.tw t.toNat (32 * i + k)) p) := by
  obtain ⟨g', hs, he⟩ := hr.access (srcs := ⟨.t t.toNat, false⟩ :: tileSrcs sc)
    (by rw [List.map_cons, tileSrcs, srcSs_regs])
  have hclaim : g.claim (.t t.toNat :: regsFrom .s (2 * sc.toNat) 3) = g1 := by
    rw [hg]
    simp [Group.claim]
  rw [hclaim] at hs
  have hres : tileResolve (s.atCost (costOne g)) g' .store sc = (List.range 32).map fun j => (j, .ok (ps j)) :=
    map_ok fun i hi => by
      rw [State.atCost_cur_gid, hs.issuer, hs.tileRow, State.resolveFlat_atCost]
      exact hps i (List.mem_range.mp hi)
  refine .of_start (ls := fun _ => lanesOf s.cur.mask) (data := fun i => regBytes 128 fun k => g1.tw t.toNat (32 * i + k)) hs
    (n := costOne g) (cost := 1) nofun ?_
  show execTst q sc t s = _
  unfold execTst
  rw [he, hres]
  dsimp only
  rw [faultsOf_ok]
  simp only [tileRow_bytes, hs.tw, Nat.mul_comm _ 32]
  rfl

end Stores

/-! The fault rule of 04 R88. -/

/-- A bit of the mask of lanes that raised a cause. -/
theorem maskBit_faults (fs : List (Nat × Cause)) (i : Nat) (hi : i < 64) :
    maskBit (fs.foldl (fun (m : Mask) x => m ||| ((1 : Mask) <<< x.1)) 0) i = fs.any fun x => x.1 == i := by
  have hfold : ∀ (l : List (Nat × Cause)) (m : Mask), maskBit (l.foldl (fun (m : Mask) x => m ||| ((1 : Mask) <<< x.1)) m) i =
      (maskBit m i || l.any fun x => x.1 == i) := by
    intro l
    induction l with
    | nil => simp
    | cons x r ih =>
      intro m
      have hbit : ((1 : Mask) <<< x.1).getLsbD i = (x.1 == i) := by
        show (1#64 <<< x.1).getLsbD i = _
        rw [← BitVec.twoPow_eq, BitVec.getLsbD_twoPow]
        by_cases h : x.1 = i
        · simp [h, hi]
        · simp [h]
      rw [List.foldl_cons, ih, List.any_cons, maskBit, BitVec.getLsbD_or, hbit, Bool.or_assoc, maskBit]
  simpa [maskBit] using hfold fs 0

theorem find?_code_none {fs : List (Nat × Cause)} {k : Nat} (h : ∀ x ∈ fs, x.2.code ≠ k) :
    (fs.find? fun x => x.2.code == k) = none := by simpa using h

theorem storeIssue : Parts.StoreIssue := by
  refine ⟨fun s g sp o q a d z hr => ?_, fun s g sp o q a d z ps hr hps => .sts hr rfl hps, fun s g q sc t ps hr hps => .tst hr rfl hps,
    fun s g fs d j c hfind hcodes => ?_, fun s g fs d j c hfind hcodes hcls => ?_, fun s g fs d j c hhead hcodes => ?_⟩
  · intro r
    refine ⟨fun hfaults => ?_, fun ps hps => .st hr rfl hps⟩
    obtain ⟨-, he⟩ := exec_st (q := q) (r := r) hr rfl rfl
    rw [he, if_pos (by simpa using hfaults)]
  · refine ⟨_, fun i hi => maskBit_faults fs i hi, ?_⟩
    have hcode := hcodes _ (List.mem_of_find?_eq_some hfind)
    have h13 : c.code ≠ 13 := by simpa using List.find?_some hfind
    unfold State.memFault
    dsimp only
    rw [find?_code_none fun x hx => (hcodes x hx).1, find?_code_none fun x hx => (hcodes x hx).2.1, hfind]
    dsimp only
    rw [State.causeFor, if_neg h13, if_neg (by tauto)]
  · have h67 : c.code = 67 := by simpa using List.find?_some hfind
    unfold State.memFault
    dsimp only
    rw [find?_code_none hcodes, hfind]
    dsimp only
    rw [State.causeFor, if_neg (by decide), if_pos ⟨hcls, .inr (.inl rfl)⟩]
  · have hne : ∀ k, k ≠ 13 → ∀ x ∈ fs, x.2.code ≠ k := fun k hk x hx => by rw [hcodes x hx]; exact hk.symm
    have hnone : (fs.find? fun x => x.2.code != 13) = none := by simpa using hcodes
    unfold State.memFault
    dsimp only
    rw [find?_code_none (hne 64 (by decide)), find?_code_none (hne 67 (by decide)), hnone, hhead]
    exact if_pos rfl

/-! What a thread follows stays through the end of an issue. -/

theorem Group.sync_modLanes (g : Group) (f : Nat → Lane → Lane) (hf : ∀ j l, (f j l).sync = l.sync) (j : Nat) :
    ((g.modLanes f).lane j).sync = (g.lane j).sync := by
  unfold Group.lane Group.modLanes
  rw [mapLanes_get, Nat.zero_add]
  cases g.lanes[j]? with
  | none => rfl
  | some l => exact hf j l

theorem Group.sync_moveTo (g : Group) (m : Mask) (f : Nat → DWord) (j : Nat) : ((g.moveTo m f).lane j).sync = (g.lane j).sync :=
  g.sync_modLanes _ (fun j l => by split <;> rfl) j

theorem Group.sync_aged (g old : Group) (m : Mask) (j : Nat) : ((g.aged old m).lane j).sync = (g.lane j).sync :=
  g.sync_modLanes _ (fun j l => by
    split
    · rfl
    · split <;> rfl) j

theorem Group.sync_settle (g : Group) (j : Nat) : (g.settle.lane j).sync = (g.lane j).sync := by
  unfold Group.lane Group.settle
  dsimp only
  rw [List.getElem?_map]
  cases g.lanes[j]? with
  | none => rfl
  | some l =>
    simp only [Option.map_some, Option.getD_some]
    split <;> rfl

theorem Group.sync_splitRep (g : Group) (r : Rep) (m : Mask) (j : Nat) : ((g.splitRep r m).lane j).sync = (g.lane j).sync := by
  unfold Group.splitRep
  dsimp only
  split
  · split
    · rfl
    · exact Group.sync_modLanes _ _ (fun j l => by split <;> rfl) j
  · exact Group.sync_moveTo _ _ _ j

theorem Group.sync_stepLanes (g : Group) (c : Cur) (m : Mask) (x : Goes) (j : Nat) :
    ((g.stepLanes c m x).lane j).sync = (g.lane j).sync := by
  unfold Group.stepLanes
  split
  · rfl
  · split
    · split
      · rfl
      · exact g.sync_splitRep _ _ j
    · exact g.sync_moveTo _ _ j

theorem State.sync_finish {m : Mask} {x : Goes} {cost : Nat} (hg : (s.finish g m x cost).group? s.cur.gid = some h) (j : Nat) :
    (h.lane j).sync = (g.lane j).sync := by
  unfold State.finish at hg
  dsimp only at hg
  split at hg
  · simp only [State.group?, State.setGroup, Tab.get?_set_same, Option.some.injEq] at hg
    rw [← hg, Group.sync_settle, Group.sync_stepLanes]
    exact g.sync_aged _ _ j
  · simp only [State.group?, State.setGroup, Tab.get?_set_same, Option.some.injEq] at hg
    rw [← hg, Group.sync_stepLanes]
  · split at hg
    · simp only [State.group?, State.setGroup, Tab.get?_set_same, Option.some.injEq] at hg
      rw [← hg]
    · simp only [State.group?, State.setGroup, Tab.get?_set_same, Option.some.injEq] at hg
      rw [← hg]
      rfl

/-- The lanes of a fence follow it in its streams. -/
theorem Group.all_fenceLanes (g : Group) (m : Mask) (streams : BitVec 16) (j : Nat) (hj : j < g.lanes.length) :
    ((g.fenceLanes m streams).lane j).sync.all =
      if maskBit m j then (g.lane j).sync.all ||| streams else (g.lane j).sync.all := by
  rw [Group.fenceLanes, Group.onMask, Group.lane_modLanes _ _ _ hj]
  split <;> rfl

theorem Group.fenceLanes_sync (g : Group) (m : Mask) (streams : BitVec 16) : SyncOnly g (g.fenceLanes m streams) :=
  g.onMask_sync m _ fun _ => ⟨_, rfl⟩

/-! Raising a store. -/

/-- Raising a store changes how far it is performed and nothing else. -/
structure Late.SameStore (e e' : Late) : Prop where
  old : e'.old = e.old
  path : e'.path = e.path
  who : e'.who = e.who
  stamp : e'.stamp = e.stamp
  seen : e'.seen = e.seen

theorem Late.sameStore_raise (e : Late) (p : Path) (n team : Nat) : e.SameStore (e.raise p n team) := by
  unfold Late.raise
  split <;> exact ⟨rfl, rfl, rfl, rfl, rfl⟩

/-- Raising a store with respect to some paths. -/
def Late.raiseAll (e : Late) (ps : List Path) (n team : Nat) : Late := ps.foldl (fun e p => e.raise p n team) e

theorem Late.sameStore_raiseAll (e : Late) (ps : List Path) (n team : Nat) : e.SameStore (e.raiseAll ps n team) := by
  induction ps generalizing e with
  | nil => exact ⟨rfl, rfl, rfl, rfl, rfl⟩
  | cons p r ih =>
    obtain ⟨hold, hpath, hwho, hstamp, hseen⟩ := e.sameStore_raise p n team
    obtain ⟨kold, kpath, kwho, kstamp, kseen⟩ := ih (e.raise p n team)
    exact ⟨kold.trans hold, kpath.trans hpath, kwho.trans hwho, kstamp.trans hstamp, kseen.trans hseen⟩

theorem Late.performed_raise (e : Late) (p : Path) (n team : Nat) : (e.raise p n team).performed p n team := by
  unfold Late.raise
  split
  · next h => exact .inr ⟨h.1, List.mem_cons_self ..⟩
  · refine .inl ?_
    cases p <;> exact le_max_left _ _

theorem Late.level_raise_other (e : Late) {p q : Path} (n team : Nat) (h : q ≠ p) : (e.raise p n team).level q = e.level q := by
  unfold Late.raise
  split
  · rfl
  · cases p <;> cases q <;> simp_all [Late.level, Reach.level, Reach.raise]

theorem Late.level_le_raise (e : Late) (p q : Path) {n : Nat} (team : Nat) (hn : n ≠ 1) : e.level q ≤ (e.raise p n team).level q := by
  rw [Late.level_raise _ _ _ _ _ hn]
  split
  · next h => exact h ▸ le_max_right _ _
  · exact le_rfl

/-- Raising with respect to several paths beyond team scope raises each of them. -/
theorem Late.le_level_raiseAll (e : Late) (ps : List Path) {n : Nat} (team : Nat) (hn : n ≠ 1) (q : Path) :
    e.level q ≤ (e.raiseAll ps n team).level q ∧ (q ∈ ps → n ≤ (e.raiseAll ps n team).level q) := by
  induction ps generalizing e with
  | nil => exact ⟨le_rfl, fun h => absurd h List.not_mem_nil⟩
  | cons p r ih =>
    obtain ⟨hle, hmem⟩ := ih (e.raise p n team)
    refine ⟨(e.level_le_raise p q team hn).trans hle, fun hq => ?_⟩
    rcases List.mem_cons.mp hq with rfl | hq
    · refine le_trans ?_ hle
      rw [Late.level_raise _ _ _ _ _ hn, if_pos rfl]
      exact le_max_left _ _
    · exact hmem hq

/-! A fence that waits, and one that goes on. -/

/-- An issue that reads no register is the first reader of none. -/
theorem Group.readsFirst_nil (g : Group) (m : Mask) (ws : List Reg) : ∃ a, g.readsFirst m [] ws = { g with acquires := a } := by
  have hhit : (g.acquires.filter fun a => a.regs.any ([] : List Reg).contains) = [] := by simp
  unfold Group.readsFirst
  dsimp only
  rw [hhit]
  exact ⟨_, rfl⟩

/-- An issue without operands acts on its group, but for the marks of fills and of errors. -/
theorem Group.taken_nothing (g : Group) (m : Mask) : ∃ a b, g.taken {} m = { g with acquires := a, bad := b } := by
  obtain ⟨a, ha⟩ := g.readsFirst_nil m []
  have htaken : g.taken {} m = (g.readsFirst m [] []).cleared m [] := rfl
  rw [htaken, ha]
  exact ⟨a, _, rfl⟩

/-- A wait changes its group's account of it and nothing else. -/
theorem Waits.of_waitAt {n why : Nat} (hd : s.cur.defer = none) (hg : s.curGroup? = some g) (hs : SameData g g') (hl : g'.lanes = g.lanes)
    (he : exec i s = .next ((s.atCost n).waitAt g' why)) : Waits i s g := by
  have hkeeps : ∀ (x : Group) (w : Bool), Keeps s { (s.atCost n).setGroup s.cur.gid x with waited := w } [.groups] := by
    intro x w c hc
    have hsame := Same.refl s c
    cases c
    case groups => exact absurd (by decide) hc
    all_goals exact hsame
  obtain ⟨x, hwait, hdata, hlanes⟩ : ∃ x, (s.atCost n).waitAt g' why = { (s.atCost n).setGroup s.cur.gid x with waited := true } ∧
      SameData g x ∧ x.lanes = g.lanes := by
    unfold State.waitAt
    rw [State.atCost_cur_defer, hd]
    simp only [Option.isSome_none, Bool.false_eq_true, if_false]
    split
    · exact ⟨_, rfl, hs.trans (by constructor <;> rfl), hl⟩
    · refine ⟨{ g with why := why }, ?_, by constructor <;> rfl, rfl⟩
      have hg' : s.groups.get? s.cur.gid = some g := hg
      simp only [State.modGroup, Tab.modify, State.atCost_groups, State.atCost_cur_gid, hg', State.setGroup]
  rw [hwait] at he
  exact ⟨_, x, he, rfl, hkeeps x true, fun k hk => Tab.get?_set_other _ _ _ _ hk, Tab.get?_set_same _ _ _, hlanes, .of_data hdata [] []⟩

/-- What a fence that goes on does: its lanes follow it in its streams, and of the stores that lag it changes how far they are performed. -/
def FenceEnds (i : Instr) (s : State) (g : Group) (after : Nat → Bool) (streams : BitVec 16) (P : Late → Late → Prop) : Prop :=
  ∃ (t : State) (h : Group), exec i s = .next t ∧ Frame s { t with late := s.late } g h [] [] ∧
    GoesTo s g h (fun _ => s.cur.pc + BitVec.ofNat 64 s.cur.len) ∧
    (∀ j, j < g.lanes.length → (h.lane j).sync.all =
      if after j then (g.lane j).sync.all ||| streams else (g.lane j).sync.all) ∧
    ∀ c, (t.lags c).length = (s.lags c).length ∧ ∀ (k : Nat) (e : Late), (s.lags c)[k]? = some e → ∃ e', (t.lags c)[k]? = some e' ∧
      e'.old = e.old ∧ e'.path = e.path ∧ e'.who = e.who ∧ e'.stamp = e.stamp ∧ e'.seen = e.seen ∧ P e e'

theorem FenceEnds.of_publish {n m team : Nat} {f : Nat → Late → Bool} {ps : List Path} {after : Nat → Bool} {streams : BitVec 16}
    {P : Late → Late → Prop} (hd : s.cur.defer = none) (hs : SyncOnly g g1)
    (he : exec i s = ((s.atCost n).publish f ps m team).done g1 s.cur.mask .on 1 none)
    (hsync : ∀ j, j < g.lanes.length → (g1.lane j).sync.all =
      if after j then (g.lane j).sync.all ||| streams else (g.lane j).sync.all)
    (hP : ∀ c e, P e (if f c e then e.raiseAll ps m team else e)) : FenceEnds i s g after streams P := by
  obtain ⟨t, h, hdone, hframe, -, hgoes⟩ := State.done_goes ((s.atCost n).publish f ps m team) g g1 .on 1 [] [] hd
    (.of_data hs.data [] []) rfl hs.length hs.pc hs.handling
  have hfinish : ((s.atCost n).publish f ps m team).finish g1 s.cur.mask .on 1 = t := by
    unfold State.done at hdone
    rw [show ((s.atCost n).publish f ps m team).cur.defer = none from hd] at hdone
    injection hdone
  have hlags : ∀ c, t.lags c = (s.lags c).map fun e => if f c e then e.raiseAll ps m team else e := fun c => by
    rw [State.lags, hframe.units.late]
    exact State.onLate_lags _ _ c
  refine ⟨t, h, he.trans hdone, ?_, hgoes, fun j hj => ?_, fun c => ⟨?_, fun k e hk => ?_⟩⟩
  · exact {
      memory := hframe.memory
      units := ⟨hframe.units.parts, hframe.units.cores, hframe.units.clusters, hframe.units.dies, hframe.units.teams, hframe.units.grids,
        hframe.units.nodes, hframe.units.mc, hframe.units.now, rfl, hframe.units.lines⟩
      work := ⟨hframe.work.accs, hframe.work.ops, hframe.work.flits⟩
      others := hframe.others
      group := hframe.group
      regs := hframe.regs }
  · rw [State.sync_finish (hfinish ▸ hframe.group) j]
    exact hsync j hj
  · rw [hlags, List.length_map]
  · refine ⟨_, by rw [hlags, List.getElem?_map, hk]; rfl, ?_⟩
    obtain ⟨hold, hpath, hwho, hstamp, hseen⟩ : e.SameStore (if f c e then e.raiseAll ps m team else e) := by
      split
      · exact e.sameStore_raiseAll ps m team
      · exact ⟨rfl, rfl, rfl, rfl, rfl⟩
    exact ⟨hold, hpath, hwho, hstamp, hseen, hP c e⟩

section Fence

variable {busy : State → Group → Bool} {order : State → Group → State × Group}

theorem Ready.fence (hr : Ready s g [] []) : ∃ a b, fence s busy order =
    if busy (s.atCost 1) { g with acquires := a, bad := b } then .next ((s.atCost 1).waitAt { g with acquires := a, bad := b } 1)
    else (order (s.atCost 1) { g with acquires := a, bad := b }).1.done (order (s.atCost 1) { g with acquires := a, bad := b }).2
      s.cur.mask .on 1 none := by
  obtain ⟨a, b, htaken⟩ := g.taken_nothing s.cur.mask
  refine ⟨a, b, ?_⟩
  unfold Machine.fence
  rw [s.issue_plain g costOne _ hr.fresh hr.group, htaken]
  rfl

/-- A fence of the model, from what it waits for, the stores that it raises and the lanes that follow it. -/
theorem fence_spec {open' : Bool} {after : Nat → Bool} {streams : BitVec 16} {P : Late → Late → Prop} {m : Nat} {ps : List Path}
    {f : State → Group → Nat → Late → Bool} {next : State → Group → Group} (hr : Ready s g [] [])
    (he : exec i s = fence s busy fun s g => (s.publish (f s g) ps m g.team, next s g))
    (hg : ∀ a b, let g' := { g with acquires := a, bad := b }
      busy (s.atCost 1) g' = open' ∧ SyncOnly g' (next (s.atCost 1) g') ∧
      (∀ j, j < g.lanes.length → ((next (s.atCost 1) g').lane j).sync.all =
        if after j then (g.lane j).sync.all ||| streams else (g.lane j).sync.all) ∧
      ∀ c e, P e (if f (s.atCost 1) g' c e then e.raiseAll ps m g.team else e)) :
    (open' = true → Waits i s g) ∧ (open' = false → FenceEnds i s g after streams P) := by
  obtain ⟨a, b, hfence⟩ := hr.fence (busy := busy) (order := fun s g => (s.publish (f s g) ps m g.team, next s g))
  obtain ⟨hbusy, hnext, hsync, hP⟩ := hg a b
  rw [hfence, hbusy] at he
  have hmarks : SyncOnly g { g with acquires := a, bad := b } := (SyncOnly.refl g).marks a b
  refine ⟨fun ho => ?_, fun ho => ?_⟩
  · rw [if_pos ho] at he
    exact .of_waitAt hr.fresh hr.group hmarks.data rfl he
  · rw [if_neg (by simp [ho])] at he
    exact .of_publish hr.fresh (hmarks.trans hnext) he hsync hP

end Fence

/-- The stores that accesses of some threads in some streams made or returned are among those that a fence orders. -/
theorem Late.earlier_of_seen {e : Late} {tids : List Nat} {saw : List (Nat × Nat)} {streams : BitVec 16} {bound : Nat}
    (h : ∃ x ∈ e.seen, x.tid ∈ tids ∧ (x.stream = 16 ∨ streams.getLsbD x.stream = true) ∧ x.acc < bound) :
    e.earlier tids saw streams true bound = true := by
  obtain ⟨x, hx, htid, hstream, hacc⟩ := h
  have hany : (e.seen.any fun x => tids.contains x.tid && (x.stream == 16 || streams.getLsbD x.stream) && (true || !x.uo) &&
      decide (x.acc < bound)) = true := List.any_eq_true.mpr ⟨x, hx, by simpa [htid, hacc] using hstream⟩
  rw [Late.earlier, hany, Bool.or_true]

theorem Path.ofNum_eq_ls_iff (n : Nat) : Path.ofNum n = .ls ↔ n = 0 := by
  by_cases h : n = 0
  · simp [Path.ofNum, h]
  · unfold Path.ofNum
    rw [if_neg h]
    split_ifs <;> simp [h]

theorem Path.mem_all (p : Path) : p ∈ Path.all := by cases p <;> decide

/-- Raising the stores of a test to a scope with respect to one path. -/
theorem Late.raised_one {e : Late} {p : Path} {m team : Nat} {b : Bool} {Q : Prop} (h : Q → b = true) :
    (Q → (if b then e.raiseAll [p] m team else e).performed p m team) ∧
      ∀ r, r ≠ p → (if b then e.raiseAll [p] m team else e).level r = e.level r := by
  refine ⟨fun hQ => ?_, fun r hr => ?_⟩
  · rw [if_pos (h hQ)]
    exact e.performed_raise p m team
  · split
    · exact e.level_raise_other m team hr
    · rfl

theorem maskBit_widthMask (w j : Nat) : maskBit (widthMask w) j = (decide (j < w) && decide (j < 64)) := by
  by_cases hj : j < 64
  · rw [maskBit, widthMask_bit w j hj]
    simp [hj]
  · rw [maskBit, BitVec.getLsbD_of_ge _ _ (by omega)]
    simp [hj]

theorem Group.all_fenceWidth (g : Group) (w : Nat) (streams : BitVec 16) (j : Nat) (hj : j < g.lanes.length) :
    ((g.fenceLanes (widthMask w) streams).lane j).sync.all =
      if decide (j < w) && decide (j < 64) then (g.lane j).sync.all ||| streams else (g.lane j).sync.all := by
  rw [g.all_fenceLanes _ _ _ hj, maskBit_widthMask]

/-- The lanes that a FENCE.P of paths a and b makes follow it: none but for LS as b, and then the active set or, for another a, all. -/
theorem Group.all_fencePath (g : Group) (m : Mask) (b a : BitVec 3) (j : Nat) (hj : j < g.lanes.length) :
    ((if b = 0 then g.fenceLanes (if a = 0 then m else widthMask g.width) allStreams else g).lane j).sync.all =
      if decide (b = 0) && (if a = 0 then maskBit m j else decide (j < g.width) && decide (j < 64))
      then (g.lane j).sync.all ||| allStreams else (g.lane j).sync.all := by
  by_cases hb : b = 0
  · rw [if_pos hb, decide_eq_true hb, Bool.true_and]
    by_cases ha : a = 0
    · rw [if_pos ha, if_pos ha]
      exact g.all_fenceLanes m allStreams j hj
    · rw [if_neg ha, if_neg ha]
      exact g.all_fenceWidth g.width allStreams j hj
  · rw [if_neg hb, decide_eq_false hb, Bool.false_and]
    exact (if_neg Bool.false_ne_true).symm

/-- 04 R101 to R103. -/
theorem fences : Parts.Fences := by
  intro s g hr F mine every made
  refine ⟨fun p m => ?_, fun p b a => ?_, ?_⟩
  · refine fence_spec (busy := fun s g => s.lsOpen (g.tidsOf s.cur.mask) m)
      (f := fun s g _ e => s.fencedStores g s.cur.mask m .ls e) (next := fun s g => g.fenceLanes s.cur.mask m) hr rfl fun x y =>
      ⟨rfl, Group.fenceLanes_sync _ _ _, fun j hj => Group.all_fenceLanes _ _ _ j hj, fun c e => Late.raised_one fun h => ?_⟩
    exact Late.earlier_of_seen h
  · refine fence_spec (busy := fun s g => s.pathOpen s.cur.gid g (g.tidsOf s.cur.mask) a.toNat)
      (f := fun s g _ e => s.fencedStores g s.cur.mask allStreams (Path.ofNum a.toNat) e)
      (next := fun s g => if b = 0 then g.fenceLanes (if a = 0 then s.cur.mask else widthMask g.width) allStreams else g)
      hr rfl fun x y => ⟨rfl, ?_, fun j hj => ?_, fun c e => Late.raised_one fun h => ?_⟩
    · dsimp only
      split
      · exact Group.fenceLanes_sync _ _ _
      · exact .refl _
    · exact Group.all_fencePath _ _ _ _ j hj
    · have hzero : Path.ofNum a.toNat = .ls ↔ a = 0 := by rw [Path.ofNum_eq_ls_iff, BitVec.toNat_eq]; rfl
      unfold State.fencedStores
      by_cases ha : a = 0
      · rw [if_pos (hzero.mpr ha)]
        rw [if_pos ha] at h
        exact Late.earlier_of_seen h
      · rw [if_neg (mt hzero.mp ha)]
        rw [if_neg ha] at h
        obtain ⟨hpath, huid⟩ := h
        simp [hpath, huid]
  · refine fence_spec (busy := fun s g => s.accs.any (fun x => x.2.uid == g.uid) ||
        (List.range 6).any fun p => s.pathOpen s.cur.gid g (g.lanes.map (·.tid)) p)
      (f := fun s g _ e => e.uid == g.uid || Path.all.any fun p => s.fencedStores g (widthMask g.width) allStreams p e)
      (next := fun s g => g.fenceLanes (widthMask g.width) allStreams)
      hr rfl fun x y => ⟨rfl, Group.fenceLanes_sync _ _ _, fun j hj => ?_, fun c e huid r => ?_⟩
    · exact Group.all_fenceWidth _ _ _ j hj
    · rw [if_pos (by simp [huid])]
      exact (e.le_level_raiseAll Path.all g.team (by decide) r).2 r.mem_all

end Sys2Proof.Machine

namespace Sys2Proof

/-- Settles O19: stores from the accesses that they queue and the fault rule from its cases, fences from `fence_spec`. -/
theorem storesAndFences : Obligations.StoresAndFences := ⟨Machine.storeIssue, Machine.fences⟩

end Sys2Proof
end

section
/-! O8: conversions in the issue. CVT is a float issue of the common shape; NARROW is one that names an entry of the team's window first. -/

namespace Sys2Proof.Machine

variable {s : State} {g g' : Group} {i : Instr} {ds : List Nat} {r : Nat → List Word × Word}

/-- A float instruction that reads no flit. -/
theorem FloatResults.of_vecFloat {srcs : List Src} {cost : Group → Nat} {f : Group → Nat → List Word × Word}
    (he : exec i s = s.vecFloat i srcs ds cost f) (hr : Ready s g (srcs.map (·.reg)) (ds.map .v)) (hn : ds.Nodup)
    (hflit : Reg.s 62 ∉ srcs.map (·.reg)) (hf : ∀ g', SyncOnly g g' → f g' = r) : FloatResults i s g ds r := by
  intro hnotrap
  rw [← List.append_nil (srcs.map (·.reg))] at hr
  have hclaim := g.claim_none _ hflit
  obtain ⟨t, h, g', hdone, hframe, hsync, hwords, hflags⟩ := s.vecFloat_spec i g srcs ds cost f [] hr hn fun g' hs => by
    rw [hf g' (hclaim ▸ hs)]
    exact hnotrap
  rw [hclaim] at hframe hsync hwords hflags
  rw [hf g' hsync] at hwords hflags
  exact ⟨t, h, he.trans hdone, hframe, hwords, hflags⟩

/-! CVT (05 R111, R112). -/

/-- The bits that CVT reads in a lane: F64 takes a pair. -/
def cvtSource (g : Group) (src a j : Nat) : Nat := if src = 5 then (g.vr64 a j).toNat else (g.vr a j).toNat

theorem SyncOnly.cvtSource (hs : SyncOnly g g') (src a : Nat) : cvtSource g' src a = Machine.cvtSource g src a := by
  funext j
  simp only [Machine.cvtSource, Group.vr64, hs.vr]

/-- The registers of a format: F64 takes a pair. -/
theorem regsFrom_format (reg : Nat → Reg) (n a : Nat) :
    regsFrom reg a (if n = 5 then 2 else 1) = if n = 5 then [reg a, reg (a + 1)] else [reg a] := by
  split <;> rfl

theorem nodup_upTo (a n : Nat) : (upTo a n).Nodup := List.nodup_range.map (fun _ _ h => Nat.add_left_cancel h)

theorem convert : Parts.Convert := by
  intro s g b f a d r src dst hr x
  have hspec : FloatResults (.cvt b f a d r) s g (upTo d.toNat (if dst = 5 then 2 else 1)) fun j =>
      if dst = 5 then (cvtLane src dst (rmOf r.toNat) (x j)).words else (cvtLane src dst (rmOf r.toNat) (x j)).word := by
    refine .of_vecFloat (srcs := srcVs a.toNat (if src = 5 then 2 else 1) f) (cost := costLane)
      (f := fun g j => if dst = 5 then (cvtLane src dst (rmOf r.toNat) (cvtSource g src a.toNat j)).words
        else (cvtLane src dst (rmOf r.toNat) (cvtSource g src a.toNat j)).word) rfl ?_ (nodup_upTo _ _) ?_ fun g' hs => ?_
    · rwa [srcVs_regs, regsFrom_format, ← regVs, regVs_eq, regsFrom_format]
    · rw [srcVs_regs]
      exact s62_notMem_regsFrom_v _ _
    · rw [hs.cvtSource]
      rfl
  by_cases hdouble : dst = 5
  · simp only [if_pos hdouble] at hspec ⊢
    exact hspec
  · simp only [if_neg hdouble] at hspec ⊢
    exact hspec

/-! NARROW (05 R122). -/

/-- An instruction that is legal and whose operands are ready has its effect. -/
theorem State.issue_legal {legal : Legal} {srcs : List Src} {dests : List Reg} {defer : Option Instr}
    (hr : Ready s g (srcs.map (·.reg)) dests) (hl : legal.ok s.cur.cls = true) (cost : Group → Nat) (effect : State → Group → Out) :
    s.issue { legal, srcs, dests, defer } cost effect =
      effect (s.atCost (cost g)) (g.taken { legal, srcs, dests, defer } s.cur.mask) := by
  rw [← List.append_nil (srcs.map (·.reg)), ← List.append_nil dests] at hr
  exact s.issue_ready g { legal, srcs, dests, defer } cost effect hr hl rfl rfl hr.operands.sound

theorem SyncOnly.tidOf (hs : SyncOnly g g') (s : State) (n : Nat) : s.tidOf g' n = s.tidOf g n := by
  rw [State.tidOf, State.tidOf, hs.team]

/-- NARROW with an entry that it takes has a result in each lane. -/
theorem FloatResults.narrow {b : BitVec 6} {fmts : List Nat} {srcs : List Src} {f : TidEnt → Group → Nat → List Word × Word}
    (he : exec i s = narrowOp s b fmts srcs ds f) (hcls : s.cur.cls ≠ .debug) (hr : Ready s g (srcs.map (·.reg)) (ds.map .v))
    (hn : ds.Nodup) (hflit : Reg.s 62 ∉ srcs.map (·.reg)) (hvalid : (s.tidOf g b.toNat).valid = true)
    (hfmt : (s.tidOf g b.toNat).fmt ∈ fmts) (hscale : (s.tidOf g b.toNat).scale ≠ 2)
    (hf : ∀ g', SyncOnly g g' → f (s.tidOf g b.toNat) g' = r) : FloatResults i s g ds r := by
  intro hnotrap
  have hsync := g.taken_sync { legal := .notDebug, srcs, dests := ds.map .v } s.cur.mask
  rw [g.claim_none _ hflit] at hsync
  unfold narrowOp at he
  rw [State.issue_legal hr (by simpa [Legal.ok] using hcls)] at he
  generalize g.taken _ _ = g' at hsync he
  have htid : (s.atCost (costLane g)).tidOf g' b.toNat = s.tidOf g b.toNat := hsync.tidOf s b.toNat
  have htaken : (!(s.tidOf g b.toNat).valid || !fmts.contains (s.tidOf g b.toNat).fmt || (s.tidOf g b.toNat).scale == 2) = false := by
    simp [hvalid, hfmt, hscale]
  have hfaults : NoTrap (s.atCost (costLane g)) g' fun j => (r j).2 := by
    simpa only [NoTrap, Group.cr, hsync.data.crs, State.atCost_cur_cls, State.atCost_cur_mask] using hnotrap
  dsimp only at he
  rw [htid, htaken, hf g' hsync, hfaults.faults] at he
  obtain ⟨t, h, hdone, hframe, hwords, hflags⟩ := (s.atCost (costLane g)).float_done g' ds (costLane g') (.v ((ds.head?).getD 0)) r
    hr.fresh hn
  refine ⟨t, h, he.trans hdone, .claimed hsync hframe, fun k d hk j hj => ?_, fun n => ?_⟩
  · rw [hwords k d hk j hj, hsync.vr]
    rfl
  · rw [hflags n, Group.cr, hsync.data.crs]
    rfl

theorem SyncOnly.packLane (hs : SyncOnly g g') (n bits a : Nat) (t : TidEnt) : packLane n bits a t g' = Machine.packLane n bits a t g := by
  funext j
  simp only [Machine.packLane, hs.vr]

theorem SyncOnly.unpackLane (hs : SyncOnly g g') (n bits a : Nat) (t : TidEnt) :
    unpackLane n bits a t g' = Machine.unpackLane n bits a t g := by
  funext j
  simp only [Machine.unpackLane, hs.vr]

/-- Four packed elements, written out. -/
theorem packLane_four (bits a : Nat) (t : TidEnt) (g : Group) (j : Nat) :
    let w := fun k => narrowWrite t.fmt t.flatScale (g.vr (a + k) j)
    packLane 4 bits a t g j = ([BitVec.ofNat 32 ((w 0).1 + 2 ^ bits * ((w 1).1 + 2 ^ bits * ((w 2).1 + 2 ^ bits * (w 3).1)))],
      (w 0).2 ||| (w 1).2 ||| (w 2).2 ||| (w 3).2) := by
  simp [packLane, packParts, List.range_succ]

/-- Packed elements of `n` vectors. -/
theorem FloatResults.pack {b : BitVec 6} {fmts : List Nat} {n bits a d : Nat} {f : Bool}
    (he : exec i s = narrowOp s b fmts (srcVs a n f) [d] (packLane n bits a)) (hcls : s.cur.cls ≠ .debug)
    (hr : Ready s g (regsFrom .v a n) [.v d]) (hvalid : (s.tidOf g b.toNat).valid = true)
    (hfmt : (s.tidOf g b.toNat).fmt ∈ fmts) (hscale : (s.tidOf g b.toNat).scale ≠ 2) :
    FloatResults i s g [d] (packLane n bits a (s.tidOf g b.toNat) g) := by
  have hsrcs := srcVs_regs a n f
  exact .narrow he hcls (hsrcs ▸ hr) (List.nodup_singleton d) (hsrcs ▸ s62_notMem_regsFrom_v a n) hvalid hfmt hscale
    fun g' hs => hs.packLane ..

/-- The elements of one vector in `n` vectors. -/
theorem FloatResults.unpack {b : BitVec 6} {fmts : List Nat} {n bits d : Nat} {a : BitVec 7} {f : Bool}
    (he : exec i s = narrowOp s b fmts [srcV a f] (upTo d n) (unpackLane n bits a.toNat)) (hcls : s.cur.cls ≠ .debug)
    (hr : Ready s g [.v a.toNat] (regsFrom .v d n)) (hvalid : (s.tidOf g b.toNat).valid = true)
    (hfmt : (s.tidOf g b.toNat).fmt ∈ fmts) (hscale : (s.tidOf g b.toNat).scale ≠ 2) :
    FloatResults i s g (upTo d n) (unpackLane n bits a.toNat (s.tidOf g b.toNat) g) := by
  rw [← regVs_eq] at hr
  exact .narrow he hcls hr (nodup_upTo d n) (by simp [srcV]) hvalid hfmt hscale fun g' hs => hs.unpackLane ..

theorem narrow : Parts.Narrow := by
  refine ⟨fun s g b f a d hcls hr => ?_, fun s g b f a d hcls hr => ?_, fun s g b f a d hcls hr => ?_, fun s g b f a d hcls hr => ?_⟩
  all_goals intro t hvalid hfmt hscale
  · intro w
    have hpack : FloatResults (.pack8 b f a d) s g [d.toNat] (packLane 4 8 (4 * a.toNat) t g) :=
      .pack (fmts := [1, 2, 4]) rfl hcls hr hvalid hfmt hscale
    rwa [funext (packLane_four 8 (4 * a.toNat) t g)] at hpack
  · exact .unpack (fmts := [1, 2, 4]) rfl hcls hr hvalid hfmt hscale
  · exact .pack (fmts := [3]) rfl hcls hr hvalid (List.mem_singleton.mpr hfmt) hscale
  · exact .unpack (fmts := [3]) rfl hcls hr hvalid (List.mem_singleton.mpr hfmt) hscale

end Sys2Proof.Machine

namespace Sys2Proof

/-- Settles O8: each instruction is a float issue whose lanes' results its operands fix. -/
theorem conversions : Obligations.Conversions := ⟨Machine.convert, Machine.narrow⟩

end Sys2Proof
end

section
/-! O28: TIDSET and TIDRD. TIDRD is a scalar result once its operand is in order. What TIDSET's reads leave stands in a few tables of the
state, which equations name; one equation for each of the outcomes of its effect says what it answers. -/

namespace Sys2Proof

/-- A cell of a run that is written. -/
theorem Store.get_setRange {w : Nat} (xs : List (BitVec w)) (t : Store w) (first i : Nat) : (t.setRange first xs).get i =
    if first ≤ i ∧ i < first + xs.length then (xs[i - first]?).getD 0 else t.get i := by
  induction xs generalizing t first with
  | nil =>
    rw [if_neg (by simp only [List.length_nil]; omega)]
    rfl
  | cons x r ih =>
    rw [Store.setRange, ih, Store.get_set, List.length_cons]
    rcases Nat.lt_trichotomy i first with h | rfl | h
    · rw [if_neg (by omega), if_neg (by omega), if_neg (by omega)]
    · rw [if_neg (by omega), if_pos rfl, if_pos (by omega), Nat.sub_self]
      rfl
    · rw [if_neg (Nat.ne_of_gt h), show i - first = i - (first + 1) + 1 from by omega, List.getElem?_cons_succ]
      exact if_congr (by omega) rfl rfl

namespace Machine

variable {s : State} {g g' : Group} {i : Instr}

/-- An instruction in code of a class in which it is illegal. -/
theorem Raises.of_illegal {q : Need'} {cost : Group → Nat} {effect : State → Group → Out} (he : exec i s = s.issue q cost effect)
    (hd : s.cur.defer = none) (hg : s.curGroup? = some g) (hl : q.legal.ok s.cur.cls = false) : Raises i s g 1 := by
  have hcheck : s.check g q = .trap 1 := by
    rw [State.check, hl]
    rfl
  refine ⟨(q.dests ++ q.late).head?, cost g, g, .inl rfl, he.trans ?_⟩
  unfold State.issue
  rw [hd]
  simp only [hg, hcheck]

/-- Before any effect has been taken, an effect that stops names the group that issues. -/
theorem State.untouched_atCost (hg : s.curGroup? = some g) (n : Nat) : (s.atCost n).untouched g' = g := by
  have hcur : (s.atCost n).curGroup? = some g := hg
  rw [State.untouched, hcur]
  rfl

/-! TIDRD (05 R121). -/

/-- The word that TIDRD reads of the entry that its operand names. -/
def State.tidrdWord (s : State) (g : Group) (x : Word) : Word :=
  let w := (s.tidOf g (bitsOf x 0 6)).word (bitsOf x 7 3)
  if x.getLsbD 6 then hi32 w else lo32 w

theorem State.tidrdWord_eq (s : State) (g : Group) (x : Word) : s.tidrdWord g x =
    if x.getLsbD 6 then hi32 ((s.tidOf g (x.toNat % 64)).word (x.toNat / 128 % 8))
    else lo32 ((s.tidOf g (x.toNat % 64)).word (x.toNat / 128 % 8)) := by
  simp [State.tidrdWord, bitsOf]

/-- TIDRD, by its operand. -/
theorem exec_tidrd {a d : BitVec 6} {x : Word} (hr : Ready s g [.s a.toNat] [.s d.toNat]) (hcls : s.cur.cls ≠ .debug)
    (hx : (g.claim [.s a.toNat]).sr a.toNat = x) : exec (.tidrd a d) s =
      if bitsOf x 10 22 ≠ 0 then .next ((s.atCost 1).raise g s.cur.mask 22 0 (some (.s d.toNat)) 0)
      else s.sclOp (.tidrd a d) [srcS a false] d.toNat fun g => s.tidrdWord g (g.sr a.toNat) := by
  have hlegal : Legal.notDebug.ok s.cur.cls = true := by simpa [Legal.ok] using hcls
  have hs := g.taken_sync { legal := .notDebug, srcs := [srcS a false], dests := [.s d.toNat], defer := some (.tidrd a d) } s.cur.mask
  have hread := (hs.data.sr a.toNat).trans hx
  change execTidrd a d s = _
  unfold execTidrd
  rw [State.issue_legal hr hlegal]
  dsimp only
  rw [hread, State.untouched_atCost hr.group]
  refine if_congr Iff.rfl rfl ?_
  unfold State.sclOp
  rw [State.issue_legal hr rfl]
  have htaken : g.taken { srcs := [srcS a false], dests := [.s d.toNat], defer := some (.tidrd a d) } s.cur.mask =
    g.taken { legal := .notDebug, srcs := [srcS a false], dests := [.s d.toNat], defer := some (.tidrd a d) } s.cur.mask := rfl
  dsimp only
  rw [htaken, hread]
  rfl

theorem tidrd {a d : BitVec 6} (hr : Ready s g [.s a.toNat] [.s d.toNat]) :
    let x := (g.claim [.s a.toNat]).sr a.toNat
    (s.cur.cls = .debug → Raises (.tidrd a d) s g 1) ∧
    (s.cur.cls ≠ .debug → x.extractLsb' 10 22 ≠ 0 → Raises (.tidrd a d) s g 22) ∧
    (s.cur.cls ≠ .debug → x.extractLsb' 10 22 = 0 →
      SclResult (.tidrd a d) s (g.claim [.s a.toNat]) d.toNat (s.tidrdWord (g.claim [.s a.toNat]) x)) := by
  intro x
  refine ⟨fun hcls => ?_, fun hcls hbad => ?_, fun hcls hgood => ?_⟩
  · have hissue : execTidrd a d s = s.issue _ costOne _ := rfl
    exact .of_illegal hissue hr.fresh hr.group (by rw [hcls]; rfl)
  · have he := exec_tidrd hr hcls rfl
    rw [if_pos (mt (bitsOf_eq_zero_iff x 10 22).mp hbad)] at he
    exact ⟨_, _, g, .inl rfl, he⟩
  · have he := exec_tidrd hr hcls rfl
    rw [if_neg (not_not.mpr ((bitsOf_eq_zero_iff x 10 22).mpr hgood))] at he
    obtain ⟨t, h, g', hdone, hframe, hs, hholds⟩ := s.sclOp_spec (.tidrd a d) g [srcS a false] d.toNat
      (fun g => s.tidrdWord g (g.sr a.toNat)) [] hr
    have hs' : SyncOnly (g.claim [.s a.toNat]) g' := hs
    have hword : s.tidrdWord g' (g'.sr a.toNat) = s.tidrdWord (g.claim [.s a.toNat]) ((g.claim [.s a.toNat]).sr a.toNat) := by
      rw [hs'.data.sr, State.tidrdWord, State.tidrdWord, hs'.tidOf]
    exact ⟨t, h, he.trans hdone, hframe, hword ▸ hholds⟩

/-! TIDSET (05 R120): what it answers. -/

/-- What TIDSET needs. -/
def tidsetNeed (b : BitVec 6) (a : BitVec 5) : Need' :=
  { legal := .notDebug, srcs := srcSs (2 * a.toNat) 2 false ++ [srcS b false] }

/-- The registers that TIDSET reads. -/
def tidsetRegs (b : BitVec 6) (a : BitVec 5) : List Reg := [.s (2 * a.toNat), .s (2 * a.toNat + 1), .s b.toNat]

/-- The table that TIDSET reads: its base, or the context's. -/
def State.tidsetTable (s : State) (g : Group) (a : BitVec 5) : DWord :=
  if g.sr64 (2 * a.toNat) = 0 then (s.part g.part).tidTable else g.sr64 (2 * a.toNat)

/-- What TIDSET's addresses resolve to, by its operand. -/
def State.tidsetPieces (s : State) (g : Group) (a : BitVec 5) (x : Word) : Except Cause (List Piece) :=
  s.resolveEntries (s.issuer s.cur.gid g) .load (s.tidsetTable g a + BitVec.ofNat 64 (64 * bitsOf x 0 8)) (bitsOf x 16 6 + 1)

/-- The load of one piece. -/
def State.tidsetAcc (s : State) (g : Group) (p : Piece) : Acc :=
  { s.accBase g 0 .ls 0 false false with
    who := g.whoOf (lanesOf s.cur.mask), okind := p.okind, loc := p.loc, len := p.len, va := p.va }

/-- The bytes that its loads return. -/
def State.tidsetBytes (s : State) (g : Group) (ps : List Piece) : List Byte :=
  ps.flatMap fun p => s.pieceBytes ((s.tidsetAcc g p).viewer []) p

/-- Its loads go now: no earlier access must go first and every page has been walked. -/
def State.tidsetGoes (s : State) (g : Group) (ps : List Piece) : Bool :=
  ps.all fun p => s.unordered s.fresh (s.tidsetAcc g p) && p.walk.isNone

/-- A valid entry among n read is malformed. -/
def tidsetBad (bs : List Byte) (n : Nat) : Bool :=
  ((List.range n).map fun i => entryOf ((bs.drop (64 * i)).take 64)).any fun e => e.valid && e.malformed

/-- What its loads leave. -/
def State.tidsetRead (s : State) (g : Group) (ps : List Piece) : State :=
  ps.foldl (fun (t : State) p => (((t.orderedBefore t.fresh (s.tidsetAcc g p)).returned t.fresh (s.tidsetAcc g p) []).noteHost g.part
    p.loc p.va).correct p.loc) (s.noteTlb (coreOf s.cur.gid) g.part ps)

/-- What the threads of its active set follow from then on. -/
def State.tidsetFollow (s : State) (g : Group) (ps : List Piece) : Group :=
  g.onMask s.cur.mask fun l => l.follows { s.accBase g 0 .ls 0 false false with who := g.whoOf (lanesOf s.cur.mask) } ps

/-- The state once it has read the bytes of its entries and written them to the team's window. -/
def State.tidsetWrite (s : State) (g : Group) (x : Word) (ps : List Piece) : State :=
  ((s.tidsetRead g ps).takeFresh 1).modTeam g.team fun t =>
    { t with tids := t.tids.setRange (bitsOf x 8 6 * 64) (s.tidsetBytes g ps) }

/-- Its effect, by its operand. -/
def State.tidsetEffect (s : State) (g : Group) (a : BitVec 5) (x : Word) : Out :=
  let g0 := s.untouched g
  if !tidsetOk (s.tidsetTable g a) x then .next (s.raise g0 s.cur.mask 22 0 none 0)
  else match s.tidsetPieces g a x with
    | .error c => .next (s.memFault g0 ((lanesOf s.cur.mask).map fun j => (j, c)) none)
    | .ok ps =>
      if !s.tidsetGoes g ps then .next ((s.noteTlb (coreOf s.cur.gid) g.part ps).waitAt g0 1)
      else match ps.find? s.pieceBad with
        | some p => .next (s.causeFor g0 s.cur.mask 64 p.va none)
        | none =>
          if tidsetBad (s.tidsetBytes g ps) (bitsOf x 16 6 + 1) then .next (s.raise g0 s.cur.mask 22 0 none 0)
          else (s.tidsetWrite g x ps).done (s.tidsetFollow g ps) s.cur.mask .on 1 none

/-- TIDSET of the model in these words. -/
theorem execTidset_eq (b : BitVec 6) (a : BitVec 5) (s : State) :
    execTidset b a s = s.issue (tidsetNeed b a) costOne fun s g => s.tidsetEffect g a (g.sr b.toNat) := rfl

theorem SyncOnly.tidsetTable (hs : SyncOnly g g') (s : State) (n : Nat) (a : BitVec 5) :
    (s.atCost n).tidsetTable g' a = s.tidsetTable g a := by
  simp only [State.tidsetTable, Group.sr64, hs.data.sr, hs.data.part]
  rfl

theorem SyncOnly.tidsetPieces (hs : SyncOnly g g') (s : State) (n : Nat) (a : BitVec 5) (x : Word) :
    (s.atCost n).tidsetPieces g' a x = s.tidsetPieces g a x := by
  simp only [State.tidsetPieces, hs.tidsetTable, State.atCost_cur_gid, hs.issuer]
  rfl

section Tidset

variable {b : BitVec 6} {a : BitVec 5} {x : Word} {ps : List Piece}

/-- TIDSET outside the debug slot, once its operands are ready. -/
theorem exec_tidset (hr : Ready s g (tidsetRegs b a) []) (hcls : s.cur.cls ≠ .debug)
    (hg' : g' = g.taken (tidsetNeed b a) s.cur.mask) (hx : (g.claim (tidsetRegs b a)).sr b.toNat = x) :
    exec (.tidset b a) s = (s.atCost 1).tidsetEffect g' a x := by
  have hlegal : Legal.notDebug.ok s.cur.cls = true := by simpa [Legal.ok] using hcls
  have hread : (g.taken (tidsetNeed b a) s.cur.mask).sr b.toNat = x :=
    ((g.taken_sync (tidsetNeed b a) s.cur.mask).data.sr b.toNat).trans hx
  change execTidset b a s = _
  rw [execTidset_eq, tidsetNeed, State.issue_legal hr hlegal, ← tidsetNeed, hread, ← hg']
  rfl

/-! The outcomes of the effect. -/

theorem State.tidsetEffect_refused (hok : tidsetOk (s.tidsetTable g a) x = false) :
    s.tidsetEffect g a x = .next (s.raise (s.untouched g) s.cur.mask 22 0 none 0) := by
  rw [State.tidsetEffect, hok]
  rfl

theorem State.tidsetEffect_fault {c : Cause} (hok : tidsetOk (s.tidsetTable g a) x = true) (hc : s.tidsetPieces g a x = .error c) :
    s.tidsetEffect g a x = .next (s.memFault (s.untouched g) ((lanesOf s.cur.mask).map fun j => (j, c)) none) := by
  rw [State.tidsetEffect, hok, hc]
  rfl

theorem State.tidsetEffect_waits (hok : tidsetOk (s.tidsetTable g a) x = true) (hps : s.tidsetPieces g a x = .ok ps)
    (hgo : s.tidsetGoes g ps = false) :
    s.tidsetEffect g a x = .next ((s.noteTlb (coreOf s.cur.gid) g.part ps).waitAt (s.untouched g) 1) := by
  rw [State.tidsetEffect, hok, hps]
  dsimp only
  rw [hgo]
  rfl

theorem State.tidsetEffect_goes (hok : tidsetOk (s.tidsetTable g a) x = true) (hps : s.tidsetPieces g a x = .ok ps)
    (hgo : s.tidsetGoes g ps = true) (hgood : ps.find? s.pieceBad = none) : s.tidsetEffect g a x =
      if tidsetBad (s.tidsetBytes g ps) (bitsOf x 16 6 + 1) then .next (s.raise (s.untouched g) s.cur.mask 22 0 none 0)
      else (s.tidsetWrite g x ps).done (s.tidsetFollow g ps) s.cur.mask .on 1 none := by
  rw [State.tidsetEffect, hok, hps]
  dsimp only
  rw [hgo, hgood]
  rfl

/-! What TIDSET's reads leave. -/

/-- Translating pieces leaves walks and entries of TLBs. -/
theorem State.noteTlb_tables (s : State) (core part : Nat) (ps : List Piece) :
    ∃ cores clusters dies, s.noteTlb core part ps = { s with cores, clusters, dies } := by
  unfold State.noteTlb
  refine List.foldlRecOn (motive := fun t : State => ∃ cores clusters dies, t = { s with cores, clusters, dies }) ps _
    ⟨s.cores, s.clusters, s.dies, rfl⟩ ?_
  rintro _ ⟨cores, clusters, dies, rfl⟩ p -
  split
  · exact ⟨_, _, _, rfl⟩
  · split
    · unfold State.addWalk
      split <;> exact ⟨_, _, _, rfl⟩
    · unfold State.tlbFill
      split
      · dsimp only
        split <;> exact ⟨_, _, _, rfl⟩
      · exact ⟨_, _, _, rfl⟩

theorem State.orderedBefore_tables (s : State) (n : Nat) (y : Acc) : ∃ late, s.orderedBefore n y = { s with late } := by
  unfold State.orderedBefore
  split
  · exact ⟨_, rfl⟩
  · split
    · exact ⟨_, rfl⟩
    · split <;> exact ⟨_, rfl⟩

theorem State.returned_tables (s : State) (n : Nat) (y : Acc) (ext : List Byte) : ∃ late, s.returned n y ext = { s with late } := by
  unfold State.returned
  dsimp only
  split
  all_goals
    split
    · exact ⟨_, rfl⟩
    · split <;> exact ⟨_, rfl⟩

theorem State.noteHost_tables (s : State) (part : Nat) (l : Loc) (va : DWord) : ∃ parts, s.noteHost part l va = { s with parts } := by
  unfold State.noteHost
  split <;> exact ⟨_, rfl⟩

theorem State.correct_tables (s : State) (l : Loc) : ∃ parts weak, s.correct l = { s with parts, weak } := by
  unfold State.correct
  split
  · dsimp only
    split <;> exact ⟨_, _, rfl⟩
  · exact ⟨_, _, rfl⟩

theorem State.tidsetRead_tables (s : State) (g : Group) (ps : List Piece) : ∃ cores clusters dies late parts weak,
    s.tidsetRead g ps = { s with cores, clusters, dies, late, parts, weak } := by
  unfold State.tidsetRead
  refine List.foldlRecOn (motive := fun t : State => ∃ cores clusters dies late parts weak,
    t = { s with cores, clusters, dies, late, parts, weak }) ps _ ?_ ?_
  · obtain ⟨cores, clusters, dies, h⟩ := s.noteTlb_tables (coreOf s.cur.gid) g.part ps
    exact ⟨cores, clusters, dies, _, _, _, h⟩
  · rintro _ ⟨cores, clusters, dies, late, parts, weak, rfl⟩ p -
    generalize hu : ({ s with cores, clusters, dies, late, parts, weak } : State) = u
    obtain ⟨late1, h1⟩ := u.orderedBefore_tables u.fresh (s.tidsetAcc g p)
    rw [h1]
    obtain ⟨late2, h2⟩ := State.returned_tables { u with late := late1 } u.fresh (s.tidsetAcc g p) []
    rw [h2]
    obtain ⟨parts1, h3⟩ := State.noteHost_tables { u with late := late2 } g.part p.loc p.va
    rw [h3]
    obtain ⟨parts2, weak1, h4⟩ := State.correct_tables { u with late := late2, parts := parts1 } p.loc
    rw [h4, ← hu]
    exact ⟨_, _, _, _, _, _, rfl⟩

/-! Waiting, and ending. -/

/-- A wait changes its group's account of it and nothing else. -/
theorem State.waitAt_spec (hd : s.cur.defer = none) (hg : s.curGroup? = some g) (why : Nat) :
    ∃ h, s.waitAt g why = { s.setGroup s.cur.gid h with waited := true } ∧ SameData g h ∧ h.lanes = g.lanes := by
  unfold State.waitAt
  rw [hd]
  simp only [Option.isSome_none, Bool.false_eq_true, if_false]
  split
  · exact ⟨_, rfl, by constructor <;> rfl, rfl⟩
  · refine ⟨{ g with why := why }, ?_, by constructor <;> rfl, rfl⟩
    have hget : s.groups.get? s.cur.gid = some g := hg
    simp only [State.modGroup, Tab.modify, hget, State.setGroup]

theorem State.done_next (hd : s.cur.defer = none) (g : Group) (m : Mask) (x : Goes) (cost : Nat) :
    s.done g m x cost none = .next (s.finish g m x cost) := by
  rw [State.done, hd]

/-- The end of an issue changes its group and its scheduler partition. -/
theorem Keeps.finish_groups_sps (s : State) (g : Group) (m : Mask) (x : Goes) (cost : Nat) :
    Keeps s (s.finish g m x cost) [.groups, .sps] := by
  obtain ⟨h, hf⟩ := s.finish_spec g m x cost
  intro c hc
  have hsame := Keeps.finish s g m x cost c
  cases c
  case groups | sps => exact absurd (by decide) hc
  case cores => exact fun i => by rw [State.core, State.core, hf.cores]
  case clusters => exact fun i => by rw [State.cluster, State.cluster, hf.clusters]
  case dies => exact fun i => by rw [State.die, State.die, hf.dies]
  case ops => exact fun i => by rw [hf.ops]
  case accs => exact fun i => by rw [hf.accs]
  all_goals exact hsame (by decide)

theorem Keeps.mono {t : State} {may may' : List Comp} (h : Keeps s t may) (hsub : may ⊆ may') : Keeps s t may' :=
  fun c hc => h c fun hm => hc (hsub hm)

end Tidset

/-! TIDSET as the statement says it. -/

theorem Group.claim_team (g : Group) (l : List Reg) : (g.claim l).team = g.team := by
  unfold Group.claim
  split
  · split <;> rfl
  · rfl

theorem tidsetOk_iff (tab : DWord) (x : Word) : tidsetOk tab x = true ↔
    x.extractLsb' 22 10 = 0 ∧ x.extractLsb' 14 2 = 0 ∧ (x.extractLsb' 8 6).toNat + ((x.extractLsb' 16 6).toNat + 1) ≤ 64 ∧
      (x.extractLsb' 0 8).toNat + ((x.extractLsb' 16 6).toNat + 1) ≤ 256 ∧ tab.toNat % 64 = 0 := by
  simp only [tidsetOk, Bool.and_eq_true, beq_iff_eq, decide_eq_true_eq, ← bitsOf_eq_zero_iff, ← bitsOf_eq_extractLsb', and_assoc,
    Nat.add_assoc]

theorem State.tidsetPieces_eq (s : State) (g : Group) (a : BitVec 5) (x : Word) : s.tidsetPieces g a x =
    s.resolveEntries (s.issuer s.cur.gid g) .load (s.tidsetTable g a + BitVec.ofNat 64 (64 * (x.extractLsb' 0 8).toNat))
      ((x.extractLsb' 16 6).toNat + 1) := by
  rw [State.tidsetPieces, bitsOf_eq_extractLsb', bitsOf_eq_extractLsb']

theorem tidsetBad_eq (bs : List Byte) (n : Nat) : tidsetBad bs n =
    (List.range n).any fun i => (entryOf ((bs.drop (64 * i)).take 64)).valid && (entryOf ((bs.drop (64 * i)).take 64)).malformed := by
  rw [tidsetBad, List.any_map]
  rfl

/-- The bytes are those that an LS load of stream 0 of the active set may return. -/
theorem SyncOnly.tidsetBytes (hs : SyncOnly g g') (s : State) (n : Nat) (ps : List Piece) : (s.atCost n).tidsetBytes g' ps =
    ps.flatMap fun p => s.pieceBytes
      { path := .ls, team := g.team, who := (lanesOf s.cur.mask).map fun j => (g.lane j).tid, stream := 0, so := p.okind == .so
        saw := (g'.syncOf (lanesOf s.cur.mask)).saw, upTo := none, far := 2 } p := by
  have htid : ∀ j, (g'.lane j).tid = (g.lane j).tid := fun j => by
    obtain ⟨y, hy⟩ := hs.lane j
    rw [hy]
  have hview : ∀ p, ((s.atCost n).tidsetAcc g' p).viewer [] =
      { path := .ls, team := g.team, who := (lanesOf s.cur.mask).map fun j => (g.lane j).tid, stream := 0, so := p.okind == .so
        saw := (g'.syncOf (lanesOf s.cur.mask)).saw, upTo := none, far := 2 } := fun p => by
    simp only [Acc.viewer, State.tidsetAcc, State.accBase, Acc.tids, Group.whoOf, List.map_map, Function.comp_def, htid, hs.team,
      List.isEmpty_nil, Bool.not_true, Bool.and_false, Bool.false_eq_true, if_false, State.atCost_cur_mask]
    rfl
  simp only [State.tidsetBytes, hview]
  rfl

/-- The number of clocks that an issue holds its scheduler partition is no component. -/
theorem Keeps.atCost (s : State) (n : Nat) (may : List Comp) : Keeps s (s.atCost n) may := fun c _ => by
  have hsame := Same.refl s c
  cases c <;> exact hsame

theorem State.tidsetWrite_spec (s : State) (g : Group) (x : Word) (ps : List Piece) :
    Keeps s (s.tidsetWrite g x ps) [.teams, .late, .cores, .clusters, .dies, .parts, .poison] ∧
    (s.tidsetWrite g x ps).cur = s.cur ∧ (s.tidsetWrite g x ps).groups = s.groups ∧
    (s.tidsetWrite g x ps).teams = s.teams.modify g.team fun t =>
      { t with tids := t.tids.setRange (bitsOf x 8 6 * 64) (s.tidsetBytes g ps) } := by
  obtain ⟨cores, clusters, dies, late, parts, weak, hread⟩ := s.tidsetRead_tables g ps
  unfold State.tidsetWrite
  rw [hread]
  refine ⟨fun c hc => ?_, rfl, rfl, rfl⟩
  have hsame := Same.refl s c
  cases c
  case teams | late | cores | clusters | dies | parts | poison => exact absurd (by decide) hc
  all_goals exact hsame

theorem State.tidsetFollow_sync (s : State) (g : Group) (ps : List Piece) : SyncOnly g (s.tidsetFollow g ps) :=
  g.onMask_sync _ _ fun l => l.follows_sync _ _

section Tidset

variable {b : BitVec 6} {a : BitVec 5} {x : Word} {ps : List Piece}

/-- A page of an entry has not been walked: the whole group waits. -/
theorem Does.tidset_waits (hd : s.cur.defer = none) (hg : s.curGroup? = some g)
    (he : exec i s = .next (((s.atCost 1).noteTlb (coreOf s.cur.gid) g'.part ps).waitAt g 1)) :
    Does i s [.groups, .cores, .clusters, .dies] fun t => t.waited = true ∧ OnlyGroup s t s.cur.gid ∧
      ∃ h, t.group? s.cur.gid = some h ∧ h.lanes = g.lanes ∧ SameRegs g h [] [] := by
  obtain ⟨cores, clusters, dies, htlb⟩ := (s.atCost 1).noteTlb_tables (coreOf s.cur.gid) g'.part ps
  obtain ⟨h, hwait, hdata, hlanes⟩ := State.waitAt_spec (s := { s.atCost 1 with cores, clusters, dies }) hd hg 1
  rw [htlb, hwait] at he
  refine ⟨_, he, fun c hc => ?_, rfl, fun k hk => Tab.get?_set_other _ _ _ _ hk, h, Tab.get?_set_same _ _ _, hlanes,
    .of_data hdata [] []⟩
  have hsame := Same.refl s c
  cases c
  case groups | cores | clusters | dies => exact absurd (by decide) hc
  all_goals exact hsame

/-- The bytes of the entries are in the window, and the group goes on. -/
theorem Does.tidset_writes {tm : Team} (hd : s.cur.defer = none) (hs : SyncOnly g g') (ht : s.teams.get? g.team = some tm)
    (he : exec i s = ((s.atCost 1).tidsetWrite g' x ps).done ((s.atCost 1).tidsetFollow g' ps) s.cur.mask .on 1 none) :
    Does i s [.groups, .sps, .teams, .late, .cores, .clusters, .dies, .parts, .poison] fun t =>
      OnlyGroup s t s.cur.gid ∧ OnlyTeam s t g.team ∧
      (∃ h, t.group? s.cur.gid = some h ∧ SameRegs g h [] [] ∧ GoesTo s g h fun _ => s.cur.pc + BitVec.ofNat 64 s.cur.len) ∧
      t.teams.get? g.team =
        some { tm with tids := tm.tids.setRange (bitsOf x 8 6 * 64) ((s.atCost 1).tidsetBytes g' ps) } := by
  obtain ⟨hkeeps, hcur, hgroups, hteams⟩ := (s.atCost 1).tidsetWrite_spec g' x ps
  have hfollow := hs.trans ((s.atCost 1).tidsetFollow_sync g' ps)
  generalize (s.atCost 1).tidsetWrite g' x ps = u at he hkeeps hcur hgroups hteams
  rw [State.done_next (by rw [hcur]; exact hd)] at he
  obtain ⟨h, hf⟩ := u.finish_spec ((s.atCost 1).tidsetFollow g' ps) s.cur.mask .on 1
  have hset := hf.groups
  rw [hcur, hgroups] at hset
  have hgroup : (u.finish ((s.atCost 1).tidsetFollow g' ps) s.cur.mask .on 1).group? s.cur.gid = some h := by
    rw [State.group?, hset]
    exact Tab.get?_set_same _ _ _
  refine ⟨_, he, ?_, fun k hk => ?_, fun k hk => ?_, ⟨h, hgroup, .of_data (hfollow.data.trans hf.data) [] [], ?_⟩, ?_⟩
  · exact ((Keeps.atCost s 1 _).trans (hkeeps.mono (by decide))).trans
      ((Keeps.finish_groups_sps u _ s.cur.mask .on 1).mono (by decide))
  · rw [State.group?, hset]
    exact Tab.get?_set_other _ _ _ _ hk
  · rw [hf.teams, hteams, Tab.get?_modify, hs.team, if_neg hk]
    rfl
  · have hgoes := u.finish_goes g ((s.atCost 1).tidsetFollow g' ps) h .on 1 rfl hfollow.length hfollow.pc hfollow.handling
      (by rw [hcur]; exact hgroup)
    rw [hcur] at hgoes
    exact .claimed (.refl g) (.of_cur hcur hgoes)
  · rw [hf.teams, hteams, Tab.get?_modify, hs.team, if_pos rfl, State.atCost_teams, ht]
    rfl

end Tidset

theorem State.tidsetGoes_eq_false (s : State) (g : Group) {ps : List Piece} (hwalk : ∃ p ∈ ps, p.walk.isSome = true) :
    s.tidsetGoes g ps = false := by
  obtain ⟨p, hp, hw⟩ := hwalk
  rw [State.tidsetGoes, List.all_eq_false]
  exact ⟨p, hp, by simp [Option.isSome_iff_ne_none.mp hw]⟩

theorem State.tidsetGoes_eq_true (g : Group) {ps : List Piece} (haccs : s.accs = []) (hwalk : ∀ p ∈ ps, p.walk = none) :
    s.tidsetGoes g ps = true := by
  rw [State.tidsetGoes, List.all_eq_true]
  intro p hp
  rw [hwalk p hp, State.unordered, haccs]
  rfl

/-- 05 R120, R121. -/
theorem tensorWindow : Parts.TensorWindow := by
  refine ⟨fun s g0 tm b a hr ht => ?_, fun s g0 a d hr => ?_⟩
  · intro g x base tab wfirst tfirst n ok
    obtain ⟨g', hg'⟩ : ∃ g', g' = g0.taken (tidsetNeed b a) s.cur.mask := ⟨_, rfl⟩
    have hs : SyncOnly g g' := hg' ▸ g0.taken_sync (tidsetNeed b a) s.cur.mask
    have hteam : s.teams.get? g.team = some tm := (congrArg s.teams.get? (g0.claim_team _)).trans ht
    have hstop : (s.atCost 1).untouched g' = g0 := State.untouched_atCost hr.group 1
    have he := fun hcls => exec_tidset (x := x) hr hcls hg' rfl
    have hok : tidsetOk ((s.atCost 1).tidsetTable g' a) x = true ↔ ok := by
      rw [hs.tidsetTable]
      exact tidsetOk_iff tab x
    refine ⟨fun hcls => ?_, fun hcls hbad => ?_, ?_⟩
    · exact .of_illegal (execTidset_eq b a s) hr.fresh hr.group (by rw [hcls]; rfl)
    · have hraise := he hcls
      rw [State.tidsetEffect_refused (Bool.eq_false_iff.mpr (mt hok.mp hbad)), hstop] at hraise
      exact ⟨_, _, g0, .inl rfl, hraise⟩
    intro entries
    have hentries : (s.atCost 1).tidsetPieces g' a x = entries := (hs.tidsetPieces s 1 a x).trans (s.tidsetPieces_eq g a x)
    refine ⟨fun hcls hgood c hc => ?_, fun hcls hgood ps hps hwalk => ?_, fun hcls hgood ps hps hwalk haccs hclean => ?_⟩
    · rw [he hcls, State.tidsetEffect_fault (hok.mpr hgood) (hentries.trans hc), hstop]
      rfl
    · have hwait := he hcls
      rw [State.tidsetEffect_waits (hok.mpr hgood) (hentries.trans hps) (State.tidsetGoes_eq_false _ _ hwalk), hstop] at hwait
      exact .tidset_waits hr.fresh hr.group hwait
    · intro reader bs bad
      have hbytes : (s.atCost 1).tidsetBytes g' ps = bs := (hs.tidsetBytes s 1 ps).trans (by rw [hg']; rfl)
      have hbad : tidsetBad ((s.atCost 1).tidsetBytes g' ps) (bitsOf x 16 6 + 1) = bad := by
        rw [hbytes, tidsetBad_eq, bitsOf_eq_extractLsb']
      have hdone := he hcls
      rw [State.tidsetEffect_goes (hok.mpr hgood) (hentries.trans hps) (State.tidsetGoes_eq_true _ haccs hwalk) hclean, hbad, hstop]
        at hdone
      refine ⟨fun htrue => ?_, fun hfalse => ?_⟩
      · rw [if_pos htrue] at hdone
        exact ⟨_, _, g0, .inl rfl, hdone⟩
      · rw [if_neg (Bool.eq_false_iff.mp hfalse)] at hdone
        obtain ⟨t, hnext, hkeeps, hgroup, hteams, hgoes, hwindow⟩ := Does.tidset_writes hr.fresh hs hteam hdone
        refine ⟨t, hnext, hkeeps, hgroup, hteams, hgoes, _, hwindow, fun i => ?_⟩
        rw [Store.get_setRange, hbytes, bitsOf_eq_extractLsb', Nat.mul_comm _ 64]
  · simp only [← State.tidrdWord_eq]
    exact tidrd hr

end Machine

/-- Settles O28: TIDSET from the outcomes of its effect, TIDRD from the scalar result that it is. -/
theorem tensorWindow : Obligations.TensorWindow := Machine.tensorWindow

end Sys2Proof
end

section
/-! O27 and O29: what the ends of TDEF, TDEC, TWAIT, COPY and WPOS have in common. Each ends an issue in a state whose other units may have
changed by then, and the stores that lag are performed further and never less far. -/

namespace Sys2Proof.Machine

variable {s t u : State} {g g0 g' g1 : Group} {may : List Comp}

/-! The end of an issue. -/

theorem Keeps.inject (s : State) (gid : Nat) (g : Group) (m : Mask) (x : Word) : Keeps s (s.inject gid g m x) [.flits] := by
  unfold State.inject
  split
  · exact .refl s _
  · intro c hc
    have hsame := Same.refl s c
    cases c
    case flits => exact absurd (by decide) hc
    all_goals exact hsame

/-- The end of an issue changes its group, its scheduler partition and the flit that it sends. -/
theorem Keeps.done {m : Mask} {x : Goes} {cost : Nat} {tx : Option Word} (hd : u.cur.defer = none)
    (he : u.done g m x cost tx = .next t) : Keeps u t [.groups, .sps, .flits] := by
  have hfinish : Keeps u (u.finish g m x cost) [.groups, .sps, .flits] := (Keeps.finish_groups_sps u g m x cost).mono (by decide)
  unfold State.done at he
  rw [hd] at he
  injection he with he
  subst he
  cases tx with
  | none => exact hfinish
  | some w =>
    dsimp only
    split
    · exact hfinish
    · exact hfinish.trans ((Keeps.inject _ _ _ _ _).mono (by decide))

/-- What threads follow stays through the end of an issue. -/
theorem State.sync_done {h : Group} {cost : Nat} {m : Mask} {x : Goes} {tx : Option Word} (hd : u.cur.defer = none)
    (he : u.done g m x cost tx = .next t) (hg : t.group? u.cur.gid = some h) (j : Nat) : (h.lane j).sync = (g.lane j).sync := by
  have hgroups : t.groups = (u.finish g m x cost).groups := by
    unfold State.done at he
    rw [hd] at he
    injection he with he
    subst he
    cases tx with
    | none => rfl
    | some w =>
      dsimp only
      split
      · rfl
      · exact (State.inject_spec _ _ _ _ _).2.1
  rw [State.group?, hgroups] at hg
  exact State.sync_finish hg j

/-- An issue that writes no register ends in a state whose other units have changed, and its lanes go on. -/
theorem State.done_goes_on {n cost : Nat} (hkeeps : Keeps s u may) (hd : s.cur.defer = none) (hcur : u.cur = (s.atCost n).cur)
    (hgroups : u.groups = s.groups) (hs : SyncOnly g g1) (hmay : [.groups, .sps] ⊆ may := by decide) :
    ∃ t, u.done g1 s.cur.mask .on cost none = .next t ∧ Keeps s t may ∧ OnlyGroup s t s.cur.gid ∧
      (∃ h, t.group? s.cur.gid = some h ∧ SameRegs g h [] [] ∧ GoesTo s g h fun _ => s.cur.pc + BitVec.ofNat 64 s.cur.len) ∧
      t.teams = u.teams ∧ t.cores = u.cores := by
  have hud : u.cur.defer = none := by rw [hcur]; exact hd
  have hgid : u.cur.gid = s.cur.gid := by rw [hcur]; rfl
  have hmask : u.cur.mask = s.cur.mask := by rw [hcur]; rfl
  obtain ⟨t, h, hdone, hframe, -, hgoes⟩ := u.done_goes g g1 .on cost [] [] hud (.of_data hs.data [] []) rfl hs.length hs.pc hs.handling
  rw [hmask] at hdone
  rw [State.done_next hud] at hdone
  refine ⟨t, (State.done_next hud _ _ _ _).trans hdone, ?_, fun i hi => ?_, ⟨h, ?_, hframe.regs, ?_⟩, hframe.units.teams, hframe.units.cores⟩
  · injection hdone with hdone
    exact hkeeps.trans (hdone ▸ (Keeps.finish_groups_sps u g1 s.cur.mask .on cost).mono hmay)
  · rw [hframe.others i (by rw [hgid]; exact hi), State.group?, hgroups]
    rfl
  · rw [← hgid]
    exact hframe.group
  · rw [hcur] at hgoes
    exact .claimed (.refl g) (.of_cur (s := s.atCost n) hcur hgoes)

/-- A write of a scalar knows of the other units where the group's partition lies alone. -/
theorem State.writeS_of_parts (hparts : u.parts = s.parts) (gid : Nat) (g : Group) (n : Nat) (x : Word) :
    u.writeS gid g n x = s.writeS gid g n x := by
  simp only [State.writeS, State.addrOf, State.part, hparts]

/-- An issue that writes a scalar ends in a state whose other units have changed. -/
theorem State.done_writes_scalar {d n : Nat} {x : Word} {srcs l : List Reg} (hr : Ready s g0 srcs [.s d]) (hcur : u.cur = (s.atCost n).cur)
    (hgroups : u.groups = s.groups) (hparts : u.parts = s.parts) (hfresh : u.fresh = s.fresh) (hs : SyncOnly (g0.claim l) g')
    (hw : SyncOnly (s.writeS s.cur.gid g' d x) g1) :
    ∃ t h, u.done g1 s.cur.mask .on 1 (if d = 61 then some x else none) = .next t ∧ Frame u t (g0.claim l) h [.s d] ∧
      ScalarHolds s t (g0.claim l) h d x ∧ ∀ j, (h.lane j).sync = (g1.lane j).sync := by
  have hud : u.cur.defer = none := by rw [hcur]; exact hr.fresh
  have hgid : u.cur.gid = s.cur.gid := by rw [hcur]; rfl
  have hkind : g1.kind = g0.kind := by rw [hw.data.kind, State.writeS_kind, hs.data.kind, Group.claim_kind]
  have hpart : g1.part = g0.part := by rw [hw.data.part, State.writeS_part, hs.data.part, Group.claim_part]
  have hregs : SameRegs (g0.claim l) g1 [.s d] [] :=
    .trans (.of_data hs.data _ _) ((s.writeS_same s.cur.gid g' d x _ _ (by simp)).trans (.of_data hw.data _ _))
  obtain ⟨t, h, hdone, hframe, hdata, htx⟩ := u.done_spec (g0.claim l) g1 s.cur.mask .on 1 (if d = 61 then some x else none) [.s d] [] hud
    hregs
  refine ⟨t, h, hdone, hframe, ⟨fun hd => ?_, fun hd => ?_, fun hd hk => ?_⟩, fun j => State.sync_done hud hdone hframe.group j⟩
  · rw [hdata.s, hw.data.s]
    exact State.writeS_get _ _ _ _ _ hd
  · rw [hdata.msgDst, hw.data.msgDst, State.writeS_msgDst, if_pos hd, hs.data.kind, hs.data.msgDst, hs.data.part]
  · rw [Group.claim_kind] at hk
    obtain ⟨dst, hdst⟩ := Option.isSome_iff_exists.mp (hr.operands.tx (by simp [hd]) hk).2
    have hgroup : u.curGroup? = some g0 := by
      rw [State.curGroup?, hgid, State.group?, hgroups]
      exact hr.group
    have htarget : u.msgTarget g1.part g0.msgDst = some dst := by
      rw [← hdst, hpart]
      simp only [State.msgTarget, State.part, hparts]
    obtain ⟨f, hf, hpay, hsrc, hto⟩ := htx x g0 dst (if_pos hd) (by rw [hkind]; exact hk) hgroup htarget
    refine ⟨f, hfresh ▸ hf, hpay, ?_, ?_⟩
    · rw [hsrc, hpart, hgid, Group.claim_part]
      simp only [State.addrOf, State.part, hparts]
    · rw [hto, Group.claim_part, Group.claim_msgDst, hdst]

/-- The frame of an issue that has performed stores further before it ended. -/
theorem Frame.of_late {h : Group} {ds : List Reg} {cs : List Nat} {n : Nat} {late : Lags} (hu : u = { s.atCost n with late := late })
    (hf : Frame u t g h ds cs) : Frame s { t with late := s.late } g h ds cs := by
  subst hu
  exact {
    memory := hf.memory
    units := ⟨hf.units.parts, hf.units.cores, hf.units.clusters, hf.units.dies, hf.units.teams, hf.units.grids, hf.units.nodes,
      hf.units.mc, hf.units.now, rfl, hf.units.lines⟩
    work := ⟨hf.work.accs, hf.work.ops, hf.work.flits⟩
    others := hf.others
    group := hf.group
    regs := hf.regs }

/-- A scalar result of an issue that has changed nothing else. -/
theorem SclResult.of_done {i : Instr} {d n : Nat} {x : Word} {srcs l : List Reg} (hr : Ready s g0 srcs [.s d])
    (hs : SyncOnly (g0.claim l) g') (hw : SyncOnly (s.writeS s.cur.gid g' d x) g1)
    (he : exec i s = (s.atCost n).done g1 s.cur.mask .on 1 (if d = 61 then some x else none)) : SclResult i s (g0.claim l) d x := by
  obtain ⟨t, h, hdone, hframe, hholds, -⟩ := State.done_writes_scalar (u := s.atCost n) hr rfl rfl rfl rfl hs hw
  exact ⟨t, h, he.trans hdone, .claimed (.refl _) hframe, hholds⟩

/-! Stores that are performed further. -/

theorem Late.performed_mono_raise {e : Late} {p : Path} {n team : Nat} (q : Path) (m team' : Nat) (h : e.performed p n team) :
    (e.raise q m team').performed p n team := by
  unfold Late.raise
  split
  · exact h.imp_right fun ⟨hn, hmem⟩ => ⟨hn, List.mem_cons_of_mem _ hmem⟩
  · refine h.imp_left fun hle => hle.trans ?_
    cases p <;> cases q <;> simp [Late.level, Reach.level, Reach.raise]

theorem Late.performed_mono_raiseAll {e : Late} {p : Path} {n team : Nat} (ps : List Path) (m team' : Nat) (h : e.performed p n team) :
    (e.raiseAll ps m team').performed p n team := by
  induction ps generalizing e with
  | nil => exact h
  | cons q r ih => exact ih (Late.performed_mono_raise q m team' h)

/-- Raising with respect to several paths performs the store with respect to each of them. -/
theorem Late.performed_raiseAll (e : Late) {p : Path} {ps : List Path} (n team : Nat) (hp : p ∈ ps) :
    (e.raiseAll ps n team).performed p n team := by
  induction ps generalizing e with
  | nil => exact absurd hp List.not_mem_nil
  | cons q r ih =>
    rcases List.mem_cons.mp hp with rfl | hp
    · exact Late.performed_mono_raiseAll r n team (e.performed_raise p n team)
    · exact ih (e.raise q n team) hp

theorem Late.SameStore.refl (e : Late) : e.SameStore e := ⟨rfl, rfl, rfl, rfl, rfl⟩

theorem Late.SameStore.trans {a b c : Late} (h : a.SameStore b) (k : b.SameStore c) : a.SameStore c :=
  ⟨k.old.trans h.old, k.path.trans h.path, k.who.trans h.who, k.stamp.trans h.stamp, k.seen.trans h.seen⟩

/-- Stores stay and some are performed further, where each store that lags is replaced by one that is the same but for that. -/
theorem Publishes.of_map {f : Late → Late} {F : Late → Prop} {p : Path} {n team : Nat} (hlags : ∀ c, t.lags c = (s.lags c).map f)
    (hsame : ∀ e, Late.SameStore e (f e)) (hF : ∀ e, F e → (f e).performed p n team) : Publishes s t F p n team := by
  refine fun c => ⟨by rw [hlags, List.length_map], fun k e hk => ⟨f e, by rw [hlags, List.getElem?_map, hk]; rfl, ?_⟩⟩
  obtain ⟨hold, hpath, hwho, hstamp, hseen⟩ := hsame e
  exact ⟨hold, hstamp, hpath, hwho, hseen, hF e⟩

/-- What releasing a token does to a store, and releasing several one after the other. -/
def Late.releaseTok (e : Late) (t : Tok) (ps : List Path) (n team : Nat) : Late :=
  if e.earlier t.tids t.saw allStreams false t.bound then e.raiseAll ps n team else e
def Late.releaseToks (e : Late) (ts : List Tok) (ps : List Path) (n team : Nat) : Late :=
  ts.foldl (fun e t => e.releaseTok t ps n team) e

theorem State.releaseToks_lags (s : State) (ts : List Tok) (ps : List Path) (n team c : Nat) :
    (s.releaseToks ts false ps n team).lags c = (s.lags c).map (·.releaseToks ts ps n team) := by
  induction ts generalizing s with
  | nil => exact (List.map_id _).symm
  | cons t r ih =>
    have hstep : (s.releaseTok t false ps n team).lags c = (s.lags c).map (·.releaseTok t ps n team) := State.onLate_lags _ _ c
    refine (ih (s.releaseTok t false ps n team)).trans ?_
    rw [hstep, List.map_map]
    rfl

theorem State.releaseToks_tables (s : State) (ts : List Tok) (ps : List Path) (n team : Nat) :
    ∃ late, s.releaseToks ts false ps n team = { s with late } := by
  induction ts generalizing s with
  | nil => exact ⟨_, rfl⟩
  | cons t r ih => exact ih (s.releaseTok t false ps n team)

theorem Late.sameStore_releaseTok (e : Late) (t : Tok) (ps : List Path) (n team : Nat) : e.SameStore (e.releaseTok t ps n team) := by
  unfold Late.releaseTok
  split
  · exact e.sameStore_raiseAll ps n team
  · exact .refl e

theorem Late.sameStore_releaseToks (e : Late) (ts : List Tok) (ps : List Path) (n team : Nat) : e.SameStore (e.releaseToks ts ps n team) := by
  induction ts generalizing e with
  | nil => exact .refl e
  | cons t r ih => exact (e.sameStore_releaseTok t ps n team).trans (ih _)

theorem Late.performed_mono_releaseToks {e : Late} {p : Path} {n team : Nat} (ts : List Tok) (ps : List Path)
    (h : e.performed p n team) : (e.releaseToks ts ps n team).performed p n team := by
  induction ts generalizing e with
  | nil => exact h
  | cons t r ih =>
    refine ih (e := e.releaseTok t ps n team) ?_
    unfold Late.releaseTok
    split
    · exact Late.performed_mono_raiseAll ps n team h
    · exact h

/-- A store that an access of a token made or returned is one that its release orders. -/
theorem Late.earlier_of_madeBy {e : Late} {k : Tok} (huo : ∀ x ∈ e.seen, x.uo = false) (hmade : e.madeBy k.tids k.bound) :
    e.earlier k.tids k.saw allStreams false k.bound = true := by
  obtain ⟨x, hx, htid, hstream, hacc⟩ := hmade
  have hin : x.stream = 16 ∨ allStreams.getLsbD x.stream = true := by
    rcases Nat.lt_or_eq_of_le hstream with h | h
    · right
      have hall : allStreams = BitVec.allOnes 16 := rfl
      rw [hall, BitVec.getLsbD_allOnes]
      exact decide_eq_true h
    · exact .inl h
  rw [Late.earlier, List.any_eq_true.mpr ⟨x, hx, by simpa [htid, hacc, huo x hx] using hin⟩, Bool.or_true]

theorem Late.performed_releaseToks {e : Late} {ts : List Tok} {ps : List Path} {p : Path} {n team : Nat} (hp : p ∈ ps)
    (h : e.releasedBy ts) : (e.releaseToks ts ps n team).performed p n team := by
  obtain ⟨huo, k, hk, hmade⟩ := h
  induction ts generalizing e with
  | nil => exact absurd hk List.not_mem_nil
  | cons t r ih =>
    rcases List.mem_cons.mp hk with rfl | hk
    · refine Late.performed_mono_releaseToks (e := e.releaseTok k ps n team) r ps ?_
      rw [Late.releaseTok, if_pos (Late.earlier_of_madeBy huo hmade)]
      exact e.performed_raiseAll n team hp
    · have hseen := (e.sameStore_releaseTok t ps n team).seen
      refine ih (by rw [hseen]; exact huo) hk ?_
      rw [Late.madeBy, hseen]
      exact hmade

/-- Releasing tokens performs what they release. -/
theorem Publishes.releaseToks {ts : List Tok} {ps : List Path} {p : Path} {n team : Nat}
    (hlags : ∀ c, t.lags c = (s.lags c).map (·.releaseToks ts ps n team)) (hp : p ∈ ps) :
    Publishes s t (·.releasedBy ts) p n team :=
  .of_map hlags (fun e => e.sameStore_releaseToks ts ps n team) fun _ => Late.performed_releaseToks hp

end Sys2Proof.Machine
end

section
/-! O27: task entries. `State.putTask` writes an entry whose counter may have reached 0, which TDEF and every decrement do; TDEF and TDEC
answer it once their operands are in order, and TWAIT has one equation for each of the outcomes of its effect. -/

namespace Sys2Proof.Machine

variable {s t u : State} {g g0 g' : Group} {tm : Team} {b a d : BitVec 6}

/-! The team's entries (06 R139, R140). -/

@[simp] theorem Team.task_set_same (tm : Team) (n : Nat) (x : Task) : Team.task { tm with tasks := tm.tasks.set n x } n = x :=
  Tab.getD_set_same tm.tasks n x Task.free

theorem Team.task_set_other (tm : Team) {n k : Nat} (x : Task) (h : k ≠ n) : Team.task { tm with tasks := tm.tasks.set n x } k = tm.task k :=
  Tab.getD_set_other tm.tasks n k x Task.free h

/-- Write an entry, which is READY or in ERROR where its counter is 0. -/
def State.putTask (s : State) (team : Nat) (tm : Team) (n : Nat) (x : Task) : State :=
  if x.ctr = 0 then s.taskZero team tm n x else s.setTeam team { tm with tasks := tm.tasks.set n x }

/-- The entry that is then there. -/
def Task.settled (x : Task) : Task := { x with st := if x.ctr = 0 then (if x.code = 0 then 2 else 3) else x.st }

/-- Threads placed by an entry change bins of cores alone. -/
theorem State.taskZero_tables (s : State) (team : Nat) (tm : Team) (n : Nat) (x : Task) : ∃ cores, s.taskZero team tm n x =
    { s with teams := s.teams.set team { tm with tasks := tm.tasks.set n { x with st := if x.code = 0 then 2 else 3 } }, cores } := by
  unfold State.taskZero
  dsimp only
  split <;> exact ⟨_, rfl⟩

theorem State.putTask_tables (s : State) (team : Nat) (tm : Team) (n : Nat) (x : Task) : ∃ cores,
    s.putTask team tm n x = { s with teams := s.teams.set team { tm with tasks := tm.tasks.set n x.settled }, cores } := by
  unfold State.putTask Task.settled
  split
  · exact s.taskZero_tables team tm n x
  · exact ⟨s.cores, rfl⟩

/-- What a decrement takes from an entry, and what it records there. -/
def Task.less (x : Task) (k code : Nat) (toks : List Tok) : Task :=
  { x with ctr := x.ctr - k, code := if x.code = 0 then code else x.code, toks := x.toks ++ toks }

/-- A PENDING entry stays so while its counter holds more than is taken. -/
theorem Task.settled_less_st {x : Task} (hst : x.st = 1) (k code : Nat) (toks : List Tok) : (x.less k code toks).settled.st =
    if k < x.ctr then 1 else if (if x.code = 0 then code else x.code) = 0 then 2 else 3 := by
  change (if x.ctr - k = 0 then _ else x.st) = _
  by_cases h : k < x.ctr
  · rw [if_pos h, if_neg (by omega), hst]
  · rw [if_neg h, if_pos (by omega)]
    rfl

theorem State.decTask_pending {team n : Nat} (ht : s.teams.get? team = some tm) (hst : (tm.task n).st = 1) (k code : Nat) (toks : List Tok) :
    s.decTask team n k code toks = s.putTask team tm n ((tm.task n).less k code toks) := by
  unfold State.decTask
  simp only [ht]
  exact if_neg (not_not.mpr hst)

theorem State.decTask_idle {team n : Nat} (ht : s.teams.get? team = some tm) (hst : (tm.task n).st ≠ 1) (k code : Nat) (toks : List Tok) :
    s.decTask team n k code toks = s := by
  unfold State.decTask
  simp only [ht]
  exact if_pos hst

/-- A decrement changes the entries of its team and bins of cores. -/
theorem State.decTask_tables (s : State) (team n k code : Nat) (toks : List Tok) :
    ∃ teams cores, s.decTask team n k code toks = { s with teams, cores } ∧ ∀ i, i ≠ team → teams.get? i = s.teams.get? i := by
  cases ht : s.teams.get? team with
  | none =>
    refine ⟨s.teams, s.cores, ?_, fun _ _ => rfl⟩
    unfold State.decTask
    simp only [ht]
  | some tm =>
    by_cases hst : (tm.task n).st = 1
    · obtain ⟨cores, h⟩ := s.putTask_tables team tm n ((tm.task n).less k code toks)
      exact ⟨_, cores, (State.decTask_pending ht hst k code toks).trans h, fun i hi => Tab.get?_set_other _ _ _ _ hi⟩
    · exact ⟨s.teams, s.cores, State.decTask_idle ht hst k code toks, fun _ _ => rfl⟩

/-- A PENDING entry after a decrement; the other entries of its team stay. -/
theorem State.decTask_entry {team n : Nat} (ht : s.teams.get? team = some tm) (hst : (tm.task n).st = 1) (k code : Nat) (toks : List Tok) :
    (s.decTask team n k code toks).teams.get? team =
      some { tm with tasks := tm.tasks.set n ((tm.task n).less k code toks).settled } := by
  obtain ⟨cores, h⟩ := s.putTask_tables team tm n ((tm.task n).less k code toks)
  rw [State.decTask_pending ht hst, h]
  exact Tab.get?_set_same _ _ _

/-- Entries and bins that change. -/
theorem Keeps.teamsCores {may : List Comp} (h : Keeps s t may) (teams : Tab Team) (cores : Tab Core) (hmay : [.teams, .cores] ⊆ may := by decide) :
    Keeps s { t with teams, cores } may := by
  intro c hc
  have hsame := h c hc
  cases c
  case teams | cores => exact absurd (hmay (by decide)) hc
  all_goals exact hsame

/-! TDEF (06 R137, R138). -/

theorem bitsOf_high (x : Word) : bitsOf x 16 16 = x.toNat / 65536 := by
  have hlt := x.isLt
  simp only [bitsOf]
  omega

/-- TDEF may define the entry that its words name: a slot of the team that is not PENDING, and a landing in order under a new key. -/
def Team.defines (tm : Team) (core : Nat) (w off v : Word) : Bool :=
  (tm.taskCore (bitsOf w 0 6)).isSome && bitsOf w 7 9 == 0 && (tm.task (bitsOf w 0 6)).st != 1 &&
    (!w.getLsbD 6 || (off.toNat % 64 == 0 && bitsOf v 0 16 != 0 && !tm.landingWith core (bitsOf v 16 16)))

/-- The landing lies beyond the team's scratchpad. -/
def Team.beyond (tm : Team) (w off v : Word) : Bool :=
  w.getLsbD 6 && decide ((if tm.pair then 2 * tm.scratch else tm.scratch) < off.toNat + 64 * bitsOf v 0 16)

/-- The entry that TDEF defines. -/
def Team.defined (tm : Team) (core uid : Nat) (w off v : Word) : Task :=
  { st := 1, ctr := bitsOf w 16 16, code := 0, entry := if w.getLsbD 6 then 0 else off, arg := if w.getLsbD 6 then 0 else v
    land := if w.getLsbD 6 then some (off.toNat, bitsOf v 16 16, bitsOf v 0 16 * 64) else none, toks := []
    core := if w.getLsbD 6 then core else (tm.taskCore (bitsOf w 0 6)).getD 0, uid }

/-- The registers that TDEF reads. -/
def tdefRegs (b a d : BitVec 6) : List Reg := [.s d.toNat, .s a.toNat, .s b.toNat]

def tdefNeed (b a d : BitVec 6) : Need' := { legal := .ordinary, srcs := [srcS d false, srcS a false, srcS b false] }

/-- TDEF, by what its words say. -/
theorem exec_tdef {w off v : Word} (hr : Ready s g0 (tdefRegs b a d) []) (hcls : s.cur.cls = .ordinary)
    (ht : s.teams.get? g0.team = some tm) (hg' : g' = g0.taken (tdefNeed b a d) s.cur.mask)
    (hw : (g0.claim (tdefRegs b a d)).sr d.toNat = w) (hoff : (g0.claim (tdefRegs b a d)).sr a.toNat = off)
    (hv : (g0.claim (tdefRegs b a d)).sr b.toNat = v) : exec (.tdef b a d) s =
      if !tm.defines (coreOf s.cur.gid) w off v then .next ((s.atCost 1).raise g0 s.cur.mask 26 0 none 0)
      else if tm.beyond w off v then .next ((s.atCost 1).raise g0 s.cur.mask 8 0 none 0)
      else (((s.atCost 1).takeFresh 1).putTask g'.team tm (bitsOf w 0 6) (tm.defined (coreOf s.cur.gid) s.fresh w off v)).done g'
        s.cur.mask .on 1 none := by
  have hs : SyncOnly (g0.claim (tdefRegs b a d)) g' := hg' ▸ g0.taken_sync (tdefNeed b a d) s.cur.mask
  have hteam : (s.atCost 1).teams.get? g'.team = some tm := by rw [hs.team, g0.claim_team]; exact ht
  change execTdef b a d s = _
  unfold execTdef
  rw [State.issue_legal hr (by rw [hcls]; rfl)]
  dsimp only
  rw [← tdefNeed, ← hg', show (s.atCost (costOne g0)) = s.atCost 1 from rfl, State.untouched_atCost hr.group]
  simp only [hs.data.sr, hw, hoff, hv, hteam, State.atCost_cur_gid, State.atCost_cur_mask]
  cases hcore : tm.taskCore (bitsOf w 0 6) with
  | none =>
    rw [Team.defines, hcore]
    rfl
  | some core =>
    have hname : tm.defines (coreOf s.cur.gid) w off v = true ↔ ¬ (bitsOf w 7 9 ≠ 0 ∨ (tm.task (bitsOf w 0 6)).st = 1) ∧
        ¬ (w.getLsbD 6 = true ∧ (off.toNat % 64 ≠ 0 ∨ bitsOf v 0 16 = 0 ∨
          tm.landingWith (coreOf s.cur.gid) (bitsOf v 16 16) = true)) := by
      simp [Team.defines, hcore, Decidable.imp_iff_not_or, and_assoc]
    dsimp only
    by_cases hok : tm.defines (coreOf s.cur.gid) w off v = true
    · obtain ⟨hentry, hland⟩ := hname.mp hok
      rw [if_neg hentry, if_neg hland, hok, Team.beyond, Team.defined, hcore]
      simp only [Bool.and_eq_true, decide_eq_true_eq]
      rfl
    · rw [Bool.eq_false_iff.mpr hok]
      by_cases hentry : bitsOf w 7 9 ≠ 0 ∨ (tm.task (bitsOf w 0 6)).st = 1
      · rw [if_pos hentry]
        rfl
      · rw [if_neg hentry, if_pos (by_contra fun hland => hok (hname.mpr ⟨hentry, hland⟩))]
        rfl

theorem Team.defines_iff (tm : Team) (core : Nat) (w off v : Word) : tm.defines core w off v = true ↔
    (tm.taskCore (w.toNat % 64)).isSome = true ∧ w.extractLsb' 7 9 = 0 ∧ (tm.task (w.toNat % 64)).st ≠ 1 ∧
      (w.getLsbD 6 = true → off.toNat % 64 = 0 ∧ v.toNat % 65536 ≠ 0 ∧ tm.landingWith core (v.toNat / 65536) = false) := by
  rw [Team.defines, bitsOf_high, ← bitsOf_eq_zero_iff]
  simp [bitsOf, Decidable.imp_iff_not_or, and_assoc]

theorem Team.beyond_iff (tm : Team) (w off v : Word) : tm.beyond w off v = true ↔
    w.getLsbD 6 = true ∧ (if tm.pair then 2 * tm.scratch else tm.scratch) < off.toNat + 64 * (v.toNat % 65536) := by
  simp [Team.beyond, bitsOf]

/-- An entry is defined, and the group goes on. -/
theorem Does.putTask {i : Instr} {n : Nat} {x : Task} (hd : s.cur.defer = none) (hs : SyncOnly g g')
    (he : exec i s = (((s.atCost 1).takeFresh 1).putTask g'.team tm n x).done g' s.cur.mask .on 1 none) :
    Does i s [.groups, .sps, .teams, .cores] fun t => OnlyGroup s t s.cur.gid ∧ OnlyTeam s t g.team ∧
      (∃ h, t.group? s.cur.gid = some h ∧ SameRegs g h [] [] ∧ GoesTo s g h fun _ => s.cur.pc + BitVec.ofNat 64 s.cur.len) ∧
      t.teams.get? g.team = some { tm with tasks := tm.tasks.set n x.settled } := by
  obtain ⟨cores, hput⟩ := ((s.atCost 1).takeFresh 1).putTask_tables g'.team tm n x
  rw [hs.team] at he hput
  generalize ((s.atCost 1).takeFresh 1).putTask g.team tm n x = u at he hput
  have hkeeps : Keeps s u [.groups, .sps, .teams, .cores] := hput ▸ (Keeps.atCost s 1 _).teamsCores _ cores
  obtain ⟨t, hdone, hk, honly, hgroup, hteams, -⟩ := State.done_goes_on (cost := 1) (n := 1) hkeeps hd
    (by rw [hput]; rfl) (by rw [hput]; rfl) hs
  rw [hput] at hteams
  refine ⟨t, he.trans hdone, hk, honly, fun k hk => ?_, hgroup, ?_⟩
  · rw [hteams]
    exact Tab.get?_set_other _ _ _ _ hk
  · rw [hteams]
    exact Tab.get?_set_same _ _ _

theorem tdef (hr : Ready s g0 (tdefRegs b a d) []) (hcls : s.cur.cls = .ordinary) (ht : s.teams.get? g0.team = some tm) :
    let g := g0.claim (tdefRegs b a d)
    let w := g.sr d.toNat
    let off := g.sr a.toNat
    let v := g.sr b.toNat
    let ok := tm.defines (coreOf s.cur.gid) w off v
    (ok = false → Raises (.tdef b a d) s g0 26) ∧
    (ok = true → tm.beyond w off v = true → Raises (.tdef b a d) s g0 8) ∧
    (ok = true → tm.beyond w off v = false → Does (.tdef b a d) s [.groups, .sps, .teams, .cores] fun t =>
      OnlyGroup s t s.cur.gid ∧ OnlyTeam s t g.team ∧
      (∃ h, t.group? s.cur.gid = some h ∧ SameRegs g h [] [] ∧ GoesTo s g h fun _ => s.cur.pc + BitVec.ofNat 64 s.cur.len) ∧
      t.teams.get? g.team =
        some { tm with tasks := tm.tasks.set (bitsOf w 0 6) (tm.defined (coreOf s.cur.gid) s.fresh w off v).settled }) := by
  intro g w off v ok
  have he := exec_tdef (w := w) (off := off) (v := v) hr hcls ht rfl rfl rfl rfl
  refine ⟨fun hok => ?_, fun hok hbeyond => ?_, fun hok hbeyond => ?_⟩
  · rw [show tm.defines (coreOf s.cur.gid) w off v = false from hok] at he
    exact ⟨_, _, g0, .inl rfl, he⟩
  · rw [show tm.defines (coreOf s.cur.gid) w off v = true from hok, hbeyond] at he
    exact ⟨_, _, g0, .inl rfl, he⟩
  · rw [show tm.defines (coreOf s.cur.gid) w off v = true from hok, hbeyond] at he
    exact .putTask hr.fresh (g0.taken_sync (tdefNeed b a d) s.cur.mask) he

/-! TDEC (06 R139). -/

/-- What TDEC returns of the entry that it names. -/
def Task.left (x : Task) (k : Nat) : Word := if x.st = 0 then 0xFFFFFFFF else if x.st = 1 then BitVec.ofNat 32 (x.ctr - k) else 0

def tdecNeed (b a d : BitVec 6) : Need' :=
  { legal := .ordinary, srcs := [srcS a false, srcS b false], dests := [.s d.toNat], defer := some (.tdec b a d) }

/-- TDEC, by its operands. -/
theorem exec_tdec {n k : Nat} (hr : Ready s g0 [.s a.toNat, .s b.toNat] [.s d.toNat]) (hcls : s.cur.cls = .ordinary)
    (ht : s.teams.get? g0.team = some tm) (hg' : g' = g0.taken (tdecNeed b a d) s.cur.mask)
    (hn : ((g0.claim [.s a.toNat, .s b.toNat]).sr a.toNat).toNat = n)
    (hk : ((g0.claim [.s a.toNat, .s b.toNat]).sr b.toNat).toNat = k) : exec (.tdec b a d) s =
      if (tm.taskCore n).isNone = true ∨ 65536 ≤ k then .next ((s.atCost 1).raise g0 s.cur.mask 26 0 (some (.s d.toNat)) 0)
      else ((s.atCost 1).decTask g0.team n k 0 [(s.atCost 1).tokOf g' s.cur.mask]).done
        (s.writeS s.cur.gid g' d.toNat ((tm.task n).left k)) s.cur.mask .on 1 (if d.toNat = 61 then some ((tm.task n).left k) else none) := by
  have hs : SyncOnly (g0.claim [.s a.toNat, .s b.toNat]) g' := hg' ▸ g0.taken_sync (tdecNeed b a d) s.cur.mask
  have hteam : g'.team = g0.team := by rw [hs.team, g0.claim_team]
  have hget : (s.atCost 1).teams.get? g0.team = some tm := ht
  change execTdec b a d s = _
  unfold execTdec
  rw [State.issue_legal hr (by rw [hcls]; rfl)]
  dsimp only
  rw [← tdecNeed, ← hg', show (s.atCost (costOne g0)) = s.atCost 1 from rfl, State.untouched_atCost hr.group]
  simp only [hs.data.sr, hn, hk, hteam, hget]
  rfl

theorem tdec (hr : Ready s g0 [.s a.toNat, .s b.toNat] [.s d.toNat]) (hcls : s.cur.cls = .ordinary)
    (ht : s.teams.get? g0.team = some tm) :
    let g := g0.claim [.s a.toNat, .s b.toNat]
    let n := (g.sr a.toNat).toNat
    let k := (g.sr b.toNat).toNat
    let x := tm.task n
    (((tm.taskCore n).isNone = true ∨ 65536 ≤ k) → Raises (.tdec b a d) s g0 26) ∧
    ((tm.taskCore n).isSome = true → k < 65536 → Does (.tdec b a d) s [.groups, .sps, .teams, .cores, .flits] fun t =>
      OnlyGroup s t s.cur.gid ∧ OnlyTeam s t g.team ∧
      (∃ h, t.group? s.cur.gid = some h ∧ SameRegs g h [.s d.toNat] [] ∧ ScalarHolds s t g h d.toNat (x.left k)) ∧
      ∃ tm', t.teams.get? g.team = some tm' ∧ (∀ i, i ≠ n → tm'.task i = tm.task i) ∧ (x.st ≠ 1 → tm'.task n = x) ∧
        (x.st = 1 → ∃ toks, tm'.task n = (x.less k 0 toks).settled)) := by
  intro g n k x
  have he := exec_tdec (n := n) (k := k) hr hcls ht rfl rfl rfl
  have hs := g0.taken_sync (tdecNeed b a d) s.cur.mask
  generalize g0.taken (tdecNeed b a d) s.cur.mask = g' at he hs
  refine ⟨fun hbad => ?_, fun hcore hk => ?_⟩
  · rw [if_pos hbad] at he
    exact ⟨_, _, g0, .inl rfl, he⟩
  · rw [if_neg (by simp [Option.isSome_iff_ne_none.mp hcore, hk])] at he
    generalize [(s.atCost 1).tokOf g' s.cur.mask] = toks at he
    obtain ⟨teams, cores, hdec, hothers⟩ := (s.atCost 1).decTask_tables g0.team n k 0 toks
    have hidle := State.decTask_idle (s := s.atCost 1) (n := n) ht
    have hentry := State.decTask_entry (s := s.atCost 1) (n := n) ht
    have hteam : g.team = g0.team := g0.claim_team _
    generalize hu : (s.atCost 1).decTask g0.team n k 0 toks = u at he hdec
    obtain ⟨t, h, hdone, hframe, hholds, -⟩ := State.done_writes_scalar (u := u) (n := 1) hr (by rw [hdec]) (by rw [hdec]; rfl)
      (by rw [hdec]; rfl) (by rw [hdec]; rfl) hs (.refl (s.writeS s.cur.gid g' d.toNat (x.left k)))
    have hgid : u.cur.gid = s.cur.gid := by rw [hdec]; rfl
    have hkeeps : Keeps s u [.groups, .sps, .teams, .cores, .flits] := hdec ▸ (Keeps.atCost s 1 _).teamsCores _ cores
    refine ⟨t, he.trans hdone, hkeeps.trans ((Keeps.done (by rw [hdec]; exact hr.fresh) hdone).mono (by decide)), fun i hi => ?_,
      fun i hi => ?_, ⟨h, hgid ▸ hframe.group, hframe.regs, hholds⟩, ?_⟩
    · rw [hframe.others i (hgid ▸ hi), hdec]
      rfl
    · rw [hframe.units.teams, hdec]
      exact hothers i (hteam ▸ hi)
    · rw [hframe.units.teams, hteam, ← hu]
      by_cases hst : x.st = 1
      · exact ⟨_, hentry hst k 0 toks, fun i hi => tm.task_set_other _ hi, fun hn => absurd hst hn, fun _ => ⟨toks, tm.task_set_same _ _⟩⟩
      · exact ⟨tm, by rw [hidle hst]; exact ht, fun _ _ => rfl, fun _ => rfl, fun h => absurd h hst⟩

/-- 06 R137 to R140. -/
theorem taskCounters : Parts.TaskCounters := by
  intro s g0 tm b a d ht
  refine ⟨fun hr hcls => ?_, fun hr hcls => ?_⟩
  · intro g w n land key len off limit ok
    obtain ⟨hbad, hbeyond, hdefines⟩ := tdef hr hcls ht
    have hok : tm.defines (coreOf s.cur.gid) w (g.sr a.toNat) (g.sr b.toNat) = true ↔ ok := tm.defines_iff _ _ _ _
    have hlimit := tm.beyond_iff w (g.sr a.toNat) (g.sr b.toNat)
    refine ⟨fun h => hbad (Bool.eq_false_iff.mpr (mt hok.mp h)), fun h hland hlt => hbeyond (hok.mpr h) (hlimit.mpr ⟨hland, hlt⟩),
      fun h hle => ?_⟩
    obtain ⟨t, he, hkeeps, hgroup, hteams, hgoes, hentry⟩ := hdefines (hok.mpr h) (Bool.eq_false_iff.mpr fun hb =>
      absurd (hlimit.mp hb).2 (not_lt.mpr (hle (hlimit.mp hb).1)))
    have hn : bitsOf w 0 6 = n := by simp [bitsOf, n]
    have hkey : bitsOf (g.sr b.toNat) 16 16 = key := bitsOf_high _
    have hlen : bitsOf (g.sr b.toNat) 0 16 = len := by simp [bitsOf, len]
    change t.teams.get? g.team = some { tm with tasks := tm.tasks.set (bitsOf w 0 6) _ } at hentry
    rw [hn] at hentry
    refine ⟨t, he, hkeeps, hgroup, hteams, hgoes, _, _, hentry, rfl, tm.task_set_same _ _, fun k hk => tm.task_set_other _ hk,
      bitsOf_high w, ?_, rfl, ?_, fun hland => ?_⟩
    · rw [← bitsOf_high]
      rfl
    · rw [← hkey, ← hlen]
      rfl
    · exact ⟨if_neg (Bool.eq_false_iff.mp hland), if_neg (Bool.eq_false_iff.mp hland)⟩
  · intro g n k x
    obtain ⟨hbad, hok⟩ := tdec hr hcls ht
    refine ⟨hbad, fun hcore hk => ?_⟩
    obtain ⟨t, he, hkeeps, hgroup, hteams, hholds, tm', htm', hothers, hidle, hless⟩ := hok hcore hk
    refine ⟨t, he, hkeeps, hgroup, hteams, hholds, tm', htm', hothers, hidle, fun hst => ?_⟩
    obtain ⟨toks, hentry⟩ := hless hst
    have hcode : (if x.code = 0 then 0 else x.code) = x.code := by split <;> simp [*]
    rw [hentry, Task.settled_less_st hst, hcode]
    exact ⟨rfl, hcode, rfl⟩

end Sys2Proof.Machine
end

section
/-! O27: TWAIT, which ends with its entry's status or waits, and its limit (06 R141). -/

namespace Sys2Proof.Machine

variable {s t u : State} {g g0 g' : Group} {tm : Team} {x : Task} {b a d : BitVec 6}

/-! The wait of a group, through the reads of an issue. -/

theorem Group.claim_twait (g : Group) (l : List Reg) : (g.claim l).twait = g.twait := by
  unfold Group.claim
  split
  · split <;> rfl
  · rfl

theorem Group.readsFirst_twait (g : Group) (m : Mask) (reads writes : List Reg) : (g.readsFirst m reads writes).twait = g.twait :=
  List.foldlRecOn (motive := fun h : Group => h.twait = g.twait) _ _ rfl fun _ hh _ _ => hh

theorem Group.taken_twait (g : Group) (q : Need') (m : Mask) : (g.taken q m).twait = (g.claim (q.srcs.map (·.reg))).twait := by
  unfold Group.taken
  refine (Group.readsFirst_twait _ m q.reads (q.dests ++ q.late)).trans ?_
  split <;> rfl

/-! TWAIT: what it answers. -/

def twaitNeed (b a d : BitVec 6) : Need' := { legal := .ordinary, srcs := [srcS a false, srcS b false], dests := [.s d.toNat] }

/-- The wait ends with a word, and the group's threads follow what `f` says. -/
def State.twaitEnds (s : State) (g : Group) (d : Nat) (y : Word) (f : Lane → Lane) : Out :=
  s.done ((s.writeS s.cur.gid g d y).modLanes fun _ l => f l) s.cur.mask .on 1 (if d = 61 then some y else none)

/-- Its effect. -/
def State.twaitEffect (s : State) (g : Group) (b a d : BitVec 6) : Out :=
  let n := (g.sr a.toNat).toNat
  let g0 := s.untouched g
  match s.teams.get? g.team with
  | none => .fault .noIssue
  | some t =>
    let x := t.task n
    if (t.taskCore n).isNone then .next (s.raise g0 s.cur.mask 26 0 (some (.s d.toNat)) 0)
    else if x.st = 0 then s.twaitEnds g d.toNat x.status id
    else if 2 ≤ x.st then
      (if x.toks.all s.tokDone then (s.releaseToks x.toks false [.ls, .mx] 1 g.team).twaitEnds g d.toNat x.status fun l =>
        (l.acquire allStreams).snapFollows (sawOf x.toks)
       else .next (s.waitAt g0 5))
    else match g.twait with
      | some (_, _, true) => s.twaitEnds g d.toNat (BitVec.ofNat 32 (x.code % 256 * 256 + 1)) id
      | some _ => .next (s.waitAt g0 5)
      | none =>
        let lim := if g.sr b.toNat = 0 then 0 else (s.part g.part).clock + (g.sr b.toNat).toNat
        .next (s.waitAt { g0 with twait := some (s.cur.pc, lim, false) } 5)

/-- TWAIT of the model in these words. -/
theorem execTwait_eq (b a d : BitVec 6) (s : State) :
    execTwait b a d s = s.issue (twaitNeed b a d) costOne fun s g => s.twaitEffect g b a d := rfl

theorem exec_twait (hr : Ready s g0 [.s a.toNat, .s b.toNat] [.s d.toNat]) (hcls : s.cur.cls = .ordinary) :
    exec (.twait b a d) s = (s.atCost 1).twaitEffect (g0.taken (twaitNeed b a d) s.cur.mask) b a d := by
  change execTwait b a d s = _
  rw [execTwait_eq, twaitNeed, State.issue_legal hr (by rw [hcls]; rfl)]
  rfl

section Effect

variable {n : Nat} (ht : s.teams.get? g.team = some tm) (hn : (g.sr a.toNat).toNat = n)
include ht hn

theorem State.twaitEffect_refused (hcore : (tm.taskCore n).isNone = true) :
    s.twaitEffect g b a d = .next (s.raise (s.untouched g) s.cur.mask 26 0 (some (.s d.toNat)) 0) := by
  simp only [State.twaitEffect, ht, hn, hcore, if_true]

variable (hcore : (tm.taskCore n).isSome = true)
include hcore

theorem State.twaitEffect_free (hst : (tm.task n).st = 0) : s.twaitEffect g b a d = s.twaitEnds g d.toNat 2 id := by
  simp only [State.twaitEffect, ht, hn, Option.isNone_eq_false_iff.mpr hcore, Bool.false_eq_true, if_false, hst, if_true, Task.status]

theorem State.twaitEffect_acquires (hst : 2 ≤ (tm.task n).st) (htoks : (tm.task n).toks.all s.tokDone = true) :
    s.twaitEffect g b a d = (s.releaseToks (tm.task n).toks false [.ls, .mx] 1 g.team).twaitEnds g d.toNat (tm.task n).status fun l =>
      (l.acquire allStreams).snapFollows (sawOf (tm.task n).toks) := by
  simp only [State.twaitEffect, ht, hn, Option.isNone_eq_false_iff.mpr hcore, Bool.false_eq_true, if_false, hst, if_true, htoks,
    if_neg (show ¬ (tm.task n).st = 0 by omega)]

/-- The entry is READY or in ERROR, and what it releases has not been performed. -/
theorem State.twaitEffect_holds (hst : 2 ≤ (tm.task n).st) (htoks : (tm.task n).toks.all s.tokDone = false) :
    s.twaitEffect g b a d = .next (s.waitAt (s.untouched g) 5) := by
  simp only [State.twaitEffect, ht, hn, Option.isNone_eq_false_iff.mpr hcore, Bool.false_eq_true, if_false, hst, if_true, htoks,
    if_neg (show ¬ (tm.task n).st = 0 by omega)]

theorem State.twaitEffect_expired {pc : DWord} {lim : Nat} (hst : (tm.task n).st = 1) (hw : g.twait = some (pc, lim, true)) :
    s.twaitEffect g b a d = s.twaitEnds g d.toNat (BitVec.ofNat 32 ((tm.task n).code % 256 * 256 + 1)) id := by
  simp only [State.twaitEffect, ht, hn, Option.isNone_eq_false_iff.mpr hcore, Bool.false_eq_true, if_false, hst, hw]
  rfl

/-- The group waits, and the wait that begins is its own alone. -/
theorem State.twaitEffect_pending (hst : (tm.task n).st = 1) (hw : ∀ pc lim, g.twait ≠ some (pc, lim, true)) :
    ∃ w, s.twaitEffect g b a d = .next (s.waitAt { s.untouched g with twait := w } 5) := by
  simp only [State.twaitEffect, ht, hn, Option.isNone_eq_false_iff.mpr hcore, Bool.false_eq_true, if_false, hst]
  match hg : g.twait with
  | none => exact ⟨_, rfl⟩
  | some (pc, lim, false) => exact ⟨_, rfl⟩
  | some (pc, lim, true) => exact absurd hg (hw pc lim)

end Effect

/-! TWAIT as the statement says it. -/

theorem Lane.snapFollows_acq (l : Lane) (saw : List (Nat × Nat)) :
    ∃ y, l.snapFollows saw = { l with sync := y } ∧ y.acq = l.sync.acq :=
  List.foldlRecOn (motive := fun k : Lane => ∃ y, k = { l with sync := y } ∧ y.acq = l.sync.acq) _ _ ⟨l.sync, rfl, rfl⟩ <| by
    rintro _ ⟨y, rfl, hy⟩ z -
    exact ⟨_, rfl, hy⟩

/-- A lane that acquires in every stream and follows snapshot operations. -/
theorem Lane.acquire_snapFollows (l : Lane) (saw : List (Nat × Nat)) :
    ∃ y, (l.acquire allStreams).snapFollows saw = { l with sync := y } ∧ y.acq = allStreams := by
  obtain ⟨y, hy, hacq⟩ := (l.acquire allStreams).snapFollows_acq saw
  refine ⟨y, hy, hacq.trans ?_⟩
  change l.sync.acq ||| BitVec.allOnes 16 = BitVec.allOnes 16
  exact BitVec.or_allOnes

@[simp] theorem State.writeS_lanes (s : State) (gid : Nat) (g : Group) (n : Nat) (x : Word) : (s.writeS gid g n x).lanes = g.lanes := by
  unfold State.writeS
  split_ifs <;> rfl

/-- The wait ends and nothing is acquired. -/
theorem SclResult.of_twaitEnds {y : Word} {srcs l : List Reg} (hr : Ready s g0 srcs [.s d.toNat]) (hs : SyncOnly (g0.claim l) g')
    (he : exec (.twait b a d) s = (s.atCost 1).twaitEnds g' d.toNat y id) : SclResult (.twait b a d) s (g0.claim l) d.toNat y :=
  .of_done hr hs (Group.modLanes_sync _ _ fun _ l => ⟨l.sync, rfl⟩) he

/-- The wait ends with what its entry's tokens release, which the whole group acquires. -/
theorem twait_acquires {y : Word} {srcs l : List Reg} {ts : List Tok} (hr : Ready s g0 srcs [.s d.toNat]) (hs : SyncOnly (g0.claim l) g')
    (he : exec (.twait b a d) s = ((s.atCost 1).releaseToks ts false [.ls, .mx] 1 g'.team).twaitEnds g' d.toNat y fun l =>
      (l.acquire allStreams).snapFollows (sawOf ts)) :
    let g := g0.claim l
    ∃ t h, exec (.twait b a d) s = .next t ∧ Frame s { t with late := s.late } g h [.s d.toNat] ∧ ScalarHolds s t g h d.toNat y ∧
      Publishes s t (·.releasedBy ts) .ls 1 g.team ∧ Publishes s t (·.releasedBy ts) .mx 1 g.team ∧
      ∀ j, j < g.lanes.length → (h.lane j).sync.acq = allStreams := by
  intro g
  obtain ⟨late, hlate⟩ := (s.atCost 1).releaseToks_tables ts [.ls, .mx] 1 g'.team
  have hlags := (s.atCost 1).releaseToks_lags ts [.ls, .mx] 1 g'.team
  generalize (s.atCost 1).releaseToks ts false [.ls, .mx] 1 g'.team = u at he hlate hlags
  have hparts : u.parts = s.parts := by rw [hlate]; rfl
  have hgid : u.cur.gid = s.cur.gid := by rw [hlate]; rfl
  have hmask : u.cur.mask = s.cur.mask := by rw [hlate]; rfl
  rw [State.twaitEnds, State.writeS_of_parts hparts, hgid, hmask] at he
  have hsync := fun l : Lane => l.acquire_snapFollows (sawOf ts)
  have hw : SyncOnly (s.writeS s.cur.gid g' d.toNat y)
      ((s.writeS s.cur.gid g' d.toNat y).modLanes fun _ l => (l.acquire allStreams).snapFollows (sawOf ts)) :=
    Group.modLanes_sync _ _ fun _ l => (hsync l).imp fun _ h => h.1
  obtain ⟨t, h, hdone, hframe, hholds, hlanes⟩ := State.done_writes_scalar (u := u) (n := 1) hr (by rw [hlate]) (by rw [hlate]; rfl) hparts
    (by rw [hlate]; rfl) hs hw
  have hpub : ∀ c, t.lags c = (s.lags c).map (·.releaseToks ts [.ls, .mx] 1 g.team) := fun c => by
    rw [State.lags, hframe.units.late, ← hs.team]
    exact hlags c
  refine ⟨t, h, he.trans hdone, .of_late hlate hframe, hholds, .releaseToks hpub (by decide), .releaseToks hpub (by decide), fun j hj => ?_⟩
  obtain ⟨z, hz, hacq⟩ := hsync ((s.writeS s.cur.gid g' d.toNat y).lane j)
  rw [hlanes, Group.lane_modLanes _ _ _ (by rw [State.writeS_lanes, hs.length]; exact hj), hz]
  exact hacq

/-- 06 R141. -/
theorem taskWaits : Parts.TaskWaits := by
  refine ⟨fun s g0 tm b a d ht hr hcls => ?_, fun s gid g pc lim hg hw hlim hle hrun => ?_⟩
  · intro g x
    have hs : SyncOnly g (g0.taken (twaitNeed b a d) s.cur.mask) := g0.taken_sync (twaitNeed b a d) s.cur.mask
    have he := exec_twait hr hcls
    have hwait : (g0.taken (twaitNeed b a d) s.cur.mask).twait = g.twait := g0.taken_twait (twaitNeed b a d) s.cur.mask
    generalize g0.taken (twaitNeed b a d) s.cur.mask = g' at hs he hwait
    have hteam : (s.atCost 1).teams.get? g'.team = some tm := by rw [hs.team, g0.claim_team]; exact ht
    have hn : (g'.sr a.toNat).toNat = (g.sr a.toNat).toNat := congrArg BitVec.toNat (hs.data.sr a.toNat)
    have hstop : (s.atCost 1).untouched g' = g0 := State.untouched_atCost hr.group 1
    refine ⟨fun hcore => ?_, fun hcore => ⟨fun hst => ?_, fun hst htoks => ?_, fun hst htoks => ?_, fun hst hw => ?_, fun hst pc lim hw => ?_⟩⟩
    · rw [State.twaitEffect_refused hteam hn hcore, hstop] at he
      exact ⟨_, _, g0, .inl rfl, he⟩
    · exact .of_twaitEnds hr hs (he.trans (State.twaitEffect_free hteam hn hcore hst))
    · have hstatus : x.status = if x.st = 3 then BitVec.ofNat 32 (x.code * 256 + 3) else 0 := by
        rw [Task.status, if_neg (by omega)]
      rw [State.twaitEffect_acquires hteam hn hcore hst htoks] at he
      exact hstatus ▸ twait_acquires hr hs he
    · rw [State.twaitEffect_holds hteam hn hcore hst htoks, hstop] at he
      exact .of_waitAt hr.fresh hr.group (.rfl' g0) rfl he
    · obtain ⟨w, hpend⟩ := State.twaitEffect_pending hteam hn hcore hst (by rw [hwait]; exact hw)
      rw [hpend, hstop] at he
      exact .of_waitAt (g' := { g0 with twait := w }) hr.fresh hr.group (by constructor <;> rfl) rfl he
    · exact .of_twaitEnds hr hs (he.trans (State.twaitEffect_expired hteam hn hcore hst (hwait.trans hw)))
  · have he : exec (.twaitLimitExpiry gid) s = .next (s.setGroup gid { g with twait := some (pc, lim, true) }) := by
      change execTwaitLimitExpiry gid s = _
      simp [execTwaitLimitExpiry, hg, hw, hlim, hrun, not_lt.mpr hle]
    refine ⟨_, he, fun c hc => ?_, fun k hk => Tab.get?_set_other _ _ _ _ hk, Tab.get?_set_same _ _ _⟩
    have hsame := Same.refl s c
    cases c
    case groups => exact absurd (by decide) hc
    all_goals exact hsame

end Sys2Proof.Machine

namespace Sys2Proof

/-- Settles O27: TDEF and TDEC from what they answer and the entry that is then there, TWAIT from the outcomes of its effect. -/
theorem tasks : Obligations.Tasks := ⟨Machine.taskCounters, Machine.taskWaits⟩

end Sys2Proof
end

section
/-! O29: COPY and WPOS in the issue (06 R123, R124, R127, R135). The five forms of COPY are one operation of the model; its outcomes are
equations of its effect. -/

namespace Sys2Proof.Machine

variable {s t u : State} {g g0 g' : Group} {tm : Team} {i : Instr}

/-! Descriptors. -/

theorem regsFrom_four (reg : Nat → Reg) (d : Nat) : regsFrom reg d 4 = [reg d, reg (d + 1), reg (d + 2), reg (d + 3)] := rfl

theorem descOf_eq (g : Group) (d : BitVec 6) : descOf g d = [g.sr d.toNat, g.sr (d.toNat + 1), g.sr (d.toNat + 2), g.sr (d.toNat + 3)] := rfl

theorem SyncOnly.descOf (hs : SyncOnly g g') (d : BitVec 6) : descOf g' d = Machine.descOf g d := by
  simp only [descOf_eq, hs.data.sr]

theorem SyncOnly.shading (hs : SyncOnly g g') : g'.shading = g.shading := by rw [Group.shading, Group.shading, hs.data.kind]

theorem Group.shading_iff (g : Group) : g.shading = true ↔ g.kind = .closestHit ∨ g.kind = .viewShade := by
  simp [Group.shading]

theorem SyncOnly.producer (hs : SyncOnly g g') (s : State) (n : Nat) : (s.atCost n).producer g' = s.producer g := by
  simp only [State.producer, hs.team, hs.gnum, State.atCost_teams]

/-! COPY: what it answers. -/

def copyNeed (form : Nat) (k d a : BitVec 6) : Need' :=
  { legal := .ordinary, srcs := (if form = 4 then [] else descSrcs d) ++ descSrcs a ++ [srcS k false] }

/-- The registers that a form reads: PREF has no destination. -/
def copyRegs (form : Nat) (k d a : BitVec 6) : List Reg :=
  (if form = 4 then [] else regsFrom .s d.toNat 4) ++ regsFrom .s a.toNat 4 ++ [.s k.toNat]

theorem copyNeed_regs (form : Nat) (k d a : BitVec 6) : (copyNeed form k d a).srcs.map (·.reg) = copyRegs form k d a := by
  unfold copyNeed copyRegs descSrcs
  simp only [List.map_append, srcSs_regs]
  split
  · rfl
  · rw [srcSs_regs]
    rfl

/-- A copy reads no flit. -/
theorem s62_notMem_copyRegs {form : Nat} {k d a : BitVec 6} (hk : k.toNat < 60) (hd : d.toNat ≤ 56) (ha : a.toNat ≤ 56) :
    Reg.s 62 ∉ copyRegs form k d a := by
  unfold copyRegs
  split <;> simp [regsFrom_four] <;> omega

/-- The words of the destination's descriptor, and the tensors that the descriptors name. -/
def Group.copyDest (g : Group) (form : Nat) (d : BitVec 6) : List Word := if form = 4 then [] else descOf g d
def State.copySrcTid (s : State) (g : Group) (a : BitVec 6) : TidEnt := s.tidOf g (descWord (descOf g a) 0 % 64)
def State.copyDstTid (s : State) (g : Group) (form : Nat) (d a : BitVec 6) : TidEnt :=
  if form = 4 then s.copySrcTid g a else s.tidOf g (descWord (g.copyDest form d) 0 % 64)
def State.copyIdxTid (s : State) (g : Group) (a : BitVec 6) : TidEnt := s.tidOf g (descWord (descOf g a) 1 % 64)

/-- What the check of a copy's descriptors answers. -/
def State.copyChecked (s : State) (g : Group) (form : Nat) (d a : BitVec 6) : Except Nat Nat :=
  copyCheck form (s.copyDstTid g form d a) (s.copySrcTid g a) (s.copyIdxTid g a) (g.copyDest form d) (descOf g a)
    fun r => ((s.part g.part).linCluster r).isSome

/-- The channel of a number on the issuing core. -/
def State.copyChan (s : State) (ch : BitVec 3) : Chan := (s.core (coreOf s.cur.gid)).chans.getD ch.toNat Chan.empty

/-- The copy that joins the channel. -/
def State.copyMade (s : State) (g : Group) (form : Nat) (ch : BitVec 3) (k d a : BitVec 6) (size : Nat) : Copy :=
  { team := g.team, gid := s.cur.gid, uid := g.uid, form, dst := s.copyDstTid g form d a, src := s.copySrcTid g a
    idx := s.copyIdxTid g a, dd := g.copyDest form d, sd := descOf g a
    task := if (g.sr k.toNat).getLsbD 31 then none else some (bitsOf (g.sr k.toNat) 0 6), core := coreOf s.cur.gid, id := s.fresh
    seq := (s.copyChan ch).counts.getD g.team 0 + 1, pos := 0, size, err := 0, stopped := none, targets := [], begun := false }

/-- The channel with a copy behind those that it has. -/
def Chan.joined (c : Chan) (x : Copy) : Chan := { c with copies := c.copies ++ [x], counts := c.counts.set x.team x.seq }

/-- The effect of a COPY. -/
def State.copyEffect (s : State) (g : Group) (form : Nat) (ch : BitVec 3) (k d a : BitVec 6) : Out :=
  let stop (c : Nat) : Out := .next (s.raise g s.cur.mask c 0 none 0)
  let tw := g.sr k.toNat
  let n := bitsOf tw 0 6
  if g.shading then stop 32
  else if !s.producer g then stop 23
  else match s.copyChecked g form d a, s.teams.get? g.team with
    | .error e, _ => stop e
    | .ok _, none => .fault .noIssue
    | .ok size, some t =>
      if bitsOf tw 6 25 ≠ 0 then stop 26
      else if !tw.getLsbD 31 && ((t.taskCore n).isNone || (t.task n).st != 1) then stop 26
      else if 8 ≤ (s.copyChan ch).copies.length then .next (s.waitAt (s.untouched g) 5)
      else ((s.takeFresh 1).modCore (coreOf s.cur.gid) fun q =>
        { q with chans := q.chans.set ch.toNat ((s.copyChan ch).joined (s.copyMade g form ch k d a size)) }).done g s.cur.mask .on 1 none

/-- COPY of the model in these words. -/
theorem copyOp_eq (s : State) (form : Nat) (ch : BitVec 3) (k d a : BitVec 6) :
    copyOp s form ch k d a = s.issue (copyNeed form k d a) costOne fun s g => s.copyEffect g form ch k d a := rfl

theorem Ready.copyOp {form : Nat} {ch : BitVec 3} {k d a : BitVec 6} (hr : Ready s g (copyRegs form k d a) []) (hcls : s.cur.cls = .ordinary) :
    Machine.copyOp s form ch k d a = (s.atCost 1).copyEffect (g.taken (copyNeed form k d a) s.cur.mask) form ch k d a := by
  rw [← copyNeed_regs] at hr
  rw [copyOp_eq]
  exact State.issue_legal hr (by rw [hcls]; rfl) costOne _

/-- A token word is in order: its task, where it names one, is PENDING in a slot of the team. -/
def Team.takesToken (tm : Team) (w : Word) : Bool :=
  bitsOf w 6 25 == 0 && (w.getLsbD 31 || ((tm.taskCore (bitsOf w 0 6)).isSome && (tm.task (bitsOf w 0 6)).st == 1))

theorem Team.takesToken_iff (tm : Team) (w : Word) : tm.takesToken w = true ↔ w.extractLsb' 6 25 = 0 ∧
    (w.getLsbD 31 = false → (tm.taskCore (w.toNat % 64)).isSome = true ∧ (tm.task (w.toNat % 64)).st = 1) := by
  rw [Team.takesToken, ← bitsOf_eq_zero_iff]
  cases w.getLsbD 31 <;> simp [bitsOf]

/-- A token word whose reserved bits are 0 is refused for its task alone. -/
theorem Team.token_refused (tm : Team) {w : Word} (hres : bitsOf w 6 25 = 0) :
    (!w.getLsbD 31 && ((tm.taskCore (bitsOf w 0 6)).isNone || (tm.task (bitsOf w 0 6)).st != 1)) = !tm.takesToken w := by
  simp only [Team.takesToken, hres, beq_self_eq_true, Bool.true_and, Bool.not_or, Bool.not_and, Option.not_isSome]
  rfl

section Effect

variable {form : Nat} {ch : BitVec 3} {k d a : BitVec 6} {size : Nat}

theorem State.copyEffect_shading (hshade : g.shading = true) :
    s.copyEffect g form ch k d a = .next (s.raise g s.cur.mask 32 0 none 0) := by
  rw [State.copyEffect, if_pos hshade]

variable (hshade : g.shading = false)
include hshade

theorem State.copyEffect_consumer (hprod : s.producer g = false) :
    s.copyEffect g form ch k d a = .next (s.raise g s.cur.mask 23 0 none 0) := by
  simp only [State.copyEffect, hshade, hprod, Bool.false_eq_true, if_false, Bool.not_false, if_true]

variable (hprod : s.producer g = true)
include hprod

theorem State.copyEffect_refused {e : Nat} (hcheck : s.copyChecked g form d a = .error e) :
    s.copyEffect g form ch k d a = .next (s.raise g s.cur.mask e 0 none 0) := by
  simp only [State.copyEffect, hshade, hprod, hcheck, Bool.false_eq_true, if_false, Bool.not_true]

variable (hcheck : s.copyChecked g form d a = .ok size) (ht : s.teams.get? g.team = some tm)
include hcheck ht

theorem State.copyEffect_token (htoken : tm.takesToken (g.sr k.toNat) = false) :
    s.copyEffect g form ch k d a = .next (s.raise g s.cur.mask 26 0 none 0) := by
  simp only [State.copyEffect, hshade, hprod, hcheck, ht, Bool.false_eq_true, if_false, Bool.not_true]
  by_cases hres : bitsOf (g.sr k.toNat) 6 25 = 0
  · rw [if_neg (not_not.mpr hres), tm.token_refused hres, htoken]
    rfl
  · rw [if_pos hres]

theorem State.copyEffect_taken (htoken : tm.takesToken (g.sr k.toNat) = true) : s.copyEffect g form ch k d a =
    if 8 ≤ (s.copyChan ch).copies.length then .next (s.waitAt (s.untouched g) 5)
    else ((s.takeFresh 1).modCore (coreOf s.cur.gid) fun q =>
      { q with chans := q.chans.set ch.toNat ((s.copyChan ch).joined (s.copyMade g form ch k d a size)) }).done g s.cur.mask .on 1 none := by
  simp only [State.copyEffect, hshade, hprod, hcheck, ht, Bool.false_eq_true, if_false, Bool.not_true]
  have hres : bitsOf (g.sr k.toNat) 6 25 = 0 := by
    simp only [Team.takesToken, Bool.and_eq_true, beq_iff_eq] at htoken
    exact htoken.1
  rw [if_neg (not_not.mpr hres), tm.token_refused hres, htoken]
  rfl

end Effect

/-! COPY as the statement says it. -/

section Sync

variable (hs : SyncOnly g g') (s : State) (n form : Nat) (ch : BitVec 3) (k d a : BitVec 6)
include hs

theorem SyncOnly.copyDest : g'.copyDest form d = g.copyDest form d := by simp only [Group.copyDest, hs.descOf]

theorem SyncOnly.copySrcTid : (s.atCost n).copySrcTid g' a = s.copySrcTid g a := by
  simp only [State.copySrcTid, hs.descOf, hs.tidOf]
  rfl

theorem SyncOnly.copyDstTid : (s.atCost n).copyDstTid g' form d a = s.copyDstTid g form d a := by
  simp only [State.copyDstTid, hs.copyDest, hs.copySrcTid, hs.tidOf]
  rfl

theorem SyncOnly.copyIdxTid : (s.atCost n).copyIdxTid g' a = s.copyIdxTid g a := by
  simp only [State.copyIdxTid, hs.descOf, hs.tidOf]
  rfl

theorem SyncOnly.copyChecked : (s.atCost n).copyChecked g' form d a = s.copyChecked g form d a := by
  simp only [State.copyChecked, hs.copyDest, hs.copySrcTid, hs.copyDstTid, hs.copyIdxTid, hs.descOf, hs.data.part]
  rfl

theorem SyncOnly.copyMade (size : Nat) : (s.atCost n).copyMade g' form ch k d a size = s.copyMade g form ch k d a size := by
  simp only [State.copyMade, hs.copyDest, hs.copySrcTid, hs.copyDstTid, hs.copyIdxTid, hs.descOf, hs.data.sr, hs.data.uid, hs.team]
  rfl

end Sync

/-- The copy joins its channel, and the group goes on. -/
theorem Does.copy_joins {ch : Nat} {c : Chan} (hd : s.cur.defer = none) (hs : SyncOnly g g')
    (he : exec i s = (((s.atCost 1).takeFresh 1).modCore (coreOf s.cur.gid) fun q => { q with chans := q.chans.set ch c }).done g'
      s.cur.mask .on 1 none) :
    let core := coreOf s.cur.gid
    Does i s [.groups, .sps, .cores] fun t => OnlyGroup s t s.cur.gid ∧ OnlyCore s t core ∧
      (∃ h, t.group? s.cur.gid = some h ∧ SameRegs g h [] [] ∧ GoesTo s g h fun _ => s.cur.pc + BitVec.ofNat 64 s.cur.len) ∧
      (∀ n, n ≠ ch → (t.core core).chans.get? n = (s.core core).chans.get? n) ∧ (t.core core).chans.get? ch = some c := by
  intro core
  have hkeeps : Keeps s (((s.atCost 1).takeFresh 1).modCore core fun q => { q with chans := q.chans.set ch c }) [.groups, .sps, .cores] :=
    Keeps.setCore (t := (s.atCost 1).takeFresh 1) (Keeps.atCost s 1 _)
  obtain ⟨t, hdone, hk, honly, hgroup, -, hcores⟩ := State.done_goes_on (cost := 1) (n := 1) hkeeps hd rfl rfl hs
  have hcore : t.core core = { s.core core with chans := (s.core core).chans.set ch c } := by
    rw [State.core, hcores]
    exact Tab.getD_set_same _ _ _ _
  refine ⟨t, he.trans hdone, hk, honly, fun n hn => ?_, hgroup, fun n hn => ?_, ?_⟩
  · rw [State.core, hcores]
    exact Tab.getD_set_other _ _ _ _ _ hn
  · rw [hcore]
    exact Tab.get?_set_other _ _ _ _ hn
  · rw [hcore]
    exact Tab.get?_set_same _ _ _

/-- 06 R123, R124, R127: the five forms. -/
theorem copyForms (s : State) (g : Group) (ch : BitVec 3) (k d a : BitVec 6) (hcls : s.cur.cls = .ordinary) (hk : k.toNat < 60)
    (hd : d.toNat ≤ 56) (ha : a.toNat ≤ 56) {form : Nat} {i : Instr} (he : exec i s = copyOp s form ch k d a)
    (hr : Ready s g (copyRegs form k d a) []) :
    let core := coreOf s.cur.gid
    let c := s.copyChan ch
    let tw := g.sr k.toNat
    (g.shading = true → Raises i s g 32) ∧ (g.shading = false → s.producer g = false → Raises i s g 23) ∧
    (g.shading = false → s.producer g = true → ∀ e, s.copyChecked g form d a = .error e → Raises i s g e) ∧
    (g.shading = false → s.producer g = true → ∀ size tm, s.copyChecked g form d a = .ok size → s.teams.get? g.team = some tm →
      (tm.takesToken tw = false → Raises i s g 26) ∧
      (tm.takesToken tw = true → 8 ≤ c.copies.length → Waits i s g) ∧
      (tm.takesToken tw = true → c.copies.length < 8 → Does i s [.groups, .sps, .cores] fun t =>
        OnlyGroup s t s.cur.gid ∧ OnlyCore s t core ∧
        (∃ h, t.group? s.cur.gid = some h ∧ SameRegs g h [] [] ∧ GoesTo s g h fun _ => s.cur.pc + BitVec.ofNat 64 s.cur.len) ∧
        (∀ n, n ≠ ch.toNat → (t.core core).chans.get? n = (s.core core).chans.get? n) ∧
        (t.core core).chans.get? ch.toNat = some (c.joined (s.copyMade g form ch k d a size)))) := by
  intro core c tw
  have hs := g.taken_sync (copyNeed form k d a) s.cur.mask
  rw [copyNeed_regs, Group.claim_none _ _ (s62_notMem_copyRegs hk hd ha)] at hs
  rw [hr.copyOp hcls] at he
  have hstop : (s.atCost 1).untouched (g.taken (copyNeed form k d a) s.cur.mask) = g := State.untouched_atCost hr.group 1
  have hraises : ∀ e, exec i s = .next ((s.atCost 1).raise (g.taken (copyNeed form k d a) s.cur.mask) s.cur.mask e 0 none 0) →
      Raises i s g e := fun e h => ⟨_, _, _, .inr ⟨_, rfl⟩, h⟩
  generalize g.taken (copyNeed form k d a) s.cur.mask = g' at hs he hstop hraises
  have hprod := hs.producer s 1
  have hcheck := hs.copyChecked s 1 form d a
  have hword : g'.sr k.toNat = tw := hs.data.sr k.toNat
  have hchan : (s.atCost 1).copyChan ch = c := rfl
  refine ⟨fun h => ?_, fun h hp => ?_, fun h hp e hc => ?_, fun h hp size tm hc ht => ?_⟩ <;> rw [← hs.shading] at h
  · exact hraises 32 (he.trans (State.copyEffect_shading h))
  · exact hraises 23 (he.trans (State.copyEffect_consumer h (hprod.trans hp)))
  · exact hraises e (he.trans (State.copyEffect_refused h (hprod.trans hp) (hcheck.trans hc)))
  have hteam : (s.atCost 1).teams.get? g'.team = some tm := by rw [hs.team]; exact ht
  refine ⟨fun htok => ?_, fun htok hfull => ?_, fun htok hroom => ?_⟩ <;> rw [← hword] at htok
  · exact hraises 26 (he.trans (State.copyEffect_token h (hprod.trans hp) (hcheck.trans hc) hteam htok))
  · rw [State.copyEffect_taken h (hprod.trans hp) (hcheck.trans hc) hteam htok, hchan, if_pos hfull, hstop] at he
    exact .of_waitAt hr.fresh hr.group (.rfl' g) rfl he
  · rw [State.copyEffect_taken h (hprod.trans hp) (hcheck.trans hc) hteam htok, hchan, if_neg (Nat.not_le.mpr hroom),
      hs.copyMade] at he
    exact .copy_joins hr.fresh hs he

/-! WPOS (06 R135, R136). -/

/-- The word that WPOS reads of a report, and what the threads of its group acquire. -/
def wposWord : Option (Nat × Nat × Nat) → Word
  | some (seq, pos, _) => BitVec.ofNat 32 (seq % 256 * 2 ^ 24 + pos % 2 ^ 24)
  | none => 0
def wposSees (r : Option (Nat × Nat × Nat)) (l : Lane) : Lane :=
  match r with
  | some (_, pos, id) => l.sees id pos
  | none => l

def wposNeed (a d : BitVec 6) : Need' := { legal := .ordinary, srcs := [srcS a false], dests := [.s d.toNat], defer := some (.wpos a d) }

/-- WPOS, by the channel that its operand names. -/
theorem exec_wpos {a d : BitVec 6} {n : Nat} (hr : Ready s g0 [.s a.toNat] [.s d.toNat]) (hcls : s.cur.cls = .ordinary)
    (hg' : g' = g0.taken (wposNeed a d) s.cur.mask) (hn : ((g0.claim [.s a.toNat]).sr a.toNat).toNat = n) : exec (.wpos a d) s =
      if 8 ≤ n then .next ((s.atCost 1).raise g0 s.cur.mask 24 0 (some (.s d.toNat)) 0)
      else
        let l := ((s.core (coreOf s.cur.gid)).chans.getD n Chan.empty).report g0.team
        (s.atCost 1).done ((s.writeS s.cur.gid g' d.toNat (wposWord l)).modLanes fun _ => wposSees l) s.cur.mask .on 1
          (if d.toNat = 61 then some (wposWord l) else none) := by
  have hs : SyncOnly (g0.claim [.s a.toNat]) g' := hg' ▸ g0.taken_sync (wposNeed a d) s.cur.mask
  have hteam : g'.team = g0.team := by rw [hs.team, g0.claim_team]
  change execWpos a d s = _
  unfold execWpos
  rw [State.issue_legal hr (by rw [hcls]; rfl)]
  dsimp only
  rw [← wposNeed, ← hg', show (s.atCost (costOne g0)) = s.atCost 1 from rfl, State.untouched_atCost hr.group]
  simp only [hs.data.sr, hn, hteam, State.atCost_cur_defer, hr.fresh, Option.isSome_none, Bool.false_eq_true, if_false]
  rfl

theorem wposSees_sync (r : Option (Nat × Nat × Nat)) (l : Lane) : ∃ y, wposSees r l = { l with sync := y } := by
  unfold wposSees
  split <;> exact ⟨_, rfl⟩

theorem wpos {a d : BitVec 6} (hr : Ready s g0 [.s a.toNat] [.s d.toNat]) (hcls : s.cur.cls = .ordinary) :
    let g := g0.claim [.s a.toNat]
    let n := (g.sr a.toNat).toNat
    (8 ≤ n → Raises (.wpos a d) s g0 24) ∧
    (n < 8 → SclResult (.wpos a d) s g d.toNat
      (wposWord (((s.core (coreOf s.cur.gid)).chans.getD n Chan.empty).report g0.team))) := by
  intro g n
  have he := exec_wpos (n := n) hr hcls rfl rfl
  refine ⟨fun hn => ?_, fun hn => ?_⟩
  · rw [if_pos hn] at he
    exact ⟨_, _, g0, .inl rfl, he⟩
  · rw [if_neg (Nat.not_le.mpr hn)] at he
    exact .of_done hr (g0.taken_sync (wposNeed a d) s.cur.mask) (Group.modLanes_sync _ _ fun _ l => wposSees_sync _ l) he

/-- The report of a channel is of the team's oldest copy there, else of its last one. -/
theorem Chan.report_oldest {c : Chan} {team : Nat} {q : Copy} (h : c.copies.find? (fun q => q.team == team) = some q) :
    c.report team = some (q.seq, q.pos, q.id) := by
  rw [Chan.report, h]

theorem Chan.report_last {c : Chan} {team : Nat} (h : c.copies.find? (fun q => q.team == team) = none) :
    c.report team = c.last.get? team := by
  rw [Chan.report, h]

/-- 06 R123, R124, R127, R135. -/
theorem copyIssue : Parts.CopyIssue := by
  refine ⟨fun s g ch k d a hcls hk hd ha => ?_, fun s g0 a d hr hcls => ?_⟩
  · intro four core c tw C two
    have hform : ∀ (i : Instr) (form : Nat) (d' : BitVec 6), exec i s = copyOp s form ch k d' a → d'.toNat ≤ 56 → (form ≠ 4 → d' = d) →
        C i form (g.copyDest form d') (copyRegs form k d' a) := by
      intro i form d' he hd' heq hr sd src dst idx owns shading
      have hdst : s.copyDstTid g form d' a = dst := by
        by_cases h4 : form = 4
        · simp only [State.copyDstTid, dst, if_pos h4]
          rfl
        · simp only [State.copyDstTid, Group.copyDest, dst, if_neg h4, heq h4]
          rfl
      have hcheck : s.copyChecked g form d' a = copyCheck form dst src idx (g.copyDest form d') sd owns := by
        rw [State.copyChecked, hdst]
        rfl
      obtain ⟨hshade, hprod, hbad, hgood⟩ := copyForms s g ch k d' a hcls hk hd' ha he hr
      rw [hcheck] at hbad hgood
      have hshading := g.shading_iff
      have hordinary : ¬ shading → g.shading = false := fun h => Bool.eq_false_iff.mpr (mt hshading.mp h)
      refine ⟨fun h => hshade (hshading.mpr h), fun h => hprod (hordinary h), fun h => hbad (hordinary h), fun h hp size tm hc ht => ?_⟩
      intro tokenOk
      obtain ⟨htoken, hfull, hjoin⟩ := hgood (hordinary h) hp size tm hc ht
      have hok : tm.takesToken tw = true ↔ tokenOk := tm.takesToken_iff tw
      refine ⟨fun hn => htoken (Bool.eq_false_iff.mpr (mt hok.mp hn)), fun hn => hfull (hok.mpr hn), fun hn hroom => ?_⟩
      obtain ⟨t, hnext, hkeeps, hgroup, honly, hgoes, hothers, hchan⟩ := hjoin (hok.mpr hn) hroom
      have htask : bitsOf tw 0 6 = tw.toNat % 64 := by simp [bitsOf]
      refine ⟨t, hnext, hkeeps, hgroup, honly, hgoes, hothers, _, _, hchan, rfl, rfl, hdst, rfl, rfl, rfl, rfl, rfl, rfl, rfl, rfl, ?_, rfl,
        Tab.get?_set_same _ _ _⟩
      rw [← htask]
      rfl
    have hfour : ∀ form : Nat, form ≠ 4 → g.copyDest form d = four d.toNat ∧ copyRegs form k d a = two := fun form h =>
      ⟨if_neg h, by rw [copyRegs, if_neg h]⟩
    have hdescs : ∀ (i : Instr) (form : Nat), form ≠ 4 → exec i s = copyOp s form ch k d a → C i form (four d.toNat) two := by
      intro i form h he
      obtain ⟨hdest, hregs⟩ := hfour form h
      exact hdest ▸ hregs ▸ hform i form d he hd fun _ => rfl
    exact ⟨hdescs _ 0 (by decide) rfl, hdescs _ 1 (by decide) rfl, hdescs _ 2 (by decide) rfl, hdescs _ 3 (by decide) rfl,
      hform _ 4 0 rfl (by decide) fun h => absurd rfl h⟩
  · intro g n c
    obtain ⟨hbad, hreads⟩ := wpos hr hcls
    rw [← g0.claim_team [.s a.toNat]] at hreads
    refine ⟨hbad, fun hn => ?_⟩
    have hresult : SclResult (.wpos a d) s g d.toNat (wposWord (c.report g.team)) := hreads hn
    cases hq : c.copies.find? fun q => q.team == g.team with
    | some q =>
      rw [Chan.report_oldest hq] at hresult
      exact hresult
    | none =>
      rw [Chan.report_last hq] at hresult
      cases hl : c.last.get? g.team with
      | some l =>
        rw [hl] at hresult
        exact hresult
      | none =>
        rw [hl] at hresult
        exact hresult

end Sys2Proof.Machine
end

section
/-! O29: copies under way (06 R123, R126, R129, R134, R139, R142). A sector that is delivered changes its core, and what its reads and
writes change; a copy that ends publishes its writes and decrements its task. -/

namespace Sys2Proof.Machine

variable {s t : State} {core chan : Nat} {c : Chan} {x : Copy} {r : List Copy} {may : List Comp}

/-! What reads, writes and prefetches of a sector change. -/

theorem State.noteRead_tables (s : State) (w : Issuer) (va : DWord) (n : Nat) : ∃ parts weak, s.noteRead w va n = { s with parts, weak } := by
  unfold State.noteRead
  split
  · exact ⟨_, _, rfl⟩
  · split
    · refine List.foldlRecOn (motive := fun t : State => ∃ parts weak, t = { s with parts, weak }) _ _ ⟨s.parts, s.weak, rfl⟩ ?_
      rintro _ ⟨parts, weak, rfl⟩ p -
      obtain ⟨parts1, hhost⟩ := State.noteHost_tables { s with parts, weak } w.part p.loc p.va
      rw [hhost]
      obtain ⟨parts2, weak2, hcorrect⟩ := State.correct_tables { s with parts := parts1, weak } p.loc
      rw [hcorrect]
      exact ⟨_, _, rfl⟩
    · exact ⟨_, _, rfl⟩

theorem State.noteCopy_tables (s : State) (x : Copy) (ps : List (Nat × Nat × Nat)) : ∃ parts weak, s.noteCopy x ps = { s with parts, weak } := by
  unfold State.noteCopy
  refine List.foldlRecOn (motive := fun t : State => ∃ parts weak, t = { s with parts, weak }) _ _ ⟨s.parts, s.weak, rfl⟩ ?_
  rintro _ ⟨parts, weak, rfl⟩ p -
  have hread : ∀ w va n w' va' n', ∃ parts' weak', (State.noteRead { s with parts, weak } w va n).noteRead w' va' n' =
      { s with parts := parts', weak := weak' } := by
    intro w va n w' va' n'
    obtain ⟨parts1, weak1, h1⟩ := State.noteRead_tables { s with parts, weak } w va n
    rw [h1]
    obtain ⟨parts2, weak2, h2⟩ := State.noteRead_tables { s with parts := parts1, weak := weak1 } w' va' n'
    exact ⟨parts2, weak2, h2⟩
  split
  · dsimp only
    split
    · exact hread _ _ _ _ _ _
    · exact State.noteRead_tables { s with parts, weak } _ _ _
  · exact State.noteRead_tables { s with parts, weak } _ _ _

theorem State.pieceWrite_tables (s : State) (part : Nat) (p : Piece) (bs : List Byte) :
    ∃ mem late poison weak peerOut, s.pieceWrite part p bs = { s with mem, late, poison, weak, peerOut } := by
  unfold State.pieceWrite State.cleanse State.store
  split_ifs
  · exact ⟨_, _, _, _, _, rfl⟩
  · exact ⟨_, _, _, _, _, rfl⟩
  · exact ⟨_, _, _, _, _, rfl⟩
  · split <;> exact ⟨_, _, _, _, _, rfl⟩

theorem State.putPieces_tables (s : State) (part : Nat) (ps : List Piece) (bs : List Byte) :
    ∃ mem late poison weak peerOut, s.putPieces part ps bs = { s with mem, late, poison, weak, peerOut } := by
  induction ps generalizing s bs with
  | nil => exact ⟨_, _, _, _, _, rfl⟩
  | cons p r ih =>
    obtain ⟨mem, late, poison, weak, peerOut, h⟩ := s.pieceWrite_tables part p (bs.take p.len)
    rw [State.putPieces, h]
    exact ih _ _

theorem State.writePieces_tables (s : State) (part : Nat) (ps : List Piece) (bs : List Byte) :
    ∃ mem late poison weak peerOut, s.writePieces part ps bs = { s with mem, late, poison, weak, peerOut } := by
  obtain ⟨mem, late, poison, weak, peerOut, h⟩ := s.putPieces_tables part ps bs
  unfold State.writePieces
  rw [h]
  refine List.foldlRecOn (motive := fun t : State => ∃ mem late poison weak peerOut, t = { s with mem, late, poison, weak, peerOut }) _ _
    ⟨_, _, _, _, _, rfl⟩ ?_
  rintro _ ⟨mem, late, poison, weak, peerOut, rfl⟩ p -
  unfold State.cleanseLine State.cleanse
  split_ifs <;> exact ⟨_, _, _, _, _, rfl⟩

/-- The bytes of a sector's pieces, written to their places. -/
def State.writeSector (s : State) (part : Nat) (xs : List (List Piece × List Byte)) : State :=
  xs.foldl (fun u y => u.writePieces part y.1 y.2) s

theorem State.writeSector_tables (s : State) (part : Nat) (xs : List (List Piece × List Byte)) :
    ∃ mem late poison weak peerOut, s.writeSector part xs = { s with mem, late, poison, weak, peerOut } := by
  refine List.foldlRecOn (motive := fun t : State => ∃ mem late poison weak peerOut, t = { s with mem, late, poison, weak, peerOut }) xs _
    ⟨_, _, _, _, _, rfl⟩ ?_
  rintro _ ⟨mem, late, poison, weak, peerOut, rfl⟩ y -
  obtain ⟨mem1, late1, poison1, weak1, peerOut1, h⟩ := State.writePieces_tables { s with mem, late, poison, weak, peerOut } part y.1 y.2
  exact ⟨mem1, late1, poison1, weak1, peerOut1, h⟩

/-- A prefetch of level 0 changes the L1 data cache of its core. -/
theorem State.prefLines_tables (s : State) (x : Copy) (ps : List (Nat × Nat × Nat)) :
    ∃ cores, s.prefLines x ps = { s with cores } ∧ ∀ k, k ≠ x.core → cores.getD k Core.reset = s.core k := by
  unfold State.prefLines
  split
  · exact ⟨s.cores, rfl, fun _ _ => rfl⟩
  · exact ⟨_, rfl, fun k hk => Tab.getD_set_other _ _ _ _ _ hk⟩

/-- Reads of sectors note losses and correct lines. -/
theorem Keeps.noted (h : Keeps s t may) (parts : Tab Part) (weak : List Nat) (hmay : [.parts, .poison] ⊆ may := by decide) :
    Keeps s { t with parts, weak } may := by
  intro comp hc
  have hsame := h comp hc
  cases comp
  case parts | poison => exact absurd (hmay (by decide)) hc
  all_goals exact hsame

theorem Keeps.written (h : Keeps s t may) (mem : Store 8) (late : Lags) (poison weak : List Nat) (peerOut : List PeerReq)
    (hmay : [.mem, .late, .poison] ⊆ may := by decide) : Keeps s { t with mem, late, poison, weak, peerOut } may := by
  intro comp hc
  have hsame := h comp hc
  cases comp
  case mem | late | poison => exact absurd (hmay (by decide)) hc
  all_goals exact hsame

theorem Keeps.cores (h : Keeps s t may) (cores : Tab Core) (hmay : .cores ∈ may := by decide) : Keeps s { t with cores } may := by
  intro comp hc
  have hsame := h comp hc
  cases comp
  case cores => exact absurd hmay hc
  all_goals exact hsame

/-! COPY_SECTOR_DELIVER. -/

/-- A sector of a channel's first copy may be delivered: nothing stops it, it has bytes left, its channel has sent no sector in this
cycle and its core fewer than four. -/
structure SectorReady (s : State) (core chan : Nat) (c : Chan) (x : Copy) (r : List Copy) : Prop where
  channel : (s.core core).chans.get? chan = some c
  first : c.copies = x :: r
  running : (s.part (s.copyIssuer x).part).stoppedAll = false
  going : x.stopped = none
  left : x.pos < x.size
  unsent : c.sent ≠ (s.part (s.copyIssuer x).part).clock + 1
  few : (s.core core).sectors.1 = (s.part (s.copyIssuer x).part).clock → (s.core core).sectors.2 < 4

/-- The copy once a sector of it has been delivered. -/
def Copy.advanced (x : Copy) (bad : Bool) : Copy :=
  { x with pos := x.pos + min 64 (x.size - x.pos), err := if bad ∧ x.err = 0 then 3 else x.err }

/-- A sector has been delivered: its core counts it, and its channel holds the copy as it then is. -/
def State.sectorSent (s : State) (core chan : Nat) (c : Chan) (x : Copy) (clock used : Nat) (bad : Bool) : State :=
  (s.noteCopy x x.pieces).modCore core fun q =>
    { q with sectors := (clock, used + 1), chans := q.chans.set chan { c with copies := x.advanced bad :: c.copies.drop 1, sent := clock + 1 } }

/-- A delivery of a copy that is no multicast, by what its reads and writes answer. -/
def State.sectorEffect (s : State) (core chan : Nat) (c : Chan) (x : Copy) (used : Nat) : Out :=
  let part := (s.copyIssuer x).part
  let sent := fun (u : State) bad => .next (u.sectorSent core chan c x (s.part part).clock used bad)
  match s.copySector x x.pieces with
  | .error e => if x.form = 4 then sent s false else .next (s.copyFault part core chan c x e)
  | .ok (bss, bad) =>
    if x.form = 4 then sent (s.prefLines x x.pieces) false
    else match s.copyDest x x.pieces with
      | .error e => .next (s.copyFault part core chan c x e)
      | .ok ls => sent (s.writeSector part (ls.zip bss)) bad

theorem SectorReady.exec_eq (h : SectorReady s core chan c x r) (hform : x.form ≠ 1) :
    ∃ used, exec (.copySectorDeliver core chan) s = s.sectorEffect core chan c x used := by
  obtain ⟨hchan, hfirst, hrun, hgo, hleft, hsent, hfew⟩ := h
  have hget : (s.core core).chans.getD chan Chan.empty = c := by rw [Tab.getD, hchan]; rfl
  generalize hused : (if (s.core core).sectors.1 = (s.part (s.copyIssuer x).part).clock then (s.core core).sectors.2 else 0) = used
  have hroom : ¬ 4 ≤ used := by
    rw [← hused]
    split
    · next h => exact Nat.not_le.mpr (hfew h)
    · decide
  have hfree : ((s.part (s.copyIssuer x).part).stoppedAll || x.stopped.isSome || decide (x.size ≤ x.pos) || decide (4 ≤ used) ||
      c.sent == (s.part (s.copyIssuer x).part).clock + 1) = false := by
    simp [hrun, hgo, hroom, Nat.not_le.mpr hleft, hsent]
  refine ⟨used, ?_⟩
  change execCopySectorDeliver core chan s = _
  unfold execCopySectorDeliver State.sectorEffect
  simp only [hget, hfirst, List.head?_cons, hused, hfree]
  rw [if_neg Bool.false_ne_true]
  simp only [ne_eq, hform, not_false_eq_true, if_true, ← hfirst]
  by_cases hpref : x.form = 4
  · simp only [if_pos hpref]
    rfl
  · simp only [if_neg hpref]
    rfl

/-! The outcomes of a delivery. -/

theorem State.sectorEffect_moves {used : Nat} {bss : List (List Byte)} {bad : Bool} {ls : List (List Piece)} (hpref : x.form ≠ 4)
    (hread : s.copySector x x.pieces = .ok (bss, bad)) (hdest : s.copyDest x x.pieces = .ok ls) :
    let part := (s.copyIssuer x).part
    s.sectorEffect core chan c x used =
      .next ((s.writeSector part (ls.zip bss)).sectorSent core chan c x (s.part part).clock used bad) := by
  simp only [State.sectorEffect, hread, hdest, if_neg hpref]

/-- A prefetch of level 0 whose source resolves fetches lines; every other sector of a prefetch moves nothing. -/
theorem State.sectorEffect_prefetch (s : State) (core chan : Nat) (c : Chan) (used : Nat) (hpref : x.form = 4) :
    ∃ cores, (∀ k, k ≠ x.core → cores.getD k Core.reset = s.core k) ∧ s.sectorEffect core chan c x used =
      .next (State.sectorSent { s with cores } core chan c x (s.part (s.copyIssuer x).part).clock used false) := by
  unfold State.sectorEffect
  cases s.copySector x x.pieces with
  | error e => exact ⟨s.cores, fun _ _ => rfl, if_pos hpref⟩
  | ok y =>
    obtain ⟨cores, hlines, hothers⟩ := s.prefLines_tables x x.pieces
    refine ⟨cores, hothers, (if_pos hpref).trans ?_⟩
    rw [hlines]

theorem State.sectorEffect_fault {used : Nat} {e : Cause} (hpref : x.form ≠ 4) (hread : s.copySector x x.pieces = .error e) :
    s.sectorEffect core chan c x used = .next (s.copyFault (s.copyIssuer x).part core chan c x e) := by
  simp only [State.sectorEffect, hread, if_neg hpref]

/-- What a delivered sector leaves of its core. -/
theorem State.sectorSent_tables (s : State) (core chan : Nat) (c : Chan) (x : Copy) (clock used : Nat) (bad : Bool) :
    ∃ parts weak y, s.sectorSent core chan c x clock used bad = State.setCore { s with parts, weak } core y ∧
      y.chans.get? chan = some { c with copies := x.advanced bad :: c.copies.drop 1, sent := clock + 1 } := by
  obtain ⟨parts, weak, hnote⟩ := s.noteCopy_tables x x.pieces
  refine ⟨parts, weak, { s.core core with
    sectors := (clock, used + 1)
    chans := (s.core core).chans.set chan { c with copies := x.advanced bad :: c.copies.drop 1, sent := clock + 1 } }, ?_, ?_⟩
  · unfold State.sectorSent
    rw [hnote]
    rfl
  · exact Tab.get?_set_same _ _ _

theorem State.core_setCore_same (s : State) (i : Nat) (y : Core) : (s.setCore i y).core i = y := Tab.getD_set_same s.cores i y Core.reset

theorem OnlyCore.setCore (h : OnlyCore s t core) (y : Core) : OnlyCore s (t.setCore core y) core :=
  fun k hk => (Tab.getD_set_other _ _ _ _ _ hk).trans (h k hk)

/-- A sector of a copy that moves bytes. -/
theorem SectorReady.moves (h : SectorReady s core chan c x r) {bss : List (List Byte)} {bad : Bool} {ls : List (List Piece)}
    (hform : x.form ≠ 1) (hpref : x.form ≠ 4) (hread : s.copySector x x.pieces = .ok (bss, bad)) (hdest : s.copyDest x x.pieces = .ok ls) :
    let part := (s.copyIssuer x).part
    Does (.copySectorDeliver core chan) s [.mem, .late, .poison, .cores, .parts] fun t => OnlyCore s t core ∧
      (t.core core).chans.get? chan = some { c with copies := x.advanced bad :: r, sent := (s.part part).clock + 1 } ∧
      t.mem = (s.writeSector part (ls.zip bss)).mem := by
  intro part
  obtain ⟨used, he⟩ := h.exec_eq hform
  obtain ⟨mem, late, poison, weak, peerOut, hwrite⟩ := s.writeSector_tables part (ls.zip bss)
  obtain ⟨parts, weak', y, hsent, hchan⟩ :=
    (s.writeSector part (ls.zip bss)).sectorSent_tables core chan c x (s.part part).clock used bad
  rw [State.sectorEffect_moves hpref hread hdest, hsent, hwrite] at he
  rw [h.first] at hchan
  refine ⟨_, he, ?_, OnlyCore.setCore (fun _ _ => rfl) y, ?_, by rw [hwrite]; rfl⟩
  · exact ((((Keeps.refl s _).written mem late poison weak peerOut).noted parts weak').setCore)
  · rw [State.core_setCore_same]
    exact hchan

/-- A sector of a prefetch. -/
theorem SectorReady.prefetches (h : SectorReady s core chan c x r) (hpref : x.form = 4) (hcore : x.core = core) :
    Does (.copySectorDeliver core chan) s [.cores, .parts, .poison] fun t => OnlyCore s t core ∧
      (t.core core).chans.get? chan =
        some { c with copies := x.advanced false :: r, sent := (s.part (s.copyIssuer x).part).clock + 1 } := by
  obtain ⟨used, he⟩ := h.exec_eq (by rw [hpref]; decide)
  obtain ⟨cores, hothers, hpre⟩ := s.sectorEffect_prefetch core chan c used hpref
  obtain ⟨parts, weak, y, hsent, hchan⟩ :=
    State.sectorSent_tables { s with cores } core chan c x (s.part (s.copyIssuer x).part).clock used false
  rw [hpre, hsent] at he
  rw [h.first] at hchan
  refine ⟨_, he, (((Keeps.refl s _).cores cores).noted parts weak).setCore, ?_, ?_⟩
  · exact OnlyCore.setCore (t := { s with cores, parts, weak }) (fun k hk => hothers k (hcore ▸ hk)) y
  · rw [State.core_setCore_same]
    exact hchan

theorem State.record_frecs (s : State) (part kind cause : Nat) (va pc : DWord) (chan engine : Nat) (whereW : Word) (code : DWord) :
    ((s.record part kind cause va pc chan engine whereW code).part part).frecs = (s.part part).frecs ++
      [{ id := (s.part part).nextId, kind, cause, va, pc, chan, engine, whereW, code, time := s.now }] :=
  congrArg Part.frecs (s.part_setPart_same part _)

/-- A lazy page stops the copy where it is, with a record of the fault. -/
theorem SectorReady.stops (h : SectorReady s core chan c x r) {e : Cause} (hform : x.form ≠ 1) (hpref : x.form ≠ 4)
    (hread : s.copySector x x.pieces = .error e) (hlazy : e.code = 13) :
    let part := (s.copyIssuer x).part
    let p := s.part part
    Does (.copySectorDeliver core chan) s [.cores, .parts] fun t => OnlyCore s t core ∧ OnlyPart s t part ∧
      (t.core core).chans.get? chan = some { c with copies := { x with stopped := some p.nextId } :: r } ∧
      ∃ rec, (t.part part).frecs.getLast? = some rec ∧ rec.kind = 0 ∧ rec.cause = 13 ∧ rec.va = e.va ∧ rec.id = p.nextId ∧
        rec.engine = 1 ∧ rec.chan = chan := by
  intro part p
  obtain ⟨used, he⟩ := h.exec_eq hform
  rw [State.sectorEffect_fault hpref hread, State.copyFault] at he
  dsimp only at he
  rw [if_pos hlazy, h.first] at he
  refine ⟨_, he, (Keeps.refl s _).setPart.setCore, OnlyCore.setCore (fun _ _ => rfl) _, s.onlyPart_setPart part _, ?_, ?_⟩
  · refine (congrArg (fun q : Core => q.chans.get? chan) (State.core_setCore_same _ core _)).trans ?_
    exact Tab.get?_set_same _ _ _
  · exact ⟨_, (congrArg List.getLast? (s.record_frecs part 0 13 e.va 0 chan 1 (s.addrOf part x.gid) 0)).trans List.getLast?_concat,
      rfl, rfl, rfl, rfl, rfl, rfl⟩

/-! COPY_COMPLETE. -/

/-- What a copy that ends does to a store: those of the copy are performed at the scope of its destination. -/
def Late.copied (e : Late) (x : Copy) : Late :=
  if e.path == .cp && e.src.1 == x.id then e.raiseAll [.ls, .mx] (x.dst.scope + 2) x.team else e

theorem Late.sameStore_copied (e : Late) (x : Copy) : e.SameStore (e.copied x) := by
  unfold Late.copied
  split
  · exact e.sameStore_raiseAll _ _ _
  · exact .refl e

theorem Late.performed_copied {e : Late} {p : Path} (hp : p ∈ [Path.ls, .mx]) (h : e.path = .cp ∧ e.src.1 = x.id) :
    (e.copied x).performed p (x.dst.scope + 2) x.team := by
  rw [Late.copied, if_pos (by simp [h])]
  exact e.performed_raiseAll _ _ hp

theorem Late.performed_mono_copied {e : Late} {p : Path} {n team : Nat} (x : Copy) (h : e.performed p n team) :
    (e.copied x).performed p n team := by
  unfold Late.copied
  split
  · exact Late.performed_mono_raiseAll _ _ _ h
  · exact h

/-- A copy's end performs its stores twice: before the decrements of its landings, and before its own. -/
theorem Publishes.copied {p : Path} (hlags : ∀ k, t.lags k = (s.lags k).map fun e => (e.copied x).copied x) (hp : p ∈ [Path.ls, .mx]) :
    Publishes s t (fun e => e.path = .cp ∧ e.src.1 = x.id) p (x.dst.scope + 2) x.team :=
  .of_map hlags (fun e => (e.sameStore_copied x).trans ((e.copied x).sameStore_copied x))
    fun _ h => Late.performed_mono_copied x (Late.performed_copied hp h)

theorem State.performCopy_lags (s : State) (x : Copy) (k : Nat) : (s.performCopy x).lags k = (s.lags k).map (·.copied x) :=
  State.onLate_lags _ _ k

/-- The channel once its first copy has ended. -/
def Chan.ended (c : Chan) (x : Copy) : Chan := { c with copies := c.copies.drop 1, last := c.last.set x.team (x.seq, x.pos, x.id) }

/-- A copy has ended, but for its task. -/
def State.copyEnded (s : State) (core chan : Nat) (c : Chan) (x : Copy) : State :=
  ((s.performCopy x).performCopy x).modCore core fun q => { q with chans := q.chans.set chan (c.ended x) }

theorem State.copyEnded_lags (s : State) (core chan : Nat) (c : Chan) (x : Copy) (k : Nat) :
    (s.copyEnded core chan c x).lags k = (s.lags k).map fun e => (e.copied x).copied x := by
  change ((s.performCopy x).performCopy x).lags k = _
  rw [State.performCopy_lags, State.performCopy_lags, List.map_map]
  rfl

theorem State.copyEnded_chan (s : State) (core chan : Nat) (c : Chan) (x : Copy) :
    ((s.copyEnded core chan c x).core core).chans.get? chan = some (c.ended x) := by
  refine (congrArg (fun q : Core => q.chans.get? chan) (State.core_setCore_same _ core _)).trans ?_
  exact Tab.get?_set_same _ _ _

theorem Keeps.late (h : Keeps s t may) (late : Lags) (hmay : .late ∈ may := by decide) : Keeps s { t with late } may := by
  intro comp hc
  have hsame := h comp hc
  cases comp
  case late => exact absurd hmay hc
  all_goals exact hsame

theorem Keeps.copyEnded (s : State) (core chan : Nat) (c : Chan) (x : Copy) : Keeps s (s.copyEnded core chan c x) [.late, .cores, .teams] :=
  ((Keeps.refl s _).late _).setCore

theorem State.endCopy_of_none (htask : x.task = none) (code : Nat) :
    (s.performCopy x).endCopy core chan c x code = s.copyEnded core chan c x := by
  unfold State.endCopy
  rw [htask]
  rfl

theorem State.endCopy_of_some {n : Nat} (htask : x.task = some n) (code : Nat) :
    (s.performCopy x).endCopy core chan c x code = (s.copyEnded core chan c x).decTask x.team n 1 code [] := by
  unfold State.endCopy
  rw [htask]
  rfl

/-- The end of a copy without targets. -/
theorem exec_copyComplete (hchan : (s.core core).chans.get? chan = some c) (hfirst : c.copies = x :: r)
    (hrun : (s.part (s.copyIssuer x).part).stoppedAll = false) (hgo : x.stopped = none) (hdone : x.size ≤ x.pos) (htargets : x.targets = []) :
    exec (.copyComplete core chan) s = .next ((s.performCopy x).endCopy core chan c x x.err) := by
  have hget : (s.core core).chans.getD chan Chan.empty = c := by rw [Tab.getD, hchan]; rfl
  change execCopyComplete core chan s = _
  unfold execCopyComplete
  simp only [hget, hfirst, List.head?_cons, hrun, hgo, Option.isSome_none, Bool.or_false, Nat.not_lt.mpr hdone, decide_false, htargets]
  rw [if_neg Bool.false_ne_true]
  rfl

/-- A copy that ends, by its task. -/
theorem Does.copyComplete (he : exec (.copyComplete core chan) s = .next ((s.performCopy x).endCopy core chan c x x.err)) :
    Does (.copyComplete core chan) s [.late, .cores, .teams] fun t =>
      (∀ k, t.lags k = (s.lags k).map fun e => (e.copied x).copied x) ∧
      (x.task = none → t = s.copyEnded core chan c x) ∧
      (∀ n tm, x.task = some n → s.teams.get? x.team = some tm → (tm.task n).st = 1 →
        t.teams.get? x.team = some { tm with tasks := tm.tasks.set n ((tm.task n).less 1 x.err []).settled }) := by
  have hkeeps := Keeps.copyEnded s core chan c x
  have hlags := s.copyEnded_lags core chan c x
  have hteams : (s.copyEnded core chan c x).teams = s.teams := rfl
  cases htask : x.task with
  | none =>
    rw [State.endCopy_of_none htask] at he
    exact ⟨_, he, hkeeps, hlags, fun _ => rfl, fun _ _ h => nomatch h⟩
  | some n =>
    rw [State.endCopy_of_some htask] at he
    obtain ⟨teams, cores, hdec, -⟩ := (s.copyEnded core chan c x).decTask_tables x.team n 1 x.err []
    refine ⟨_, he, ?_, fun k => ?_, fun h => (nomatch h), fun n' tm hn ht hst => ?_⟩
    · rw [hdec]
      exact hkeeps.teamsCores teams cores
    · rw [hdec]
      exact hlags k
    · cases hn
      exact State.decTask_entry (hteams ▸ ht) hst 1 x.err []

/-- 06 R123, R126, R129, R134, R139, R142. -/
theorem copyProgress : Parts.CopyProgress := by
  intro s core chan c x r hchan hfirst part p hrun hgo
  refine ⟨fun hleft hsent hfew _ => ?_, fun hdone htargets => ?_⟩
  · have h : SectorReady s core chan c x r := ⟨hchan, hfirst, hrun, hgo, hleft, hsent, hfew⟩
    refine ⟨fun bss bad ls hform hpref hread hdest => ?_, fun hpref hcore => ?_, fun e hform hpref hread hlazy => ?_⟩
    · obtain ⟨t, he, hkeeps, honly, hc, hmem⟩ := h.moves hform hpref hread hdest
      exact ⟨t, he, hkeeps, honly, ⟨_, hc, rfl, rfl⟩, hmem⟩
    · obtain ⟨t, he, hkeeps, honly, hc⟩ := h.prefetches hpref hcore
      exact ⟨t, he, hkeeps, honly, _, hc, by simp [Copy.advanced]⟩
    · obtain ⟨t, he, hkeeps, honly, hpart, hc, hrec⟩ := h.stops hform hpref hread hlazy
      exact ⟨t, he, hkeeps, honly, hpart, ⟨_, hc, rfl⟩, hrec⟩
  · obtain ⟨t, he, hkeeps, hlags, hnone, hsome⟩ := Does.copyComplete (exec_copyComplete hchan hfirst hrun hgo hdone htargets)
    refine ⟨t, he, hkeeps, .copied hlags (by decide), .copied hlags (by decide), fun htask => ?_, fun n tm htask ht hst hctr => ?_⟩
    · rw [hnone htask]
      refine ⟨OnlyCore.setCore (fun _ _ => rfl) _, fun _ => rfl, c.ended x, s.copyEnded_chan core chan c x, ?_, Tab.get?_set_same _ _ _⟩
      rw [Chan.ended, hfirst]
      rfl
    · refine ⟨_, _, hsome n tm htask ht hst, tm.task_set_same _ _, ?_, rfl, rfl⟩
      rw [Task.settled_less_st hst, if_pos hctr]

end Sys2Proof.Machine

namespace Sys2Proof

/-- Settles O29: a COPY answers its checks in order and joins its channel; a sector's outcome is what its reads and writes answer, and the
end of a copy performs its writes before the decrement. -/
theorem copies : Obligations.Copies := ⟨Machine.copyIssue, Machine.copyProgress⟩

end Sys2Proof
end

section
/-! O1 to O7: what instructions of a shared shape do, as the statements say it. An instruction's effect acts on a group that differs from the
one that claimed its flit only in what its threads follow and in marks, so its result is a function of the registers as they were. -/

namespace Sys2Proof.Machine

variable {s : State} {g g0 g' : Group} {i : Instr} {srcs : List Src}

theorem SyncOnly.kr (hs : SyncOnly g g') (n : Nat) : g'.kr n = g.kr n := by
  have hlive : ∀ j, (g'.lane j).isLive = (g.lane j).isLive := fun j => by
    obtain ⟨y, hy⟩ := hs.lane j
    rw [hy]
    rfl
  simp only [Group.kr, Group.liveMask, Group.lanesWhere, hs.length, hlive, hs.data.k]

theorem SyncOnly.sr (hs : SyncOnly g g') (n : Nat) : g'.sr n = g.sr n := hs.data.sr n

/-- A vector among the sources claims no flit. -/
theorem Group.claim_cons_v (g : Group) (n : Nat) (l : List Reg) : g.claim (.v n :: l) = g.claim l := by simp [Group.claim]

@[simp] theorem Group.vr_claim (g : Group) (l : List Reg) (n j : Nat) : (g.claim l).vr n j = g.vr n j := by
  rw [Group.vr, Group.vr, g.claim_v]

/-- Fewer sources. -/
theorem Ready.mono {rs rs' dests : List Reg} (hr : Ready s g rs dests) (h : rs' ⊆ rs) : Ready s g rs' dests := by
  obtain ⟨hfresh, hgroup, hallotted, hfull, hrx, htx, hsound⟩ := hr
  have happend : rs' ++ dests ⊆ rs ++ dests := fun r hr => List.mem_append.mpr ((List.mem_append.mp hr).imp_left (@h r))
  refine ⟨hfresh, hgroup, fun r hr => hallotted r (happend hr), fun r hr => hfull r (happend hr), fun hm => hrx (h hm), htx, ?_⟩
  simp only [Group.readsBad, List.any_eq_false, Bool.and_eq_true, List.contains_eq_mem, decide_eq_true_eq, not_and] at hsound ⊢
  exact fun x hx hmem => hsound x hx (h hmem)

/-- An instruction whose result is written in its issue. -/
theorem VecResult.of_vecOp {d : Nat} {f : Group → Nat → Word} {r : Nat → Word} {old : List Reg} (he : exec i s = s.vecOp i srcs d f old)
    (hr : Ready s g0 (srcs.map (·.reg) ++ old) [.v d]) (hclaim : g0.claim (srcs.map (·.reg)) = g)
    (hf : ∀ g' j, SyncOnly g g' → f g' j = r j) : VecResult i s g d r := by
  subst hclaim
  obtain ⟨t, h, g', hdone, hframe, hsync, hwords⟩ := s.vecOp_spec i g0 srcs d f old false hr hr.operands.sound
  refine ⟨t, h, he.trans hdone, hframe, fun j hj => ?_⟩
  rw [hwords j hj, hf g' j hsync]

/-- What holds of a result in each lane. -/
theorem VecResult.satisfies {d : Nat} {r : Nat → Word} {P : Nat → Word → Prop} (h : VecResult i s g d r) (hP : ∀ j, P j (r j)) :
    VecSatisfies i s g d P := by
  obtain ⟨t, h, he, hframe, hwords⟩ := h
  refine ⟨t, h, he, hframe, fun j hj => ?_⟩
  rw [hwords j hj]
  split
  · exact hP j
  · rfl

section Vectors

variable {e f : Bool} {r : Nat → Word}

theorem VecResult.opVV {a b d : BitVec 7} (h : Word → Word → Word) (he : exec i s = opVV s i e b f a d h)
    (hr : Ready s g [.v a.toNat, .v b.toNat] [.v d.toNat]) (hh : ∀ j, h (g.vr a.toNat j) (g.vr b.toNat j) = r j := by intros; rfl) :
    VecResult i s g d.toNat r :=
  .of_vecOp he hr (g.claim_none _ (by simp [srcV])) fun g' j hs => by rw [hs.vr, hs.vr, hh]

theorem VecResult.opV {a d : BitVec 7} (h : Word → Word) (he : exec i s = opV s i f a d h) (hr : Ready s g [.v a.toNat] [.v d.toNat])
    (hh : ∀ j, h (g.vr a.toNat j) = r j := by intros; rfl) : VecResult i s g d.toNat r :=
  .of_vecOp he hr (g.claim_none _ (by simp [srcV])) fun g' j hs => by rw [hs.vr, hh]

theorem VecResult.opH {a d : BitVec 5} (h : Word → Word → Word) (he : exec i s = opH s i a d f h)
    (hr : Ready s g [.v a.toNat, .v d.toNat] [.v d.toNat]) (hh : ∀ j, h (g.vr d.toNat j) (g.vr a.toNat j) = r j := by intros; rfl) :
    VecResult i s g d.toNat r :=
  .of_vecOp he hr (g.claim_none _ (by simp [srcV])) fun g' j hs => by rw [hs.vr, hs.vr, hh]

theorem VecResult.opH1 {a d : BitVec 5} (h : Word → Word) (he : exec i s = opH1 s i a d f h) (hr : Ready s g [.v a.toNat] [.v d.toNat])
    (hh : ∀ j, h (g.vr a.toNat j) = r j := by intros; rfl) : VecResult i s g d.toNat r :=
  .of_vecOp he hr (g.claim_none _ (by simp [srcV])) fun g' j hs => by rw [hs.vr, hh]

/-! SI operands (02 R42, 07 R144). -/

theorem srcSI_regs (b : BitVec 7) (e : Bool) : (srcSI b e).map (·.reg) = siRegs b := by
  unfold srcSI siRegs
  split <;> rfl

/-- An immediate as the model writes it and as the statements write it. -/
theorem ofInt_immSI {w : Nat} (b : BitVec 7) : BitVec.ofInt w (immSI b) = b.setWidth w - 96 := by
  rw [immSI, Int.sub_eq_add_neg, BitVec.ofInt_add, BitVec.ofInt_neg, BitVec.ofInt_natCast, BitVec.ofNat_toNat, BitVec.sub_eq_add_neg]
  rfl

theorem SyncOnly.valSI (hs : SyncOnly g g') (b : BitVec 7) : valSI g' b = siValue g b := by
  rw [Machine.valSI, siValue, hs.sr, ofInt_immSI]

theorem VecResult.opVI {a b d : BitVec 7} (h : Word → Word → Word) (he : exec i s = opVI s i e b f a d h)
    (hr : Ready s g0 (.v a.toNat :: siRegs b) [.v d.toNat])
    (hh : ∀ j, h ((g0.claim (siRegs b)).vr a.toNat j) (siValue (g0.claim (siRegs b)) b) = r j := by intros; rfl) :
    VecResult i s (g0.claim (siRegs b)) d.toNat r := by
  have hregs : (srcV a f :: srcSI b e).map (·.reg) = .v a.toNat :: siRegs b := by rw [List.map_cons, srcSI_regs]; rfl
  refine .of_vecOp (old := []) he (by rwa [hregs, List.append_nil]) (by rw [hregs, Group.claim_cons_v]) fun g' j hs => ?_
  rw [hs.vr, hs.valSI, hh]

theorem VecResult.opDVI {a b d : BitVec 7} (h : Word → Word → Word → Word) (he : exec i s = opDVI s i e b f a d h)
    (hr : Ready s g0 (.v a.toNat :: .v d.toNat :: siRegs b) [.v d.toNat])
    (hh : ∀ j, h ((g0.claim (siRegs b)).vr d.toNat j) ((g0.claim (siRegs b)).vr a.toNat j) (siValue (g0.claim (siRegs b)) b) = r j
      := by intros; rfl) :
    VecResult i s (g0.claim (siRegs b)) d.toNat r := by
  have hregs : (srcV a f :: srcSI b e).map (·.reg) = .v a.toNat :: siRegs b := by rw [List.map_cons, srcSI_regs]; rfl
  refine .of_vecOp he (hr.mono ?_) (by rw [hregs, Group.claim_cons_v]) fun g' j hs => ?_
  · rw [hregs]
    exact ((List.perm_append_singleton _ _).trans (.swap _ _ _)).subset
  rw [hs.vr, hs.vr, hs.valSI, hh]

end Vectors
end Sys2Proof.Machine
end

section
/-! O1: integer arithmetic of vectors. -/

namespace Sys2Proof.Machine

/-! The model's arithmetic of words, as the statements write it (07 R147 to R151). -/

theorem satS_eq_saturate (x : Int) : satS x = saturate x := by
  unfold satS saturate
  split_ifs with hlow hhigh
  · rw [max_eq_left (by omega)]
    rfl
  · rw [min_eq_left (by omega)]
    rfl
  · rw [min_eq_right (by omega), max_eq_right (by omega)]

/-- The high word of a 64-bit product is what the whole product leaves above 32 bits. -/
theorem hi32_ofInt (x : Int) : hi32 (BitVec.ofInt 64 x) = BitVec.ofInt 32 (x / 2 ^ 32) := by
  apply BitVec.eq_of_toNat_eq
  rw [hi32, BitVec.toNat_setWidth, BitVec.toNat_ushiftRight, Nat.shiftRight_eq_div_pow, BitVec.toNat_ofInt, BitVec.toNat_ofInt]
  omega

theorem mulHiS_eq (x y : Word) : mulHiS x y = hi32 (x.signExtend 64 * y.signExtend 64) := by
  have hprod : x.signExtend 64 * y.signExtend 64 = BitVec.ofInt 64 (x.toInt * y.toInt) := by
    rw [BitVec.ofInt_mul]
    rfl
  rw [hprod, hi32_ofInt, mulHiS]

theorem mulHiN_eq (x y : Word) : mulHiN x y = hi32 (x.setWidth 64 * y.setWidth 64) := by
  have hprod : x.setWidth 64 * y.setWidth 64 = BitVec.ofInt 64 ((x.toNat * y.toNat : Nat) : Int) := by
    rw [BitVec.ofInt_natCast, BitVec.ofNat_mul, BitVec.ofNat_toNat, BitVec.ofNat_toNat]
  rw [hprod, hi32_ofInt, mulHiN, ← BitVec.ofInt_natCast]
  rfl

/-- Where equal keys give one value, a choice may go either way between them. -/
theorem ite_lt_eq_ite_le {α β : Type} [LinearOrder α] {x y : α} {p q : β} (h : x = y → p = q) :
    (if x < y then p else q) = if x ≤ y then p else q := by
  by_cases heq : x = y
  · rw [h heq, ite_self, ite_self]
  · simp only [lt_iff_le_and_ne, ne_eq, heq, not_false_iff, and_true]

theorem minS_eq (x y : Word) : minS x y = if x.toInt ≤ y.toInt then x else y :=
  (if_congr BitVec.slt_iff_toInt_lt rfl rfl).trans (ite_lt_eq_ite_le BitVec.eq_of_toInt_eq)

theorem maxS_eq (x y : Word) : maxS x y = if x.toInt ≤ y.toInt then y else x :=
  (if_congr BitVec.slt_iff_toInt_lt rfl rfl).trans (ite_lt_eq_ite_le fun h => (BitVec.eq_of_toInt_eq h).symm)

theorem minN_eq (x y : Word) : minN x y = if x ≤ y then x else y := ite_lt_eq_ite_le BitVec.eq_of_toNat_eq

theorem maxN_eq (x y : Word) : maxN x y = if x ≤ y then y else x := ite_lt_eq_ite_le fun h => (BitVec.eq_of_toNat_eq h).symm

theorem rol5_eq (x y : Word) : rol5 x y = x.rotateLeft (y.toNat % 32) := by
  rw [rol5, BitVec.rotateLeft_def, Nat.mod_mod]

theorem vectorInteger : Parts.VectorInteger := by
  intro s g e f a b d hr x y
  refine ⟨.opVV (· + ·) rfl hr, .opVV (· - ·) rfl hr, .opVV iadds rfl hr fun _ => satS_eq_saturate _,
    .opVV isubs rfl hr fun _ => satS_eq_saturate _, .opVV (· * ·) rfl hr, .opVV mulHiS rfl hr fun _ => mulHiS_eq _ _,
    .opVV mulHiN rfl hr fun _ => mulHiN_eq _ _, fun hrd => ?_, .opVV (· &&& ·) rfl hr, .opVV (· ||| ·) rfl hr, .opVV (· ^^^ ·) rfl hr,
    .opVV (fun x y => x &&& ~~~y) rfl hr, .opVV minS rfl hr fun _ => minS_eq _ _, .opVV maxS rfl hr fun _ => maxS_eq _ _,
    .opVV minN rfl hr fun _ => minN_eq _ _, .opVV maxN rfl hr fun _ => maxN_eq _ _⟩
  exact .of_vecOp rfl hrd (g.claim_none _ (by simp [srcV])) fun g' j hs => by rw [hs.vr, hs.vr, hs.vr]

theorem twoAddressInteger : Parts.TwoAddressInteger := by
  intro s g f a d hr x y
  refine ⟨.opH1 (fun y => y) rfl hr, .opH1 (fun y => ~~~y) rfl hr, fun hrd => ?_⟩
  exact ⟨.opH (· + ·) rfl hrd, .opH (· - ·) rfl hrd, .opH (· * ·) rfl hrd, .opH (· &&& ·) rfl hrd, .opH (· ||| ·) rfl hrd,
    .opH (· ^^^ ·) rfl hrd, .opH shl5 rfl hrd, .opH shr5 rfl hrd, .opH sar5 rfl hrd⟩

theorem vectorImmediate : Parts.VectorImmediate := by
  intro s g0 e f a b d hr g x y
  exact ⟨.opVI (· + ·) rfl hr, .opVI (· - ·) rfl hr, .opVI iadds rfl hr fun _ => satS_eq_saturate _,
    .opVI isubs rfl hr fun _ => satS_eq_saturate _, .opVI (· &&& ·) rfl hr, .opVI (· ||| ·) rfl hr, .opVI (· ^^^ ·) rfl hr,
    .opVI (fun x y => x &&& ~~~y) rfl hr, .opVI shl5 rfl hr, .opVI shr5 rfl hr, .opVI sar5 rfl hr, .opVI rol5 rfl hr fun _ => rol5_eq _ _⟩

end Sys2Proof.Machine

namespace Sys2Proof

/-- Settles O1: each instruction is a vector result of its shape, with the value that its table writes. -/
theorem integerVectors : Obligations.IntegerVectors := ⟨Machine.vectorInteger, Machine.twoAddressInteger, Machine.vectorImmediate⟩

end Sys2Proof
end

section
/-! O2: bit counts, fields, byte shuffles, selection and MOVI.V. Each value of the model is read bit by bit, as the statements say it. -/

namespace Sys2Proof.Machine

variable {w : Nat}

/-! Counts and the reversal of bits (07 R154). -/

theorem popCount_eq_countP (x : BitVec w) : popCount x = (List.range w).countP fun i => x.getLsbD i :=
  List.countP_eq_length_filter.symm

/-- The first number below a bound that passes a test, or the bound: none before it passes. -/
theorem getD_find?_range (p : Nat → Bool) (n : Nat) :
    (∀ i, i < ((List.range n).find? p).getD n → p i = false) ∧
      (((List.range n).find? p).getD n = n ∨ ((List.range n).find? p).getD n < n ∧ p (((List.range n).find? p).getD n) = true) := by
  cases h : (List.range n).find? p with
  | none => exact ⟨fun i hi => by simpa using List.find?_eq_none.mp h i (List.mem_range.mpr hi), .inl rfl⟩
  | some k =>
    obtain ⟨hk, hmem, hbefore⟩ := List.find?_range_eq_some.mp h
    exact ⟨fun i hi => by simpa using hbefore i hi, .inr ⟨List.mem_range.mp hmem, hk⟩⟩

theorem eq_zero_of_bits {x : BitVec w} (h : ∀ i, i < w → x.getLsbD i = false) : x = 0 :=
  BitVec.eq_of_getLsbD_eq fun i hi => by simpa using h i hi

theorem ctz_zero : ctz (0 : BitVec w) = w := by
  rcases (getD_find?_range (0 : BitVec w).getLsbD w).2 with h | ⟨-, h⟩
  · exact h
  · simp at h

theorem ctz_spec {x : BitVec w} (hx : x ≠ 0) : ctz x < w ∧ x.getLsbD (ctz x) = true ∧ ∀ i, i < ctz x → x.getLsbD i = false := by
  obtain ⟨hbefore, hall | ⟨hlt, hbit⟩⟩ := getD_find?_range x.getLsbD w
  · exact absurd (eq_zero_of_bits fun i hi => hbefore i (hi.trans_eq hall.symm)) hx
  · exact ⟨hlt, hbit, hbefore⟩

theorem clz_zero : clz (0 : BitVec w) = w := by
  rcases (getD_find?_range (fun i => (0 : BitVec w).getLsbD (w - 1 - i)) w).2 with h | ⟨-, h⟩
  · exact h
  · simp at h

theorem clz_spec {x : BitVec w} (hx : x ≠ 0) :
    clz x < w ∧ x.getLsbD (w - 1 - clz x) = true ∧ ∀ i, w - 1 - clz x < i → x.getLsbD i = false := by
  obtain ⟨hbefore, hend⟩ := getD_find?_range (fun i => x.getLsbD (w - 1 - i)) w
  change (∀ i, i < clz x → _) at hbefore
  change clz x = w ∨ clz x < w ∧ _ at hend
  have habove : ∀ i, w - 1 - clz x < i ∨ clz x = w → x.getLsbD i = false := by
    intro i hi
    by_cases hiw : i < w
    · have hbit := hbefore (w - 1 - i) (by omega)
      rwa [show w - 1 - (w - 1 - i) = i by omega] at hbit
    · exact BitVec.getLsbD_of_ge x i (Nat.le_of_not_lt hiw)
  rcases hend with hall | ⟨hlt, hbit⟩
  · exact absurd (eq_zero_of_bits fun i _ => habove i (.inr hall)) hx
  · exact ⟨hlt, hbit, fun i hi => habove i (.inl hi)⟩

theorem testBit_brev (x : Word) (n i : Nat) (hi : i < n) :
    ((List.range n).foldl (fun a i => a * 2 + (if x.getLsbD i then 1 else 0)) 0).testBit (n - 1 - i) = x.getLsbD i := by
  induction n with
  | zero => omega
  | succ n ih =>
    rw [List.range_succ, List.foldl_append, List.foldl_cons, List.foldl_nil]
    generalize (List.range n).foldl _ 0 = m at ih ⊢
    by_cases hlast : i = n
    · subst hlast
      rw [show i + 1 - 1 - i = 0 by omega, Nat.testBit_zero]
      cases x.getLsbD i <;> simp
    · rw [show n + 1 - 1 - i = (n - 1 - i) + 1 by omega, Nat.testBit_succ, ← ih (by omega)]
      congr 1
      split <;> omega

theorem getLsbD_brev (x : Word) (i : Nat) (hi : i < 32) : (brev x).getLsbD (31 - i) = x.getLsbD i := by
  have hlt : 31 - i < 32 := by omega
  rw [brev, BitVec.getLsbD_ofNat, testBit_brev x 32 i hi, decide_eq_true hlt, Bool.true_and]

/-- The counts of a word, as words. -/
theorem ofNat_clz (x : Word) : if x = 0 then BitVec.ofNat 32 (clz x) = 32 else (BitVec.ofNat 32 (clz x)).toNat < 32 ∧
    x.getLsbD (31 - (BitVec.ofNat 32 (clz x)).toNat) = true ∧
      ∀ i, 31 - (BitVec.ofNat 32 (clz x)).toNat < i → x.getLsbD i = false := by
  split
  · next h => rw [h, clz_zero]; rfl
  · next h =>
    have hspec := clz_spec h
    rwa [BitVec.toNat_ofNat, Nat.mod_eq_of_lt (by omega)]

theorem ofNat_ctz (x : Word) : if x = 0 then BitVec.ofNat 32 (ctz x) = 32 else (BitVec.ofNat 32 (ctz x)).toNat < 32 ∧
    x.getLsbD (BitVec.ofNat 32 (ctz x)).toNat = true ∧ ∀ i, i < (BitVec.ofNat 32 (ctz x)).toNat → x.getLsbD i = false := by
  split
  · next h => rw [h, ctz_zero]; rfl
  · next h =>
    have hspec := ctz_spec h
    rwa [BitVec.toNat_ofNat, Nat.mod_eq_of_lt (by omega)]

theorem bitCounts : Parts.BitCounts := by
  intro s g f a d hr x
  exact ⟨.opV (fun x => BitVec.ofNat 32 (popCount x)) rfl hr fun j => by rw [popCount_eq_countP],
    (VecResult.opV (fun x => BitVec.ofNat 32 (clz x)) rfl hr).satisfies fun j => ofNat_clz (x j),
    (VecResult.opV brev rfl hr).satisfies fun j => getLsbD_brev (x j),
    (VecResult.opV (fun x => BitVec.ofNat 32 (ctz x)) rfl hr).satisfies fun j => ofNat_ctz (x j)⟩

/-! Fields and byte shuffles (07 R155). -/

theorem fieldLow_eq (b : Word) : fieldLow b = fieldPos b := (bitsOf_eq_extractLsb' b 0 5).symm

/-- A field lies in bits 0 to 31 and has one bit at least. -/
theorem field_bounds (b : Word) : fieldPos b + fieldLen b ≤ 32 ∧ 0 < fieldLen b := by
  have hpos : fieldPos b < 32 := Nat.mod_lt _ (by decide)
  unfold fieldLen
  omega

theorem fieldHigh_eq (b : Word) : fieldHigh b = fieldPos b + fieldLen b - 1 := by
  have hpos : fieldPos b < 32 := Nat.mod_lt _ (by decide)
  rw [fieldHigh, fieldLow_eq, fieldLen, ← bitsOf_eq_extractLsb']
  omega

theorem getLsbD_bfxn (x y : Word) (i : Nat) (hi : i < 32) :
    (bfxn x y).getLsbD i = (decide (fieldLow y + i ≤ fieldHigh y) && x.getLsbD (fieldLow y + i)) := by
  obtain ⟨-, hlen⟩ := field_bounds y
  have hin : i < fieldLen y ↔ fieldPos y + i ≤ fieldPos y + fieldLen y - 1 := by omega
  rw [bfxn, bitsOf_eq_extractLsb', BitVec.ofNat_toNat, BitVec.getLsbD_setWidth, BitVec.getLsbD_extractLsb', fieldLow_eq, fieldHigh_eq]
  simp only [hi, decide_true, Bool.true_and, hin]

/-- A signed field is the field sign-extended. -/
theorem bfxs_eq_signExtend (x y : Word) : bfxs x y = (x.extractLsb' (fieldPos y) (fieldLen y)).signExtend 32 := by
  have hmsb : (x.extractLsb' (fieldPos y) (fieldLen y)).msb =
      decide ((x.extractLsb' (fieldPos y) (fieldLen y)).toNat / 2 ^ (fieldLen y - 1) % 2 = 1) := by
    rw [BitVec.msb_eq_getLsbD_last, BitVec.getLsbD, Nat.testBit_eq_decide_div_mod_eq]
  rw [BitVec.signExtend, BitVec.toInt_eq_msb_cond, hmsb, bfxs, bitsOf_eq_extractLsb']
  simp only [decide_eq_true_eq]
  split
  · norm_cast
  · rw [BitVec.ofInt_natCast]

theorem getLsbD_bfxs (x y : Word) (i : Nat) (hi : i < 32) : (bfxs x y).getLsbD i = x.getLsbD (min (fieldLow y + i) (fieldHigh y)) := by
  obtain ⟨-, hlen⟩ := field_bounds y
  rw [bfxs_eq_signExtend, BitVec.getLsbD_signExtend, BitVec.msb_eq_getLsbD_last, BitVec.getLsbD_extractLsb', BitVec.getLsbD_extractLsb',
    fieldLow_eq, fieldHigh_eq]
  simp only [hi, decide_true, Bool.true_and]
  split
  · next hin => rw [min_eq_left (by omega)]; simp [hin]
  · next hout => rw [min_eq_right (by omega), Nat.add_sub_assoc hlen]; simp [hlen]

theorem getLsbD_bfi (o x y : Word) (i : Nat) (hi : i < 32) :
    (bfi o x y).getLsbD i = if fieldLow y ≤ i ∧ i ≤ fieldHigh y then x.getLsbD (i - fieldLow y) else o.getLsbD i := by
  obtain ⟨hfits, hlen⟩ := field_bounds y
  have hmask : (BitVec.ofNat 32 ((2 ^ fieldLen y - 1) * 2 ^ fieldPos y)).getLsbD i = decide (fieldLow y ≤ i ∧ i ≤ fieldHigh y) := by
    rw [BitVec.getLsbD_ofNat, Nat.testBit_mul_two_pow, Nat.testBit_two_pow_sub_one, fieldLow_eq, fieldHigh_eq]
    rw [decide_eq_true hi, Bool.true_and, ← Bool.decide_and, decide_eq_decide]
    omega
  rw [bfi, BitVec.getLsbD_or, BitVec.getLsbD_and, BitVec.getLsbD_and, BitVec.getLsbD_not, hmask, BitVec.getLsbD_shiftLeft, ← fieldLow_eq]
  split
  · next hin => simp [hin, hi]
  · next hout => simp [hout, hi]

theorem shufByte_eq (o x y : Word) (k : Nat) : shufByte o x y k = (if y.getLsbD (8 + k) then (0 : BitVec 8)
    else (if y.getLsbD (12 + k) then o else x).extractLsb' (8 * (y.extractLsb' (2 * k) 2).toNat) 8).toNat := by
  rw [shufByte, bitsOf_eq_extractLsb', bitsOf_eq_extractLsb']
  split <;> rfl

theorem extractLsb'_bshuf (o x y : Word) (k : Nat) (hk : k < 4) : (bshuf o x y).extractLsb' (8 * k) 8 =
    if y.getLsbD (8 + k) then 0 else (if y.getLsbD (12 + k) then o else x).extractLsb' (8 * (y.extractLsb' (2 * k) 2).toNat) 8 := by
  have hbyte : ∀ k, shufByte o x y k < 256 := fun k => by
    rw [shufByte_eq]
    exact BitVec.isLt _
  have h0 := hbyte 0
  have h1 := hbyte 1
  have h2 := hbyte 2
  have h3 := hbyte 3
  apply BitVec.eq_of_toNat_eq
  rw [← shufByte_eq, BitVec.extractLsb'_toNat, bshuf, BitVec.toNat_ofNat, Nat.shiftRight_eq_div_pow]
  generalize shufByte o x y = byte at h0 h1 h2 h3 ⊢
  interval_cases k <;> norm_num <;> omega

theorem bitFields : Parts.BitFields := by
  intro s g0 e f a b d hr g x o y pos hi
  refine ⟨(VecResult.opVI bfxn rfl hr).satisfies fun j => getLsbD_bfxn (x j) y,
    (VecResult.opVI bfxs rfl hr).satisfies fun j => getLsbD_bfxs (x j) y, fun hrd => ?_⟩
  exact ⟨(VecResult.opDVI bfi rfl hrd).satisfies fun j => getLsbD_bfi (o j) (x j) y,
    (VecResult.opDVI bshuf rfl hrd).satisfies fun j => extractLsb'_bshuf (o j) (x j) y⟩

/-! SEL and MOVI.V (07 R156, 02 R45). -/

theorem selectAndMove : Parts.SelectAndMove := by
  refine ⟨fun s g e b a d k hr => ?_, fun s g im d hr => ?_⟩
  · exact .of_vecOp rfl hr (g.claim_none _ (by simp [srcV, srcK])) fun g' j hs => by rw [hs.vr, hs.vr, hs.kr]; rfl
  · exact .of_vecOp rfl hr (g.claim_none _ List.not_mem_nil) fun _ _ _ => rfl

end Sys2Proof.Machine

namespace Sys2Proof

/-- Settles O2: each instruction is a vector result of its shape, whose bits are those that its table names. -/
theorem bitsAndSelection : Obligations.BitsAndSelection := ⟨Machine.bitCounts, Machine.bitFields, Machine.selectAndMove⟩

end Sys2Proof
end

section
/-! O3: integer compares, producers of a mask, and the completion of a compare. -/

namespace Sys2Proof.Machine

variable {s : State} {g g0 : Group} {i : Instr} {srcs : List Src}

/-- The word that a compare will write: the condition in the lanes of the active set, the old bits in the others. -/
def compareWord (s : State) (g : Group) (d : Nat) (c : Nat → Bool) : Mask :=
  maskOf g.width fun j => if maskBit s.cur.mask j then c j else maskBit (g.k.get d) j

theorem getLsbD_compareWord (s : State) (g : Group) (d : Nat) (c : Nat → Bool) (j : Nat) (hj : j < 64) :
    (compareWord s g d c).getLsbD j = (decide (j < g.width) && if maskBit s.cur.mask j then c j else maskBit (g.k.get d) j) :=
  maskBit_maskOf _ _ _ hj

/-- An integer compare takes place as a producer. -/
theorem cmpK_spec {d : BitVec 4} {c : Group → Nat → Bool} (hr : Ready s g0 (srcs.map (·.reg)) [.k d.toNat])
    (hclaim : g0.claim (srcs.map (·.reg)) = g) :
    ∃ g' t h, SyncOnly g g' ∧ cmpK s i srcs d c = .next t ∧ Frame s t g h [.k d.toNat] ∧ SameData (g'.markEmpty [.k d.toNat]) h ∧
      t.ops.get? s.fresh = some (s.opOf g .compare [.k d.toNat] (if g.width = 64 then 5 else 4)
        (.writes [⟨.k d.toNat, 0, compareWord s g d.toNat (c g')⟩])) := by
  subst hclaim
  rw [← List.append_nil (srcs.map (·.reg))] at hr
  unfold cmpK
  extract_lets defer
  rw [s.issue_ready g0 { srcs, late := [.k d.toNat], defer } _ _ hr rfl rfl rfl hr.operands.sound]
  have hsync := g0.taken_sync { srcs, late := [.k d.toNat], defer } s.cur.mask
  generalize g0.taken _ _ = g' at hsync
  obtain ⟨h, hproduced⟩ := (s.atCost (costLane g0)).produce_spec g' .compare [.k d.toNat] (if g'.width = 64 then 5 else 4)
    (.writes [⟨.k d.toNat, 0, compareWord (s.atCost (costLane g0)) g' d.toNat (c g')⟩]) s.cur.mask .on (costLane g')
  refine ⟨g', _, h, hsync, ?_, .claimed hsync hproduced.frame, hproduced.data, hproduced.op.trans ?_⟩
  · simp only [State.atCost_cur_defer, hr.fresh]
    rfl
  · simp only [State.opOf, compareWord, hsync.data.uid, hsync.data.part, hsync.data.width, hsync.data.k]
    rfl

/-- An integer compare whose condition in each lane its operands fix. -/
theorem CompareIssued.of_cmpK {d : BitVec 4} {c : Group → Nat → Bool} {r : Nat → Bool} (he : exec i s = cmpK s i srcs d c)
    (hr : Ready s g0 (srcs.map (·.reg)) [.k d.toNat]) (hclaim : g0.claim (srcs.map (·.reg)) = g)
    (hc : ∀ g' j, SyncOnly g g' → c g' j = r j) : CompareIssued i s g d.toNat r := by
  obtain ⟨g', t, h, hsync, hdone, hframe, hdata, hop⟩ := cmpK_spec (i := i) (c := c) hr hclaim
  refine ⟨t, h, he.trans hdone, hframe, ?_, ?_, _, _, hop, rfl, rfl, rfl, rfl, .inl rfl, fun j hj => ?_⟩
  · rw [hdata.k]
    exact congrArg (·.get d.toNat) hsync.data.k
  · rw [hdata.empty]
    simp [Group.markEmpty]
  · rw [getLsbD_compareWord _ _ _ _ _ hj, hc g' j hsync]

variable {e f : Bool} {a b : BitVec 7} {d : BitVec 4} {r : Nat → Bool}

theorem CompareIssued.cmpVV (c : Word → Word → Bool) (he : exec i s = cmpVV s i e b f a d c)
    (hr : Ready s g [.v a.toNat, .v b.toNat] [.k d.toNat]) (hc : ∀ j, c (g.vr a.toNat j) (g.vr b.toNat j) = r j) :
    CompareIssued i s g d.toNat r :=
  .of_cmpK he hr (g.claim_none _ (by simp [srcV])) fun g' j hs => by rw [hs.vr, hs.vr, hc]

theorem CompareIssued.cmpVI (c : Word → Word → Bool) (he : exec i s = cmpVI s i e b f a d c)
    (hr : Ready s g0 (.v a.toNat :: siRegs b) [.k d.toNat])
    (hc : ∀ j, c ((g0.claim (siRegs b)).vr a.toNat j) (siValue (g0.claim (siRegs b)) b) = r j) :
    CompareIssued i s (g0.claim (siRegs b)) d.toNat r := by
  have hregs : (srcV a f :: srcSI b e).map (·.reg) = .v a.toNat :: siRegs b := by rw [List.map_cons, srcSI_regs]; rfl
  refine .of_cmpK he (by rwa [hregs]) (by rw [hregs, Group.claim_cons_v]) fun g' j hs => ?_
  rw [hs.vr, hs.valSI, hc]

/-! The conditions, as the statements write them (07 R152). -/

theorem not_slt_eq_decide (x y : Word) : (!y.slt x) = decide (x.toInt ≤ y.toInt) := by
  rw [BitVec.slt_eq_decide, ← decide_not, decide_eq_decide, Int.not_lt]

theorem bne_eq_decide_ne (x y : Word) : (x != y) = decide (x ≠ y) := by
  rw [bne, beq_eq_decide, ← decide_not]

theorem compareIssue : Parts.CompareIssue := by
  refine ⟨fun s g e f a b d hr => ?_, fun s g0 e f a b d hr => ?_⟩
  · intro x y
    exact ⟨.cmpVV (fun x y => x == y) rfl hr fun _ => beq_eq_decide _ _, .cmpVV (fun x y => x != y) rfl hr fun _ => bne_eq_decide_ne _ _,
      .cmpVV (fun x y => x.slt y) rfl hr fun _ => BitVec.slt_eq_decide, .cmpVV (fun x y => !y.slt x) rfl hr fun _ => not_slt_eq_decide _ _,
      .cmpVV (fun x y => decide (x.toNat < y.toNat)) rfl hr fun _ => rfl,
      .cmpVV (fun x y => decide (x.toNat ≤ y.toNat)) rfl hr fun _ => rfl,
      .cmpVV (fun x y => x &&& y != 0) rfl hr fun _ => bne_eq_decide_ne _ _, .cmpVV (fun x y => x &&& y == 0) rfl hr fun _ => beq_eq_decide _ _⟩
  · intro g x y
    exact ⟨.cmpVI (fun x y => x == y) rfl hr fun _ => beq_eq_decide _ _, .cmpVI (fun x y => x != y) rfl hr fun _ => bne_eq_decide_ne _ _,
      .cmpVI (fun x y => x.slt y) rfl hr fun _ => BitVec.slt_eq_decide, .cmpVI (fun x y => !y.slt x) rfl hr fun _ => not_slt_eq_decide _ _⟩

/-! COMPARE_COMPLETE (07 R153; 05 R110). -/

section Completion

variable {id : Nat} {o : Op}

/-- A compare that may complete with the words that it holds. -/
theorem exec_compareComplete_writes {ws : List RegWrite} (hdue : Due s id o g) (hcls : o.cls = .compare) (hkind : o.kind = .writes ws) :
    exec (.compareComplete id) s = .next (s.completeOp id o fun s g => s.applyWrites o ws g) := by
  show execCompareComplete id s = _
  simp [execCompareComplete, hdue.op, hcls, hdue.ready, hkind, State.fill, hdue.good, Op.fills]

/-- A compare of floats that may complete. -/
theorem exec_compareComplete_flagged {ws : List RegWrite} {ex : List (Nat × Word)} {c : Cur} {moved : Bool} (hdue : Due s id o g)
    (hcls : o.cls = .compare) (hkind : o.kind = .flagged ws ex c moved) :
    exec (.compareComplete id) s = .next (s.flagDone id o ws ex c moved) := by
  show execCompareComplete id s = _
  simp [execCompareComplete, hdue.op, hcls, hdue.ready, hkind]

theorem compareCompletion : Parts.CompareCompletion := by
  intro s id o g d w hdue hcls hdests hd
  have hmem : Reg.k d ∈ o.dests := by simp [hdests]
  have hword : (s.applyWrites o [⟨.k d, 0, w⟩] g).k.get d = w := by
    rw [State.applyWrites_k _ _ _ _ _ hmem, Group.kr_setKr _ _ _ hd]
  refine ⟨fun hkind => ?_, fun ex c hkind hmask => ?_⟩
  · have hfilled := s.completeOp_spec id o g (fun s g => s.applyWrites o [⟨.k d, 0, w⟩] g) hdue.group hdue.same
      (s.applyWrites_same o _ g [] (by simp))
    exact ⟨_, _, exec_compareComplete_writes hdue hcls hkind, hfilled, hword⟩
  · obtain ⟨h, hfilled, hflags, -, hk⟩ := s.flagDone_spec id o g [⟨.k d, 0, w⟩] ex c hdue.group hdue.same hmask (by simp)
    exact ⟨_, h, exec_compareComplete_flagged hdue hcls hkind, hfilled, by rw [hk, hword], hflags⟩

end Completion

end Sys2Proof.Machine

namespace Sys2Proof

/-- Settles O3: an integer compare starts one producer, whose word its operands fix; its completion writes that word. -/
theorem integerCompares : Obligations.IntegerCompares := ⟨Machine.compareIssue, Machine.compareCompletion⟩

end Sys2Proof
end

section
/-! O4: scalar, pair and mask arithmetic. -/

namespace Sys2Proof.Machine

variable {s : State} {g g0 g' : Group} {i : Instr} {srcs : List Src} {e f : Bool}

theorem SyncOnly.sr64 (hs : SyncOnly g g') (n : Nat) : g'.sr64 n = g.sr (n + 1) ++ g.sr n := by
  rw [Group.sr64, hs.sr, hs.sr, pair64]

theorem SclResult.of_sclOp {d : Nat} {f : Group → Word} {r : Word} {old : List Reg} (he : exec i s = s.sclOp i srcs d f old)
    (hr : Ready s g0 (srcs.map (·.reg) ++ old) [.s d]) (hclaim : g0.claim (srcs.map (·.reg)) = g)
    (hf : ∀ g', SyncOnly g g' → f g' = r) : SclResult i s g d r := by
  subst hclaim
  obtain ⟨t, h, g', hdone, hframe, hsync, hholds⟩ := s.sclOp_spec i g0 srcs d f old hr
  exact ⟨t, h, he.trans hdone, hframe, hf g' hsync ▸ hholds⟩

theorem Scl2Result.of_scl2Op {d : Nat} {f : Group → DWord} {r : DWord} (he : exec i s = s.scl2Op i srcs (2 * d) f)
    (hr : Ready s g0 (srcs.map (·.reg)) [.s (2 * d), .s (2 * d + 1)]) (hclaim : g0.claim (srcs.map (·.reg)) = g)
    (hf : ∀ g', SyncOnly g g' → f g' = r) : Scl2Result i s g (2 * d) r := by
  subst hclaim
  obtain ⟨t, h, g', hdone, hframe, hsync, hlow, hhigh⟩ := s.scl2Op_spec i g0 srcs (2 * d) f (Nat.mul_mod_right 2 d) hr
  rw [hf g' hsync] at hlow hhigh
  exact ⟨t, h, he.trans hdone, hframe, hlow, hhigh⟩

theorem MaskResult.of_maskOp {d : Nat} {f : Group → Mask} {r : Mask} (he : exec i s = s.maskOp i srcs d f)
    (hr : Ready s g0 (srcs.map (·.reg)) [.k d]) (hclaim : g0.claim (srcs.map (·.reg)) = g)
    (hf : ∀ g', SyncOnly g g' → f g' = r) : MaskResult i s g d r := by
  subst hclaim
  obtain ⟨t, h, g', hdone, hframe, hsync, hbits⟩ := s.maskOp_spec i g0 srcs d f hr
  rw [hf g' hsync] at hbits
  exact ⟨t, h, he.trans hdone, hframe, fun hd j hj => by rw [hbits hd j hj, Group.claim_width]⟩

/-! Scalars (07 R170, R171; 02 R45). -/

theorem SclResult.opSI {b : BitVec 7} {a d : BitVec 6} {r : Word} (h : Word → Word → Word) (he : exec i s = opSI s i e b f a d h)
    (hr : Ready s g0 (.s a.toNat :: siRegs b) [.s d.toNat])
    (hh : h ((g0.claim (.s a.toNat :: siRegs b)).sr a.toNat) (siValue (g0.claim (.s a.toNat :: siRegs b)) b) = r := by rfl) :
    SclResult i s (g0.claim (.s a.toNat :: siRegs b)) d.toNat r := by
  have hregs : (srcS a f :: srcSI b e).map (·.reg) = .s a.toNat :: siRegs b := by rw [List.map_cons, srcSI_regs]; rfl
  refine .of_sclOp (old := []) he (by rwa [hregs, List.append_nil]) (by rw [hregs]) fun g' hs => ?_
  rw [hs.sr, hs.valSI, hh]

theorem oneIf_eq_ite {c : Bool} {p : Prop} [Decidable p] (h : c = true ↔ p) : oneIf c = if p then 1 else 0 := if_congr h rfl rfl

theorem scalarArithmetic : Parts.ScalarArithmetic := by
  intro s g0 e f b a d hr g x y
  exact ⟨.opSI (· + ·) rfl hr, .opSI (· - ·) rfl hr, .opSI (· * ·) rfl hr, .opSI (· &&& ·) rfl hr, .opSI (· ||| ·) rfl hr,
    .opSI (· ^^^ ·) rfl hr, .opSI shl5 rfl hr, .opSI shr5 rfl hr, .opSI (fun x y => oneIf (x == y)) rfl hr (oneIf_eq_ite beq_iff_eq),
    .opSI (fun x y => oneIf (x != y)) rfl hr (oneIf_eq_ite bne_iff_ne),
    .opSI (fun x y => oneIf (x.slt y)) rfl hr (oneIf_eq_ite BitVec.slt_iff_toInt_lt),
    .opSI (fun x y => oneIf (decide (x.toNat < y.toNat))) rfl hr (oneIf_eq_ite decide_eq_true_iff)⟩

/-- The high half of an immediate, over the low bits of the scalar. -/
theorem movih_eq_append (x : Word) (im : BitVec 18) : (x &&& (0x3FFF : Word)) ||| (im.setWidth 32 <<< 14) = im ++ x.setWidth 14 := by
  have hlow : (x &&& (0x3FFF : Word)).toNat = x.toNat % 2 ^ 14 := Nat.and_two_pow_sub_one_eq_mod x.toNat 14
  have him := im.isLt
  apply BitVec.eq_of_toNat_eq
  rw [BitVec.toNat_or, hlow, BitVec.toNat_append, BitVec.toNat_setWidth, BitVec.toNat_shiftLeft, BitVec.toNat_setWidth, Nat.or_comm,
    Nat.shiftLeft_eq, Nat.shiftLeft_eq, Nat.mod_eq_of_lt (by omega : im.toNat < 2 ^ 32), Nat.mod_eq_of_lt (by omega)]

theorem scalarImmediate : Parts.ScalarImmediate := by
  intro s g im d
  refine ⟨fun hr => ?_, fun hr => ⟨?_, ?_⟩⟩
  · exact .of_sclOp (srcs := []) (old := []) rfl hr (g.claim_none _ List.not_mem_nil) fun _ _ => rfl
  · exact .of_sclOp (srcs := []) (old := [.s d.toNat]) rfl hr (g.claim_none _ List.not_mem_nil) fun g' hs => by
      rw [hs.sr]
      exact movih_eq_append _ im
  · exact .of_sclOp (srcs := []) (old := [.s d.toNat]) rfl hr (g.claim_none _ List.not_mem_nil) fun g' hs => by rw [hs.sr]; rfl

/-! Pairs of scalars (07 R172). -/

theorem srcSI64_regs (b : BitVec 7) (e : Bool) : (srcSI64 b e).map (·.reg) = siPair b := by
  unfold srcSI64 siPair
  split <;> rfl

theorem SyncOnly.valSI64 (hs : SyncOnly g g') (b : BitVec 7) : valSI64 g' b = siValue64 g b := by
  rw [Machine.valSI64, siValue64, hs.sr64, ofInt_immSI]

theorem Scl2Result.opSI64 {b : BitVec 7} {a d : BitVec 5} (h : DWord → DWord → DWord) (he : exec i s = opSI64 s i e b f a d h)
    (hr : Ready s g0 (.s (2 * a.toNat) :: .s (2 * a.toNat + 1) :: siPair b) [.s (2 * d.toNat), .s (2 * d.toNat + 1)])
    (hg : g0.claim (.s (2 * a.toNat) :: .s (2 * a.toNat + 1) :: siPair b) = g) :
    Scl2Result i s g (2 * d.toNat) (h (g.sr (2 * a.toNat + 1) ++ g.sr (2 * a.toNat)) (siValue64 g b)) := by
  have hregs : (srcSs (2 * a.toNat) 2 f ++ srcSI64 b e).map (·.reg) = .s (2 * a.toNat) :: .s (2 * a.toNat + 1) :: siPair b := by
    rw [List.map_append, srcSs_regs, srcSI64_regs]
    rfl
  refine .of_scl2Op he (by rwa [hregs]) (by rw [hregs, hg]) fun g' hs => ?_
  rw [hs.sr64, hs.valSI64]

theorem pairArithmetic : Parts.PairArithmetic := by
  intro s g0 e f b a d hr g x y
  exact ⟨.opSI64 (· + ·) rfl hr rfl, .opSI64 (· - ·) rfl hr rfl, .opSI64 (· * ·) rfl hr rfl,
    .opSI64 (fun x y => x <<< (y.toNat % 64)) rfl hr rfl⟩

/-! Masks (07 R173, R174). -/

theorem MaskResult.opKK {a b d : BitVec 4} (h : Mask → Mask → Mask) (he : exec i s = opKK s i e b f a d h)
    (hr : Ready s g [.k a.toNat, .k b.toNat] [.k d.toNat]) : MaskResult i s g d.toNat (h (g.kr a.toNat) (g.kr b.toNat)) :=
  .of_maskOp he hr (g.claim_none _ (by simp [srcK])) fun g' hs => by rw [hs.kr, hs.kr]

/-- The first set bit of a mask, as KFFS gives it. -/
theorem kffs_spec (x : Mask) {r : Word} (hr : r = if x = 0 then 0xFFFFFFFF else BitVec.ofNat 32 (ctz x)) :
    if x = 0 then r = 0xFFFFFFFF else x.getLsbD r.toNat = true ∧ ∀ i, i < r.toNat → x.getLsbD i = false := by
  subst hr
  split
  · rfl
  · next h =>
    obtain ⟨hlt, hspec⟩ := ctz_spec h
    rwa [BitVec.toNat_ofNat, Nat.mod_eq_of_lt (by omega)]

theorem maskArithmetic : Parts.MaskArithmetic := by
  refine ⟨fun s g e f a b d hr => ?_, fun s g f a d hr => ?_, fun s g0 f a d hr => ?_, fun s g f a d hr => ?_⟩
  · exact ⟨.opKK (· &&& ·) rfl hr, .opKK (· ||| ·) rfl hr, .opKK (· ^^^ ·) rfl hr, .opKK (fun x y => x &&& ~~~y) rfl hr⟩
  · exact .of_scl2Op rfl hr (g.claim_none _ (by simp [srcK])) fun g' hs => hs.kr _
  · exact .of_maskOp rfl hr rfl fun g' hs => hs.sr64 _
  · intro x
    have hclaim : g.claim ([srcK a f].map (·.reg)) = g := g.claim_none _ (by simp [srcK])
    refine ⟨.of_sclOp (old := []) rfl hr hclaim fun g' hs => by rw [hs.kr, popCount_eq_countP], ?_⟩
    obtain ⟨t, h, he, hframe, hholds⟩ : SclResult (.kffs f a d) s g d.toNat (if x = 0 then 0xFFFFFFFF else BitVec.ofNat 32 (ctz x)) :=
      .of_sclOp (old := []) rfl hr hclaim fun g' hs => by rw [hs.kr]
    exact ⟨t, h, he, hframe, _, hholds, kffs_spec x rfl⟩

end Sys2Proof.Machine

namespace Sys2Proof

/-- Settles O4: each instruction is a scalar, pair or mask result of its shape. -/
theorem scalarAndMaskArithmetic : Obligations.ScalarAndMaskArithmetic :=
  ⟨Machine.scalarArithmetic, Machine.scalarImmediate, Machine.pairArithmetic, Machine.maskArithmetic⟩

end Sys2Proof
end

section
/-! O5: F32 arithmetic of vectors. -/

namespace Sys2Proof.Machine

variable {s : State} {g g0 : Group} {i : Instr} {e f : Bool} {r : Nat → List Word × Word}

/-- A float instruction whose lanes' results its operands fix, on a group that has claimed its flit. -/
theorem FloatResults.of_claim {srcs : List Src} {ds : List Nat} {cost : Group → Nat} {f : Group → Nat → List Word × Word} {old : List Reg}
    (he : exec i s = s.vecFloat i srcs ds cost f old) (hr : Ready s g0 (srcs.map (·.reg) ++ old) (ds.map .v)) (hn : ds.Nodup)
    (hclaim : g0.claim (srcs.map (·.reg)) = g) (hf : ∀ g' j, SyncOnly g g' → f g' j = r j) : FloatResults i s g ds r := by
  subst hclaim
  intro hnotrap
  have hlanes : ∀ g', SyncOnly (g0.claim (srcs.map (·.reg))) g' → f g' = r := fun g' hs => funext fun j => hf g' j hs
  obtain ⟨t, h, g', hdone, hframe, hsync, hwords, hflags⟩ := s.vecFloat_spec i g0 srcs ds cost f old hr hn fun g' hs => by
    rw [hlanes g' hs]
    simpa only [NoTrap, Group.cr, Group.claim_crs] using hnotrap
  rw [hlanes g' hsync] at hwords hflags
  exact ⟨t, h, he.trans hdone, hframe, hwords, hflags⟩

/-! The shapes of float instructions: `h` is what a lane makes of its old destination and its operands. -/

theorem FloatResults.floatVV {a b d : BitVec 7} {old : Bool} (h : Word → Word → Word → List Word × Word)
    (he : exec i s = floatVV s i e b f a d h old)
    (hr : Ready s g ([.v a.toNat, .v b.toNat] ++ if old then [.v d.toNat] else []) [.v d.toNat])
    (hh : ∀ j, h (g.vr d.toNat j) (g.vr a.toNat j) (g.vr b.toNat j) = r j := by intros; rfl) : FloatResults i s g [d.toNat] r :=
  .of_claim he hr (List.nodup_singleton _) (g.claim_none _ (by simp [srcV])) fun g' j hs => by rw [hs.vr, hs.vr, hs.vr, hh]

theorem FloatResults.floatVS {b : BitVec 6} {a d : BitVec 7} {old : Bool} (h : Word → Word → Word → List Word × Word)
    (he : exec i s = floatVS s i e b f a d h old)
    (hr : Ready s g0 ([.v a.toNat, .s b.toNat] ++ if old then [.v d.toNat] else []) [.v d.toNat])
    (hh : ∀ j, h ((g0.claim [.s b.toNat]).vr d.toNat j) ((g0.claim [.s b.toNat]).vr a.toNat j) ((g0.claim [.s b.toNat]).sr b.toNat) = r j
      := by intros; rfl) : FloatResults i s (g0.claim [.s b.toNat]) [d.toNat] r :=
  .of_claim he hr (List.nodup_singleton _) (g0.claim_cons_v _ _) fun g' j hs => by rw [hs.vr, hs.vr, hs.sr, hh]

theorem FloatResults.floatH {a d : BitVec 5} (h : Word → Word → Word → List Word × Word) (he : exec i s = floatH s i a d f h)
    (hr : Ready s g [.v a.toNat, .v d.toNat] [.v d.toNat])
    (hh : ∀ j, h 0 (g.vr d.toNat j) (g.vr a.toNat j) = r j := by intros; rfl) : FloatResults i s g [d.toNat] r :=
  .of_claim he hr (List.nodup_singleton _) (g.claim_none _ (by simp [srcV])) fun g' j hs => by rw [hs.vr, hs.vr, hh]

theorem FloatResults.floatV {a d : BitVec 7} (h : Word → List Word × Word) (he : exec i s = floatV s i f a d h)
    (hr : Ready s g [.v a.toNat] [.v d.toNat]) (hh : ∀ j, h (g.vr a.toNat j) = r j := by intros; rfl) : FloatResults i s g [d.toNat] r :=
  .of_claim he hr (List.nodup_singleton _) (g.claim_none _ (by simp [srcV])) fun g' j hs => by rw [hs.vr, hh]

theorem floatArithmetic : Parts.FloatArithmetic := by
  intro s g e f a b d hr x y o
  refine ⟨FloatResults.floatVV (fop faddF) rfl hr, FloatResults.floatVV (fop fsubF) rfl hr, FloatResults.floatVV fminW rfl hr,
    FloatResults.floatVV fmaxW rfl hr, FloatResults.floatVV (fop fmulF) rfl hr, fun hrd => ?_⟩
  exact ⟨FloatResults.floatVV (fop ffmaF) rfl hrd, FloatResults.floatVV (fop ffmsF) rfl hrd, FloatResults.floatVV (fop ffnmaF) rfl hrd⟩

theorem floatScalarOperand : Parts.FloatScalarOperand := by
  intro s g0 e f b a d hr g w x y o
  refine ⟨FloatResults.floatVS (fop faddF) rfl hr, FloatResults.floatVS (fop fsubF) rfl hr, FloatResults.floatVS fminW rfl hr,
    FloatResults.floatVS fmaxW rfl hr, FloatResults.floatVS (fop fmulF) rfl hr, fun hrd => ?_⟩
  exact ⟨FloatResults.floatVS (fop ffmaF) rfl hrd, FloatResults.floatVS (fop ffmsF) rfl hrd, FloatResults.floatVS (fop ffnmaF) rfl hrd⟩

/-! Bit 31 of a word (07 R162). -/

/-- A word is its sign bit over its other bits. -/
theorem and_eq_append (x : Word) : x &&& 0x7FFFFFFF = (0 : BitVec 1) ++ x.setWidth 31 := by
  apply BitVec.eq_of_toNat_eq
  rw [BitVec.toNat_append, BitVec.toNat_setWidth]
  exact (Nat.and_two_pow_sub_one_eq_mod x.toNat 31).trans (by simp)

theorem xor_eq_append (x : Word) : x ^^^ 0x80000000 = (~~~x.extractLsb' 31 1) ++ x.setWidth 31 := by
  apply BitVec.eq_of_getLsbD_eq
  intro k hk
  have hsign : (0x80000000 : Word).getLsbD k = decide (k = 31) := by
    rw [show (0x80000000 : Word) = BitVec.twoPow 32 31 from rfl, BitVec.getLsbD_twoPow]
    simp [eq_comm]
  rw [BitVec.getLsbD_xor, hsign, BitVec.getLsbD_append, BitVec.getLsbD_not, BitVec.getLsbD_extractLsb', BitVec.getLsbD_setWidth]
  by_cases hlow : k < 31
  · simp [hlow, hlow.ne]
  · obtain rfl : k = 31 := by omega
    simp

theorem floatTwoAddress : Parts.FloatTwoAddress := by
  refine ⟨fun s g f a d hr => ?_, fun s g f a d hr => ?_⟩
  · intro x y
    exact ⟨FloatResults.floatH (fop faddF) rfl hr, FloatResults.floatH (fop fsubF) rfl hr, FloatResults.floatH (fop fmulF) rfl hr,
      FloatResults.floatH fmaxW rfl hr, FloatResults.floatH fminW rfl hr⟩
  · intro x
    exact ⟨.floatV (fun x => ([x &&& 0x7FFFFFFF], 0)) rfl hr fun j => by rw [and_eq_append],
      .floatV (fun x => ([x ^^^ 0x80000000], 0)) rfl hr fun j => by rw [xor_eq_append],
      .floatV (fun x => ([BitVec.ofNat 32 (f32.integral .rdn x.toNat).bits], (f32.integral .rdn x.toNat).ex &&& xNV)) rfl hr,
      .floatV (fun x => ([BitVec.ofNat 32 (f32.integral .rup x.toNat).bits], (f32.integral .rup x.toNat).ex &&& xNV)) rfl hr⟩

end Sys2Proof.Machine

namespace Sys2Proof

/-- Settles O5: each instruction is a float issue of its shape, with the rounded result that its rule names in each lane. -/
theorem floatArithmetic : Obligations.FloatArithmetic := ⟨Machine.floatArithmetic, Machine.floatScalarOperand, Machine.floatTwoAddress⟩

end Sys2Proof
end

section
/-! O6: packed 16-bit elements, and binary64 in pairs of vectors. -/

namespace Sys2Proof.Machine

variable {s : State} {g g' : Group} {i : Instr} {e f : Bool}

/-- What a lane of a packed instruction makes: each element by the rules of its format (07 R167). -/
theorem packed_eq_packedPair (h : Nat → Nat → Nat → Fr) (d a b : Word) : packed h d a b = packedPair fun k =>
    h (d.extractLsb' (16 * k) 16).toNat (a.extractLsb' (16 * k) 16).toNat (b.extractLsb' (16 * k) 16).toNat := by
  simp only [packed, packedPair, bitsOf_eq_extractLsb']

theorem packedArithmetic : Parts.PackedArithmetic := by
  intro s g e f a b d hr el R
  refine ⟨.floatVV (packed (pAdd f16)) rfl hr fun _ => packed_eq_packedPair ..,
    .floatVV (packed (pMul f16)) rfl hr fun _ => packed_eq_packedPair ..,
    fun hrd => ⟨.floatVV (packed (pFma f16)) rfl hrd fun _ => packed_eq_packedPair ..,
      .floatVV (packed (pFma bf16)) rfl hrd fun _ => packed_eq_packedPair ..⟩,
    .floatVV (packed (pMax f16)) rfl hr fun _ => packed_eq_packedPair .., .floatVV (packed (pAdd bf16)) rfl hr fun _ => packed_eq_packedPair ..,
    .floatVV (packed (pMul bf16)) rfl hr fun _ => packed_eq_packedPair .., .floatVV (packed (pMax bf16)) rfl hr fun _ => packed_eq_packedPair ..⟩

/-! Binary64 (07 R168). -/

theorem SyncOnly.vr64 (hs : SyncOnly g g') (n j : Nat) : g'.vr64 n j = g.vr (n + 1) j ++ g.vr n j := by
  rw [Group.vr64, hs.vr, hs.vr, pair64]

/-- The word of a register pair, as a number. -/
def pairNat (g : Group) (r : BitVec 6) (j : Nat) : Nat := (g.vr (2 * r.toNat + 1) j ++ g.vr (2 * r.toNat) j).toNat

theorem DoubleResult.floatD {a b d : BitVec 6} {old : Bool} (h : Nat → Nat → Nat → Fr) (he : exec i s = floatD s i e b f a d h old)
    (hr : Ready s g ([.v (2 * a.toNat), .v (2 * a.toNat + 1), .v (2 * b.toNat), .v (2 * b.toNat + 1)] ++
      if old then [.v (2 * d.toNat), .v (2 * d.toNat + 1)] else []) [.v (2 * d.toNat), .v (2 * d.toNat + 1)]) :
    DoubleResult i s g (2 * d.toNat) fun j => h (pairNat g d j) (pairNat g a j) (pairNat g b j) := by
  have hregs : (srcVs (2 * a.toNat) 2 f ++ srcVs (2 * b.toNat) 2 e).map (·.reg) =
      [.v (2 * a.toNat), .v (2 * a.toNat + 1), .v (2 * b.toNat), .v (2 * b.toNat + 1)] := by
    rw [List.map_append, srcVs_regs, srcVs_regs]
    rfl
  refine FloatResults.of_claim he (by rwa [hregs]) (by simp) (g.claim_none _ (by simp [hregs])) fun g' j hs => ?_
  rw [hs.vr64, hs.vr64, hs.vr64]
  rfl

theorem doubleArithmetic : Parts.DoubleArithmetic := by
  intro s g e f a b d hr w x y
  exact ⟨.floatD (pAdd f64) rfl hr, .floatD (pMul f64) rfl hr, .floatD (fun _ x y => f64.minmax false x y) rfl hr,
    fun hrd => .floatD (pFma f64) rfl hrd⟩

end Sys2Proof.Machine

namespace Sys2Proof

/-- Settles O6: each instruction is a float issue of its shape, its elements read from 16-bit halves or register pairs. -/
theorem packedAndDoubleArithmetic : Obligations.PackedAndDoubleArithmetic := ⟨Machine.packedArithmetic, Machine.doubleArithmetic⟩

end Sys2Proof
end

section
/-! O7: compares of floats and special functions. Each starts a producer that holds what its lanes will receive and raise, with or without
leaving the instruction; one lemma says so for both. -/

namespace Sys2Proof.Machine

variable {s : State} {g g' : Group} {i : Instr} {e f : Bool}

/-! Exceptions held for a list of lanes. -/

theorem exceptionsOf_map (l : List Nat) (ex : Nat → Word) {j : Nat} (hj : j ∈ l) : exceptionsOf (l.map fun j => (j, ex j)) j = ex j := by
  induction l with
  | nil => cases hj
  | cons a r ih =>
    rw [exceptionsOf, List.map_cons, List.find?_cons]
    by_cases ha : a = j
    · simp [ha]
    · rw [beq_eq_false_iff_ne.mpr ha]
      exact ih ((List.mem_cons.mp hj).resolve_left (Ne.symm ha))

/-- A frame of an issue that has changed the clocks of its scheduler partition before. -/
theorem Frame.of_sps {t : State} {h : Group} {ds : List Reg} {cs : List Nat} {sps : Tab Sp} (hf : Frame { s with sps := sps } t g h ds cs) :
    Frame s t g h ds cs where
  memory := hf.memory
  units := ⟨hf.units.parts, hf.units.cores, hf.units.clusters, hf.units.dies, hf.units.teams, hf.units.grids, hf.units.nodes, hf.units.mc,
    hf.units.now, hf.units.late, hf.units.lines⟩
  work := ⟨hf.work.accs, hf.work.ops, hf.work.flits⟩
  others := hf.others
  group := hf.group
  regs := hf.regs

/-- A special function or a compare of floats has started in its effect. -/
theorem FloatIssued.of_flagOp {d : Reg} {cls : PClass} {lat : Nat} {ws : List RegWrite} {ex : Nat → Word} (sps : Tab Sp)
    (hs : SyncOnly g g') (he : exec i s = { s.atCost (costLane g) with sps := sps }.flagOp g' cls [d] lat ws
      ((lanesOf s.cur.mask).map fun j => (j, ex j))) : FloatIssued i s g d cls lat ws ex := by
  obtain ⟨t, h, hdone, hframe, hdata, hop⟩ := State.flagOp_spec { s.atCost (costLane g) with sps := sps } g' cls d lat ws
    ((lanesOf s.cur.mask).map fun j => (j, ex j))
  have henabled : State.fpEnabled { s.atCost (costLane g) with sps := sps } g' = s.fpEnabled g := by
    rw [State.fpEnabled, Group.cr, hs.data.crs]
    rfl
  rw [henabled] at hop
  refine ⟨t, h, he.trans hdone, .claimed hs (.of_sps hframe), ?_, fun n j _ => ?_, fun n => ?_, _, hop, rfl, rfl, rfl, ?_, rfl, ?_, _, rfl,
    fun j hj => exceptionsOf_map _ ex hj⟩
  · rw [hdata.empty]
    simp [Group.markEmpty]
  · rw [Group.vr, hdata.v]
    exact hs.vr n j
  · rw [hdata.k]
    exact congrArg (·.get n) hs.data.k
  · exact hs.data.uid
  · show State.timeOf _ g'.part _ + lat = _
    rw [hs.data.part]
    rfl

/-! FCMP (07 R153, R161). -/

/-- A compare of floats whose condition and exceptions its operands fix. -/
theorem FloatIssued.cmpFloat {a b : BitVec 7} {d : BitVec 4} {r nv : Nat → Bool} (c : Fv → Fv → Bool × Word)
    (he : exec i s = cmpFloat s e b f a d c) (hr : Ready s g [.v a.toNat, .v b.toNat] [.k d.toNat])
    (hc : ∀ j, c (f32.val (g.vr a.toNat j).toNat) (f32.val (g.vr b.toNat j).toNat) = (r j, if nv j then 1 else 0)) :
    ∃ w : DWord, FloatIssued i s g (.k d.toNat) .compare (if g.width = 64 then 5 else 4) [⟨.k d.toNat, 0, w⟩]
        (fun j => if nv j then 1 else 0) ∧
      ∀ j, j < 64 → w.getLsbD j = (decide (j < g.width) && if maskBit s.cur.mask j then r j else maskBit (g.k.get d.toNat) j) := by
  refine ⟨compareWord s g d.toNat r, ?_, fun j hj => getLsbD_compareWord s g d.toNat r j hj⟩
  obtain ⟨g', hs, hissue⟩ := hr.access (srcs := [srcV a f, srcV b e]) rfl
  rw [g.claim_none _ (by simp)] at hs
  refine .of_flagOp s.sps hs (he.trans ?_)
  unfold Machine.cmpFloat
  rw [hissue]
  simp only [val32, hs.vr, hc, hs.data.width, hs.data.k]
  rfl

theorem floatCompareIssue : Parts.FloatCompareIssue := by
  intro s g e f a b d hr x y nan snan R
  refine ⟨FloatIssued.cmpFloat fcmpEq rfl hr fun j => ?_, FloatIssued.cmpFloat fcmpLt rfl hr fun j => ?_,
    FloatIssued.cmpFloat fcmpLe rfl hr fun j => ?_, FloatIssued.cmpFloat fcmpUno rfl hr fun _ => rfl⟩
  all_goals simp only [fcmpEq, fcmpLt, fcmpLe, nan, snan, x, y, Bool.not_or]; rfl

/-! Special functions (07 R163). -/

theorem State.part_atCost (s : State) (n i : Nat) : (s.atCost n).part i = s.part i := rfl

theorem State.sp_atCost (s : State) (n i : Nat) : (s.atCost n).sp i = s.sp i := rfl

/-- A special function that finds its pipe free, or runs in the debug slot. -/
theorem FloatIssued.sfuOp {a d : BitVec 7} {lat : Nat} (h : Word → Fr) (he : exec i s = sfuOp s f a d lat h)
    (hr : Ready s g [.v a.toNat] [.v d.toNat])
    (hfree : s.cur.cls = .debug ∨ (s.sp (spIdOf s.cur.gid)).sfuBusy ≤ (s.part g.part).clock) :
    FloatIssued i s g (.v d.toNat) .sfu (if g.width = 64 then lat + 4 else lat)
      ((lanesOf s.cur.mask).map fun j => ⟨.v d.toNat, j, BitVec.ofNat 64 (h (g.vr a.toNat j)).bits⟩) (fun j => (h (g.vr a.toNat j)).ex) := by
  obtain ⟨g', hs, hissue⟩ := hr.access (srcs := [srcV a f]) rfl
  rw [g.claim_none _ (by simp)] at hs
  have hgo : ¬ (s.cur.cls ≠ .debug ∧ (s.part g.part).clock < (s.sp (spIdOf s.cur.gid)).sfuBusy) :=
    fun ⟨hcls, hbusy⟩ => hfree.elim hcls fun hle => absurd hbusy (Nat.not_lt.mpr hle)
  have hlat : (lat + if g.width = 64 then 4 else 0) = if g.width = 64 then lat + 4 else lat := by split <;> rfl
  rw [← hlat]
  refine .of_flagOp (if s.cur.cls = .debug then s.sps else
    ((s.atCost (costLane g)).modSp (spIdOf s.cur.gid) fun q => { q with sfuBusy := (s.part g.part).clock + pipeClocks g }).sps) hs (he.trans ?_)
  unfold Machine.sfuOp
  rw [hissue]
  simp only [hs.vr, hs.data.width, hs.data.part, State.atCost_cur_cls, State.atCost_cur_gid, State.atCost_cur_mask,
    State.part_atCost, State.sp_atCost]
  rw [if_neg hgo]
  split
  · rfl
  · simp only [pipeClocks, hs.data.width]
    rfl

theorem specialFunctionIssue : Parts.SpecialFunctionIssue := by
  intro s g f a d hr hfree x R
  refine ⟨.sfuOp sfuRcp rfl hr hfree, .sfuOp sfuRsq rfl hr hfree, .sfuOp sfuEx2 rfl hr hfree, .sfuOp sfuLg2 rfl hr hfree,
    .sfuOp sfuSin rfl hr hfree, .sfuOp sfuCos rfl hr hfree, .sfuOp sfuSqrt rfl hr hfree, .sfuOp sfuTanh rfl hr hfree,
    fun j b m e hval => ?_⟩
  rw [sfuRcp, hval]

/-! SFU_COMPLETE (07 R163; 05 R110; 08 R175). -/

theorem lo32_ofNat (n : Nat) : lo32 (BitVec.ofNat 64 n) = BitVec.ofNat 32 n := by
  apply BitVec.eq_of_toNat_eq
  simp [lo32]

/-- What lanes of one vector register receive; a lane that has exited keeps its value. -/
theorem State.vr_applyWrites (s : State) (o : Op) (d : Nat) (r : Nat → Fr) (l : List Nat) (hl : ∀ j ∈ l, j < 64) (hd : Reg.v d ∈ o.dests)
    (g : Group) (j : Nat) (hj : j < 64) :
    (s.applyWrites o (l.map fun j => ⟨.v d, j, BitVec.ofNat 64 (r j).bits⟩) g).vr d j =
      if j ∈ l ∧ (g.lane j).st ≠ .exited then BitVec.ofNat 32 (r j).bits else g.vr d j := by
  have hfilter : ((l.map fun j => (⟨.v d, j, BitVec.ofNat 64 (r j).bits⟩ : RegWrite)).filter fun w => o.dests.contains w.reg) =
      l.map fun j => ⟨.v d, j, BitVec.ofNat 64 (r j).bits⟩ := List.filter_eq_self.mpr (by simp [hd])
  unfold State.applyWrites
  rw [hfilter]
  clear hfilter
  induction l generalizing g with
  | nil => simp
  | cons a rest ih =>
    have hrest := ih fun j hj => hl j (List.mem_cons_of_mem _ hj)
    rw [List.map_cons, List.foldl_cons]
    show (List.foldl _ (if (g.lane a).st = .exited then g else g.setVr d a (lo32 (BitVec.ofNat 64 (r a).bits))) _).vr d j = _
    by_cases hexited : (g.lane a).st = .exited
    · rw [if_pos hexited, hrest]
      by_cases ha : j = a
      · simp [ha, hexited]
      · simp [ha]
    · rw [if_neg hexited, hrest, lo32_ofNat, Group.vr_setVr g d a d j _ (hl a (List.mem_cons_self ..)) hj]
      change (if _ ∧ (g.lane j).st ≠ .exited then _ else _) = _
      by_cases ha : j = a
      · simp [ha, hexited]
      · simp [ha]

/-- A special function that may complete. -/
theorem exec_sfuComplete {id : Nat} {o : Op} {ws : List RegWrite} {ex : List (Nat × Word)} {c : Cur} {moved : Bool} (hdue : Due s id o g)
    (hcls : o.cls = .sfu) (hkind : o.kind = .flagged ws ex c moved) :
    exec (.sfuComplete id) s = .next (s.flagDone id o ws ex c moved) := by
  show execSfuComplete id s = _
  simp [execSfuComplete, hdue.op, hcls, hdue.ready, hkind]

theorem specialFunctionCompletion : Parts.SpecialFunctionCompletion := by
  intro s id o g d r ex c hdue hcls hdests hmask hkind
  obtain ⟨h, hfilled, hflags, hv, -⟩ := s.flagDone_spec id o g ((lanesOf o.mask).map fun j => ⟨.v d, j, BitVec.ofNat 64 (r j).bits⟩) ex c
    hdue.group hdue.same hmask fun w hw => by
      obtain ⟨j, hj, rfl⟩ := List.mem_map.mp hw
      exact .inl ⟨d, rfl, (mem_lanesOf _ j).mp hj⟩
  refine ⟨_, h, exec_sfuComplete hdue hcls hkind, hfilled, fun j hj => ?_, hflags⟩
  rw [Group.vr, hv]
  show (s.applyWrites o _ g).vr d j = _
  rw [s.vr_applyWrites o d r _ (fun j hj => ((mem_lanesOf _ j).mp hj).1) (by simp [hdests]) g j hj]
  simp only [mem_lanesOf, hj, true_and]

end Sys2Proof.Machine
end

section
/-! O7: traps of a float issue where one exception is enabled. The faulting lanes then make one sub-warp; the good lanes have their results
and go on before it parks. -/

namespace Sys2Proof.Machine

variable {s u : State} {g g' g1 h : Group} {i : Instr} {en : Word} {ls : List Nat} {ex : Nat → Word}

/-! The faulting lanes (05 R110, 18 R316). -/

theorem getLsbD_one_shiftLeft (a : Nat) {j : Nat} (hj : j < 64) : ((1 : Mask) <<< a).getLsbD j = decide (j = a) := by
  show (BitVec.twoPow 64 a).getLsbD j = _
  rw [BitVec.getLsbD_twoPow]
  by_cases ha : j = a
  · subst ha
    simp [hj]
  · simp [ha, Ne.symm ha]

/-- A lane's cause where one exception is enabled. -/
theorem fpCause_one {n : Nat} (hn : n < 5) (x : Word) : fpCause ((1 : Word) <<< n) x = if x.getLsbD n then some (17 + n) else none := by
  have hmask : (1 : Word) <<< n &&& x = if x.getLsbD n then (1 : Word) <<< n else 0 := by
    apply BitVec.eq_of_getLsbD_eq
    intro k hk
    show (BitVec.twoPow 32 n &&& x).getLsbD k = (if _ then BitVec.twoPow 32 n else 0).getLsbD k
    rw [BitVec.getLsbD_and, BitVec.getLsbD_twoPow]
    by_cases hkn : n = k
    · subst hkn
      cases x.getLsbD n <;> simp
    · split <;> simp [hkn]
  unfold fpCause
  rw [hmask]
  split
  · interval_cases n <;> rfl
  · rfl

/-- The mask of the lanes of a list that pass a test. -/
def lanesMask (p : Nat → Bool) (ls : List Nat) (m : Mask) : Mask := ls.foldl (fun m j => if p j then m ||| ((1 : Mask) <<< j) else m) m

theorem getLsbD_lanesMask (p : Nat → Bool) (ls : List Nat) (m : Mask) {j : Nat} (hj : j < 64) :
    (lanesMask p ls m).getLsbD j = (m.getLsbD j || (decide (j ∈ ls) && p j)) := by
  induction ls generalizing m with
  | nil => simp [lanesMask]
  | cons a r ih =>
    show (lanesMask p r (if p a then m ||| ((1 : Mask) <<< a) else m)).getLsbD j = _
    have hstep : (if p a then m ||| ((1 : Mask) <<< a) else m).getLsbD j = (m.getLsbD j || (decide (j = a) && p a)) := by
      split
      · next hp => rw [BitVec.getLsbD_or, getLsbD_one_shiftLeft a hj, hp, Bool.and_true]
      · next hp => simp [hp]
    rw [ih, hstep]
    by_cases ha : j = a
    · subst ha
      cases p j <;> simp
    · simp [ha]

/-- What a further lane adds to the faults. -/
def addFault (en : Word) (ex : Nat → Word) (acc : List (Nat × Mask)) (j : Nat) : List (Nat × Mask) :=
  match fpCause en (ex j) with
  | none => acc
  | some c =>
    if acc.any (fun x => x.1 == c) then acc.map fun x => if x.1 = c then (c, x.2 ||| ((1 : Mask) <<< j)) else x
    else acc ++ [(c, (1 : Mask) <<< j)]

theorem fpFaults_eq_foldl (en : Word) (ls : List Nat) (ex : Nat → Word) : fpFaults en ls ex = ls.foldl (addFault en ex) [] := rfl

/-- Where every faulting lane has one cause, they make one entry. -/
theorem fpFaults_one_cause {c : Nat} {p : Nat → Bool} (hcause : ∀ j, fpCause en (ex j) = if p j then some c else none)
    (hany : ∃ j ∈ ls, p j = true) : fpFaults en ls ex = [(c, lanesMask p ls 0)] := by
  have hlater : ∀ (l : List Nat) (m : Mask), l.foldl (addFault en ex) [(c, m)] = [(c, lanesMask p l m)] := by
    intro l
    induction l with
    | nil => intro m; rfl
    | cons a r ih =>
      intro m
      rw [List.foldl_cons, addFault, hcause]
      cases hp : p a
      · simpa [lanesMask, hp] using ih m
      · simpa [lanesMask, hp] using ih (m ||| ((1 : Mask) <<< a))
  rw [fpFaults_eq_foldl]
  induction ls with
  | nil => obtain ⟨j, hj, -⟩ := hany; cases hj
  | cons a r ih =>
    rw [List.foldl_cons, addFault, hcause]
    cases hp : p a
    · have hrest : ∃ j ∈ r, p j = true := by
        obtain ⟨j, hj, hpj⟩ := hany
        rcases List.mem_cons.mp hj with rfl | hj
        · rw [hp] at hpj; cases hpj
        · exact ⟨j, hj, hpj⟩
      simpa [lanesMask, hp] using ih hrest
    · simpa [lanesMask, hp] using hlater r ((1 : Mask) <<< a)

/-- The lanes of an active set that raise the one enabled exception make one entry. -/
theorem fpFaults_active {n : Nat} {active : Mask} (hn : n < 5) (hany : ∃ j, j < 64 ∧ (maskBit active j && (ex j).getLsbD n) = true) :
    ∃ m, fpFaults ((1 : Word) <<< n) (lanesOf active) ex = [(17 + n, m)] ∧
      ∀ j, j < 64 → maskBit m j = (maskBit active j && (ex j).getLsbD n) := by
  obtain ⟨j, hj, hbad⟩ := hany
  rw [Bool.and_eq_true] at hbad
  refine ⟨_, fpFaults_one_cause (fun j => fpCause_one hn (ex j)) ⟨j, (mem_lanesOf _ j).mpr ⟨hj, hbad.1⟩, hbad.2⟩, fun k hk => ?_⟩
  rw [maskBit, getLsbD_lanesMask _ _ _ hk]
  simp [mem_lanesOf, hk]

theorem maskBit_without_faults (active m : Mask) (c : Nat) {j : Nat} (hj : j < 64) :
    maskBit (active &&& ~~~(faultMask [(c, m)])) j = (maskBit active j && !maskBit m j) := by
  simp [maskBit, faultMask, hj]

/-! The good lanes go on (05 R110). -/

/-- The state in which the faulting lanes of an issue trap: the good lanes `m` have gone on. -/
def State.goodGone (u : State) (g1 : Group) (m : Mask) (cost : Nat) : State :=
  if m = 0 then (u.modSp (spIdOf u.cur.gid) fun q => { q with busy := u.now.toNat + cost }).setGroup u.cur.gid
    ((g1.aged g1 u.cur.mask).issuedAt u.cur.pc)
  else u.finish g1 m .on cost

/-- Issue ages move no lane and park none. -/
theorem Group.lane_aged (g old : Group) (m : Mask) (j : Nat) (hj : j < g.lanes.length) :
    ((g.aged old m).lane j).pc = (g.lane j).pc ∧ ((g.aged old m).lane j).parked = (g.lane j).parked := by
  rw [Group.aged, Group.lane_modLanes _ _ _ hj]
  split
  · exact ⟨rfl, rfl⟩
  · split <;> exact ⟨rfl, rfl⟩

theorem Group.lane_moveTo (g : Group) (m : Mask) (f : Nat → DWord) (j : Nat) (hj : j < g.lanes.length) :
    ((g.moveTo m f).lane j).pc = (if maskBit m j then f j else (g.lane j).pc) ∧ ((g.moveTo m f).lane j).parked = (g.lane j).parked := by
  rw [Group.moveTo, Group.lane_modLanes _ _ _ hj]
  split <;> exact ⟨rfl, rfl⟩

/-- Two groups with the same registers whose lanes of a mask have gone on from one to the other. -/
structure Advanced (u : State) (g1 h : Group) (m : Mask) : Prop where
  data : SameData g1 h
  parked : h.parked = g1.parked
  length : h.lanes.length = g1.lanes.length
  lane : ∀ j, j < g1.lanes.length →
    (h.lane j).pc = (if maskBit m j then u.cur.pc + BitVec.ofNat 64 u.cur.len else (g1.lane j).pc) ∧ (h.lane j).parked = (g1.lane j).parked

/-- The good lanes of an ordinary issue that is no repeat. -/
theorem State.goodGone_spec (g1 : Group) (m : Mask) (cost : Nat) (hcls : u.cur.cls = .ordinary) (hrep : u.cur.rep = false) :
    ∃ h sps, u.goodGone g1 m cost = { u with sps := sps }.setGroup u.cur.gid h ∧ Advanced u g1 h m := by
  unfold State.goodGone
  split
  · next hm =>
    refine ⟨_, _, rfl, (g1.aged_same _ _).trans (Group.issuedAt_same _ _), rfl, Group.length_modLanes _ _, fun j hj => ?_⟩
    have hzero : maskBit m j = false := by rw [hm]; simp [maskBit]
    rw [hzero]
    exact g1.lane_aged g1 u.cur.mask j hj
  · unfold State.finish
    dsimp only
    rw [hcls]
    dsimp only
    generalize (u.curGroup?).getD g1 = old
    have hstep : ((g1.aged old u.cur.mask).issuedAt u.cur.pc).stepLanes u.cur m .on =
        ((g1.aged old u.cur.mask).issuedAt u.cur.pc).moveTo m fun _ => u.cur.pc + BitVec.ofNat 64 u.cur.len := by
      simp [Group.stepLanes, Goes.stays, hrep, Goes.at]
    have hlength : ((g1.aged old u.cur.mask).issuedAt u.cur.pc).lanes.length = g1.lanes.length := Group.length_modLanes _ _
    rw [hstep]
    refine ⟨_, _, rfl, (((g1.aged_same _ _).trans (Group.issuedAt_same _ _)).trans (Group.moveTo_same _ _ _)).trans (Group.settle_same _),
      rfl, ?_, fun j hj => ?_⟩
    · rw [Group.length_settle, Group.moveTo, Group.length_modLanes, hlength]
    · obtain ⟨hpc, -, -, hparked, -⟩ := Group.lane_settle (((g1.aged old u.cur.mask).issuedAt u.cur.pc).moveTo m
        fun _ => u.cur.pc + BitVec.ofNat 64 u.cur.len) j
      obtain ⟨hmpc, hmparked⟩ := Group.lane_moveTo ((g1.aged old u.cur.mask).issuedAt u.cur.pc) m
        (fun _ => u.cur.pc + BitVec.ofNat 64 u.cur.len) j (by rwa [hlength])
      obtain ⟨hapc, haparked⟩ := g1.lane_aged old u.cur.mask j hj
      rw [hpc, hparked, hmpc, hmparked]
      exact ⟨congrArg (if maskBit m j then u.cur.pc + BitVec.ofNat 64 u.cur.len else ·) hapc, haparked⟩

/-! Parking one sub-warp (18 R317). -/

/-- A trap that has a handler to go to parks its lanes. -/
theorem State.trapLanes_handled (s : State) (gid : Nat) (g : Group) (x : Parked) (hh : s.handles g.part) :
    s.trapLanes gid g x = s.setGroup gid (g.park x ((s.part g.part).clock + 1)) := by
  obtain ⟨hvec, hlull⟩ := hh
  unfold State.trapLanes
  dsimp only
  rw [hlull, if_neg Bool.false_ne_true, if_neg hvec]

theorem Group.lane_park (g : Group) (x : Parked) (n j : Nat) (hj : j < g.lanes.length) :
    ((g.park x n).lane j).pc = (g.lane j).pc ∧ ((g.park x n).lane j).parked = (maskBit x.mask j || (g.lane j).parked) := by
  show ((g.onMask x.mask _).lane j).pc = _ ∧ ((g.onMask x.mask _).lane j).parked = _
  rw [Group.onMask, Group.lane_modLanes _ _ _ hj]
  cases maskBit x.mask j <;> exact ⟨rfl, rfl⟩

theorem Keeps.setGroup {t : State} {may : List Comp} {gid : Nat} (hk : Keeps s t may) (hmay : .groups ∈ may := by decide) :
    Keeps s (t.setGroup gid h) may := by
  intro c hc
  have hsame := hk c hc
  cases c
  case groups => exact absurd hmay hc
  all_goals exact hsame

theorem Keeps.sps {t : State} {may : List Comp} {sps : Tab Sp} (hk : Keeps s t may) (hmay : .sps ∈ may := by decide) :
    Keeps s { t with sps := sps } may := by
  intro c hc
  have hsame := hk c hc
  cases c
  case sps => exact absurd hmay hc
  all_goals exact hsame

/-- Trapping one sub-warp of a group that has a handler to go to. -/
theorem State.trapFaults_single {t : State} {gid len c : Nat} {pc : DWord} {d : Option Reg} {rep : Option Nat} {m : Mask}
    (hg : t.group? gid = some h) (hh : t.handles h.part) : t.trapFaults gid pc len d rep [(c, m)] = t.setGroup gid
      (h.park { mask := m, pc, cause := c, code := 0, info := trapInfo len d, va := 0, rep } ((t.part h.part).clock + 1)) := by
  rw [State.trapFaults, hg]
  exact State.trapLanes_handled _ _ _ _ hh

/-- The end of a float issue in which one sub-warp traps: the good lanes have gone on, and it is parked. -/
theorem State.doneFloat_traps {cost c : Nat} {m bad : Mask} {d : Reg} (hd : u.cur.defer = none) (hcls : u.cur.cls = .ordinary)
    (hrep : u.cur.rep = false) (hh : u.handles g1.part) :
    ∃ t h1 x clock, u.doneFloat g1 m cost d [(c, bad)] = .next t ∧ Keeps u t [.groups, .sps] ∧ OnlyGroup u t u.cur.gid ∧
      Advanced u g1 h1 m ∧ t.group? u.cur.gid = some (h1.park x clock) ∧ x.mask = bad ∧ x.pc = u.cur.pc ∧ x.cause = c ∧ x.va = 0 := by
  obtain ⟨h1, sps, hgone, hdata, hparked, hlength, hlane⟩ :=
    State.goodGone_spec (g1.dropRep (faultMask [(c, bad)])) m cost hcls hrep
  have hadvanced : Advanced u g1 h1 m := ⟨(g1.dropRep_same _).trans hdata, hparked, hlength, hlane⟩
  have hpart : h1.part = g1.part := hadvanced.data.part
  have hheld : u.heldAt = false := by rw [State.heldAt, hd]
  have hdone : u.doneFloat g1 m cost d [(c, bad)] =
      .next ((u.goodGone (g1.dropRep (faultMask [(c, bad)])) m cost).trapFaults u.cur.gid u.cur.pc u.cur.len (some d) none [(c, bad)]) := by
    unfold State.doneFloat
    rw [hheld, if_neg Bool.false_ne_true, if_neg (by simp)]
    dsimp only
    rw [hrep]
    rfl
  have hkeeps : Keeps u ({ u with sps := sps }.setGroup u.cur.gid h1) [.groups, .sps] := (Keeps.refl u _).sps.setGroup
  have hgroup : ({ u with sps := sps }.setGroup u.cur.gid h1).group? u.cur.gid = some h1 := Tab.get?_set_same _ _ _
  rw [hgone, State.trapFaults_single hgroup (by rw [hpart]; exact hh), hpart] at hdone
  exact ⟨_, h1, _, _, hdone, hkeeps.setGroup,
    fun k hk => (Tab.get?_set_other _ _ _ _ hk).trans (Tab.get?_set_other _ _ _ _ hk), hadvanced, Tab.get?_set_same _ _ _, rfl, rfl, rfl, rfl⟩

/-! The issue (05 R110, 18 R316). -/

section Issue

variable {d n : Nat} {ok m : Mask} {r : Nat → List Word × Word}

/-- The group with the results and the exceptions of its good lanes. -/
def Group.withFloat (g : Group) (d : Nat) (ok : Mask) (r : Nat → List Word × Word) : Group :=
  (g.writeV d ok fun j => (((r j).1)[0]?).getD 0).orFlags (orLanes (lanesOf ok) fun j => (r j).2)

theorem Group.withFloat_same : SameRegs g (g.withFloat d ok r) [.v d] [0x11] :=
  (g.writeV_same d ok _ _ _ (by simp)).trans (Group.orFlags_same _ _ _ _ (by simp))

theorem Group.vr_withFloat (j : Nat) (hj : j < 64) :
    (g.withFloat d ok r).vr d j = if maskBit ok j then (((r j).1)[0]?).getD 0 else g.vr d j := g.vr_writeV d ok _ j hj

theorem Group.cr_withFloat (k : Nat) : ((g.withFloat d ok r).cr 0x11).getLsbD k =
    ((g.cr 0x11).getLsbD k || (lanesOf ok).any fun j => (r j).2.getLsbD k) := by
  rw [Group.withFloat, Group.orFlags_cr, BitVec.getLsbD_or, orLanes_bit]
  rfl

/-- A float issue with one destination and some faulting lanes ends with the others. -/
theorem State.vecFloat_faults {srcs : List Src} {cost : Group → Nat} {f : Group → Nat → List Word × Word} {old : List Reg}
    {fs : List (Nat × Mask)} (hr : Ready s g (srcs.map (·.reg) ++ old) [.v d]) (hclaim : g.claim (srcs.map (·.reg)) = g)
    (hf : ∀ g' j, SyncOnly g g' → f g' j = r j)
    (hfs : fpFaults (s.fpEnabled g) (lanesOf s.cur.mask) (fun j => (r j).2) = fs) :
    ∃ g', SyncOnly g g' ∧ s.vecFloat i srcs [d] cost f old =
      (s.atCost (cost g)).doneFloat (g'.withFloat d (s.cur.mask &&& ~~~(faultMask fs)) r) (s.cur.mask &&& ~~~(faultMask fs)) (cost g') (.v d)
        fs := by
  unfold State.vecFloat
  dsimp only
  generalize ((match s.curGroup? with | some g => s.fpEnabled g | none => 0) != 0) = hold
  rw [s.issue_ready g { srcs, dests := [d].map .v, defer := some i, hold, old } _ _ (by rwa [List.append_nil]) rfl rfl rfl hr.operands.sound]
  have hs := g.taken_sync { srcs, dests := [d].map .v, defer := some i, hold, old } s.cur.mask
  rw [hclaim] at hs
  generalize g.taken _ _ = g' at hs
  have hlanes : f g' = r := funext fun j => hf g' j hs
  have henabled : (s.atCost (cost g)).fpEnabled g' = s.fpEnabled g := by
    rw [State.fpEnabled, Group.cr, hs.data.crs]
    rfl
  refine ⟨g', hs, ?_⟩
  rw [hlanes, henabled, State.atCost_cur_mask, hfs]
  rfl

end Issue

/-- The lanes of a mask but for some. -/
theorem any_lanesOf_without {m ok : Mask} {bad : Nat → Bool} (p : Nat → Bool)
    (h : ∀ j, j < 64 → maskBit ok j = (maskBit m j && !bad j)) : (lanesOf ok).any p = (lanesOf m).any fun j => !bad j && p j := by
  have hlanes : lanesOf ok = (lanesOf m).filter fun j => !bad j := by
    rw [lanesOf, lanesOf, List.filter_filter]
    exact List.filter_congr fun j hj => by rw [h j (List.mem_range.mp hj), Bool.and_comm]
  rw [hlanes, List.any_filter]

theorem floatTraps : Parts.FloatTraps := by
  intro s g e f a b d n hr hcls hh hn hen hrep r bad ⟨j0, hj0, hbad0⟩ _
  obtain ⟨m, hfaults, hbit⟩ := fpFaults_active (ex := fun j => (r j).word.2) hn ⟨j0, hj0, hbad0⟩
  have henabled : s.fpEnabled g = (1 : Word) <<< n := by rw [State.fpEnabled, if_pos hcls, hen]
  obtain ⟨g', hs, hissue⟩ := State.vecFloat_faults (i := .fadd e b f a d) (srcs := [srcV a f, srcV b e]) (cost := costLane) (old := [])
    (f := fun g j => fop faddF (g.vr d.toNat j) (g.vr a.toNat j) (g.vr b.toNat j)) hr (g.claim_none _ (by simp [srcV]))
    (fun g' j hs => by rw [hs.vr, hs.vr, hs.vr]; rfl) (henabled ▸ hfaults)
  have hokbit : ∀ j, j < 64 → maskBit (s.cur.mask &&& ~~~(faultMask [(17 + n, m)])) j = (maskBit s.cur.mask j && !bad j) :=
    fun j hj => by rw [maskBit_without_faults _ _ _ hj, hbit j hj]; rfl
  generalize s.cur.mask &&& ~~~(faultMask [(17 + n, m)]) = ok at hissue hokbit
  obtain ⟨t, h1, x, clock, hdone, hkeeps, honly, hadvanced, hgroup, rfl, hpc, hcause, hva⟩ := State.doneFloat_traps
    (u := s.atCost (costLane g)) (g1 := g'.withFloat d.toNat ok fun j => (r j).word) (cost := costLane g') (c := 17 + n) (m := ok)
    (bad := m) (d := .v d.toNat) hr.fresh hcls hrep (by show s.handles g'.part; rw [hs.data.part]; exact hh)
  have hdata := hadvanced.data.trans (h1.park_same x clock)
  refine ⟨t, hissue.trans hdone, (Keeps.atCost s _ _).trans hkeeps, honly, _, x, hgroup, ?_, ?_, hpc, hcause, hva, hbit, fun j hj => ?_,
    fun k => ?_, fun j hj hj64 => ?_⟩
  · exact (SameRegs.of_data hs.data _ _).trans (Group.withFloat_same.trans (.of_data hdata _ _))
  · exact congrArg (· ++ [x]) (hadvanced.parked.trans hs.parked)
  · rw [Group.vr, hdata.v]
    refine (Group.vr_withFloat j hj).trans ?_
    rw [hokbit j hj, hs.vr]
    rfl
  · rw [Group.cr, hdata.crs]
    refine (Group.cr_withFloat k).trans ?_
    rw [any_lanesOf_without _ hokbit, Group.cr, hs.data.crs]
    rfl
  · have hlength : (g'.withFloat d.toNat ok fun j => (r j).word).lanes.length = g.lanes.length := hs.length
    obtain ⟨hgonePc, hgoneParked⟩ := hadvanced.lane j (by rwa [hlength])
    obtain ⟨hparkPc, hparked⟩ := h1.lane_park x clock j (by rwa [hadvanced.length, hlength])
    obtain ⟨y, hy⟩ : ∃ y, (g'.withFloat d.toNat ok fun j => (r j).word).lane j = { g.lane j with sync := y } := hs.lane j
    rw [hparkPc, hgonePc, hparked, hgoneParked, hbit j hj64, hokbit j hj64, hy]
    exact ⟨rfl, rfl⟩

end Sys2Proof.Machine

namespace Sys2Proof

/-- Settles O7: a compare of floats and a special function start one producer; completions fill and gather; where one exception is enabled,
the lanes that raise it make one sub-warp, which parks after the others have gone on. -/
theorem floatProducersAndTraps : Obligations.FloatProducersAndTraps :=
  ⟨Machine.floatCompareIssue, Machine.specialFunctionIssue, Machine.specialFunctionCompletion, Machine.floatTraps⟩

end Sys2Proof
end

section
/-! O9 and O10: what an issue of any need leaves in the scalars that it writes, and errors in what it reads. -/

namespace Sys2Proof.Machine

variable {s : State} {g g0 g' G : Group} {i : Instr}

/-! Errors in what an issue reads (03 R82). -/

theorem Group.readsBad_append (g : Group) (m : Mask) (rs rs' : List Reg) :
    g.readsBad m (rs ++ rs') = (g.readsBad m rs || g.readsBad m rs') := by
  simp only [Group.readsBad]
  induction g.bad with
  | nil => rfl
  | cons x r ih =>
    rw [List.any_cons, List.any_cons, List.any_cons, ih, List.contains_append, Bool.and_or_distrib_right]
    ac_rfl

/-- The lanes in which an issue meets an error matter for vectors alone; where these are sound it meets none. -/
theorem Group.readsBad_of_sound {m m' : Mask} {rs : List Reg} (h : g.readsBad m rs = false) (hv : ∀ n, Reg.v n ∈ rs → g.sound (.v n)) :
    g.readsBad m' rs = false := by
  simp only [Group.readsBad, List.any_eq_false, Bool.and_eq_true, List.contains_eq_mem, decide_eq_true_eq, not_and] at h ⊢
  intro x hx hmem
  have hm := h x hx hmem
  cases hreg : x.1 with
  | v n => exact absurd hreg (hv n (hreg ▸ hmem) x hx)
  | s n => rwa [hreg] at hm
  | k n => rwa [hreg] at hm
  | t n => rwa [hreg] at hm

/-! Scalars that an issue writes (02 R37; 13 R273, R274). -/

/-- What the end of an issue finds of a scalar field: the word in its register, the target that it sets, or the flit that is to leave. -/
structure ScalarWritten (s : State) (g G : Group) (tx : Option Word) (d : Nat) (x : Word) : Prop where
  low : d < 60 → G.s.get d = x
  target : d = 60 → G.msgDst = if g.kind = .debug then g.msgDst
    else if x.getLsbD 31 then s.addrOf g.part s.cur.gid else x &&& 0x00FF033F
  flit : d = 61 → tx = some x

theorem State.writeS_written (s : State) (g : Group) (d : Nat) (x : Word) :
    ScalarWritten s g (s.writeS s.cur.gid g d x) (if d = 61 then some x else none) d x where
  low := s.writeS_get _ _ _ _
  target hd := by rw [State.writeS_msgDst, if_pos hd]
  flit hd := if_pos hd

/-- The low word of a pair, which is in s60 where the high one leaves as a flit. -/
theorem State.writeS2_written_low (s : State) (g : Group) (tx : Option Word) (d : Nat) (x : DWord) :
    ScalarWritten s g (s.writeS2 s.cur.gid g (2 * d) x) tx (2 * d) (lo32 x) where
  low hd := by rw [State.writeS2, State.writeS_get_other _ _ _ _ _ _ (by omega), State.writeS_get _ _ _ _ _ hd]
  target hd := by rw [State.writeS2, State.writeS_msgDst, if_neg (by omega), State.writeS_msgDst, if_pos hd]
  flit hd := by omega

theorem State.writeS2_written_high (s : State) (g : Group) (d : Nat) (x : DWord) :
    ScalarWritten s g (s.writeS2 s.cur.gid g (2 * d) x) (if 2 * d + 1 = 61 then some (hi32 x) else none) (2 * d + 1) (hi32 x) where
  low hd := by rw [State.writeS2, State.writeS_get _ _ _ _ _ hd]
  target hd := by omega
  flit hd := if_pos hd

theorem State.writeS2_same (s : State) (gid : Nat) (g : Group) (d : Nat) (x : DWord) :
    SameRegs g (s.writeS2 gid g d x) [.s d, .s (d + 1)] [] :=
  (s.writeS_same gid g d (lo32 x) _ _ (by simp)).trans (s.writeS_same gid _ (d + 1) _ _ _ (by simp))

theorem State.cr_writeS (s : State) (gid : Nat) (g : Group) (d : Nat) (x : Word) (n : Nat) : (s.writeS gid g d x).cr n = g.cr n :=
  (s.writeS_same gid g d x [.s d] [] (by simp)).cr n List.not_mem_nil

/-- The end of an issue that has written scalars, whatever else it has written. -/
theorem State.done_scalars {rs ds l : List Reg} {cs : List Nat} {n cost : Nat} {m : Mask} {tx : Option Word} (hr : Ready s g0 rs ds)
    (hs : SyncOnly (g0.claim l) g') (hregs : SameRegs g' G ds cs) (hpart : G.part = g'.part) :
    ∃ t h, (s.atCost n).done G m .on cost tx = .next t ∧ Frame s t (g0.claim l) h ds cs ∧ SameData G h ∧
      ∀ d x, Reg.s d ∈ ds → ScalarWritten s g' G tx d x → ScalarHolds s t (g0.claim l) h d x := by
  obtain ⟨t, h, hdone, hframe, hdata, htx⟩ := (s.atCost n).done_spec g' G m .on cost tx ds cs hr.fresh hregs
  have hkind : G.kind = g0.kind := hregs.allot.1.trans (hs.data.kind.trans (g0.claim_kind l))
  have hpart0 : G.part = g0.part := hpart.trans (hs.data.part.trans (g0.claim_part l))
  refine ⟨t, h, hdone, .claimed hs hframe, hdata, fun d x hmem hw => ⟨fun hd => ?_, fun hd => ?_, fun hd hk => ?_⟩⟩
  · rw [hdata.s, hw.low hd]
  · rw [hdata.msgDst, hw.target hd, hs.data.kind, hs.data.msgDst, hs.data.part]
  · rw [Group.claim_kind] at hk
    obtain ⟨dst, hdst⟩ := Option.isSome_iff_exists.mp (hr.operands.tx (hd ▸ hmem) hk).2
    obtain ⟨f, hf, hpay, hsrc, hto⟩ := htx x g0 dst (hw.flit hd) (by rwa [hkind]) hr.group (by rw [hpart0]; exact hdst)
    exact ⟨f, hf, hpay, by rw [hsrc, hpart0, Group.claim_part]; rfl, by rw [hto, Group.claim_part, Group.claim_msgDst, hdst]⟩

/-! Reading another lane (08 R176). -/

theorem SyncOnly.across (hs : SyncOnly g g') (r k : Nat) :
    g'.across r k = if k < g.width ∧ (g.lane k).st = .live then g.vr r k else 0 := by
  obtain ⟨y, hy⟩ := hs.lane k
  simp only [Group.across, Lane.isLive, hs.data.width, hs.vr, hy, beq_iff_eq]

/-- A scalar read across lanes, of registers whose vectors are sound in every lane (log entry 74). -/
theorem SclResult.crossLane {legal : Legal} {srcs : List Src} {defer : Option Instr} {d : Nat} {f : Group → Word} {r : Word}
    (he : exec i s = s.issue { legal, srcs, dests := [.s d], defer, wide := true } costLane fun s g =>
      s.done (s.writeS s.cur.gid g d (f g)) s.cur.mask .on (costLane g) (if d = 61 then some (f g) else none))
    (hr : Ready s g0 (srcs.map (·.reg)) [.s d]) (hlegal : legal.ok s.cur.cls = true)
    (hsound : ∀ n, Reg.v n ∈ srcs.map (·.reg) → g0.sound (.v n)) (hclaim : g0.claim (srcs.map (·.reg)) = g)
    (hf : ∀ g', SyncOnly g g' → f g' = r) : SclResult i s g d r := by
  subst hclaim
  let q : Need' := { legal, srcs, dests := [.s d], defer, wide := true }
  have hs : SyncOnly (g0.claim (srcs.map (·.reg))) (g0.taken q s.cur.mask) := g0.taken_sync q s.cur.mask
  rw [← List.append_nil (srcs.map (·.reg))] at hr hsound
  rw [s.issue_ready g0 q costLane _ hr hlegal rfl rfl (Group.readsBad_of_sound hr.operands.sound hsound)] at he
  generalize g0.taken q s.cur.mask = g' at hs he
  rw [hf g' hs] at he
  obtain ⟨t, h, hdone, hframe, -, hholds⟩ := State.done_scalars (n := costLane g0) (cost := costLane g') (m := s.cur.mask)
    (tx := if d = 61 then some r else none) hr hs ((s.atCost (costLane g0)).writeS_same s.cur.gid g' d r [.s d] [] (by simp)) (by simp)
  exact ⟨t, h, he.trans hdone, hframe, hholds d r (by simp) (s.writeS_written g' d r)⟩

end Sys2Proof.Machine
end

section
/-! O9: shuffles and broadcasts, ballots and reductions. -/

namespace Sys2Proof.Machine

variable {s : State} {g g0 g' : Group} {i : Instr} {e f : Bool}

theorem srcV_srcSI_regs (a b : BitVec 7) (e f : Bool) : (srcV a f :: srcSI b e).map (·.reg) = .v a.toNat :: siRegs b := by
  rw [List.map_cons, srcSI_regs]
  rfl

/-- The vectors that a cross-lane read names are sound in every lane (log entry 74). -/
theorem sound_of_mem_siRegs {a b : BitVec 7} (ha : g.sound (.v a.toNat)) (n : Nat) (hn : Reg.v n ∈ .v a.toNat :: siRegs b) :
    g.sound (.v n) := by
  rcases List.mem_cons.mp hn with h | h
  · rwa [h]
  · unfold siRegs at h
    split at h <;> simp at h

/-- A vector result read across lanes. -/
theorem VecResult.crossLane {a b d : BitVec 7} {old : List Reg} {h : Group → Nat → Word} {r : Nat → Word}
    (he : exec i s = s.vecOp i (srcV a f :: srcSI b e) d.toNat h old true)
    (hr : Ready s g0 ((.v a.toNat :: siRegs b) ++ old) [.v d.toNat]) (ha : g0.sound (.v a.toNat))
    (hold : ∀ n, Reg.v n ∈ old → g0.sound (.v n)) (hh : ∀ g' j, SyncOnly (g0.claim (siRegs b)) g' → h g' j = r j) :
    VecResult i s (g0.claim (siRegs b)) d.toNat r := by
  have hregs := srcV_srcSI_regs a b e f
  have hbad : g0.readsBad (BitVec.allOnes 64) ((.v a.toNat :: siRegs b) ++ old) = false :=
    Group.readsBad_of_sound hr.operands.sound fun n hn => (List.mem_append.mp hn).elim (sound_of_mem_siRegs ha n) (hold n)
  rw [← hregs] at hr hbad
  obtain ⟨t, h', g', hdone, hframe, hs, hwords⟩ := s.vecOp_spec i g0 _ d.toNat h old true hr hbad
  rw [hregs, Group.claim_cons_v] at hframe hs hwords
  exact ⟨t, h', he.trans hdone, hframe, fun j hj => by rw [hwords j hj, hh g' j hs]⟩

theorem crossLaneReads : Parts.CrossLaneReads := by
  intro s g0 e f a b g y from'
  have hread : ∀ g', SyncOnly g g' → ∀ k : Word, g'.across a.toNat k.toNat = from' k := fun g' hs k => hs.across _ _
  refine ⟨fun d hr ha hd => ?_, fun d hr ha => ?_, fun d hr ha => ?_⟩
  · refine .crossLane (old := [.v d.toNat]) rfl (hr.mono ?_) ha (fun n hn => ?_) fun g' j hs => ?_
    · exact ((List.perm_append_singleton _ _).trans (.swap _ _ _)).subset
    · rwa [List.mem_singleton.mp hn]
    · rw [hread g' hs, hs.vr, hs.valSI]
  · rw [← List.append_nil (_ :: siRegs b)] at hr
    have hnone : ∀ n, Reg.v n ∈ [] → g0.sound (.v n) := fun n hn => nomatch hn
    refine ⟨.crossLane rfl hr ha hnone ?_, .crossLane rfl hr ha hnone ?_, .crossLane rfl hr ha hnone ?_, .crossLane rfl hr ha hnone ?_⟩
    all_goals exact fun g' j hs => by rw [hread g' hs, hs.valSI]
  · have hregs := srcV_srcSI_regs a b e f
    exact .crossLane (f := fun g => g.across a.toNat (valSI g b).toNat) rfl (hregs ▸ hr) rfl (hregs ▸ sound_of_mem_siRegs ha)
      (by rw [hregs, Group.claim_cons_v]) fun g' hs => by rw [hread g' hs, hs.valSI]

/-! Ballots and reductions (08 R179 to R181). -/

theorem SyncOnly.leaves (hs : SyncOnly g g') (a : Nat) (m : Mask) : g'.leaves a m = g.leaves a m := by
  simp only [Group.leaves, hs.data.width, hs.vr]

theorem Completes.ballot {a : BitVec 7} {d : BitVec 4} (hr : Ready s g [.v a.toNat] [.k d.toNat]) (hd : d ≠ 0) :
    Completes (.ballot f a d) s g [.k d.toNat] fun _ h => ∀ j, j < 64 →
      (h.k.get d.toNat).getLsbD j = (decide (j < g.width) && maskBit s.cur.mask j && decide (g.vr a.toNat j ≠ 0)) := by
  have hclaim : g.claim ([srcV a f].map (·.reg)) = g := g.claim_none _ (by simp [srcV])
  have hs := g.taken_sync { srcs := [srcV a f], dests := [.k d.toNat] } s.cur.mask
  change ∃ t h, execBallot f a d s = .next t ∧ _
  unfold execBallot
  rw [s.issue_ready g { srcs := [srcV a f], dests := [.k d.toNat] } costGroup _ hr rfl rfl rfl hr.operands.sound]
  rw [hclaim] at hs
  generalize g.taken _ _ = g' at hs ⊢
  obtain ⟨t, h, hdone, hframe, hdata, -⟩ := (s.atCost (costGroup g)).done_spec g'
    (g'.setKr d.toNat (maskOf g'.width fun j => maskBit s.cur.mask j && g'.vr a.toNat j != 0)) s.cur.mask .on (costGroup g') none _ []
    hr.fresh (g'.setKr_same _ _ _ _ (List.mem_singleton.mpr rfl))
  refine ⟨t, h, hdone, .claimed hs hframe, fun j hj => ?_⟩
  have hd' : d.toNat ≠ 0 := fun h0 => hd (BitVec.eq_of_toNat_eq h0)
  have hbit := maskBit_maskOf g'.width (fun j => maskBit s.cur.mask j && g'.vr a.toNat j != 0) j hj
  rw [hdata.k, Group.kr_setKr _ _ _ hd', ← maskBit, hbit, hs.data.width, hs.vr, Bool.and_assoc,
    bne_eq_decide_ne]

/-- Where none of the exceptions raised is enabled, an issue has no cause. -/
theorem State.fpCause_fpEnabled {x : Word} (h : s.cur.cls = .ordinary → ∀ n, n < 5 → ((g.cr 0x10).getLsbD n && x.getLsbD n) = false) :
    fpCause (s.fpEnabled g) x = none := by
  unfold State.fpEnabled
  split
  · next hcls =>
    refine fpCause_none _ _ fun n hn => ?_
    rw [BitVec.getLsbD_and, Bool.and_right_comm, h hcls n hn, Bool.false_and]
  · exact fpCause_zero _

/-- A reduction of the active set, none of whose exceptions is enabled. -/
theorem Completes.reduction {a : BitVec 7} {d : BitVec 6} {c : Word → Word → Word × Word} {r : Word × Word}
    (he : exec i s = reduction s f a d c) (hr : Ready s g [.v a.toNat] [.s d.toNat])
    (htree : (reduceTree c 6 (g.leaves a.toNat s.cur.mask)).getD (0, 0) = r)
    (hnone : s.cur.cls = .ordinary → ∀ n, n < 5 → ((g.cr 0x10).getLsbD n && r.2.getLsbD n) = false) :
    Completes i s g [.s d.toNat] (fun t h => ScalarHolds s t g h d.toNat r.1 ∧ h.cr 0x11 = g.cr 0x11 ||| r.2) [0x11] := by
  obtain ⟨x, ex⟩ := r
  have hclaim : g.claim ([srcV a f].map (·.reg)) = g := g.claim_none _ (by simp [srcV])
  have hs := g.taken_sync { srcs := [srcV a f], dests := [.s d.toNat] } s.cur.mask
  unfold Machine.reduction at he
  rw [s.issue_ready g { srcs := [srcV a f], dests := [.s d.toNat] } costGroup _ hr rfl rfl rfl hr.operands.sound] at he
  generalize g.taken _ _ = g' at hs he
  have hs' : SyncOnly g g' := hclaim ▸ hs
  have hcr : ∀ n, g'.cr n = g.cr n := fun n => by rw [Group.cr, Group.cr, hs'.data.crs]
  have hcause : fpCause ((s.atCost (costGroup g)).fpEnabled g') ex = none :=
    State.fpCause_fpEnabled fun hcls n hn => by rw [hcr]; exact hnone hcls n hn
  have htree' : (reduceTree c 6 (g'.leaves a.toNat (s.atCost (costGroup g)).cur.mask)).getD (0, 0) = (x, ex) := by
    rw [hs'.leaves]; exact htree
  simp only [htree', hcause] at he
  have hwritten := (s.atCost (costGroup g)).writeS_written g' d.toNat x
  have hsame := (s.atCost (costGroup g)).writeS_same s.cur.gid g' d.toNat x [.s d.toNat] [0x11] (by simp)
  obtain ⟨t, h, hdone, hframe, hdata, hholds⟩ := State.done_scalars (n := costGroup g) (cost := costGroup g') (m := s.cur.mask)
    (tx := if d.toNat = 61 then some x else none) hr hs (hsame.trans (Group.orFlags_same _ ex _ _ (List.mem_singleton.mpr rfl)))
    (State.writeS_part _ _ _ _ _)
  rw [hclaim] at hframe hholds
  refine ⟨t, h, he.trans hdone, hframe, hholds _ x (by simp) ⟨hwritten.low, hwritten.target, hwritten.flit⟩, ?_⟩
  rw [Group.cr, hdata.crs]
  refine (Group.orFlags_cr _ ex).trans ?_
  rw [State.cr_writeS, hcr]

theorem ballotAndReductions : Parts.BallotAndReductions :=
  ⟨fun _ _ _ _ _ hr hd => .ballot hr hd, fun _ _ _ _ _ hr =>
    ⟨.reduction rfl hr rfl, .reduction rfl hr rfl, .reduction rfl hr rfl⟩⟩

end Sys2Proof.Machine

namespace Sys2Proof

/-- Settles O9: a cross-lane read is a vector or scalar result that any lane may supply; a reduction is one scalar and its exceptions. -/
theorem laneExchange : Obligations.LaneExchange := ⟨Machine.crossLaneReads, Machine.ballotAndReductions⟩

end Sys2Proof
end

section
/-! O10: registers named by an index (08 R183), and a trap handler's access to other lanes (08 R184). -/

namespace Sys2Proof.Machine

variable {s : State} {g g0 g' : Group} {i : Instr} {e f : Bool}

/-! One operand more. -/

theorem Ready.add_src {rs dests : List Reg} {r : Reg} (hr : Ready s g rs dests) (hhas : g.has r = true) (hfull : g.isEmpty r = false)
    (hbad : g.readsBad s.cur.mask [r] = false) (h62 : r ≠ .s 62) : Ready s g (rs ++ [r]) dests := by
  obtain ⟨hfresh, hgroup, hallotted, hfulls, hrx, htx, hsound⟩ := hr
  have hmem : ∀ r', r' ∈ rs ++ [r] ++ dests → r' = r ∨ r' ∈ rs ++ dests := by
    intro r' hr'
    simp only [List.mem_append, List.mem_singleton] at hr' ⊢
    tauto
  refine ⟨hfresh, hgroup, fun r' hr' => ?_, fun r' hr' => ?_, fun hm => hrx ?_, htx, ?_⟩
  · exact (hmem r' hr').elim (fun h => h ▸ hhas) (hallotted r')
  · exact (hmem r' hr').elim (fun h => h ▸ hfull) (hfulls r')
  · exact (List.mem_append.mp hm).resolve_right fun h => h62 (List.mem_singleton.mp h).symm
  · rw [Group.readsBad_append, hsound, hbad, Bool.or_false]

theorem Ready.of_dest {rs : List Reg} {r : Reg} (hr : Ready s g rs []) (hhas : g.has r = true) (hfull : g.isEmpty r = false)
    (h61 : r ≠ .s 61) : Ready s g rs [r] := by
  obtain ⟨hfresh, hgroup, hallotted, hfulls, hrx, -, hsound⟩ := hr
  rw [List.append_nil] at hallotted hfulls
  refine ⟨hfresh, hgroup, fun r' hr' => ?_, fun r' hr' => ?_, hrx, fun hm => ?_, hsound⟩
  · exact (List.mem_append.mp hr').elim (hallotted r') fun h => List.mem_singleton.mp h ▸ hhas
  · exact (List.mem_append.mp hr').elim (hfulls r') fun h => List.mem_singleton.mp h ▸ hfull
  · exact absurd (List.mem_singleton.mp hm).symm h61

/-! Registers named by an index. -/

/-- The scalar of an index once its flit is claimed: the register that it names is known before the issue. -/
theorem State.indexed_of_ready {rs dests : List Reg} {b : Nat} (hr : Ready s g0 rs dests) (hb : Reg.s b ∈ rs) (base : Nat) :
    s.indexed base b = some (base + ((g0.claim [.s b]).sr b).toNat) := by
  unfold State.indexed
  rw [hr.group]
  by_cases hflit : b = 62 ∧ g0.kind ≠ .debug
  · obtain ⟨rfl, hkind⟩ := hflit
    obtain ⟨x, r, hrxq⟩ := List.exists_cons_of_ne_nil (hr.operands.rx hb hkind)
    simp [Group.srcEmpty, Group.claim, Group.sr, hkind, hrxq]
  · have hclaim : g0.claim [.s b] = g0 := by
      refine if_neg fun h => hflit ⟨?_, h.2⟩
      simpa [eq_comm] using h.1
    have hfull : g0.srcEmpty (.s b) = false := by
      have hempty := hr.operands.full (.s b) (List.mem_append_left _ hb)
      unfold Group.srcEmpty
      split
      · next h62 =>
        obtain rfl : b = 62 := Reg.s.inj h62
        simp_all
      · exact hempty
    simp [hfull, if_neg hflit, hclaim]

/-- A register that the group was not allotted is named: cause 3 before any effect (02 R36). -/
theorem Raises.of_unallotted {q : Need'} {cost : Group → Nat} {effect : State → Group → Out} {r : Reg}
    (he : exec i s = s.issue q cost effect) (hd : s.cur.defer = none) (hg : s.curGroup? = some g)
    (hlegal : q.legal.ok s.cur.cls = true) (hpriv : q.priv = false)
    (hmem : r ∈ q.names ++ q.srcs.map (·.reg) ++ q.dests ++ q.late) (hr : g.has r = false) : Raises i s g 3 := by
  have hall : (q.names ++ q.srcs.map (·.reg) ++ q.dests ++ q.late).all g.has = false :=
    List.all_eq_false.mpr ⟨r, hmem, by simp [hr]⟩
  have hcheck : s.check g q = .trap 3 := by
    unfold State.check
    rw [hlegal, hpriv, hall]
    rfl
  refine ⟨(q.dests ++ q.late).head?, cost g, g, .inl rfl, he.trans ?_⟩
  unfold State.issue
  rw [hd]
  simp only [hg, hcheck]

/-- An issue whose effect writes one vector. -/
theorem VecResult.of_issue {names : List Reg} {srcs : List Src} {defer : Option Instr} {effect : State → Group → Out} {d : Nat}
    {w : Group → Nat → Word} {r : Nat → Word} (he : exec i s = s.issue { names, srcs, dests := [.v d], defer } costLane effect)
    (hr : Ready s g0 (srcs.map (·.reg)) [.v d]) (hnames : names.all g0.has = true) (hclaim : g0.claim (srcs.map (·.reg)) = g)
    (heffect : ∀ n g', SyncOnly g g' →
      effect (s.atCost n) g' = (s.atCost n).done (g'.writeV d s.cur.mask (w g')) s.cur.mask .on (costLane g') none)
    (hw : ∀ g' j, SyncOnly g g' → w g' j = r j) : VecResult i s g d r := by
  subst hclaim
  let q : Need' := { names, srcs, dests := [.v d], defer }
  have hs : SyncOnly (g0.claim (srcs.map (·.reg))) (g0.taken q s.cur.mask) := g0.taken_sync q s.cur.mask
  rw [← List.append_nil (srcs.map (·.reg))] at hr
  rw [s.issue_ready g0 q costLane _ hr rfl rfl hnames hr.operands.sound, heffect _ _ hs] at he
  generalize g0.taken q s.cur.mask = g' at he hs
  obtain ⟨t, h, hdone, hframe, hdata, -⟩ := (s.atCost (costLane g0)).done_spec g' (g'.writeV d s.cur.mask (w g')) s.cur.mask .on
    (costLane g') none [.v d] [] hr.fresh (g'.writeV_same _ _ _ _ _ (List.mem_singleton.mpr rfl))
  refine ⟨t, h, he.trans hdone, .claimed hs hframe, fun j hj => ?_⟩
  rw [Group.vr, hdata.v]
  refine (g'.vr_writeV d s.cur.mask (w g') j hj).trans ?_
  rw [hw g' j hs, hs.vr]

/-- The operands of an RDX whose index is known. -/
def rdxNeed (e : Bool) (b : BitVec 6) (f : Bool) (a d : BitVec 7) (n : Nat) : Need' :=
  { names := [.v a.toNat], srcs := [srcS b e, ⟨.v n, f⟩], dests := [.v d.toNat], defer := some (.rdx e b f a d) }

/-- Its effect. -/
def rdxEffect (b : BitVec 6) (f : Bool) (a d : BitVec 7) (s : State) (g : Group) : Out :=
  let n := a.toNat + (g.sr b.toNat).toNat
  let g0 := s.untouched g
  if g.nv ≤ n then .next (s.raise g0 s.cur.mask 3 0 (some (.v d.toNat)) 0)
  else if g0.isEmpty (.v n) then
    .next (if f then s.raise g0 s.cur.mask 4 0 (some (.v d.toNat)) 0 else s.waitAt g0 (s.emptyWhy g0 [.v n]))
  else s.done (g.writeV d.toNat s.cur.mask fun j => g0.vr n j) s.cur.mask .on (costLane g) none

/-- The operands of a WRX whose index is known. -/
def wrxNeed (e : Bool) (b : BitVec 6) (f : Bool) (a d : BitVec 7) (n : Nat) : Need' :=
  { names := [.v d.toNat], srcs := [srcV a f, srcS b e], dests := [.v n] }

/-- Its effect. -/
def wrxEffect (b : BitVec 6) (a d : BitVec 7) (s : State) (g : Group) : Out :=
  s.done (g.writeV (d.toNat + (g.sr b.toNat).toNat) s.cur.mask fun j => g.vr a.toNat j) s.cur.mask .on (costLane g) none

section Indexed

variable {b : BitVec 6} {a d : BitVec 7} {rs dests : List Reg} (hr : Ready s g0 rs dests) (hb : Reg.s b.toNat ∈ rs)

include hr hb

theorem exec_rdx : exec (.rdx e b f a d) s =
    s.issue (rdxNeed e b f a d (a.toNat + ((g0.claim [.s b.toNat]).sr b.toNat).toNat)) costLane (rdxEffect b f a d) := by
  change execRdx e b f a d s = _
  unfold execRdx
  rw [State.indexed_of_ready hr hb]
  rfl

theorem exec_wrx : exec (.wrx e b f a d) s =
    s.issue (wrxNeed e b f a d (d.toNat + ((g0.claim [.s b.toNat]).sr b.toNat).toNat)) costLane (wrxEffect b a d) := by
  change execWrx e b f a d s = _
  unfold execWrx
  rw [State.indexed_of_ready hr hb]
  rfl

end Indexed

@[simp] theorem Group.claim_nv (g : Group) (l : List Reg) : (g.claim l).nv = g.nv := by
  unfold Group.claim; split <;> [(split <;> rfl); rfl]

theorem Group.claim_append_v (g : Group) (l : List Reg) (n : Nat) : g.claim (l ++ [.v n]) = g.claim l := by simp [Group.claim]

theorem Group.has_v_eq_false {n : Nat} (h : g.nv ≤ n) : g.has (.v n) = false := decide_eq_false (Nat.not_lt.mpr h)

theorem Group.has_v {n : Nat} (h : n < g.nv) : g.has (.v n) = true := decide_eq_true h

theorem VecResult.rdx {b : BitVec 6} {a d : BitVec 7} {n : Nat} (hr : Ready s g0 [.s b.toNat] [.v d.toNat])
    (hn : n = a.toNat + ((g0.claim [.s b.toNat]).sr b.toNat).toNat) (hlt : n < g0.nv) (hfull : g0.isEmpty (.v n) = false)
    (hbad : g0.readsBad s.cur.mask [.v n] = false) :
    VecResult (.rdx e b f a d) s (g0.claim [.s b.toNat]) d.toNat fun j => (g0.claim [.s b.toNat]).vr n j := by
  refine .of_issue (w := fun _ j => g0.vr n j) (hn ▸ exec_rdx hr (List.mem_singleton.mpr rfl))
    (hr.add_src (Group.has_v hlt) hfull hbad Reg.noConfusion) ?_ (g0.claim_append_v [.s b.toNat] n) (fun m g' hs => ?_)
    fun _ j _ => (g0.vr_claim _ n j).symm
  · simpa using Group.has_v (g := g0) (by omega : a.toNat < g0.nv)
  · unfold rdxEffect
    dsimp only
    rw [hs.sr, ← hn, hs.data.nv, Group.claim_nv, if_neg (by omega), State.untouched_atCost hr.group, hfull, if_neg Bool.false_ne_true]
    rfl

theorem VecResult.wrx {b : BitVec 6} {a d : BitVec 7} {n : Nat} (hr : Ready s g0 [.v a.toNat, .s b.toNat] [])
    (hn : n = d.toNat + ((g0.claim [.s b.toNat]).sr b.toNat).toNat) (hlt : n < g0.nv) (hfull : g0.isEmpty (.v n) = false) :
    VecResult (.wrx e b f a d) s (g0.claim [.s b.toNat]) n fun j => (g0.claim [.s b.toNat]).vr a.toNat j := by
  refine .of_issue (w := fun g' j => g'.vr a.toNat j) (hn ▸ exec_wrx hr (by simp))
    (hr.of_dest (Group.has_v hlt) hfull Reg.noConfusion) ?_ (g0.claim_cons_v _ _) (fun m g' hs => ?_) fun _ j hs => hs.vr _ j
  · simpa using Group.has_v (g := g0) (by omega : d.toNat < g0.nv)
  · unfold wrxEffect
    rw [hs.sr, ← hn]
    rfl

theorem indirectRegisters : Parts.IndirectRegisters := by
  intro s g0 e f b a d g
  have hempty : ∀ r, g.isEmpty r = g0.isEmpty r := fun r => by rw [Group.isEmpty, Group.isEmpty, g0.claim_empty]
  have hnv : g.nv = g0.nv := g0.claim_nv _
  refine ⟨fun hr => ?_, fun hr => ?_⟩
  · intro n
    rw [hnv, hempty]
    refine ⟨fun hn => ?_, .rdx hr rfl⟩
    exact .of_unallotted (r := .v n) (exec_rdx hr (by simp)) hr.fresh hr.group rfl rfl (by simp [rdxNeed, n, g])
      (Group.has_v_eq_false hn)
  · intro n
    rw [hnv, hempty]
    refine ⟨fun hn => ?_, .wrx hr rfl⟩
    exact .of_unallotted (r := .v n) (exec_wrx hr (by simp)) hr.fresh hr.group rfl rfl (by simp [wrxNeed, n, g])
      (Group.has_v_eq_false hn)

/-! A handler's access to other lanes. -/

/-- What a handler reads of the lane that it names, which is 0 where the lane is not a live one. -/
theorem SyncOnly.liveLane? {w : Nat} (hs : SyncOnly g g') (l : Word) (h : Lane → BitVec w) (hh : ∀ x y, h { x with sync := y } = h x) :
    ((g'.liveLane? l).map h).getD 0 =
      if l.toNat < min 64 g.width ∧ (g.lane l.toNat).st = .live then h (g.lane l.toNat) else 0 := by
  obtain ⟨y, hy⟩ := hs.lane l.toNat
  simp only [Group.liveLane?, Lane.isLive, hs.data.width, hy, beq_iff_eq]
  split
  · exact hh _ y
  · rfl

theorem SyncOnly.isSome_liveLane? (hs : SyncOnly g g') (l : Word) :
    (g'.liveLane? l).isSome = true ↔ l.toNat < min 64 g.width ∧ (g.lane l.toNat).st = .live := by
  obtain ⟨y, hy⟩ := hs.lane l.toNat
  simp only [Group.liveLane?, Lane.isLive, hs.data.width, hy, beq_iff_eq, Option.isSome_ite]

/-- A word written to a register of one lane, where that lane is live. -/
def Group.writeLane (g : Group) (d : Nat) (l x : Word) : Group :=
  if (g.liveLane? l).isSome then (g.setVr d l.toNat x).cleared ((1 : Mask) <<< l.toNat) [.v d] else g

theorem Group.lt_of_liveLane? {l : Word} (h : (g.liveLane? l).isSome = true) : l.toNat < 64 := by
  have := ((SyncOnly.refl g).isSome_liveLane? l).mp h
  omega

theorem Group.writeLane_same (g : Group) (d : Nat) (l x : Word) : SameRegs g (g.writeLane d l x) [.v d] [] := by
  unfold Group.writeLane
  split
  · next h =>
    exact (g.setVr_same d _ x (Group.lt_of_liveLane? h) _ _ (List.mem_singleton.mpr rfl)).trans (.of_data (by constructor <;> rfl) _ _)
  · exact .of_data (.rfl' g) _ _

theorem Group.vr_writeLane (g : Group) (d : Nat) (l x : Word) {j : Nat} (hj : j < 64) :
    (g.writeLane d l x).vr d j = if (g.liveLane? l).isSome ∧ j = l.toNat then x else g.vr d j := by
  unfold Group.writeLane
  split
  · next h =>
    refine (g.vr_setVr d _ d j x (Group.lt_of_liveLane? h) hj).trans ?_
    simp [h]
  · next h => simp [h]

theorem SclResult.lrd {b : BitVec 6} {a : BitVec 7} {d : BitVec 6} (hcls : s.cur.cls = .handler)
    (hr : Ready s g0 [.v a.toNat, .s b.toNat] [.s d.toNat]) (ha : g0.sound (.v a.toNat)) (hg : g0.claim [.s b.toNat] = g) :
    SclResult (.lrd e b f a d) s g d.toNat
      (if (g.sr b.toNat).toNat < g.width ∧ (g.lane (g.sr b.toNat).toNat).st = .live then g.vr a.toNat (g.sr b.toNat).toNat else 0) := by
  refine .crossLane (f := fun g => g.across a.toNat (g.sr b.toNat).toNat) rfl hr (by rw [hcls]; rfl) (fun n hn => ?_)
    ((g0.claim_cons_v _ _).trans hg) fun g' hs => ?_
  · obtain rfl : n = a.toNat := by simpa [srcV, srcS] using hn
    exact ha
  · rw [hs.sr, hs.across]

theorem Completes.lwr {b a : BitVec 6} {d : BitVec 7} (hcls : s.cur.cls = .handler)
    (hr : Ready s g0 [.s a.toNat, .s b.toNat] [.v d.toNat]) (hg : g0.claim [.s a.toNat, .s b.toNat] = g) :
    Completes (.lwr e b f a d) s g [.v d.toNat] fun _ h => ∀ j, j < 64 → h.vr d.toNat j =
      if (g.sr b.toNat).toNat < min 64 g.width ∧ (g.lane (g.sr b.toNat).toNat).st = .live ∧ j = (g.sr b.toNat).toNat then g.sr a.toNat
      else g.vr d.toNat j := by
  let q : Need' := { legal := .handler, srcs := [srcS a f, srcS b e], dests := [.v d.toNat], defer := some (.lwr e b f a d), own := false }
  have hs : SyncOnly g (g0.taken q s.cur.mask) := hg ▸ g0.taken_sync q s.cur.mask
  change ∃ t h, execLwr e b f a d s = .next t ∧ _
  unfold execLwr
  rw [s.issue_ready g0 q costLane _ hr (by rw [hcls]; rfl) rfl rfl hr.operands.sound]
  generalize g0.taken q s.cur.mask = g' at hs
  obtain ⟨t, h, hdone, hframe, hdata, -⟩ := (s.atCost (costLane g0)).done_spec g' (g'.writeLane d.toNat (g'.sr b.toNat) (g'.sr a.toNat))
    (if (s.atCost (costLane g0)).cur.defer.isNone then s.cur.mask
      else if (g'.liveLane? (g'.sr b.toNat)).isSome then (1 : Mask) <<< (g'.sr b.toNat).toNat else 0)
    .on (costLane g') none _ [] hr.fresh (g'.writeLane_same _ _ _)
  refine ⟨t, h, hdone, .claimed hs hframe, fun j hj => ?_⟩
  rw [Group.vr, hdata.v]
  refine (g'.vr_writeLane _ _ _ hj).trans ?_
  simp only [hs.isSome_liveLane?, hs.sr, hs.vr, and_assoc]

/-- An address of the lane that a handler names, as a pair of scalars. -/
theorem Scl2Result.laneAddr {b : BitVec 6} {d : BitVec 5} {h : Lane → DWord} {x : DWord} (he : exec i s = laneAddr s i e b d h)
    (hcls : s.cur.cls = .handler) (hr : Ready s g0 [.s b.toNat] [.s (2 * d.toNat), .s (2 * d.toNat + 1)])
    (hg : g0.claim [.s b.toNat] = g) (hx : ∀ g', SyncOnly g g' → ((g'.liveLane? (g'.sr b.toNat)).map h).getD 0 = x) :
    Scl2Result i s g (2 * d.toNat) x := by
  let q : Need' := { legal := .handler, srcs := [srcS b e], dests := regSs (2 * d.toNat) 2, defer := some i }
  have hs : SyncOnly (g0.claim [.s b.toNat]) (g0.taken q s.cur.mask) := g0.taken_sync q s.cur.mask
  unfold Machine.laneAddr at he
  rw [s.issue_ready g0 q costLane _ hr (by rw [hcls]; rfl) rfl rfl hr.operands.sound] at he
  generalize g0.taken q s.cur.mask = g' at hs he
  simp only [hx g' (hg ▸ hs)] at he
  obtain ⟨t, h', hdone, hframe, -, hholds⟩ := State.done_scalars (n := costLane g0) (cost := costLane g') (m := s.cur.mask)
    (tx := if 2 * d.toNat + 1 = 61 then some (hi32 x) else none) hr hs ((s.atCost (costLane g0)).writeS2_same s.cur.gid g' (2 * d.toNat) x)
    (by simp [State.writeS2])
  rw [hg] at hframe hholds
  exact ⟨t, h', he.trans hdone, hframe, hholds _ _ (by simp) (s.writeS2_written_low g' _ d.toNat x),
    hholds _ _ (by simp) (s.writeS2_written_high g' d.toNat x)⟩

theorem Raises.laneAddr {b : BitVec 6} {d : BitVec 5} {h : Lane → DWord} (he : exec i s = laneAddr s i e b d h)
    (hcls : Legal.handler.ok s.cur.cls = false) (hd : s.cur.defer = none) (hg : s.curGroup? = some g) : Raises i s g 1 := by
  unfold Machine.laneAddr at he
  exact .of_illegal he hd hg hcls

theorem handlerLaneAccess : Parts.HandlerLaneAccess := by
  refine fun s g0 e f b => ⟨fun hcls => ⟨fun a d hr ha => .lrd hcls hr ha rfl, fun a d hr => .lwr hcls hr rfl, fun d hr => ?_⟩,
    fun hcls hd hg => ?_⟩
  · have hread : ∀ (h : Lane → DWord) (_ : ∀ x y, h { x with sync := y } = h x) g', SyncOnly (g0.claim [.s b.toNat]) g' →
        ((g'.liveLane? (g'.sr b.toNat)).map h).getD 0 = _ := fun h hh g' hs => by rw [hs.sr, hs.liveLane? _ h hh]
    exact ⟨.laneAddr rfl hcls hr rfl (hread (·.meet) fun _ _ => rfl), .laneAddr rfl hcls hr rfl (hread (·.pc) fun _ _ => rfl)⟩
  · have hillegal : Legal.handler.ok s.cur.cls = false := by simpa [Legal.ok] using hcls
    refine ⟨fun a d => ?_, fun a d => ?_, fun d => ⟨.laneAddr rfl hillegal hd hg, .laneAddr rfl hillegal hd hg⟩⟩
    · have he : execLrd e b f a d s = s.issue _ costLane _ := rfl
      exact .of_illegal he hd hg hillegal
    · have he : execLwr e b f a d s = s.issue _ costLane _ := rfl
      exact .of_illegal he hd hg hillegal

end Sys2Proof.Machine

namespace Sys2Proof

/-- Settles O10: the index of an RDX or WRX is known before its checks, so an unallotted register fails them; a handler's reads are scalar
results of the lane that it names, and its write is one of one lane. -/
theorem indirectAndHandlerRegisters : Obligations.IndirectAndHandlerRegisters :=
  ⟨Machine.indirectRegisters, Machine.handlerLaneAccess⟩

end Sys2Proof
end

section
/-! O11: a TMOV whose index lies beyond the allotment, where the tile that it names is marked with a parity error. The tile is among what
the issue reads and its allotment is judged in the effect, so the error is met first: the context faults, and no cause is raised. -/

namespace Sys2Proof.Machine

variable {s : State} {g : Group} {i : Instr}

theorem State.trapLanes_parts (s : State) (gid : Nat) (g : Group) (x : Parked) (hh : s.handles g.part) :
    (s.trapLanes gid g x).parts = s.parts := by
  rw [State.trapLanes_handled s gid g x hh]
  rfl

/-- A trap that a handler takes leaves every partition as it was. -/
theorem State.raise_parts (mask : Mask) (cause : Nat) (code : Word) (d : Option Reg) (va : DWord) (hd : s.cur.defer = none)
    (hc : s.cur.cls = .ordinary) (hh : s.handles g.part) : (s.raise g mask cause code d va).parts = s.parts := by
  unfold State.raise
  rw [hd, hc]
  refine (State.trapLanes_parts _ _ _ _ ?_).trans rfl
  exact hh

/-- Where a handler takes the trap, an instruction that raises its cause leaves every partition as it was. -/
theorem Raises.parts {cause : Nat} (hr : Raises i s g cause) (hd : s.cur.defer = none) (hc : s.cur.cls = .ordinary)
    (hh : s.handles g.part) : ∃ t, exec i s = .next t ∧ t.parts = s.parts := by
  obtain ⟨d, n, h, hgroup, he⟩ := hr
  have hpart : h.part = g.part := by
    obtain rfl | ⟨q, rfl⟩ := hgroup
    · rfl
    · exact g.taken_part q _
  exact ⟨_, he, State.raise_parts (s := s.atCost n) _ _ _ _ _ hd hc (hpart ▸ hh)⟩

/-- The launched group, of 16 tiles, with 16 in s0 and an error marked in tile 16. -/
def spoiltGroup : Group :=
  { launchGroup (State.reset.fresh + 42) (State.reset.fresh + 41) with s := [(0, 16)], bad := [(.t 16, 0)] }

/-- Lanes 0 and 1 of that group stand at an instruction, in a context whose traps have a handler. -/
def beforeTmov : State :=
  let s := State.reset.launch 0
  { (s.modPart 0 fun p => p.setCr 0x40 0x1000).setGroup 0 spoiltGroup with
    agenda := []
    cur := { Cur.idle with pc := launchPc, mask := 3 } }

theorem ready_beforeTmov : Ready beforeTmov spoiltGroup [.s 0] [.t 0] :=
  ⟨rfl, rfl, by decide, by decide, by decide, by decide, by decide⟩

/-- TMOV t0 from the tile that s0 names. -/
theorem exec_tmov_beforeTmov : ∃ t, exec (.tmov 0 0) beforeTmov = .next t ∧ (t.part 0).faulted = true :=
  ⟨_, rfl, by decide⟩

end Sys2Proof.Machine

namespace Sys2Proof

open Machine

/-- Refutes O11: in `beforeTmov` the index of a TMOV is at the allotment of 16 tiles, and tile 16 is marked with a parity error. The model
faults the context (03 R82), where the clause has cause 3 raised. The clause supposes only the scalar sound; `State.parityError` marks
allotted registers alone, so what refutes it is a state that the statement admits. -/
theorem not_tiles : ¬ Obligations.Tiles := by
  intro h
  obtain ⟨-, -, htmov⟩ := h
  obtain ⟨hbeyond, -⟩ := htmov beforeTmov spoiltGroup 0 0 ready_beforeTmov
  obtain ⟨t, he, hparts⟩ := (hbeyond (by decide)).parts rfl rfl ⟨by decide, by decide⟩
  obtain ⟨u, hu, hfaulted⟩ := exec_tmov_beforeTmov
  obtain rfl : t = u := by
    rw [he] at hu
    injection hu
  have hopen : (t.part 0).faulted = false := by rw [State.part, hparts]; rfl
  exact Bool.false_ne_true (hopen.symm.trans hfaulted)

end Sys2Proof
end
